-- ==== Sys2Proof/Word.lean ====
section
/-! DEFINITION. The word types of the Hjeliraot block and its plainest data.
The block's registers are 32-bit words (R12); lines are 64 bytes (R70); the other widths are those of
the fields they name. Bit-field helpers stand in Machine/Bits.lean, where a repair may mend them. -/

namespace Sys2Proof

/-- One byte of a line, a payload or an image. -/
abbrev Byte := BitVec 8

/-- One 32-bit register word (R12). -/
abbrev W32 := BitVec 32

/-- A global Landing number, 0 to 11 (00_scope, Names). -/
abbrev LandingId := Fin 12

/-- A Gallery number, 0 to 2. -/
abbrev GalleryId := Fin 3

/-- A port: 0 to 7 are HP0 to HP7, 8 is DBG (R54, R501). -/
abbrev PortId := Fin 9

/-- A mailbox: 0 to 7 are LB0 to LB7, 8 is LBA (the holder code of `LANDING_QUERY`, R469). -/
abbrev MailboxId := Fin 9

/-- A host DMA channel (R410). -/
abbrev ChannelId := Fin 8

/-- A requester ID of R126: 0-7 HPn, 8 DMA, 9 TIER, 10 CPU, 11 MU, 12 DBG. -/
abbrev RequesterId := Fin 13

/-- A hall number (R104). -/
abbrev HallId := Fin 1024

end Sys2Proof
end

