-- ==== Sys2Proof/Syntax.lean ====
section
/-! DEFINITION. The commands of the block: one constructor of `Instr` per row of the opcode table, in
the table's order. Operands carry what arrives from outside the block: header fields of a flit, the
word and strobe of a CFG write, the burst a DRAM returns, what a sensor, a hub, the flash or a PHY
measurement answers. The table gives the rows no bits (log entry 1). -/

namespace Sys2Proof

/-- A power-good input (R53, R65). -/
inductive PgPin
  | core
  | cp
  | gal (g : GalleryId)
  | phy (l : LandingId)
  deriving DecidableEq, Repr

/-- Module type as SPD names it (R307). -/
inductive ModuleType
  | rdimm
  | mrdimm
  | other
  deriving DecidableEq, Repr

/-- The SPD content of one module and what its devices answer during discovery (R302, R307).
The byte layout of JESD400-5 is outside the manual, so the fields arrive decoded; `raw` is the hub
content that `MODULE_QUERY` returns. -/
structure Spd where
  crcOk : Bool
  type : ModuleType
  busOk : Bool
  ioWidth : Nat
  densityGb : Nat
  capacityGib : Nat
  bankGroups : Nat
  banksPerGroup : Nat
  rowBits : Nat
  columnsOk : Bool
  ranks : Nat
  tckMinPs : Nat
  tckMaxPs : Nat
  cas : List Nat
  taaMinPs : Nat
  /-- SPD timing values by rule index of R199, in the rule's own unit; absent or 0 means the default. -/
  timing : List (Nat × Nat)
  /-- The tRP, tRAS and tRC values that apply with PRAC (R227). -/
  pracTiming : List (Nat × Nat)
  /-- Clock minima in SPD by rule index, in DRAM-side clocks. -/
  nck : List (Nat × Nat)
  /-- The JEDEC minimum in host-side CK of rule indices at a data rate, from standards outside the manual
  that firmware's table is drawn from (R203 step 6): (rule index, rate, CK). -/
  jedecMin : List (Nat × Nat × Nat)
  rfm : Bool
  rfmRequired : Bool
  rfmSameBank : Bool
  rfmImt : Nat
  rfmMmt : Nat
  rfmDec : Nat
  drfm : Bool
  drfmRequired : Bool
  prac : Bool
  pracRequired : Bool
  pracNrfm : Nat
  thermalSensor : Bool
  i3c : Bool
  manufacturer : Nat
  serial : BitVec 32
  parityLatencyCk : Nat
  rcdDelayCk : Option Nat
  bufferDelayCk : Option Nat
  hintWriteProtected : Bool
  raw : List Byte
  deriving DecidableEq, Repr

/-- One module found by the probe of R302: the Landing and slot its HID names (R300). -/
structure FoundModule where
  landing : LandingId
  slot : Fin 2
  spd : Spd
  deriving DecidableEq, Repr

/-- What the flash answers at boot (R434, R435): its identification read and the two image slots. -/
structure FlashView where
  idOk : Bool
  slot0 : List Byte
  slot1 : List Byte
  deriving DecidableEq, Repr

/-- The margins of one rank or delay set, as a margin check measures them (R338). -/
structure RankMargin where
  sub : Fin 2
  rank : Fin 8
  rdPs : Nat
  wrPs : Nat
  rdMv : Nat
  deriving DecidableEq, Repr

/-- What a training search or a retraining step found (R322, R331): Landing-page words for the
PHY values, and the measures the limits of R335 judge. UI and tCK quantities are in thousandths. -/
structure TrainMeasure where
  /-- Landing-page offset of a `PHY_` register and the word found for it. -/
  words : List (Nat × W32)
  /-- CA window common to both slots, thousandths of tCK. -/
  caWindow : Nat
  /-- Write-levelling edge distance from the search start, thousandths of tCK. -/
  levelEdge : Nat
  /-- Read-gate placement against the computed arrival, thousandths of UI. -/
  gateDeviation : Nat
  /-- Worst read or write eye width, thousandths of UI. -/
  eyeWidth : Nat
  /-- Worst read eye height in mV. -/
  eyeHeight : Nat
  deriving DecidableEq, Repr

/-- The outcome of the searches of a boot training (R322): of an attempt, or of the repetition of a step that failed (R326). -/
structure TrainResult where
  /-- A search found no result at this step of R322. -/
  failedStep : Option (Fin 12)
  pu : Nat
  pd : Nat
  measure : TrainMeasure
  /-- DRAM-side and register-clock-driver words, by subchannel, as R342 and R343 lay them out. -/
  rcdWords : List (List Byte)
  dramParts : List (List Byte)
  margins : List RankMargin
  /-- Measure of the periodic run that the restore path adds at a moved temperature (R345 step 5). -/
  periodic : TrainMeasure
  /-- Hard repair of the soft repairs recorded for the Landing's modules succeeded (R266). -/
  hardened : Bool
  deriving DecidableEq, Repr

/-- A class of fault (R498). -/
inductive FaultClass
  | c
  | u
  | f
  deriving DecidableEq, Repr

/-- A report of a detector outside the other rows (R500, R515): subsystem, code, instance, detail word,
and for an SRAM word (codes F0h and F1h) the word's place within its region. -/
structure ReportWord where
  subsys : Nat
  code : Nat
  inst : Nat
  detail : W32
  place : Nat
  deriving DecidableEq, Repr

/-- Which share of a Gallery's metadata cache a line belongs to (R38, R358, R377, R393, R398). -/
inductive MetaKind
  | tag
  | pageMap
  | poolMap
  | heat
  deriving DecidableEq, Repr

/-- The CFG part of a register write: the strobe and the word (R56, R57). -/
structure CfgWord where
  strb : BitVec 4
  data : W32
  deriving DecidableEq, Repr

/-- The request header fields of a host flit that are not implied by its row (R71). -/
structure Header where
  tag : BitVec 12
  ldid : BitVec 4
  due : BitVec 12
  addr : BitVec 46
  lock : Bool
  deriving DecidableEq, Repr

/-- A wake source of R488, or a host request for P0. -/
inductive WakeSource
  | wakeN
  | port
  | dmaDoorbell
  | fault
  | timer
  | request
  deriving DecidableEq, Repr

/-- The commands of the block, one per row of spec/opcode_table.json. -/
inductive Instr
  -- resets, boot and pins
  | coldReset
  | powerOnSequence (bootsel : Bool) (rootKeyHash : BitVec 384)
  | warmReset
  | warmResetEnd
  | warmResetDrainTimeout (l : LandingId)
  | boot (flash : FlashView)
  | firmwareStart
  | bootChunk
  | bootGo
  | watchdogExpiry
  | wakeNAssert
  | thermNAssert
  | thermNRelease
  | pwrGoodFall
  | pwrGoodRise
  | pwrGoodTimeout (pmicFaults : List LandingId)
  | pgInputFall (pin : PgPin)
  | refclkStop
  -- time
  | treadBoundary
  | treadPlan (l : LandingId)
  | blockFlightBoundary
  -- arbiter
  | arbDecision (l : LandingId)
  | backoffExpiry (l : LandingId) (r : RequesterId)
  | starvation (l : LandingId) (r : RequesterId)
  | lockExpiry (l : LandingId)
  -- ports
  | mrd (p : PortId) (h : Header)
  | mrds (p : PortId) (h : Header)
  | unlk (p : PortId) (h : Header)
  | mwr (p : PortId) (h : Header) (poison : Bool) (data : BitVec 512)
  | mwrp (p : PortId) (h : Header) (poison : Bool) (data : BitVec 512) (be : BitVec 64)
  | malformedOpcode (p : PortId) (h : Header) (opc : BitVec 6)
  | classlessOpcode (p : PortId) (h : Header) (opc : BitVec 6)
  | creditReturn (p : PortId) (cpl dat : BitVec 8)
  -- the line path
  | lineDecode (l : LandingId) (access : Nat) (burst : BitVec 640)
  | tagCheck (l : LandingId) (access : Nat)
  | haltDrainTimeout (l : LandingId)
  | tagLineFill (g : GalleryId) (kind : MetaKind) (lpa : Nat)
  | tagFetchStart (g : GalleryId) (kind : MetaKind)
  | aheadZeroingDone (h : HallId) (region : Nat)
  | aheadEntryFree (h : HallId) (region : Nat)
  | initZeroWrite (l : LandingId) (h : HallId)
  -- maintenance
  | refreshDue (l : LandingId) (sub : Fin 2) (rank : Fin 8)
  | refreshEmergency (l : LandingId) (sub : Fin 2) (rank : Fin 8)
  | refreshPartTwo (l : LandingId)
  | maintenanceWindow (l : LandingId)
  | rfmOwed (l : LandingId) (sub : Fin 2) (rank : Fin 8) (bg : Fin 8) (bank : Fin 4)
  -- Stringer and impedance
  | stringerDue (l : LandingId)
  | stringerInstanceDone (l : LandingId) (zero full code : Nat) (puStep pdStep : Int)
  | strSlewDone (l : LandingId)
  | stringerAgeExpiry (l : LandingId)
  | stringerFullMeasurementDone (l : LandingId) (zero full : Nat) (codes : List Nat)
  | impedanceSearchDone (l : LandingId) (pu pd : Nat)
  -- periodic work and calibration
  | zqDue (l : LandingId)
  | zqLatch (l : LandingId) (sub : Fin 2) (rank : Fin 8)
  | scrubStepDue (l : LandingId)
  | heatDecayDue
  | calCheck (l : LandingId)
  | calRunStart (l : LandingId)
  | calRetrainStep (l : LandingId) (m : TrainMeasure) (margins : List RankMargin)
  | calibrationCommit (l : LandingId)
  | marginCheckDone (l : LandingId) (margins : List RankMargin)
  | bootTraining (l : LandingId) (r : TrainResult)
  | bootTrainingTimeout (l : LandingId)
  | dbTrainingDone (l : LandingId) (rank : Fin 8) (ok : Bool)
  | dbTrainingTimeout (l : LandingId) (rank : Fin 8)
  | ecsReadoutDue (l : LandingId) (counts : List (Fin 2 × Fin 8 × Fin 10 × Nat × Nat))
  | mntEcsRead (l : LandingId) (w : CfgWord) (counts : List (Fin 2 × Fin 8 × Fin 10 × Nat × Nat))
  | eccLeak (g : GalleryId)
  -- sequencer
  | powerDownEntry (l : LandingId) (sub : Fin 2) (rank : Fin 8)
  | pageTimeout (l : LandingId) (sub : Fin 2) (rank : Fin 8) (bg : Fin 8) (bank : Fin 4)
  | hintDrop (l : LandingId) (access : Nat)
  | alertNFall (l : LandingId)
  | alertNRise (l : LandingId)
  | alertClassifyTimeout (l : LandingId)
  | parityRetry (l : LandingId)
  | aboPresent (l : LandingId)
  | aboActWindowEnd (l : LandingId)
  | aboEnd (l : LandingId)
  | alertStuck (l : LandingId)
  -- sideband, PLL, drain
  | thermalRead (l : LandingId) (slot : Fin 2) (reading : Option Nat)
  | pmicStatusRead (l : LandingId) (slot : Fin 2) (status : W32) (warning fault : Bool)
  | sidebandTransactionDone (bus : Fin 6) (data : List Byte)
  | sidebandTimeout (bus : Fin 6)
  | pllLock (g : GalleryId)
  | pllLockLoss (g : GalleryId)
  | landingDrainComplete (l : LandingId)
  -- faults
  | faultReport (r : ReportWord)
  | fenceSettled (i : Nat)
  | fenceSettleTimeout (i : Nat)
  | shadowEnd (i : Nat)
  | quietPeriodEnd (c : FaultClass)
  | aliveToggle
  -- Arcade and Record Store
  | arcadePacketClose (src : BitVec 8) (body : List W32)
  | recordStoreCommit (checkOk : Bool)
  -- Lobby
  | commandTake
  | lbyDbRing (m : MailboxId) (strb : BitVec 4)
  | lbyStsAck (m : MailboxId) (strb : BitVec 4)
  | lbyEqPop (strb : BitVec 4)
  | lbyArPop (strb : BitVec 4)
  | popStallTimeout
  | flush (strb : BitVec 4)
  | mark (strb : BitVec 4)
  | rewind (strb : BitVec 4)
  | clear (strb : BitVec 4)
  -- CFG
  | arbClrLongest (l : LandingId) (strb : BitVec 4)
  | timingRegisterWrite (l : LandingId) (off : Fin 64) (w : CfgWord)
  | phyPllWrite (l : LandingId) (w : CfgWord)
  | lowWordRead (addr : BitVec 21) (strb : BitVec 4)
  | registerWrite (addr : BitVec 21) (w : CfgWord)
  -- DMA
  | dmaRing (n : ChannelId) (strb : BitVec 4)
  | dmaStop (n : ChannelId) (strb : BitVec 4)
  | dmaReset (n : ChannelId) (strb : BitVec 4)
  | dmaResetDone (n : ChannelId)
  | dmaChHeadWrite (n : ChannelId) (w : CfgWord)
  | descriptorStart (n : ChannelId)
  | descriptorComplete (n : ChannelId)
  -- tiering and compression
  | tierDemotionStart (g : GalleryId) (h : HallId) (page : Nat)
  | tierDemotionSwitch (g : GalleryId) (move : Nat)
  | tierPromotionStart (g : GalleryId) (h : HallId) (page : Nat)
  | tierPromotionSwitch (g : GalleryId) (move : Nat)
  | tierUnback (h : HallId) (group : Nat)
  | segmentDecode (g : GalleryId) (fetch : Nat)
  -- power
  | pwrReq (w : CfgWord)
  | powerTransitionDone
  | wake (src : WakeSource)
  | wakeComplete
  | pwrTimerExpiry
  | legacyAsk
  | legacyRollbackRestart
  -- completions
  | portCloseDone (p : Fin 8)
  | hallReleaseDrained (h : HallId)
  | hallShrinkDone (h : HallId)
  | hallCreateZeroed (h : HallId)
  | pprProgramDone (l : LandingId) (ok : Bool) (holdNs : Nat)
  -- Amiom commands, each from the mailbox that holds it
  | queryCaps (m : MailboxId)
  | bringup (m : MailboxId)
  | claim (m : MailboxId)
  | release (m : MailboxId)
  | portOpen (m : MailboxId)
  | portClose (m : MailboxId)
  | discover (m : MailboxId) (found : List FoundModule)
  | landingStart (m : MailboxId)
  | landingQuery (m : MailboxId)
  | moduleQuery (m : MailboxId)
  | sbdXfer (m : MailboxId)
  | dmaBind (m : MailboxId)
  | debugSelect (m : MailboxId)
  | arbSet (m : MailboxId)
  | seqSet (m : MailboxId)
  | timingSet (m : MailboxId)
  | mntSet (m : MailboxId)
  | eccSet (m : MailboxId)
  | calSet (m : MailboxId)
  | cmpSet (m : MailboxId)
  | tierSet (m : MailboxId)
  | calRun (m : MailboxId)
  | calSave (m : MailboxId)
  | calRestore (m : MailboxId)
  | kekLoad (m : MailboxId)
  | hallCreate (m : MailboxId)
  | hallResize (m : MailboxId)
  | hallRelease (m : MailboxId)
  | hallQuery (m : MailboxId)
  | hallKeyLoad (m : MailboxId)
  | windowAdd (m : MailboxId)
  | windowRemove (m : MailboxId)
  | tierPool (m : MailboxId)
  | eccDeclare (m : MailboxId)
  | pprRun (m : MailboxId) (spareRow : Bool)
  | scrubSet (m : MailboxId)
  | pwrCfg (m : MailboxId)
  | fltRead (m : MailboxId)
  | fltClear (m : MailboxId)
  | fltCfg (m : MailboxId)
  | cntCfg (m : MailboxId)
  | cntUser (m : MailboxId)
  | rsRead (m : MailboxId)
  | rsCommit (m : MailboxId)
  | rsDrop (m : MailboxId)
  -- later rows
  | pgInputRise (pin : PgPin)
  | calRunTimeLimit (m : MailboxId)
  | status1PulseEnd
  | hallGrowZeroed (h : HallId)
  deriving DecidableEq, Repr

end Sys2Proof
end

