-- ==== Sys2Proof/Decode.lean ====
section
/-! DEFINITION. The commands that a word spells. The command table gives no row any bits (every row's field
list is empty: a command is an event at a pin, a port or the CFG bus, or one that the block's own units
raise), so no word spells a command (log entry 1). -/

namespace Sys2Proof

/-- The command spelled by a word of the table's bits: none, since the table gives no bits. -/
def decodeTableWord (_nbits _w : Nat) : Option Instr := none

end Sys2Proof
end

