-- ==== Sys2Proof/Config.lean ====
section
/-! DEFINITION. What the manual leaves to the part, to the firmware image or to chance: constants
with no body, so that no proof can lean on a value of them. Each is named in the assumption log. -/

namespace Sys2Proof.Config

/-- The outcome of one random draw (heat sampling of R394, DRFM sampling of R231): applied to the
number of the draw and the exponent of the probability. -/
opaque sample : Nat → Nat → Bool

/-- The LZ4 payload an encoder lane forms for a 1 KiB segment (R379, R380: any block that keeps the
format is allowed). -/
opaque lz4Encode : List (BitVec 8) → List (BitVec 8)

/-- The version of the running Amiom firmware, bits [31:16] of `QUERY_CAPS` word 2 (R1 says 4.x). -/
opaque firmwareVersion : BitVec 16

/-- The firmware feature bits of `QUERY_CAPS` word 5 (R469). -/
opaque features : BitVec 3

/-- The words of a fault snapshot that copy the status registers of the unit named (R502): applied to the
source word and the word's place. -/
opaque snapshotWord : BitVec 32 → Nat → BitVec 32

/-- The body bytes of a Record Store record whose body layout the manual does not give (R454, types 02h to
04h): applied to the type and the record's place in the store. -/
opaque recordBody : Nat → Nat → List (BitVec 8)

/-- The content of the descriptor SRAM after it has been unpowered in P3 (R491: undefined). -/
opaque lostBytes : Nat → List (BitVec 8)

/-- The bytes of the P3 save image in the AON SRAM (R490 gives what it holds, and no layout). -/
opaque saveImage : Nat → List (BitVec 8)

/-- Direction, hall and offset of `DMA_CH_ERR_INFO` and `DMA_CH_ERR_ADDR` for a descriptor that fails before any access
(R421 codes 1h and 9h name no failing access). -/
opaque dmaCheckPlace : Nat → BitVec 59

/-- The bits of DCA that a DDR5 command puts on the bus (R41; the encoding is DDR5's, outside the manual): applied to the
command's number and its chip ID, bank group, bank, row and column. -/
opaque dca : Nat → Nat → Nat → Nat → Nat → Nat → BitVec 28

/-- A result word that the manual does not state: what a register-setting command whose target mask is empty returns. -/
opaque freeWord : Nat → BitVec 32

end Sys2Proof.Config
end

