-- ==== Sys2Proof/Machine/State.lean ====
section
/-! DEFINITION. The state of the block: plain data, holding every register, queue, buffer, counter, mode
and pin the manual names, and the queue of waiting commands. Registers that a manual table gives as
read-write words are kept as sparse word lists whose unlisted words read as the table's reset value
(Machine/RegMap.lean); read-only status words are computed from the fields they report. -/

namespace Sys2Proof.Machine

/-- A sparse list of 32-bit words by offset: offsets strictly rising, no entry equal to what an unlisted
offset reads as (the reset value of the page the list belongs to). -/
abbrev Words := List (Nat × W32)

/-- Byte memory: addresses strictly rising, no entry equal to 00h, which an unlisted address reads as. -/
abbrev Memory := List Host.Cell

/-- The four variants of R4. -/
inductive Variant
  | hjr12X
  | hjr12S
  | hjr8S
  | hjr8B
  deriving DecidableEq, Repr

/-- Whether the block is out of reset, held in cold reset, or in the steps of a warm reset (R60, R61). -/
inductive ResetPhase
  | out
  | cold
  | warm
  deriving DecidableEq, Repr

/-- Landing states of R158. -/
inductive LState
  | run
  | drain
  | sr
  | halt
  | fenced
  | retry
  deriving DecidableEq, Repr

/-- PHY modes of R296. -/
inductive PhyMode
  | active
  | gated
  | deep
  | retain
  deriving DecidableEq, Repr

/-- Power states of R481. -/
inductive PState
  | p0
  | p1
  | p2
  | p3
  | p4
  deriving DecidableEq, Repr

/-- Outcomes of the ECC classification (R252). -/
inductive EccOutcome
  | clean
  | corrected
  | poison
  | uncorrectable
  deriving DecidableEq, Repr

/-- Status codes of a host response (R85). -/
inductive Status
  | ok
  | unmapped
  | denied
  | poisonedTarget
  | lockBroken
  | capacity
  | halted
  | fenced
  | malformed
  deriving DecidableEq, Repr

/-- A watermark register's state (R525). -/
structure Wm where
  above : Bool
  crossed : Bool
  count : Nat
  deriving DecidableEq, Repr

/-- The schedule of one kind of periodic work (R33, R34): the grid due time of the oldest owed instance,
the due time computed for it, the debt, and the grid instances merged into the oldest one. -/
structure Sched where
  ideal : Nat
  next : Nat
  debt : Nat
  merged : Nat
  deriving DecidableEq, Repr

/-- A register page: words as last written, words in force since a tread boundary (R30, R533), count
registers as they read, and the increments of the present tread. -/
structure RegFile where
  regs : Words
  live : Words
  cnt : Words
  inc : Words
  deriving DecidableEq, Repr

/-- DRAM coordinates of a line (R114). -/
structure Coord where
  sub : Nat
  rank : Nat
  bg : Nat
  bank : Nat
  row : Nat
  col : Nat
  deriving DecidableEq, Repr

/-- Who receives the outcome of a line access. -/
inductive Client
  /-- transaction `txn` of port `p` -/
  | host (p txn : Nat)
  /-- line `idx` of the read or write side of DMA channel `ch` -/
  | dma (ch idx : Nat)
  /-- line `idx` of move `move` of Gallery `g`'s Tier Engine -/
  | tier (g move idx : Nat)
  /-- storage line `idx` of segment fetch `fetch` of Gallery `g` -/
  | seg (g fetch idx : Nat)
  /-- access `work` of the Control Processor (R124); 0 for an open-row hint, which no one waits for -/
  | cpu (work : Nat)
  /-- patrol scrub (R236) -/
  | scrub
  /-- fetch of a metadata line -/
  | fill (g : Nat) (kind : MetaKind) (lpa : Nat)
  /-- zero line of a hall's initialisation or of an ahead region -/
  | zero (hall : Nat)
  /-- zero line `idx` of a member's new tag and page-map granules (R118, R119) -/
  | zeroMeta (hall idx : Nat)
  /-- a write of the block's own that no one waits for -/
  | own
  /-- line of a row under post-package repair -/
  | ppr
  deriving DecidableEq, Repr

/-- A claim the Maintenance Unit presents (R186, R222). -/
inductive ClaimKind
  /-- all-bank refresh of a rank -/
  | refAb (sub rank : Nat)
  /-- same-bank refresh of bank index `bank` of a rank -/
  | refSb (sub rank bank : Nat)
  | rfmAb (sub rank : Nat)
  | rfmSb (sub rank bank : Nat)
  | drfmAb (sub rank : Nat)
  | drfmSb (sub rank bank : Nat)
  | zqStart (sub rank : Nat)
  | zqLatch (sub rank : Nat)
  /-- one Alert Back-Off RFMab of a rank -/
  | aboRfm (sub rank : Nat)
  /-- one retraining step -/
  | retrain
  /-- a calibration commit's quiet interval -/
  | commit
  /-- one ECS mode-register read of a rank -/
  | ecsRead (sub rank : Nat)
  deriving DecidableEq, Repr

/-- What a staged or queued request asks for. -/
inductive AccOp
  | read
  | write
  /-- the read-modify-write of a partial write (R21) -/
  | rmw
  | unlk
  | hint
  | claim (k : ClaimKind)
  deriving DecidableEq, Repr

/-- One request of a requester at a Landing (R127, R129): staged, queued or in flight. `addr` is the
Landing address of R113; `stored` and `poison` are the line as a write stores it; `data` and `be` are a
partial write's plaintext and byte enables; `tag` is the tag held for the line (R356). A DBG request has no
stamp: its field holds the time of acceptance, which ranks it nowhere (log entry 85, DEDUCED). -/
structure Access where
  id : Nat
  client : Client
  req : Nat
  stamp : BitVec 32
  dl : Bool
  emergency : Bool
  op : AccOp
  addr : Nat
  hall : Option Nat
  data : BitVec 512
  be : BitVec 64
  stored : BitVec 512
  poison : Bool
  tag : Option (BitVec 32)
  /-- tag line and slot of the line (R111, R375) -/
  tagAt : Option (Nat × Nat)
  /-- hall offset of the line, for the tag slot and the page -/
  off : Nat
  /-- a write entry may be issued (merge decided, tag merged) -/
  ready : Bool
  /-- it opens or closes its requester's BPP sequence (R88), under this LDID -/
  opens : Option Nat
  closes : Option Nat
  /-- an MRD without LOCK of the owner, executed inside its sequence (R88), under this LDID -/
  inside : Option Nat
  /-- cycle of first presentation, for ARB_RQ_LONGEST -/
  first : Option Nat
  /-- a write of the line was admitted after this read (R257, R239) -/
  stale : Bool
  /-- the acceptance time, from which the bias of R143 is bounded -/
  acc : BitVec 32
  /-- it stands in one of its requester's 16 staging places; otherwise it waits upstream (R127) -/
  entered : Bool
  /-- the order of its admission to the Landing (R161) -/
  adm : Nat
  /-- a rewrite of what the line held when it was read: a newer write of the line replaces it (R239, R257) -/
  yields : Bool
  deriving DecidableEq, Repr

/-- A line in a Landing's line-lock table (R22) and what put it there. -/
inductive LockCause
  | bpp (p ldid : Nat)
  | rmw (acc : Nat)
  | tagLine (lpa : Nat)
  | repair
  deriving DecidableEq, Repr

/-- An entry of a Landing's line-lock table (R22). -/
structure LineLock where
  addr : Nat
  cause : LockCause
  deriving DecidableEq, Repr

/-- The locked sequence that holds the grant (R138): owner, kind, hold count in treads. -/
structure GrantLock where
  owner : Nat
  cause : LockCause
  addr : Nat
  treads : Nat
  suspended : Bool
  wasSuspended : Bool
  deriving DecidableEq, Repr

/-- The arbiter of one Landing (R126–R151). -/
structure Arb where
  tiePtr : Nat
  lock : Option GrantLock
  /-- requests in the order they reached the Landing; those marked `entered`, at most 16 of each requester, are
  staged, the rest wait upstream (R127) -/
  staging : List Access
  losses : Vector Nat 13
  /-- the cycle from which a backing-off requester presents again (R135) -/
  backoff : Vector (Option Nat) 13
  /-- the winner of the last decision, granted in the next cycle (R131) -/
  grantNext : Option Access
  /-- deadline-class grants and charges per tread, newest first, at most 16 (R146) -/
  dlHist : List Nat
  dlNow : Nat
  rsvLimit : Nat
  rsv : Wm
  longest : Vector Nat 13
  starved : List Nat
  deriving DecidableEq, Repr

/-- A DDR5 command of a plan (R156, R178). -/
inductive Cmd
  | act
  | pre
  | preSb
  | preAb
  | rd
  | wr
  | rda
  | wra
  | refAb
  | refSb
  | rfmAb
  | rfmSb
  | drfmAb
  | drfmSb
  | zqStart
  | zqLatch
  | mrr
  | pdEnter
  | pdExit
  | srEnter
  | srExit
  | mrw
  | mpc
  deriving DecidableEq, Repr

/-- An open row and the tread of its last access (R162). -/
structure OpenRow where
  sub : Nat
  rank : Nat
  bg : Nat
  bank : Nat
  row : Nat
  used : Nat
  deriving DecidableEq, Repr

/-- A command placed on a CK edge, counted from `BLK_TIME` 0 (R179); `acc` names the queue entry it serves
and `line` the codeword a write drives. -/
structure PlanCmd where
  edge : Nat
  cmd : Cmd
  sub : Nat
  rank : Nat
  bg : Nat
  bank : Nat
  row : Nat
  col : Nat
  acc : Option Nat
  emergency : Bool
  line : BitVec 640
  /-- the claim that the command serves, and the hint that an ACT serves -/
  claim : Option Access
  hint : Option Access
  /-- the DCS_N line and the CID bits that select the rank (R154), and DPAR on the command's edges (R41, R178) -/
  cs : Nat
  cid : Nat
  dpar : Bool
  /-- a precharge carries the DRFM sampling indication (R231) -/
  sample : Bool
  /-- what the command changed when it was placed: rows that it closed, a rank that it woke, an RAA count that it raised, and a row
  that it had sampled -/
  closed : List OpenRow
  woke : Bool
  counted : Bool
  sampled : Bool
  deriving DecidableEq, Repr

/-- A command already placed and the converted timing values it started under (R207): the timers of every
rule that applies to later commands are read from these entries. -/
structure Issued where
  edge : Nat
  cmd : Cmd
  sub : Nat
  rank : Nat
  bg : Nat
  bank : Nat
  row : Nat
  ck : List Nat
  deriving DecidableEq, Repr

/-- `SEQ_GEOM` (R155, R192). -/
structure Geom where
  valid : Bool
  mrd : Bool
  dpc2 : Bool
  rankBits : Nat
  x8 : Bool
  bank4 : Bool
  rowBits : Nat
  rate : Nat
  deriving DecidableEq, Repr

/-- A CA parity alert or retry in progress (R187–R189): the CCLK cycle of the fall of ALERT_N, the replay
window, the retries made, the cycle of its rise, and the edge at which the replay ends. -/
structure Retry where
  fall : Nat
  window : List PlanCmd
  tries : Nat
  rising : Option Nat
  done : Option Nat
  /-- the state to return to: RUN or DRAIN -/
  back : LState
  /-- an alert of it has been classified as a parity error -/
  parity : Bool
  deriving DecidableEq, Repr

/-- The sequencer of one Landing (R152–R192). -/
structure Seq where
  lstate : LState
  dirA : Bool
  dirB : Bool
  /-- lines moved in the current direction since the last turn, per subchannel -/
  batch : Vector Nat 2
  rq : List Access
  wq : List Access
  hints : List Access
  claims : List Access
  /-- admitted requests that wait behind a locked line (R22) -/
  held : List Access
  /-- writes whose burst stands in the present or the next plan, with the plan's tread -/
  wrote : List (Nat × Access)
  lockTable : List LineLock
  hist : List Issued
  rows : List OpenRow
  /-- ranks in POWER_DOWN, as (subchannel, rank) -/
  pd : List (Nat × Nat)
  /-- consecutive idle treads of a rank (R163) -/
  idle : List (Nat × Nat × Nat)
  /-- reads issued whose burst has not returned -/
  inflight : List Access
  /-- lines decoded and waiting for the cipher and tag check (R354) -/
  checking : List (Access × BitVec 512 × Bool)
  /-- commands of plans already issued that a replay window can reach (R188) -/
  past : List PlanCmd
  planNow : List PlanCmd
  planNext : List PlanCmd
  /-- tread for which `planNext` was built -/
  planTread : Nat
  /-- overhead charges not yet reported: (tread of the burst's end, line slots) (R176) -/
  charges : List (Nat × Nat)
  geom : Geom
  retry : Option Retry
  /-- edges up to which a claim holds the whole Landing's buses, and up to which no burst is placed (R186) -/
  quietTo : Nat
  stillTo : Nat
  /-- per subchannel: the write queue was full and only writes are placed until it has fallen (R166) -/
  flood : Vector Bool 2
  /-- rank of the last burst issued, per subchannel (R170) -/
  lastRank : Vector (Option Nat) 2
  /-- overhead in CK that deadline accesses not yet issued have incurred: (access, CK) (R175) -/
  costs : List (Nat × Nat)
  /-- hints not yet acted on: (access, plans seen) -/
  hintAge : List (Nat × Nat)
  deriving DecidableEq, Repr

/-- The refresh schedule of one rank (R211), with part two of a same-bank instance (R219). -/
structure RefSched where
  sched : Sched
  partTwo : Option Nat
  presented : Bool
  deriving DecidableEq, Repr

/-- An Alert Back-Off being served (R232); times in CCLK cycles. -/
structure Abo where
  fall : Nat
  presented : Bool
  actStopped : Bool
  risen : Bool
  deriving DecidableEq, Repr

/-- The Maintenance Unit of one Landing (R211–R244). -/
structure Mnt where
  /-- schedules of rank r of subchannel s at index 8·s + r -/
  ref : Vector RefSched 16
  /-- refresh flight in treads in force (R32) and whether it is the halved one -/
  flight : Nat
  hot : Bool
  hotNext : Bool
  /-- refresh by REFsb in force (R217) -/
  sameBank : Bool
  /-- RAA count per bank: (sub, rank, bg, bank) and count (R228) -/
  raa : List ((Nat × Nat × Nat × Nat) × Nat)
  /-- banks owed an RFM or a DRFM, with the stamp (R229, R231) -/
  owedRfm : List ((Nat × Nat × Nat × Nat) × Nat)
  owedDrfm : List ((Nat × Nat × Nat × Nat) × Nat)
  /-- banks that reached MMT and whose owed RFM has not issued (R229) -/
  raaStop : List (Nat × Nat × Nat × Nat)
  /-- row last sampled in a bank, which its precharge names to the DRAM (R231) -/
  drfmRows : List ((Nat × Nat × Nat × Nat) × Nat)
  temp : Nat
  fail : Bool
  /-- failed thermal reads in a row, per slot -/
  fails : Vector Nat 2
  abo : Option Abo
  aboFlight : Nat
  aboWm : Wm
  debtWm : Wm
  scrub : Sched
  scrubOn : Bool
  scrubPos : Nat
  /-- scrub steps with lines not yet presented, as (due tread, lines), the oldest first -/
  scrubOwed : List (Nat × Nat)
  zq : Sched
  /-- ranks whose ZQCal Latch is outstanding: (sub, rank, cycle at which tZQCAL has passed since the Start) -/
  zqOpen : List (Nat × Nat × Nat)
  /-- ZQ work of the present instance presented or waiting for a window -/
  zqWaiting : Bool
  /-- tread in which the last window began -/
  lastWindow : Option Nat
  /-- of that window: the tread in which its first bank-level command is placed, the CK for which its work of rows 3 and 5 holds the
  Landing, whether it holds refresh of row 1, whether it has been counted as leaving work over, and whether it has its scrub batch (R222–R224) -/
  winPlan : Option Nat
  winHold : Nat
  winRef : Bool
  winFull : Bool
  winScrub : Bool
  /-- a scrub step is owed and has not started; its merges count in `scrub` -/
  scrubWait : Bool
  /-- block flight from which the next ECS readout is due -/
  ecsNext : Nat
  /-- pass time requested for patrol scrub, in hours (R237) -/
  passHours : Nat
  deriving DecidableEq, Repr

/-- The PHY macro and Stringer of one Landing (R271–R299). -/
structure Phy where
  mode : PhyMode
  /-- the delay set in the lane registers of each subchannel: that of its last burst (R287) -/
  setA : Nat
  setB : Nat
  strValid : Bool
  slew : Bool
  nextK : Nat
  /-- tread in which the running instance started, and the start of the last accepted one (`AGE`) -/
  began : Nat
  accepted : Option Nat
  /-- the full measurement has been made since boot or the last wake out of DEEP or RETAIN (R285) -/
  measured : Bool
  rejRun : Nat
  zero : Nat
  full : Nat
  /-- raw codes and shapes of breakpoints 0 to 64 (R281) -/
  lin : List Nat
  shape : List Nat
  /-- a table accepted and applying from the next tread boundary (R282) -/
  newTable : Bool
  /-- the table that the lanes move toward, and those they are still leaving, newest first, each with the CK edge at which the next
  one began to apply (R282) -/
  inForce : List Nat
  leaving : List (List Nat × Nat)
  /-- no instance has been accepted since boot or a wake out of DEEP or RETAIN (R283) -/
  firstSpan : Bool
  sched : Sched
  running : Bool
  oor : Bool
  deriving DecidableEq, Repr

/-- A periodic run or margin check in progress (R331, R338). -/
structure CalRun where
  margin : Bool
  /-- steps completed, over every rank or delay set trained -/
  step : Nat
  startTemp : Nat
  words : List (Nat × W32)
  /-- the limits that failed: step of R331 and rank -/
  fails : List (Nat × Nat)
  /-- `BLK_TIME` at which its next step falls due: the start of the run, or `PACE` treads after the end of the step before, outside
  deadline mode (R26, R331) -/
  due : Nat
  /-- the step has been placed and holds the Landing -/
  placed : Bool
  deriving DecidableEq, Repr

/-- Margins of one rank (R347). -/
structure Margin where
  sub : Nat
  rank : Nat
  rdPs : Nat
  wrPs : Nat
  rdMv : Nat
  deriving DecidableEq, Repr

/-- Values of a periodic run staged for its commit (R339). -/
structure Staged where
  words : List (Nat × W32)
  temp : Nat
  /-- the commit has been placed: the tread at whose start it loads -/
  placed : Option Nat
  margins : List Margin
  /-- `BLK_TIME` at which the commit fell due (R26) -/
  due : Nat
  deriving DecidableEq, Repr

/-- The Calibration Unit of one Landing (R318–R347). -/
structure Cal where
  /-- `CAL_STAT.STATE` -/
  state : Nat
  pending : Bool
  cause : Nat
  rejRun : Nat
  bootFail : Bool
  failStep : Nat
  marginLow : Bool
  rankFail : BitVec 8
  last : Nat
  margins : List Margin
  run : Option CalRun
  staged : Option Staged
  aborts : Nat
  sched : Sched
  tRef : Nat
  /-- accepted records of subchannels A and B (R344) -/
  held : Vector (Option (List Byte)) 2
  rcdWords : List (List Byte)
  dramParts : List (List Byte)
  /-- a CAL_RUN or a wake asked for the pending run -/
  asked : Bool
  /-- the run of a wake has been asked for in the wake under way -/
  woke : Bool
  /-- a margin check is wanted (CAL_RUN bit 16, R284, R337) -/
  marginWant : Bool
  /-- the check wanted follows three rejections, so a margin below the guard fences the Landing (R284, R337) -/
  marginFence : Bool
  /-- outcomes of the last run and of the last margin check as CAL_RUN reports them; none while one that it asked for is open -/
  outcome : Option Nat
  checkOutcome : Option Nat
  /-- ranks whose data buffers have reported done (R324) -/
  dbDone : List Nat
  dbFail : List Nat
  /-- the step of R322 that failed last in boot training, and its repetitions so far (R326) -/
  tryStep : Nat
  tries : Nat
  deriving DecidableEq, Repr

/-- What firmware has programmed into a module's register clock driver (R305 step 6): the CID values it accepts (R154), the length of
its parity alert in CK, and its data rate. -/
structure Rcd where
  cids : List Nat
  pulse : Nat
  rate : Nat
  deriving DecidableEq, Repr

/-- A module as discovery read it (R307), with its last sensor and PMIC readings (R312, R313). -/
structure Module where
  spd : Spd
  temp : Nat
  pmic : W32
  pmicBad : Bool
  /-- its training-hint record was used, written, or could not be written (R315, R316) -/
  hintUsed : Bool
  hintWritten : Bool
  hintWp : Bool
  rcd : Option Rcd
  /-- the rail settings programmed into its PMIC: those of the hub's bytes 640 to 959 (R305 step 4, R307) -/
  rails : Option (List Byte)
  deriving DecidableEq, Repr

/-- Discovery's outcome for one Landing (R317). -/
structure Sbd where
  reason : Nat
  started : Bool
  i3c : Bool
  maxRate : Nat
  /-- discovery has reached the Landing -/
  reached : Bool
  /-- discovered, not refused, not yet started -/
  waiting : Bool
  /-- held under `HOLD` for LANDING_START (R470) -/
  hold : Bool
  slots : Vector (Option Module) 2
  /-- training failed at the lowest bin (R326) -/
  failed : Bool
  deriving DecidableEq, Repr

/-- One Landing. -/
structure Landing where
  page : RegFile
  arb : Arb
  seq : Seq
  mnt : Mnt
  phy : Phy
  cal : Cal
  sbd : Sbd
  /-- rule registers populated by firmware: offset and word (R208) -/
  populated : Words
  /-- TIMING conversion: converted registers (900h range) as enforced (R194) -/
  conv : Words
  tchk : W32
  /-- an accepted write of `SEQ_T_REFI` waits for its tread boundary (R197) -/
  refiPend : Bool
  /-- free and committed granules: owner number of each allocated granule is in the hall table; this is
  the number of granules of the Landing's DRAM, calibration granule included (R110, R320) -/
  granules : Nat
  /-- tokens of the TIER token bucket (R406) -/
  tokens : Int
  /-- a reset or Halt drain is under way, with the cycle it began -/
  drainFrom : Option Nat
  deriving DecidableEq, Repr

/-- A line of a Gallery's metadata cache (R358, R377, R393, R398): most recently used first in its list. -/
structure CacheLine where
  kind : MetaKind
  lpa : Nat
  hall : Option Nat
  data : BitVec 512
  dirty : Bool
  deriving DecidableEq, Repr

/-- An outstanding or waiting metadata fetch (R358). -/
structure MetaFetch where
  kind : MetaKind
  lpa : Nat
  hall : Option Nat
  stamp : BitVec 32
  started : Bool
  /-- requester and class of the request that missed (R18) -/
  req : Nat
  dl : Bool
  /-- samples that wait for a heat line (R394): bit, width, and the hall and page of a sampled read -/
  adds : List (Nat × Nat × Option (Nat × Nat))
  deriving DecidableEq, Repr

/-- A page move of the Tier Engine (R380, R388, R400). `demote` moves carry the containers; lines of the
destination already ordered are counted. -/
structure Move where
  id : Nat
  demote : Bool
  /-- a write promotion, carrying the write's stamp -/
  write : Bool
  hall : Nat
  page : Nat
  stamp : BitVec 32
  /-- destination: frame, first alcove, alcoves minus 1; a promotion HOME has `toFrame` false -/
  toFrame : Bool
  frame : Nat
  start : Nat
  count : Nat
  offs : List Nat
  /-- lines of the source read so far, by index -/
  lines : List (Nat × BitVec 512)
  poisoned : List Nat
  written : Nat
  total : Nat
  abandoned : Bool
  deriving DecidableEq, Repr

/-- A segment fetch (R382, R384). -/
structure SegFetch where
  id : Nat
  hall : Nat
  page : Nat
  seg : Nat
  stamp : BitVec 32
  first : Nat
  lines : List (Nat × BitVec 512)
  need : Nat
  bad : Bool
  /-- the frame its run lies in -/
  frame : Nat
  /-- storage lines, of those that have arrived, with a write admitted since their read (R386) -/
  stale : List Nat
  /-- host transactions waiting: (port, txn, line of the page) -/
  waiters : List (Nat × Nat × Nat)
  /-- DMA reads waiting: (channel, line index, line of the page) -/
  dmaWaiters : List (Nat × Nat × Nat)
  /-- a promotion waiting: move id -/
  move : Option Nat
  deriving DecidableEq, Repr

/-- A decoded segment held in the buffer (R383), most recent first. -/
structure Decoded where
  hall : Nat
  epoch : Nat
  page : Nat
  seg : Nat
  bytes : List Byte
  deriving DecidableEq, Repr

/-- A pool-map entry (R398). -/
structure PoolEntry where
  alcoves : BitVec 8
  hall : Nat
  bound : Bool
  quar : Bool
  deriving DecidableEq, Repr

/-- A counter of a cached heat line that a sample raised: its line, place and width, the cycle, and its value before (R396). -/
structure HeatMark where
  lpa : Nat
  lo : Nat
  width : Nat
  cycle : Nat
  before : Nat
  deriving DecidableEq, Repr

/-- A tag line that ECC could not correct (R258): the covered places whose poison writes are under way, as Landing and address, and
whether the tag line has been rewritten since. -/
structure LostTag where
  lpa : Nat
  places : List (Nat × Nat)
  written : Bool
  deriving DecidableEq, Repr

/-- One Gallery: engines, caches, pool and counters. -/
structure Gallery where
  page : RegFile
  pllLock : Bool
  /-- ECC: device counts (R259), declared devices (R260) as (landing-local, sub, rank) and device -/
  devCounts : List ((Nat × Nat × Nat × Nat) × Nat)
  erase : List ((Nat × Nat × Nat) × Nat)
  eccLog : Words
  eccNext : Nat
  eccWrap : Bool
  ceFlight : Vector Nat 4
  ceWm : Vector Wm 4
  /-- the block flight of the last leak of the device counts (R259) -/
  leakAt : Nat
  lostTags : List LostTag
  haltSrc : Bool
  haltInfo : W32
  haltLpa : Nat
  haltTime : Nat
  tagLines : Nat
  cache : List CacheLine
  fetches : List MetaFetch
  cmpFenced : Bool
  errFlight : Nat
  errInfo : W32
  errPage : Nat
  dbuf : List Decoded
  segs : List SegFetch
  moves : List Move
  demFlight : Nat
  /-- pool: maximum sets, extents (four granules each) of the frame area, entries by frame -/
  poolMax : Nat
  poolExt : List (List Nat)
  auxExt : List (List Nat)
  pool : List (Nat × PoolEntry)
  /-- Q of R403 -/
  resv : Nat
  /-- pages that a sampled read found hot (R400) -/
  hot : List (Nat × Nat)
  /-- counters sampled in the present cycle, oldest first -/
  marks : List HeatMark
  zone : Nat
  wmLow : Wm
  wmCrit : Wm
  cntFix : Nat
  /-- selector and value of each programmable counter -/
  prog : Vector (W32 × Nat) 8
  ovf : BitVec 8
  deriving DecidableEq, Repr

/-- Phase of a hall's life (R118–R120). -/
inductive HallPhase
  | creating
  | ready
  | growing (g : Nat)
  | shrinking (g : Nat)
  | releasing
  deriving DecidableEq, Repr

/-- A hall (R109, R110, R111). Extents list, per member Landing in ascending order, its granules. -/
structure Hall where
  set : BitVec 12
  size : Nat
  enc : Bool
  integ : Bool
  cmp : Bool
  elastic : Bool
  dl : Bool
  dbgv : Bool
  dma : Nat
  w : Nat
  ext : List (List Nat)
  tagExt : List (List Nat)
  mapExt : List (List Nat)
  keyLoaded : Bool
  key : List Byte
  check : BitVec 32
  /-- groups no longer backed (R402) -/
  unbacked : List Nat
  /-- by group and home Gallery (4·group + g): pages POOL or LOST, and pages compressed (R402, R403) -/
  pages : List (Nat × Nat × Nat)
  /-- first heat line of the hall's run in each Gallery, and the size in granules by which the run is laid out (R119) -/
  heat : List (Nat × Nat)
  heatSize : Nat
  phase : HallPhase
  /-- next line to zero on each member Landing, four to a local chunk, and the offsets of zero lines presented and not
  yet ordered (R115, R116) -/
  zeroPos : List Nat
  zeroOut : List Nat
  /-- next line of the new tag and page-map granules to zero on each member, and the lines presented and not yet ordered, as
  (member, line) (R118, R119) -/
  metaPos : List Nat
  metaOut : List (Nat × Nat)
  deriving DecidableEq, Repr

/-- A page of a hall whose page-map entry is not HOME (R376): what the page-map lines in DRAM and in the caches say of it, kept
beside them because the DRAM's content is not part of the block. -/
structure PageAt where
  hall : Nat
  page : Nat
  loc : Nat
  frame : Nat
  start : Nat
  count : Nat
  deriving DecidableEq, Repr

/-- A window (R105). -/
structure Window where
  num : Nat
  hall : Nat
  port : Nat
  ldid : Nat
  base : Nat
  rw : Bool
  active : Bool
  deriving DecidableEq, Repr

/-- An entry of the ahead table (R116). -/
structure Ahead where
  hall : Nat
  region : Nat
  done : Bool
  stamp : BitVec 32
  /-- first offset that the entry's zeroing covers: the region's own, or W when it stood higher -/
  low : Nat
  /-- next line to zero on each member Landing -/
  pos : List Nat
  deriving DecidableEq, Repr

/-- Opcodes of an accepted request (R73). -/
inductive Opc
  | mrd
  | unlk
  | mwr
  | mwrp
  /-- a malformed code, with its class bit -/
  | bad (wrq : Bool)
  deriving DecidableEq, Repr

/-- A response header (R82) with its data flit. -/
structure Resp where
  port : Nat
  dat : Bool
  tag : BitVec 12
  ldid : BitVec 4
  status : Status
  poison : Bool
  late : Bool
  dload : Nat
  data : BitVec 512
  /-- the header word as it leaves the block (R82) -/
  header : BitVec 128
  deriving DecidableEq, Repr

/-- What an accepted request of a port is waiting for. -/
inductive TxnWait
  /-- staged, queued or in flight at a Landing -/
  | landing
  /-- an earlier request of its port to the line, or a lock on a compressed line -/
  | behind
  /-- an ahead entry, a page-map line, a promotion switch, a segment -/
  | ahead
  | pageMap (lpa : Nat)
  | promotion
  | segment
  /-- the wake of the block (R487) -/
  | wake
  /-- nothing: its response is formed -/
  | formed
  deriving DecidableEq, Repr

/-- An accepted request not yet responded to (R71, R108). -/
structure Txn where
  id : Nat
  opc : Opc
  hdr : Header
  poison : Bool
  data : BitVec 512
  be : BitVec 64
  stamp : BitVec 32
  dl : Bool
  hall : Option Nat
  off : Nat
  landing : Option Nat
  wait : TxnWait
  resp : Option Resp
  /-- a condition of R147 failed during its life (R149) -/
  excused : Bool
  /-- the write credit has been returned (R93) -/
  credited : Bool
  /-- Landings that serve its tag and page-map reads, and whether a condition of R147 failed at one of them -/
  metaAt : List Nat
  metaFailed : Bool
  deriving DecidableEq, Repr

/-- A port's open or broken locked sequence (R88–R90): `dpa` is the device physical address of its line, and `active` says
that its line is locked (its opening read has been routed). -/
structure LockSeq where
  ldid : Nat
  dpa : Nat
  active : Bool
  hall : Nat
  off : Nat
  landing : Nat
  addr : Nat
  broken : Bool
  deriving DecidableEq, Repr

/-- Port state (R95, R96). -/
inductive PortState
  | closed
  | opened
  | closing
  deriving DecidableEq, Repr

/-- One host port, or DBG (R54). Credits: `req` and `wrq` the integrator's balances, `cpl` and `dat` the
block's (R91–R95). -/
structure Port where
  state : PortState
  ordered : Bool
  req : Nat
  wrq : Nat
  cpl : Nat
  dat : Nat
  txns : List Txn
  seqs : List LockSeq
  /-- faults 1/01h and 1/02h of this block flight (R505) -/
  faults : Nat
  deriving DecidableEq, Repr

/-- States of a DMA channel (R424). -/
inductive DmaState
  | idle
  | running
  | parked
  | stopping
  | stopped
  | error
  | halted
  | resetting
  deriving DecidableEq, Repr

/-- One line of a running descriptor: offset in the hall, whether it arrived or was acknowledged. -/
structure DmaLine where
  off : Nat
  /-- bytes of the line inside the range: first and one past last -/
  lo : Nat
  hi : Nat
  issued : Bool
  done : Bool
  data : BitVec 512
  failed : Bool
  /-- its bounce memory was lost: the line is written with poison (R515) -/
  poison : Bool
  /-- the line waits for an ahead entry (R117) -/
  ahead : Bool
  /-- the `BLK_TIME` at which the line's request reached the Hall Map, which its stamp is formed from (R418): its hall and rights were
  checked then, and later changes of windows and halls do not affect it (R108, R419) -/
  resolved : Option Nat
  deriving DecidableEq, Repr

/-- A descriptor in progress (R414): its fetched words, source and destination lines, first error. -/
structure DmaRun where
  words : List W32
  due : BitVec 12
  skip : Bool
  srcs : List DmaLine
  dsts : List DmaLine
  /-- first error: code, direction, hall, offset -/
  err : Option (Nat × Bool × Nat × Nat)
  deriving DecidableEq, Repr

/-- A host DMA channel (R430). -/
structure Dma where
  ctl : W32
  /-- `DMA_CH_CTL` as the last descriptor start took it: what is in force (R429) -/
  inForce : W32
  bind : Option (Nat × Nat)
  head : Nat
  cur : Nat
  state : DmaState
  dbPend : Bool
  irq : BitVec 4
  doneBytes : Nat
  descDone : W32
  skipped : W32
  /-- the two counts as the last tread boundary left them, which is what they read as (R30) -/
  doneShown : W32
  skipShown : W32
  errInfo : W32
  errAddr : Nat
  /-- the error record has latched since the last accepted write of HEAD (R422) -/
  errSince : Bool
  run : Option DmaRun
  /-- the descriptor at `cur` has completed with END = 1 (R424) -/
  tailDone : Bool
  /-- a descriptor waits to be started -/
  toStart : Bool
  deriving DecidableEq, Repr

/-- Mailbox states (R439). -/
inductive MbState
  | idle
  | pending
  | busy
  | done
  deriving DecidableEq, Repr

/-- One mailbox (R437–R441). -/
structure Mailbox where
  cmd : Words
  rsp : Words
  pay : Memory
  state : MbState
  overrun : Bool
  ie : Bool
  pwin : Bool
  /-- order of taking (R462) -/
  taken : Nat
  /-- the command holds its objects and has begun -/
  started : Bool
  deriving DecidableEq, Repr

/-- An Event Queue item (R442). -/
structure EqItem where
  type : Nat
  prio : Nat
  lost : Bool
  seq : BitVec 16
  time : Nat
  data : List W32
  deriving DecidableEq, Repr

/-- The Event Queue (R442–R446, R453). -/
structure EvQueue where
  items : Vector (List EqItem) 4
  lost : Vector Nat 4
  /-- a discard since the last accepted item of the priority -/
  gap : Vector Bool 4
  seq : BitVec 16
  latch : List W32
  mask : BitVec 4
  stall : BitVec 16
  deriving DecidableEq, Repr

/-- A packet in the ring: first word, words, complete. -/
structure Packet where
  first : Nat
  len : Nat
  src : Nat
  deriving DecidableEq, Repr

/-- The Arcade (R447–R453). Word positions count from the last time the buffer was empty. -/
structure Arcade where
  words : List W32
  base : Nat
  rptr : Nat
  /-- wide words padded by FLUSH: position and valid bytes -/
  pads : List (Nat × Nat)
  packets : List Packet
  mark : Option Nat
  overrun : Bool
  markLost : Bool
  drop : W32
  latch : List W32
  deriving DecidableEq, Repr

/-- A Record Store record, decoded (R454). -/
inductive Record
  | snapshot (rec : List Byte)
  | history (cls src : Nat) (time : Nat) (serial : W32) (detail : W32) (overflow : Bool)
  | device (serial : W32) (landing sub rank dev : Nat)
  | repair (serial : W32) (coord : Coord) (landing dev : Nat) (hard : Bool)
  | abandoned (landing : Nat) (lines : Nat)
  /-- background work of firmware that an access fault ended: hall and offset of the access (R433) -/
  | background (hall off : Nat)
  | counters (recoveries cpResets : W32)
  | hall (num : Nat) (h : Hall) (epoch : Nat) (wins : List Window)
  | epochs (e : List (Nat × Nat))
  deriving DecidableEq, Repr

/-- One bank of the Record Store as the flash holds it: none when not valid under R455. -/
structure Bank where
  seq : BitVec 32
  recs : List Record
  deriving DecidableEq, Repr

/-- The Record Store (R454–R457). -/
structure RecStore where
  bankA : Option Bank
  bankB : Option Bank
  /-- the bank taken: false A, true B; none for an empty store -/
  taken : Option Bool
  items : List Record
  changed : Bool
  lastCommit : Option Nat
  cpResets : W32
  deriving DecidableEq, Repr

/-- What a transition is doing (R485, R489, R493): held by a command, quiescing DMA, Tier Engine and sideband,
draining or powering down the Landings, waking, asking a legacy unit, or rolling back. -/
inductive PwrStage
  | held
  | quiesce
  | drain
  | wake
  | ask (unit : Nat)
  | rollback
  deriving DecidableEq, Repr

/-- A transition in progress. -/
structure Transition where
  target : PState
  from_ : PState
  stage : PwrStage
  began : Nat
  /-- channels this transition stopped (R494) -/
  stoppedDma : List Nat
  agreed : List Nat
  /-- total delay of the unit being asked, in µs -/
  delays : Nat
  refuser : Nat
  /-- wake code of the source that asked for P0 (`PWR_STAT.LAST_WAKE`) -/
  src : Nat
  deriving DecidableEq, Repr

/-- The Power Manager (R481–R497). -/
structure Pwr where
  state : PState
  trans : Option Transition
  pend : Option PState
  /-- acceptance time and wake code of the pending request -/
  pendAt : Nat
  pendSrc : Nat
  lastWake : Nat
  resCode : Nat
  resTarget : Nat
  resUnit : Nat
  resSeq : BitVec 16
  legacy : Bool
  wakeEn : BitVec 8
  timer : W32
  /-- `BLK_TIME` when the last transition reached its target, from which `PWR_TIMER` counts (R497) -/
  reachedAt : Nat
  leg : W32
  time : W32
  /-- AON SRAM holds a P3 save image (R490); the state it carries keeps its place in this record -/
  image : Bool
  /-- content of the AON SRAM (R36) -/
  aon : Memory
  /-- domains that were on when P3 was entered -/
  galWas : Vector Bool 3
  phyWas : Vector Bool 12
  deriving DecidableEq, Repr

/-- Fence grains (R505). -/
inductive Grain
  | row
  | bank
  | rank
  | landing
  | cmp
  | tier
  | port
  deriving DecidableEq, Repr

/-- A fence in force (R505): its number, its place, the report that started it, whether it has settled and whether its
shadow runs. `rows` lists the rows of a bank fence; `group` the Landings of a Landing fence (four of one
Gallery under R276); `time` is the CCLK cycle of the start. -/
structure Fence where
  id : Nat
  grain : Grain
  landing : Nat
  group : List Nat
  coord : Coord
  gallery : Nat
  port : Nat
  src : W32
  time : Nat
  active : Bool
  settled : Bool
  /-- CCLK cycle at which it settled -/
  settledAt : Nat
  shadow : Bool
  rows : List Nat
  /-- a Landing fence without a drain (R276) -/
  noDrain : Bool
  deriving DecidableEq, Repr

/-- A report to the Fault Collector (R500, R501): the class is 1 C, 2 U, 3 F; `land`, `coord` and `port` are
the Landing, the storage and the port of the request it names, for the fence shadows of R508. -/
structure Rep where
  subsys : Nat
  code : Nat
  inst : Nat
  cls : Nat
  detail : W32
  land : Option Nat
  coord : Option Coord
  port : Option Nat
  deriving DecidableEq, Repr

/-- A first-fault record (R502). -/
structure FaultRec where
  src : W32
  detail : W32
  time : Nat
  deriving DecidableEq, Repr

/-- The Fault Collector (R498–R516); index 0 C, 1 U, 2 F. -/
structure Flt where
  first : Vector (Option FaultRec) 3
  ovf : Vector Bool 3
  active : Vector Bool 3
  count : Vector W32 3
  irq : BitVec 4
  en : BitVec 4
  conseq : W32
  recoveries : W32
  fencesStarted : W32
  service : Bool
  quietMs : Nat
  aliveUs : Nat
  fences : List Fence
  /-- level conditions that hold -/
  levels : List Rep
  /-- uncorrectable lines for the row-fence rule: landing, coordinates, block flight -/
  rowHist : List (Nat × Coord × Nat)
  /-- time of the last report that was not consequential, per class -/
  lastReport : Vector Nat 3
  /-- the report held by the always-on domain in P3, with its time of detection (R513) -/
  heldP3 : Option (Rep × Nat)
  switched : Nat
  deriving DecidableEq, Repr

/-- A sideband transaction (R304): bus, kind by priority, tries. -/
structure SbdJob where
  bus : Nat
  prio : Nat
  landing : Nat
  slot : Nat
  tries : Nat
  mailbox : Option Nat
  page : Nat
  /-- the record being written, or the bytes asked for -/
  data : List Byte
  deriving DecidableEq, Repr

/-- A change that applies at the next tread boundary (R30). -/
inductive Deferred
  | bringup (on : Bool)
  | debugSelect (h : Option Nat)
  | windowOn (num : Nat)
  | windowOff (num : Nat)
  | releaseWindows (h : Nat)
  | activateHall (h : Nat)
  | shrink (h g : Nat)
  | unback (h group : Nat)
  | fence (i : Nat)
  | declare (landing sub rank dev : Nat)
  | cnt (g k : Nat) (sel : W32)
  | cntUser (en : BitVec 8)
  | fltMode (service : Bool)
  /-- a command that waits for the boundary completes: mailbox, its number of taking, results -/
  | done (m taken : Nat) (res : List W32)
  deriving DecidableEq, Repr

/-- The resource named by a claim (R478). -/
structure ClaimRec where
  res : Nat
  which : Nat
  param : Nat
  /-- 0–7 LBn, 8 LBA, 15 firmware -/
  holder : Nat
  deriving DecidableEq, Repr

/-- A post-package repair in progress (R264). -/
structure Repair where
  mailbox : Nat
  landing : Nat
  coord : Coord
  dev : Nat
  hard : Bool
  /-- serial number of the module -/
  serial : W32
  /-- the window claim was the mailbox's own (R476) -/
  own : Bool
  /-- lines of the row read so far: Landing address, content as stored, poison (R264 step 3) -/
  staged : List (Nat × BitVec 512 × Bool)
  /-- the programming is over: whether it succeeded and the bank hold time, and the lines not yet written back (steps 5 and 6) -/
  back : Option (Bool × Nat)
  left : List Nat
  deriving DecidableEq, Repr

/-- An access of the Control Processor (R124, R433): the work item's mailbox, none for background work; hall and offset, of the line
itself or of the page whose page-map line is meant; and what a store writes. -/
structure CpuWork where
  id : Nat
  mailbox : Option Nat
  hall : Nat
  off : Nat
  mapLine : Bool
  store : Option (BitVec 512 × BitVec 64)
  /-- the `BLK_TIME` at which it reached the Hall Map -/
  since : Nat
  issued : Bool
  deriving DecidableEq, Repr

/-- DISCOVER in progress (R305): the modules found, the rate cap, and the stage reached. -/
structure Discovery where
  done : Bool
  waitPower : Bool
  hold : Bool
  cap : Nat
  mailbox : Option Nat
  /-- rate of each Gallery -/
  rates : Vector Nat 3
  /-- DISCOVER has begun since the last reset, and a failed Landing has made the others train again (R326) -/
  started : Bool
  retrained : Bool
  deriving DecidableEq, Repr

/-- States of the controller of the test access port (R52; IEEE 1149.1 gives them). -/
inductive TapState
  | testLogicReset
  | runTestIdle
  | selectDr
  | captureDr
  | shiftDr
  | exit1Dr
  | pauseDr
  | exit2Dr
  | updateDr
  | selectIr
  | captureIr
  | shiftIr
  | exit1Ir
  | pauseIr
  | exit2Ir
  | updateIr
  deriving DecidableEq, Repr

/-- The test access port (R52): its pins, TDO with none for high impedance, the controller, and the boundary register as last captured. -/
structure Tap where
  tck : Bool
  tms : Bool
  tdi : Bool
  tdo : Option Bool
  state : TapState
  boundary : List Bool
  deriving DecidableEq, Repr

/-- Pins, domains, clock and boot state (R40–R68, R431–R436). -/
structure Chip where
  variant : Variant
  /-- CCLK cycles of 0.5 ns since the end of the last block reset: `BLK_TIME` = cycle / 2 (R27) -/
  cycle : Nat
  phase : ResetPhase
  coreOn : Bool
  cpOn : Bool
  galOn : Vector Bool 3
  phyOn : Vector Bool 12
  pgCore : Bool
  pgCp : Bool
  pgGal : Vector Bool 3
  pgPhy : Vector Bool 12
  pwrEn : Bool
  pwrGood : Bool
  drstN : Vector Bool 12
  alive : Bool
  /-- firmware has reported ready since the last cold reset, so ALIVE may toggle (R48) -/
  aliveOn : Bool
  thermN : Bool
  /-- STATUS1 held low by a short assertion (R479) -/
  status1Pulse : Bool
  bootsel : Bool
  rootKeyHash : BitVec 384
  fwReady : Bool
  bootErr : BitVec 3
  halted : Bool
  bringup : Bool
  warm : Bool
  /-- an image verified and not yet started: version and slot -/
  verified : Option (W32 × Nat)
  bootBuf : Memory
  /-- code and data SRAM of the Control Processor, as the boot ROM loaded them (R36, R434) -/
  cpCode : Memory
  cpData : Memory
  /-- the always-on domain is out of reset and waits for PG_CP and PG_CORE (R65) -/
  railWait : Bool
  tap : Tap
  imageVersion : W32
  descMid : Bool
  /-- block flights since the end of reset and the tread of the next boundary (R31) -/
  flight : Nat
  nextFlight : Nat
  /-- draws from the free values so far: the model's own field (log entry 9, DESIGN CHOICE) -/
  free : Nat
  nextId : Nat
  deriving DecidableEq, Repr

/-- A request at the CFG port (R56); `counts` is what the mode-register reads of an ECS readout will return. -/
structure CfgReq where
  write : Bool
  addr : Nat
  strb : BitVec 4
  data : W32
  counts : List (Fin 2 × Fin 8 × Fin 10 × Nat × Nat)
  deriving DecidableEq, Repr

/-- A pop that waits for data (R445): of the Arcade or of the Event Queue, the cycle it began, and whether its strobe was partial
(R57). -/
structure Stall where
  arcade : Bool
  began : Nat
  partialStrb : Bool
  deriving DecidableEq, Repr

/-- The CFG port: last response, a pop waiting for data, the requests that wait behind it, 64-bit latches, and the responses in the
order in which they returned, newest first (R56, R445, R535). -/
structure Cfg where
  rdata : W32
  err : Bool
  stalled : Option Stall
  queue : List CfgReq
  latches : Words
  replies : List (W32 × Bool)
  deriving DecidableEq, Repr

/-- Block-wide units of firmware and hardware that are not pages of their own. -/
structure Misc where
  kek : Option (List Byte)
  kekLock : Bool
  debugHall : Option Nat
  tierFenced : Bool
  heat : Sched
  heatIndex : Nat
  cntUserEn : BitVec 8
  aheadWm : Wm
  claims : List ClaimRec
  lastTaken : Nat
  takeCount : Nat
  deferred : List Deferred
  sbdBusy : List SbdJob
  sbdQueue : List SbdJob
  discovery : Discovery
  repairs : List Repair
  /-- accesses of the Control Processor that have not ended; what its last load returned, and whether it ended in an access fault -/
  cpuWork : List CpuWork
  cpuData : BitVec 512
  cpuFault : Bool
  deriving DecidableEq, Repr

/-- What the queries read: the state captured at a tread boundary (R462). -/
structure Shot where
  chip : Chip
  landings : Vector Landing 12
  galleries : Vector Gallery 3
  halls : List (Nat × Hall)
  epochs : List (Nat × Nat)
  windows : List Window
  misc : Misc
  flt : Flt
  deriving DecidableEq, Repr

/-- The block. -/
structure State where
  /-- commands that wait, first in first out -/
  pending : List Instr
  chip : Chip
  cfg : Cfg
  landings : Vector Landing 12
  galleries : Vector Gallery 3
  ports : Vector Port 9
  /-- responses that have left the block, newest first -/
  sent : List Resp
  halls : List (Nat × Hall)
  /-- epochs of hall numbers; an unlisted number has epoch 0 (R364) -/
  epochs : List (Nat × Nat)
  windows : List Window
  /-- pages away from their HOME storage; DRAM content, which a warm reset keeps -/
  away : List PageAt
  ahead : List Ahead
  dma : Vector Dma 8
  desc : Memory
  boxes : Vector Mailbox 9
  eq : EvQueue
  arcade : Arcade
  store : RecStore
  pwr : Pwr
  flt : Flt
  misc : Misc
  /-- counts of block-level units: user pages and tread increments, by CFG address -/
  blk : RegFile
  /-- the state at the last tread boundary, and at the one before the taking of each query that runs, by mailbox -/
  shot : Shot
  shots : List (Nat × Shot)
  deriving DecidableEq, Repr

/-- A watermark that has seen no crossing. -/
def Wm.zero : Wm := { above := false, crossed := false, count := 0 }

/-- A schedule with nothing owed and its first due time at tread 0. -/
def Sched.zero : Sched := { ideal := 0, next := 0, debt := 0, merged := 0 }

/-- A register page at its reset values. -/
def RegFile.zero : RegFile := { regs := [], live := [], cnt := [], inc := [] }

/-- The arbiter at reset (R150). -/
def Arb.reset : Arb :=
  { tiePtr := 0, lock := none, staging := [], losses := Vector.replicate 13 0
    backoff := Vector.replicate 13 none, grantNext := none, dlHist := [], dlNow := 0, rsvLimit := 0
    rsv := Wm.zero, longest := Vector.replicate 13 0, starved := [] }

/-- Geometry not yet fixed (R155). -/
def Geom.none : Geom :=
  { valid := false, mrd := false, dpc2 := false, rankBits := 0, x8 := false, bank4 := false, rowBits := 0
    rate := 0 }

/-- The sequencer at reset: SR until the modules are started (R192). -/
def Seq.reset : Seq :=
  { lstate := .sr, dirA := false, dirB := false, batch := Vector.replicate 2 0, rq := [], wq := []
    hints := [], claims := [], held := [], wrote := [], lockTable := [], hist := [], rows := [], pd := [], idle := []
    inflight := [], checking := [], past := [], planNow := [], planNext := [], planTread := 0, charges := []
    geom := Geom.none, retry := none, quietTo := 0, stillTo := 0, flood := Vector.replicate 2 false
    lastRank := Vector.replicate 2 none, costs := [], hintAge := [] }

/-- The Maintenance Unit at reset; the default refresh flight is 244 treads (R32). -/
def Mnt.reset : Mnt :=
  { ref := Vector.replicate 16 { sched := Sched.zero, partTwo := none, presented := false }
    flight := 244, hot := false, hotNext := false, sameBank := false, raa := [], owedRfm := []
    owedDrfm := [], raaStop := [], drfmRows := [], temp := 0, fail := false, fails := Vector.replicate 2 0, abo := none, aboFlight := 0
    aboWm := Wm.zero, debtWm := Wm.zero, scrub := Sched.zero, scrubOn := false, scrubPos := 0
    scrubOwed := [], zq := Sched.zero, zqOpen := [], zqWaiting := false
    lastWindow := none, winPlan := none, winHold := 0, winRef := false, winFull := false, winScrub := false, scrubWait := false, ecsNext := 0, passHours := 24 }

/-- The PHY macro at reset: DEEP, no table, `NEXT_K` 1, `AGE` Fh (R299). -/
def Phy.reset : Phy :=
  { mode := .deep, setA := 0, setB := 0, strValid := false, slew := false, nextK := 1, began := 0
    accepted := none, measured := false, rejRun := 0, zero := 0, full := 0, lin := [], shape := [], newTable := false
    inForce := [], leaving := [], firstSpan := true
    sched := Sched.zero, running := false, oor := false }

/-- The Calibration Unit at reset (R347). -/
def Cal.reset : Cal :=
  { state := 0, pending := false, cause := 0, rejRun := 0, bootFail := false, failStep := 0
    marginLow := false, rankFail := 0, last := 0, margins := [], run := none, staged := none, aborts := 0
    sched := Sched.zero, tRef := 0, held := Vector.replicate 2 none, rcdWords := [], dramParts := []
    asked := false, woke := false, marginWant := false, marginFence := false, outcome := none, checkOutcome := none, dbDone := [], dbFail := []
    tryStep := 0, tries := 0 }

/-- A Landing that discovery has not reached (R317). -/
def Sbd.reset : Sbd :=
  { reason := 0, started := false, i3c := false
    maxRate := 0, reached := false, waiting := false, hold := false, slots := Vector.replicate 2 none
    failed := false }

def Landing.reset : Landing :=
  { page := RegFile.zero, arb := Arb.reset, seq := Seq.reset, mnt := Mnt.reset, phy := Phy.reset
    cal := Cal.reset, sbd := Sbd.reset, populated := [], conv := [], tchk := 0, refiPend := false, granules := 0
    tokens := 0, drainFrom := none }

def Gallery.reset : Gallery :=
  { page := RegFile.zero, pllLock := false, devCounts := [], erase := [], eccLog := [], eccNext := 0
    eccWrap := false, ceFlight := Vector.replicate 4 0, ceWm := Vector.replicate 4 Wm.zero, leakAt := 0, lostTags := []
    haltSrc := false, haltInfo := 0, haltLpa := 0, haltTime := 0, tagLines := 0, cache := [], fetches := []
    cmpFenced := false, errFlight := 0, errInfo := 0, errPage := 0, dbuf := []
    segs := [], moves := [], demFlight := 0, poolMax := 0, poolExt := [], auxExt := [], pool := [], resv := 0, hot := [], marks := []
    zone := 0, wmLow := Wm.zero, wmCrit := Wm.zero, cntFix := 0, prog := Vector.replicate 8 (0, 0)
    ovf := 0 }

def Port.reset : Port :=
  { state := .closed, ordered := false, req := 0, wrq := 0, cpl := 0, dat := 0, txns := [], seqs := []
    faults := 0 }

/-- A DMA channel at reset: IDLE, `DUE` FFFh, `IRQ_ERR_EN` 1 (R430). -/
def Dma.reset : Dma :=
  { ctl := 0xFFF4, inForce := 0xFFF4, bind := none, head := 0, cur := 0, state := .idle, dbPend := false, irq := 0
    doneBytes := 0, descDone := 0, skipped := 0, doneShown := 0, skipShown := 0, errInfo := 0, errAddr := 0, errSince := false
    run := none, tailDone := false, toStart := false }

def Mailbox.reset : Mailbox :=
  { cmd := [], rsp := [], pay := [], state := .idle, overrun := false, ie := false, pwin := false
    taken := 0, started := false }

/-- The Event Queue at reset: `IRQ_MASK` 3h, stall limit 4,000 ns (R453). -/
def EvQueue.reset : EvQueue :=
  { items := Vector.replicate 4 [], lost := Vector.replicate 4 0, gap := Vector.replicate 4 false
    seq := 0, latch := [], mask := 3, stall := 0x0FA0 }

def Arcade.reset : Arcade :=
  { words := [], base := 0, rptr := 0, pads := [], packets := [], mark := none, overrun := false
    markLost := false, drop := 0, latch := [] }

/-- An empty Record Store: no valid bank (R455). -/
def RecStore.empty : RecStore :=
  { bankA := none, bankB := none, taken := none, items := [], changed := false, lastCommit := none
    cpResets := 0 }

/-- The Power Manager at reset: P0, `WAKE_EN` 07h, `DELAY_MAX` 03E8h (R497). -/
def Pwr.reset : Pwr :=
  { state := .p0, trans := none, pend := none, pendAt := 0, pendSrc := 0, lastWake := 0, resCode := 0, resTarget := 0, resUnit := 0
    resSeq := 0, legacy := false, wakeEn := 0x07, timer := 0, reachedAt := 0, leg := 0x03E8, time := 0, image := false, aon := []
    galWas := Vector.replicate 3 false, phyWas := Vector.replicate 12 false }

/-- The Fault Collector at reset: Managed mode, enables Eh, 10 ms, 1,000 us (R510, R516). -/
def Flt.reset : Flt :=
  { first := Vector.replicate 3 none, ovf := Vector.replicate 3 false, active := Vector.replicate 3 false
    count := Vector.replicate 3 0, irq := 0, en := 0xE, conseq := 0, recoveries := 0, fencesStarted := 0
    service := false, quietMs := 10, aliveUs := 1000, fences := [], levels := [], rowHist := []
    lastReport := Vector.replicate 3 0, heldP3 := none, switched := 0 }

/-- The test access port unused: TCK low and TMS high (R52), the controller in its reset state. -/
def Tap.reset : Tap := { tck := false, tms := true, tdi := true, tdo := none, state := .testLogicReset, boundary := [] }

/-- Pins and boot state after a cold reset of the flagship part: CP and CORE on, ALIVE, PWR_EN and every
DRST_N low (R65). The variant, the sampled straps and the levels of the power-good inputs are the
integrator's (log entries 5 and 6, DESIGN CHOICE). -/
def Chip.reset : Chip :=
  { variant := .hjr12X, cycle := 0, phase := .out, coreOn := true, cpOn := true
    galOn := Vector.replicate 3 false, phyOn := Vector.replicate 12 false, pgCore := true, pgCp := true
    pgGal := Vector.replicate 3 true, pgPhy := Vector.replicate 12 true, pwrEn := false, pwrGood := false
    drstN := Vector.replicate 12 false, alive := false, aliveOn := false, thermN := true, status1Pulse := false
    bootsel := false, rootKeyHash := 0, fwReady := false, bootErr := 0, halted := false, bringup := false
    warm := false, verified := none, bootBuf := [], cpCode := [], cpData := [], railWait := false, tap := Tap.reset, imageVersion := 0, descMid := false, flight := 0
    nextFlight := 244, free := 0, nextId := 0 }

def Cfg.reset : Cfg := { rdata := 0, err := false, stalled := none, queue := [], latches := [], replies := [] }

def Discovery.reset : Discovery :=
  { done := false, waitPower := false, hold := false, cap := 0, mailbox := none
    rates := Vector.replicate 3 0, started := false
    retrained := false }

/-- The heat-decay grid begins at Tread 0 (log entry 104, DESIGN CHOICE: R33 counts a grid from its first due time after reset and
gives none). -/
def Misc.reset : Misc :=
  { kek := none, kekLock := false, debugHall := none, tierFenced := false, heat := Sched.zero
    heatIndex := 0, cntUserEn := 0, aheadWm := Wm.zero, claims := [], lastTaken := 7
    takeCount := 0, deferred := [], sbdBusy := [], sbdQueue := [], discovery := Discovery.reset
    repairs := [], cpuWork := [], cpuData := 0, cpuFault := false }

def Shot.reset : Shot :=
  { chip := Chip.reset, landings := Vector.replicate 12 Landing.reset, galleries := Vector.replicate 3 Gallery.reset
    halls := [], epochs := [], windows := [], misc := Misc.reset, flt := Flt.reset }

/-- The block right after a cold reset (R62, R65), with no command waiting. -/
def State.reset : State :=
  { pending := [], chip := Chip.reset, cfg := Cfg.reset
    landings := Vector.replicate 12 Landing.reset, galleries := Vector.replicate 3 Gallery.reset
    ports := Vector.replicate 9 Port.reset, sent := [], halls := [], epochs := [], windows := []
    away := [], ahead := [], dma := Vector.replicate 8 Dma.reset, desc := [], boxes := Vector.replicate 9 Mailbox.reset
    eq := EvQueue.reset, arcade := Arcade.reset, store := RecStore.empty, pwr := Pwr.reset
    flt := Flt.reset, misc := Misc.reset, blk := RegFile.zero, shot := Shot.reset, shots := [] }

/-- No command of this block stops the machine with a fault: every row of the command table has an effect
or, where its trigger does not hold, none. -/
inductive Fault
  deriving DecidableEq, Repr

/-- Why a command has no meaning. -/
inductive Refusal
  /-- Raised by a row whose meaning is not written; safe, since nothing is claimed of it. -/
  | notModelled (mnemonic : String)
  deriving DecidableEq, Repr

end Sys2Proof.Machine
end

