-- ==== Sys2Proof/Machine/Bits.lean ====
section
/-! DEFINITION. Bit fields, sparse words, byte memory, byte order and the list helpers of the model. -/

namespace Sys2Proof.Machine

/-- Bits [hi:lo] of a word. -/
def fld (w : W32) (hi lo : Nat) : Nat := (w.toNat >>> lo) % 2 ^ (hi + 1 - lo)

/-- A word with value `v` placed at bit `lo`. -/
def at_ (lo v : Nat) : W32 := BitVec.ofNat 32 (v <<< lo)

/-- One bit as a number. -/
def b2n (b : Bool) : Nat := if b then 1 else 0

/-- The word whose bits are those of `new` under `mask` and those of `old` elsewhere. -/
def mergeMask (mask old new : W32) : W32 := (old &&& ~~~mask) ||| (new &&& mask)

/-- The word listed at an offset, or the default `d`. -/
def getW (d : W32) : Words → Nat → W32
  | [], _ => d
  | (k, v) :: m, a => if a < k then d else if a = k then v else getW d m a

/-- Insert or replace a word in a rising list; a word equal to the default is not listed. -/
def setW (d : W32) : Words → Nat → W32 → Words
  | [], a, v => if v = d then [] else [(a, v)]
  | (k, w) :: m, a, v =>
    if a < k then (if v = d then (k, w) :: m else (a, v) :: (k, w) :: m)
    else if a = k then (if v = d then m else (a, v) :: m)
    else (k, w) :: setW d m a v

/-- The byte at an address; an unlisted byte reads 00h. -/
def readByte : Memory → Nat → Byte
  | [], _ => 0
  | (k, v) :: m, a => if a < k then 0 else if a = k then v else readByte m a

/-- Write one byte, keeping the canonical form. -/
def writeByte : Memory → Nat → Byte → Memory
  | [], a, v => if v = 0 then [] else [(a, v)]
  | (k, w) :: m, a, v =>
    if a < k then (if v = 0 then (k, w) :: m else (a, v) :: (k, w) :: m)
    else if a = k then (if v = 0 then m else (a, v) :: m)
    else (k, w) :: writeByte m a v

/-- Addresses strictly rising above `lo`, and no listed byte 00h. -/
def wfFrom (lo : Nat) : Memory → Bool
  | [] => true
  | (k, v) :: m => decide (lo ≤ k) && decide (v ≠ 0) && wfFrom (k + 1) m

/-- The canonical form of a byte memory. -/
def Memory.wf (m : Memory) : Bool := wfFrom 0 m

/-- Write bytes at rising addresses. -/
def writeBytes (m : Memory) (a : Nat) : List Byte → Memory
  | [] => m
  | b :: bs => writeBytes (writeByte m a b) (a + 1) bs

/-- `n` bytes from an address. -/
def readBytes (m : Memory) (a n : Nat) : List Byte := (List.range n).map fun i => readByte m (a + i)

/-- A little-endian word of a byte memory (R437). -/
def readWord (m : Memory) (a : Nat) : W32 :=
  readByte m (a + 3) ++ readByte m (a + 2) ++ readByte m (a + 1) ++ readByte m a

/-- The four bytes of a word, least significant first. -/
def wordBytes (w : W32) : List Byte :=
  [w.extractLsb' 0 8, w.extractLsb' 8 8, w.extractLsb' 16 8, w.extractLsb' 24 8]

/-- `n` little-endian bytes of a number. -/
def leBytes (n v : Nat) : List Byte := (List.range n).map fun i => BitVec.ofNat 8 (v / 256 ^ i)

/-- The number that little-endian bytes spell. -/
def leNat : List Byte → Nat
  | [] => 0
  | b :: bs => b.toNat + 256 * leNat bs

/-- The number that big-endian bytes spell. -/
def beNat (bs : List Byte) : Nat := leNat bs.reverse

/-- `n` big-endian bytes of a number. -/
def beBytes (n v : Nat) : List Byte := (leBytes n v).reverse

/-- The 64 bytes of a line, byte 0 first (R70). -/
def lineBytes (x : BitVec 512) : List Byte := (List.range 64).map fun i => x.extractLsb' (8 * i) 8

/-- The line that bytes spell, byte 0 first; missing bytes are 00h. -/
def bytesLine (bs : List Byte) : BitVec 512 := BitVec.ofNat 512 (leNat bs)

/-- The positions of set bits, rising. -/
def setBits {n : Nat} (w : BitVec n) : List Nat := (List.range n).filter fun i => w.getLsbD i

/-- Look a key up in an association list. -/
def lookupN {α : Type} (m : List (Nat × α)) (k : Nat) : Option α := (m.find? fun e => e.1 = k).map (·.2)

/-- Replace or insert an entry in a list kept in rising key order. -/
def putN {α : Type} : List (Nat × α) → Nat → α → List (Nat × α)
  | [], k, v => [(k, v)]
  | (j, w) :: m, k, v =>
    if k < j then (k, v) :: (j, w) :: m else if k = j then (k, v) :: m else (j, w) :: putN m k v

/-- Remove an entry. -/
def dropN {α : Type} (m : List (Nat × α)) (k : Nat) : List (Nat × α) := m.filter fun e => e.1 ≠ k

/-- Ceiling of a quotient; 0 for a divisor of 0. -/
def cdiv (a b : Nat) : Nat := if b = 0 then 0 else (a + b - 1) / b

/-- The least multiple of `n` not below `a`. -/
def roundUp (a n : Nat) : Nat := if n = 0 then a else cdiv a n * n

/-- A count register that saturates at FFFF_FFFFh. -/
def satInc (w : W32) : W32 := if w = 0xFFFFFFFF then w else w + 1

/-- Replace the elements that satisfy `p`. -/
def mapIf {α : Type} (p : α → Bool) (f : α → α) (l : List α) : List α := l.map fun x => if p x then f x else x

end Sys2Proof.Machine
end

