-- ==== Sys2Proof/Machine/RegMap.lean ====
section
/-! DEFINITION. The words of the Gallery and Landing pages that software writes: their reset values, the
bits that are RWL, and what a write leaves under each register's own rules (R10, R205, R244, R298, R347,
R409), with the timing rule table of R199. -/

namespace Sys2Proof.Machine

/-- A row of the table of R199: unit (0 ps, 1 ns, 2 CK only), `VAL` range, `NCK` range, reset values. -/
structure RuleRow where
  unit : Nat
  vLo : Nat
  vHi : Nat
  nLo : Nat
  nHi : Nat
  v0 : Nat
  n0 : Nat
  deriving DecidableEq, Repr

/-- Rules of R199 in offset order, from 800h. -/
def ruleRows : List RuleRow :=
  [ ⟨0, 8000, 40000, 0, 255, 16000, 0⟩, ⟨0, 8000, 40000, 0, 255, 16000, 0⟩
  , ⟨0, 16000, 65535, 0, 255, 32000, 0⟩, ⟨0, 24000, 65535, 0, 255, 48000, 0⟩
  , ⟨0, 0, 20000, 1, 255, 0, 8⟩, ⟨0, 0, 20000, 1, 255, 5000, 8⟩
  , ⟨0, 0, 40000, 1, 255, 0, 32⟩, ⟨0, 0, 20000, 8, 255, 0, 8⟩
  , ⟨0, 0, 20000, 8, 255, 5000, 8⟩, ⟨0, 0, 20000, 8, 255, 0, 8⟩
  , ⟨0, 0, 40000, 8, 255, 10000, 16⟩, ⟨0, 0, 20000, 0, 255, 2500, 4⟩
  , ⟨0, 0, 40000, 0, 255, 10000, 16⟩, ⟨0, 0, 20000, 0, 255, 7500, 12⟩
  , ⟨0, 10000, 60000, 0, 255, 30000, 0⟩, ⟨0, 0, 0, 1, 15, 0, 2⟩ ] ++
  [ ⟨2, 0, 0, 0, 15, 0, 2⟩, ⟨2, 0, 0, 0, 15, 0, 2⟩, ⟨2, 0, 0, 0, 15, 0, 3⟩
  , ⟨2, 0, 0, 0, 15, 0, 2⟩, ⟨2, 0, 0, 0, 15, 0, 3⟩
  , ⟨1, 100, 1000, 0, 255, 295, 0⟩, ⟨1, 60, 400, 0, 255, 115, 0⟩
  , ⟨1, 100, 1000, 0, 255, 295, 0⟩, ⟨1, 60, 400, 0, 255, 115, 0⟩
  , ⟨1, 100, 1000, 0, 255, 295, 0⟩, ⟨1, 60, 400, 0, 255, 115, 0⟩
  , ⟨1, 1000, 3906, 0, 0, 3900, 0⟩, ⟨0, 0, 20000, 0, 255, 7500, 8⟩
  , ⟨0, 0, 20000, 0, 255, 7500, 8⟩, ⟨1, 110, 1100, 0, 255, 305, 0⟩
  , ⟨1, 500, 2000, 0, 255, 1000, 0⟩, ⟨1, 10, 100, 0, 255, 30, 8⟩
  , ⟨0, 0, 40000, 0, 255, 14000, 16⟩, ⟨0, 0, 65535, 0, 255, 10000, 32⟩
  , ⟨2, 0, 0, 1, 255, 0, 48⟩ ]

/-- The rule register at an offset of a Landing page, if it is one (R199). -/
def ruleAt (off : Nat) : Option RuleRow :=
  if 0x800 ≤ off ∧ off < 0x890 ∧ off % 4 = 0 then ruleRows[(off - 0x800) / 4]? else none

/-- Is an offset a timing rule register or `SEQ_T_LAT`. -/
def isTiming (off : Nat) : Bool := (ruleAt off).isSome || off == 0x8C0

/-- The word that holds `VAL`, `NCK` and `UNIT` (R193). -/
def ruleWord (unit v n : Nat) : W32 := at_ 0 v ||| at_ 16 n ||| at_ 24 unit

/-- RWL bits of a rule register: `VAL` reads 0 and ignores writes when `UNIT` = 10b (R193); the `NCK` of
SEQ_T_REFI ignores writes (R197), and so does a field the table fixes at 0. -/
def ruleMask (r : RuleRow) : W32 :=
  (if r.unit = 2 ∨ r.vHi = 0 then 0 else 0xFFFF) ||| (if r.nHi = 0 then 0 else 0xFF0000)

/-- Offset of SEQ_T_REFI. -/
def offRefi : Nat := 0x86C

/-- Ranges of R199 on the whole word written. -/
def ruleOk (r : RuleRow) (w : W32) : Bool :=
  let v := fld w 15 0
  let n := fld w 23 16
  (decide (r.unit = 2 ∨ r.vHi = 0) || (decide (r.vLo ≤ v) && decide (v ≤ r.vHi))) &&
  (decide (r.nHi = 0) || (decide (r.nLo ≤ n) && decide (n ≤ r.nHi)))

/-- Offset of a word of a delay set. -/
def setOff (sub rank o : Nat) : Nat := 0x1800 + 0x1000 * sub + 0x200 * rank + o

/-- Is a Landing-page offset a per-rank delay-set register, and which one: (subchannel, rank, offset in
the set) (R299). -/
def setReg (off : Nat) : Option (Nat × Nat × Nat) :=
  if 0x1800 ≤ off ∧ off < 0x3800 ∧ (off - 0x1800) % 0x200 < 0x16C ∧ off % 4 = 0 then
    some ((off - 0x1800) / 0x1000, (off - 0x1800) / 0x200 % 8, (off - 0x1800) % 0x200)
  else none

/-- Reset value of a read-write word of a Landing page. -/
def landDefault (off : Nat) : W32 :=
  match ruleAt off with
  | some r => ruleWord r.unit r.v0 r.n0
  | none =>
    if off = 0x000 then 0x3C191000 else if off = 0x400 then 0x0010044E else if off = 0x404 then 0x1030
    else if off = 0x40C then 0x00034020 else if off = 0x600 then 0x2800 else if off = 0x610 then 0x02028020
    else if off = 0x614 then 0x8 else if off = 0x618 then 0xB4 else if off = 0x61C then 0x400000
    else if off = 0x628 then 0x08010100 else if off = 0x62C then 0x01001000
    else if off = 0x638 then 0x40000 else if off = 0x63C then 0x000F43D1
    else if off = 0x8C0 then 0x2729 else if off = 0x1000 then 0x0C1F else if off = 0x1008 then 0x18
    else if off = 0x1010 then 0x4040 else if off = 0x3800 then 0x0449 else if off = 0x3808 then 0x4
    else if off = 0x380C then 0x0A08
    else match setReg off with
      | some (_, _, o) => if 0x0A0 ≤ o ∧ o < 0x140 then 0x50 else 0
      | none => 0

/-- RWL bits of a word of a Landing page (R10). -/
def landMask (off : Nat) : W32 :=
  match ruleAt off with
  | some r => ruleMask r
  | none =>
    if off = 0x000 then 0x7FFFFF01 else if 0x010 ≤ off ∧ off < 0x030 ∧ off % 4 = 0 then 0x1FFF
    else if off = 0x400 then 0x00FFFFFF else if off = 0x404 then 0x7F7F else if off = 0x40C then 0xFFFFF
    else if off = 0x600 then 0xFFFF else if off = 0x610 then 0x7FFFFFFF else if off = 0x614 then 0xF
    else if off = 0x618 then 0x3FFFF else if off = 0x61C then 0xFFFFFF else if off = 0x628 then 0x3FFFFFFF
    else if off = 0x62C then 0xFFFFFF00 else if off = 0x638 then 0xFF0000 else if off = 0x63C then 0x7FFFFF
    else if off = 0x8C0 then 0xFFFF else if off = 0x1000 then 0x3F7F else if off = 0x1008 then 0xFF
    else if off = 0x1010 then 0x7F7F else if off = 0x3800 then 0xFFFD else if off = 0x3808 then 0xFF
    else if off = 0x380C then 0xFFFF
    else if (0x1300 ≤ off ∧ off < 0x1328 ∨ 0x1340 ≤ off ∧ off < 0x1368 ∨ off = 0x1380 ∨ off = 0x1384) ∧
        off % 4 = 0 then 0xFFFF
    else match setReg off with
      | some (_, _, o) =>
        if o < 0x0A0 then 0xFFFFFFFF else if o < 0x140 then 0x3FFFFFFF else if o < 0x168 then 0xFFFFFFFF
        else 0x7F
      | none => 0

/-- A field keeps its old value when `bad` holds of the new one. -/
def keepField (hi lo : Nat) (bad : Nat → Bool) (old new : W32) : W32 :=
  if bad (fld new hi lo) then
    mergeMask (BitVec.ofNat 32 ((2 ^ (hi + 1 - lo) - 1) * 2 ^ lo)) new old
  else new

/-- Pacing of R243 and R395: a period in 1 to 4 block flights of `bf` treads, a pull-in of at most half of
it and a floor from a quarter of it to the whole, in treads. -/
def paceOk (bf : Nat) (w : W32) : Bool :=
  let p := fld w 2 0
  let pull := fld w 12 3
  let floor := fld w 22 13
  decide (1 ≤ p) && decide (p ≤ 4) && decide (2 * pull ≤ p * bf) && decide (p * bf ≤ 4 * floor) &&
    decide (floor ≤ p * bf)

/-- What a write of `new` (masked already) leaves in a word of a Landing page that holds `old`: the rules
of R150, R192, R205, R244, R298, R299 and R347. `bf` is the block flight in treads. -/
def landResult (bf off : Nat) (old new : W32) : W32 :=
  let whole (ok : Bool) : W32 := if ok then new else old
  match ruleAt off with
  | some r => whole (ruleOk r new)
  | none =>
    if off = 0x000 then
      keepField 15 8 (fun v => v == 0) old (keepField 30 24 (fun v => v < 10 || v > 90) old new)
    else if off = 0x400 then
      keepField 1 0 (fun v => v == 3) old (keepField 7 4 (fun v => v == 0) old
        (keepField 15 8 (fun v => v == 0) old new))
    else if off = 0x404 then
      whole (decide (fld new 6 0 ≤ 63) && decide (fld new 14 8 < fld new 6 0))
    else if off = 0x40C then keepField 19 16 (fun v => v == 0) old new
    else if off = 0x600 then
      whole (decide (fld new 1 0 < 2) && decide (fld new 7 6 < 3) && decide (35 ≤ fld new 15 8))
    else if off = 0x610 then whole (decide (1 ≤ fld new 9 0) && decide (fld new 9 0 < fld new 19 10))
    else if off = 0x614 then whole (decide (4 ≤ fld new 3 0) && decide (fld new 3 0 ≤ 12))
    else if off = 0x618 then
      whole (decide (16 ≤ fld new 7 0) && decide (fld new 15 8 + 16 ≤ fld new 7 0) &&
        decide (fld new 17 16 < 3))
    else if off = 0x61C then whole (decide (1 ≤ fld new 23 16))
    else if off = 0x628 then
      let p := fld new 9 0
      whole (decide (64 ≤ p) && decide (2 * fld new 19 10 ≤ p) && decide (p ≤ 4 * fld new 29 20) &&
        decide (fld new 29 20 ≤ p))
    else if off = 0x62C then whole (decide (1 ≤ fld new 15 8))
    else if off = 0x63C then whole (paceOk bf new)
    else if off = 0x8C0 then
      whole (decide (20 ≤ fld new 7 0) && decide (16 ≤ fld new 15 8) && decide (fld new 15 8 < fld new 7 0))
    else if off = 0x1000 then whole (decide (fld new 6 4 ≤ 2) && decide (fld new 13 11 ≤ 2))
    else if off = 0x1008 then whole (decide (24 ≤ fld new 7 0) && decide (fld new 7 0 ≤ 64))
    else if off = 0x1010 then
      whole (decide (20 ≤ fld new 6 0) && decide (fld new 6 0 ≤ 107) && decide (20 ≤ fld new 14 8) &&
        decide (fld new 14 8 ≤ 107))
    else if off = 0x3800 then whole (decide (1 ≤ fld new 7 4) && decide (1 ≤ fld new 15 8))
    else if off = 0x3808 then whole (decide (1 ≤ fld new 7 0) && decide (fld new 7 0 ≤ 20))
    else if off = 0x380C then
      whole (decide (2 ≤ fld new 7 0) && decide (fld new 7 0 ≤ 40) && decide (4 ≤ fld new 15 8) &&
        decide (fld new 15 8 ≤ 60))
    else match setReg off with
      | some (_, _, o) =>
        if 0x0A0 ≤ o ∧ o < 0x140 then
          whole (decide (fld new 7 0 ≤ 200) && decide (fld new 14 8 ≠ 64) && decide (fld new 19 15 ≠ 16) &&
            decide (fld new 24 20 ≠ 16) && decide (fld new 29 25 ≠ 16))
        else if o = 0x168 then whole (decide (fld new 2 0 + fld new 6 3 ≤ 15))
        else new
      | none => new

/-- Words that a periodic run may change (R318): DQ delays, references and read gates. -/
def periodicWord (off : Nat) : Bool :=
  match setReg off with
  | some (_, _, o) => decide (o < 0x168)
  | none => false

/-- The part of a word that a periodic run changes. -/
def periodicMerge (off : Nat) (old new : W32) : W32 :=
  match setReg off with
  | some (_, _, o) => if o < 0xA0 then new else if o < 0x140 then mergeMask 0xFF old new else mergeMask 0xFFFF0000 old new
  | none => old

/-- The fields that step `k` of R331 finds: read gates, then receive delays, receive references and transmit delays. -/
def stepMask (k off : Nat) : W32 :=
  match setReg off with
  | some (_, _, o) =>
    if o < 0xA0 then (if 2 ≤ k ∧ k < 6 then 0xFFFF0000 else if 8 ≤ k then 0xFFFF else 0)
    else if o < 0x140 then (if 6 ≤ k ∧ k < 8 then 0xFF else 0)
    else if k < 2 then 0xFFFF0000 else 0
  | none => 0

/-- Reset value of a read-write word of a Gallery's common page. -/
def galDefault (off : Nat) : W32 :=
  if off = 0x2000 then 0x01101000 else if 0x2040 ≤ off ∧ off < 0x2050 ∧ off % 4 = 0 then 0x400000
  else if off = 0x4000 then 3 else if off = 0x5000 then 0x00191047 else if off = 0x5004 then 0x1004
  else if off = 0x5008 then 0x000F41E9 else if off = 0x501C then 0x10000 else if off = 0x5020 then 0x4000
  else 0

/-- RWL bits of a word of a Gallery's common page. -/
def galMask (off : Nat) : W32 :=
  if off = 0x2000 then 0x01FFFF01 else if 0x2040 ≤ off ∧ off < 0x2050 ∧ off % 4 = 0 then 0xFF0000
  else if off = 0x4000 then 3 else if off = 0x5000 then 0x001FFFF7 else if off = 0x5004 then 0xFFFF
  else if off = 0x5008 then 0x7FFFFF else if off = 0x501C ∨ off = 0x5020 then 0xFFFFFFFF else 0

/-- What a write leaves in a word of a Gallery's common page (R270, R391, R409); `low` and `crit` are the
present TIER_LOW and TIER_CRIT. -/
def galResult (bf : Nat) (low crit : W32) (off : Nat) (old new : W32) : W32 :=
  let whole (ok : Bool) : W32 := if ok then new else old
  if off = 0x2000 then
    keepField 15 8 (fun v => v == 0) old (keepField 23 16 (fun v => v == 0) old new)
  else if off = 0x5000 then
    whole (decide (fld new 7 4 ≤ 10) && decide (9 ≤ fld new 20 17))
  else if off = 0x5004 then
    whole (decide (1 ≤ fld new 7 0) && decide (fld new 7 0 ≤ 32) && decide (1 ≤ fld new 15 8))
  else if off = 0x5008 then whole (paceOk bf new)
  else if off = 0x501C then whole (decide (crit.toNat ≤ new.toNat))
  else if off = 0x5020 then whole (decide (new.toNat ≤ low.toNat))
  else new

/-- The Tier Engine words that are block-wide (R409). -/
def tierShared (off : Nat) : Bool := off == 0x5000 || off == 0x5004 || off == 0x5008

end Sys2Proof.Machine
end

