-- ==== Sys2Proof/Machine/Ops.lean ====
section
/-! DEFINITION. The named operations over the block's state that every family uses: units by number, time,
words in force, counters, Event Queue posts, the fault history, deferred changes and mailbox completion. -/

namespace Sys2Proof.Machine

/-- What a meaning answers. -/
abbrev Out := Host.Outcome State Fault Refusal

/-! ## Units by number -/

def State.land (s : State) (l : Nat) : Landing := (s.landings[l]?).getD Landing.reset
def State.gal (s : State) (g : Nat) : Gallery := (s.galleries[g]?).getD Gallery.reset
def State.port (s : State) (p : Nat) : Port := (s.ports[p]?).getD Port.reset
def State.ch (s : State) (n : Nat) : Dma := (s.dma[n]?).getD Dma.reset
def State.box (s : State) (m : Nat) : Mailbox := (s.boxes[m]?).getD Mailbox.reset

def State.setLand (s : State) (l : Nat) (x : Landing) : State :=
  { s with landings := s.landings.setIfInBounds l x }
def State.setGal (s : State) (g : Nat) (x : Gallery) : State :=
  { s with galleries := s.galleries.setIfInBounds g x }
def State.setPort (s : State) (p : Nat) (x : Port) : State :=
  { s with ports := s.ports.setIfInBounds p x }
def State.setCh (s : State) (n : Nat) (x : Dma) : State := { s with dma := s.dma.setIfInBounds n x }
def State.setBox (s : State) (m : Nat) (x : Mailbox) : State :=
  { s with boxes := s.boxes.setIfInBounds m x }

def State.modLand (s : State) (l : Nat) (f : Landing → Landing) : State := s.setLand l (f (s.land l))
def State.modGal (s : State) (g : Nat) (f : Gallery → Gallery) : State := s.setGal g (f (s.gal g))
def State.modPort (s : State) (p : Nat) (f : Port → Port) : State := s.setPort p (f (s.port p))
def State.modCh (s : State) (n : Nat) (f : Dma → Dma) : State := s.setCh n (f (s.ch n))
def State.modBox (s : State) (m : Nat) (f : Mailbox → Mailbox) : State := s.setBox m (f (s.box m))

def State.modArb (s : State) (l : Nat) (f : Arb → Arb) : State :=
  s.modLand l fun x => { x with arb := f x.arb }
def State.modSeq (s : State) (l : Nat) (f : Seq → Seq) : State :=
  s.modLand l fun x => { x with seq := f x.seq }
def State.modMnt (s : State) (l : Nat) (f : Mnt → Mnt) : State :=
  s.modLand l fun x => { x with mnt := f x.mnt }
def State.modPhy (s : State) (l : Nat) (f : Phy → Phy) : State :=
  s.modLand l fun x => { x with phy := f x.phy }
def State.modCal (s : State) (l : Nat) (f : Cal → Cal) : State :=
  s.modLand l fun x => { x with cal := f x.cal }
def State.modSbd (s : State) (l : Nat) (f : Sbd → Sbd) : State :=
  s.modLand l fun x => { x with sbd := f x.sbd }
def State.modChip (s : State) (f : Chip → Chip) : State := { s with chip := f s.chip }
def State.modMisc (s : State) (f : Misc → Misc) : State := { s with misc := f s.misc }
def State.modPwr (s : State) (f : Pwr → Pwr) : State := { s with pwr := f s.pwr }
def State.modFlt (s : State) (f : Flt → Flt) : State := { s with flt := f s.flt }

/-- Every number below `n`, in rising order, applied to the state. -/
def eachBelow (n : Nat) (f : Nat → State → State) (s : State) : State :=
  (List.range n).foldl (fun t i => f i t) s

/-! ## Variants (R4–R6) -/

def Variant.galleries : Variant → Nat
  | .hjr12X => 3
  | .hjr12S => 3
  | .hjr8S => 2
  | .hjr8B => 2
def Variant.cipher : Variant → Bool
  | .hjr8B => false
  | _ => true
def Variant.cmpTier : Variant → Bool
  | .hjr12X => true
  | _ => false
def Variant.dmaCh : Variant → Nat
  | .hjr8B => 4
  | _ => 8
def Variant.code : Variant → Nat
  | .hjr12X => 1
  | .hjr12S => 2
  | .hjr8S => 3
  | .hjr8B => 4

/-- Present Landings: four in each present Gallery, numbered without gaps (R4). -/
def State.nLand (s : State) : Nat := 4 * s.chip.variant.galleries
def State.nGal (s : State) : Nat := s.chip.variant.galleries

/-- `BLK_CAPS` (R5). -/
def State.caps (s : State) : W32 :=
  at_ 0 (2 ^ s.nGal - 1) ||| at_ 3 (b2n s.chip.variant.cipher) ||| at_ 4 (b2n s.chip.variant.cmpTier) |||
    at_ 8 s.chip.variant.dmaCh

/-- `BLK_VERSION` of this manual (R1). -/
def blkVersion : W32 := 0x02030000

/-! ## Time (R27, R28, R31) -/

/-- `BLK_TIME` in ns. -/
def State.now (s : State) : Nat := s.chip.cycle / 2
/-- The present tread: 32 CCLK cycles, 16 ns. -/
def State.tread (s : State) : Nat := s.chip.cycle / 32

/-- CCLK does not run, and the always-on domain counts `BLK_TIME` in steps of 10 ns, 20 CCLK cycles (R27). -/
def State.slowClock (s : State) : Bool := s.pwr.state == .p3 && !s.chip.coreOn

/-- One CCLK cycle passes with no command waiting (log entry 2, DESIGN CHOICE). In P3 the clock is the always-on one, whose
step is 10 ns (R27); in P4, with a reset held or the CP domain off, time stands. -/
def idleCycle (s : State) : State :=
  if s.chip.phase = .cold ∨ ¬ s.chip.cpOn ∧ s.pwr.state ≠ .p3 ∨ s.pwr.state = .p4 then s
  else s.modChip fun c => { c with cycle := c.cycle + (if s.slowClock then 20 else 1) }

/-- The clock at the next tread boundary: the boundary itself, or on the slow clock the first step at or past it. -/
def State.nextBoundary (s : State) : Nat :=
  let c := s.chip.cycle
  let b := (c / 32 + 1) * 32
  if s.slowClock then c + (b - c + 19) / 20 * 20 else b

/-- CP and CORE are switched on, and the reset ends (R65). -/
def Chip.start (c : Chip) : Chip := { c with phase := .out, coreOn := true, cpOn := true, cycle := 0, railWait := false }

/-! ## Words in force and as written -/

/-- The page a Landing-page word lives in: SEQ_T_REFI is one block-wide register, PHY_PLL one per Gallery
(R197, R275). -/
def homeLand (l off : Nat) : Nat := if off = offRefi then 0 else if off = 0x1008 then l / 4 * 4 else l

/-- A Landing-page word as last written. -/
def State.lw (s : State) (l off : Nat) : W32 :=
  getW (landDefault off) (s.land (homeLand l off)).page.regs off
/-- A Landing-page word in force (R30). -/
def State.lv (s : State) (l off : Nat) : W32 :=
  getW (landDefault off) (s.land (homeLand l off)).page.live off
def homeGal (g off : Nat) : Nat := if tierShared off then 0 else g
/-- A Gallery-page word as last written. -/
def State.gw (s : State) (g off : Nat) : W32 :=
  getW (galDefault off) (s.gal (homeGal g off)).page.regs off
/-- A Gallery-page word in force. -/
def State.gv (s : State) (g off : Nat) : W32 :=
  getW (galDefault off) (s.gal (homeGal g off)).page.live off

def RegFile.write (r : RegFile) (d : W32) (off : Nat) (v : W32) : RegFile :=
  { r with regs := setW d r.regs off v }
/-- Write a word and put it in force at once (a commit at a boundary, firmware at start). -/
def RegFile.load (r : RegFile) (d : W32) (off : Nat) (v : W32) : RegFile :=
  { r with regs := setW d r.regs off v, live := setW d r.live off v }

/-- Store a Landing-page word; it comes into force at the next tread boundary. -/
def State.putLand (s : State) (l off : Nat) (v : W32) : State :=
  s.modLand (homeLand l off) fun x => { x with page := x.page.write (landDefault off) off v }
def State.loadLand (s : State) (l off : Nat) (v : W32) : State :=
  s.modLand (homeLand l off) fun x => { x with page := x.page.load (landDefault off) off v }
def State.putGal (s : State) (g off : Nat) (v : W32) : State :=
  s.modGal (homeGal g off) fun x => { x with page := x.page.write (galDefault off) off v }

/-- The block flight in treads: tREFI / 16 to the nearest tread, an exact half down (R197). -/
def flightOf (w : W32) : Nat := (fld w 15 0 + 7) / 16
def State.blockFlight (s : State) : Nat := flightOf (s.lv 0 offRefi)
/-- The flight that the tREFI as written gives, which bounds pacing writes. -/
def State.flightWritten (s : State) : Nat := flightOf (s.lw 0 offRefi)

/-! ## Counters (R30, R151, R518) -/

/-- Add to a count that shows its increments at the next tread boundary. -/
def RegFile.bump (r : RegFile) (off n : Nat) : RegFile :=
  { r with inc := setW 0 r.inc off (getW 0 r.inc off + BitVec.ofNat 32 n) }
def State.bumpL (s : State) (l off n : Nat) : State :=
  s.modLand l fun x => { x with page := x.page.bump off n }
def State.bumpG (s : State) (g off n : Nat) : State :=
  s.modGal g fun x => { x with page := x.page.bump off n }
/-- Count an event of a block-level unit, keyed by CFG address. -/
def State.bumpB (s : State) (a n : Nat) : State := { s with blk := s.blk.bump a n }

/-- The tread-boundary advance of a page's counts: each shown count takes its increments modulo 2^32, and
the written words come into force. -/
def RegFile.boundary (r : RegFile) : RegFile :=
  { regs := r.regs, live := r.regs
    cnt := r.inc.foldl (fun m e => setW 0 m e.1 (getW 0 m e.1 + e.2)) r.cnt, inc := [] }

/-! ## Watermarks (R525, R526) -/

/-- Evaluate a watermark: a crossing is a condition that newly holds. -/
def Wm.eval (w : Wm) (cond : Bool) : Wm :=
  if cond && !w.above then { above := true, crossed := true, count := min 255 (w.count + 1) }
  else { w with above := cond }
/-- A crossing counted whatever `ABOVE` was (CNT_AHEAD_WM, R527). -/
def Wm.hit (w : Wm) : Wm := { above := true, crossed := true, count := min 255 (w.count + 1) }
/-- Writing 1 to CROSSED clears CROSSED and COUNT. -/
def Wm.clear (w : Wm) : Wm := { w with crossed := false, count := 0 }
/-- The register word of a watermark, without its LIMIT. -/
def Wm.word (w : Wm) : W32 := at_ 0 (b2n w.above) ||| at_ 1 (b2n w.crossed) ||| at_ 8 w.count

/-! ## Periodic work (R33, R34) -/

/-- The due time of the next instance of a kind when one starts: R33, in treads. -/
def schedStart (period pull floor start : Nat) (c : Sched) : Sched :=
  let served := c.merged + 1
  let lag := start - c.ideal
  let shorten := min lag pull
  let next := start + max (period - shorten) floor
  let ideal := c.ideal + served * period
  { ideal := ideal, next := max next ideal, debt := c.debt - 1, merged := 0 }

/-- Grid due times that have passed by tread `t` since the oldest owed instance, beyond those the debt
already counts; each raises the debt of a kind without coalescing. -/
def schedPass (period t : Nat) (c : Sched) : Nat :=
  if period = 0 ∨ t < c.ideal then 0 else (t - c.ideal) / period + 1

/-- Bring the debt of a non-coalescing kind up to tread `t` (R34). -/
def schedOwe (period t : Nat) (c : Sched) : Sched := { c with debt := schedPass period t c }

/-- Bring the debt of a coalescing kind with cap `cap` up to tread `t` (R34): each time the debt reaches the cap, every owed
instance is merged into the oldest and the debt stands at 1; with a cap of 1 each further grid time is merged. Answers the schedule
and the instances newly merged. -/
def schedMerge (period cap t : Nat) (c : Sched) : Sched × Nat :=
  let owed := schedPass period t c - c.merged
  if owed < cap ∨ owed ≤ 1 then ({ c with debt := owed }, 0)
  else
    let k := if cap ≤ 1 then owed - 1 else (cap - 1) * ((owed - cap) / (cap - 1) + 1)
    ({ c with debt := owed - k, merged := c.merged + k }, k)

/-- Add to the amount that stands beside a key, at the end of the list if it is new. -/
def addAt (m : List (Nat × Nat)) (k n : Nat) : List (Nat × Nat) :=
  if m.any fun e => e.1 == k then mapIf (fun e => e.1 == k) (fun e => (e.1, e.2 + n)) m else m ++ [(k, n)]

/-! ## Claims (R478) -/

def State.claimOf (s : State) (res which : Nat) : Option ClaimRec :=
  s.misc.claims.find? fun c => c.res == res && c.which == which

/-- A claimed function of STATUS1 is asserted: it is held low for at least 1 µs, until `STATUS1_PULSE_END`
(R479). -/
def State.status1Hold (s : State) (code : Nat) : State :=
  match s.claimOf 0 0 with
  | some c => if c.param = code then s.modChip fun c => { c with status1Pulse := true } else s
  | none => s

/-! ## Event Queue (R442–R446) -/

/-- The words of an item (R442). -/
def EqItem.words (e : EqItem) : List W32 :=
  [at_ 0 e.type ||| at_ 8 e.prio ||| at_ 10 (b2n e.lost) ||| at_ 16 e.seq.toNat, BitVec.ofNat 32 e.time,
    BitVec.ofNat 32 (e.time / 2 ^ 32)] ++ (e.data ++ List.replicate 5 0).take 5

/-- The oldest item of the most urgent priority that holds one (R443). -/
def EvQueue.urgent (q : EvQueue) : Option (Nat × EqItem) :=
  ((List.range 4).find? fun p => !((q.items[p]?).getD []).isEmpty).bind fun p =>
    (((q.items[p]?).getD []).head?).map fun e => (p, e)

/-- A pop: word 0 is the answer, words 1 to 7 are latched (R443). An empty queue answers EMPTY and latches zeros. -/
def State.popEvent (s : State) : W32 × State :=
  match s.eq.urgent with
  | some (p, e) =>
    let q := s.eq
    (e.words.getD 0 0, { s with eq := { q with items := q.items.setIfInBounds p (((q.items[p]?).getD []).drop 1), latch := e.words.drop 1 } })
  | none => (0, { s with eq := { s.eq with latch := [] } })

/-- CFG answers a request (R56). -/
def Cfg.answer (c : Cfg) (data : W32) (err : Bool) : Cfg := { c with rdata := data, err := err, replies := (data, err) :: c.replies }
def State.cfgReply (s : State) (data : W32) (err : Bool) : State := { s with cfg := s.cfg.answer data err }

/-- The stalled pop is answered, with CFG_ERR where its strobe was partial (R57, R445). -/
def State.endStall (s : State) (data : W32) (k : Stall) : State :=
  ({ s with cfg := { s.cfg with stalled := none } } : State).cfgReply data k.partialStrb

/-- The domain of the queues goes off or into reset: a pop stalled there is answered as a read of it is (R57). -/
def State.dropStall (s : State) : State :=
  if s.cfg.stalled.isNone then s else ({ s with cfg := { s.cfg with stalled := none } } : State).cfgReply 0 true

/-- A pop that stalled on an empty queue is answered by the item that becomes readable (R445). -/
def State.serveEvent (s : State) : State :=
  match s.cfg.stalled with
  | some k =>
    if k.arcade || s.eq.urgent.isNone then s
    else
      let (w, s) := s.popEvent
      s.endStall w k
  | none => s

/-- Post an item: a post to a full priority is discarded and counted; every post takes a SEQ number. -/
def State.post (s : State) (type prio : Nat) (data : List W32) : State :=
  let q := s.eq
  let held := (q.items[prio]?).getD []
  let q := { q with seq := q.seq + 1 }
  if 512 ≤ held.length then
    { s with eq := { q with lost := q.lost.setIfInBounds prio (min 255 ((q.lost[prio]?).getD 0 + 1)),
                            gap := q.gap.setIfInBounds prio true } }
  else
    let it : EqItem := { type := type, prio := prio, lost := (q.gap[prio]?).getD false,
                         seq := s.eq.seq, time := s.now, data := data }
    let s := if prio = 0 then s.status1Hold 5 else s
    State.serveEvent { s with eq := { q with items := q.items.setIfInBounds prio (held ++ [it]),
                                             gap := q.gap.setIfInBounds prio false } }

/-! ## Record Store items (R454, R456) -/

def Record.isHistory : Record → Bool
  | .history .. => true
  | .device .. => true
  | .repair .. => true
  | .abandoned .. => true
  | .background .. => true
  | _ => false

/-- Append a fault-history entry; 1,024 at most, oldest replaced first. -/
def State.history (s : State) (r : Record) : State :=
  let n := (s.store.items.filter Record.isHistory).length
  let keep := if 1024 ≤ n then
      match s.store.items.findIdx? Record.isHistory with
      | some i => s.store.items.eraseIdx i
      | none => s.store.items
    else s.store.items
  { s with store := { s.store with items := keep ++ [r], changed := true } }

/-! ## Deferred changes (R30) -/

def State.defer (s : State) (d : Deferred) : State :=
  s.modMisc fun m => { m with deferred := m.deferred ++ [d] }

/-! ## Mailboxes (R438, R441) -/

/-- Status codes of R458. -/
inductive AStatus
  | ok
  | unsupported
  | badLength
  | badParam
  | badState
  | resourceBusy
  | denied
  | halted
  | fwRestart
  | overlap
  | noSpace
  | badKey
  | notFound
  | failed
  deriving DecidableEq, Repr

def AStatus.code : AStatus → Nat
  | .ok => 0
  | .unsupported => 1
  | .badLength => 2
  | .badParam => 3
  | .badState => 4
  | .resourceBusy => 5
  | .denied => 6
  | .halted => 7
  | .fwRestart => 8
  | .overlap => 9
  | .noSpace => 10
  | .badKey => 11
  | .notFound => 12
  | .failed => 13

/-- A command word of a mailbox. -/
def Mailbox.word (b : Mailbox) (i : Nat) : W32 := getW 0 b.cmd i
/-- `OPC` and `PLEN` of the command (R438). -/
def Mailbox.opc (b : Mailbox) : Nat := fld (b.word 0) 15 0
def Mailbox.plen (b : Mailbox) : Nat := fld (b.word 1) 12 0
/-- The payload bytes the command gives. -/
def Mailbox.payload (b : Mailbox) : List Byte := readBytes b.pay 0 b.plen

/-- Word list of a response: STATUS and TAG, RLEN, then the results from word 2 (R438). -/
def rspWords (st : AStatus) (tag rlen : Nat) (res : List W32) : Words :=
  let ws := [at_ 0 st.code ||| at_ 16 tag, at_ 0 rlen] ++ res
  (List.range ws.length).foldl (fun m i => setW 0 m i (ws.getD i 0)) []

/-- Complete a mailbox's command: response payload, response area, then DONE (R441). The objects it held
are free from then on. -/
def Mailbox.finish (b : Mailbox) (st : AStatus) (res : List W32) (pay : List Byte) : Mailbox :=
  { b with rsp := rspWords st (fld (b.word 0) 23 16) pay.length res
           pay := if pay.isEmpty then b.pay else writeBytes b.pay 0 pay
           state := .done, started := false }

def State.finish (s : State) (m : Nat) (st : AStatus) (res : List W32) (pay : List Byte) : State :=
  s.modBox m fun b => b.finish st res pay

/-- Complete with a status and no results. -/
def State.finishS (s : State) (m : Nat) (st : AStatus) : State := s.finish m st [] []

/-! ## What queries read (R462) -/

/-- Capture the state that queries read. -/
def State.capture (s : State) : State :=
  { s with shot := { chip := s.chip, landings := s.landings, galleries := s.galleries, halls := s.halls, epochs := s.epochs
                     windows := s.windows, misc := s.misc, flt := s.flt } }

/-- The state as the query of a mailbox sees it: as captured at the last tread boundary at or before its taking. -/
def State.seen (s : State) (m : Nat) : State :=
  let v := (lookupN s.shots m).getD s.shot
  { s with chip := v.chip, landings := v.landings, galleries := v.galleries, halls := v.halls, epochs := v.epochs
           windows := v.windows, misc := v.misc, flt := v.flt }

/-- Opcodes of the queries. -/
def isQuery (opc : Nat) : Bool := [0x0001, 0x0105, 0x0106, 0x0405].contains opc

/-! ## Small readings of the state -/

/-- No power transition is moving and the block is in P0. -/
def State.inP0 (s : State) : Bool := s.pwr.state == .p0 && s.pwr.trans.isNone
/-- Requests go on to their Landings: in P0, and during an entry until its Landings are to stop (R485, R487). In the legacy handshake
they wait from the moment the first Landing is asked (log entry 125, DESIGN CHOICE). -/
def State.hostServes (s : State) : Bool :=
  s.pwr.state == .p0 && (match s.pwr.trans with
    | none => true
    | some t => (match t.stage with
      | .held => true
      | .quiesce => true
      | .ask u => decide (u < 4)
      | _ => false))
/-- The U or F state is active (R50, R504). -/
def State.faultState (s : State) : Bool := s.flt.active[1] || s.flt.active[2]
/-- The Landing is fenced, or its fence has begun (R505). -/
def State.landFenced (s : State) (l : Nat) : Bool :=
  s.flt.fences.any fun f => f.grain == .landing && f.group.contains l && f.active
/-- Halt has begun: the F state is active since the last reset (R499). -/
def State.halt (s : State) : Bool := s.flt.active[2]
/-- Deadline mode of a Landing in force (R145). -/
def State.dlMode (s : State) (l : Nat) : Bool := (s.lv l 0).getLsbD 0
/-- A fresh number for a request, a move or a fetch. -/
def State.fresh (s : State) : Nat × State :=
  (s.chip.nextId, s.modChip fun c => { c with nextId := c.nextId + 1 })
/-- One random draw with probability 2^-e (a free value; the draw number advances). -/
def State.draw (s : State) (e : Nat) : Bool × State :=
  (Config.sample s.chip.free e, s.modChip fun c => { c with free := c.free + 1 })

end Sys2Proof.Machine
end

