-- ==== Sys2Proof/Machine/Bumps.lean ====
section
/-! DEFINITION. The bumps of the block (R40–R43, R52, R296): how many a variant has, what a Landing drives on its DRAM bump field,
and the test access port. -/

namespace Sys2Proof.Machine

/-! ## The DRAM bump field -/

/-- What a bump does: driven and moving, held at a level, low, or in high impedance. -/
inductive Pad
  | driven
  | held
  | low
  | highZ
  deriving DecidableEq, Repr

/-- The slot holds a module. -/
def Landing.filled (x : Landing) (slot : Nat) : Bool := ((x.sbd.slots[slot]?).getD none).isSome

/-- The macro drives its bump field: a module is there, and the Landing is neither refused nor left off after a failed training
(R43, R305, R326). -/
def Landing.fieldOn (x : Landing) : Bool := (x.filled 0 || x.filled 1) && x.sbd.reason == 0 && !x.sbd.failed

/-- The DCK pair of a slot: high impedance without a module in it, running in ACTIVE and GATED, held in DEEP and RETAIN (R43,
R296). -/
def Landing.dck (x : Landing) (slot : Nat) : Pad :=
  if !x.fieldOn || !x.filled slot then .highZ
  else match x.phy.mode with
    | .active => .driven
    | .gated => .driven
    | .deep => .held
    | .retain => .held

/-- DCA, DPAR, DCS_N and the data outputs: driven in ACTIVE, else held (R296). -/
def Landing.outputs (x : Landing) : Pad := if !x.fieldOn then .highZ else if x.phy.mode = .active then .driven else .held

/-- DRST_N of a Landing, which an empty Landing keeps low (R43, R46). -/
def State.drst (s : State) (l : Nat) : Pad := if (s.chip.drstN[l]?).getD false then .held else .low

/-- The receiver of strobe `k` of a subchannel is enabled: with x8 modules the odd ones are not (R43). -/
def Landing.strobeOn (x : Landing) (k : Nat) : Bool := x.fieldOn && (!x.seq.geom.x8 || k % 2 == 0)

/-! ## The bumps and the boundary register (R40, R52) -/

/-- Signal bumps by group, in the order of R40's table. -/
def bumpGroups (v : Variant) : List Nat :=
  let n := 4 * v.galleries
  [146 * n, n, n, 2, 3, 1, 2, 2, 6, 4]

/-- Signal bumps of a variant. -/
def bumpCount (v : Variant) : Nat := (bumpGroups v).foldl (· + ·) 0

/-- Cells of the boundary register: one for each signal bump but PZQ and REFCLK (log entry 110, DEDUCED: R52 gives the bumps scanned
and not the cells). -/
def boundaryLength (v : Variant) : Nat := bumpCount v - 4 * v.galleries - 2

/-- The controller's next state at a rise of TCK (IEEE 1149.1; log entry 110, PRESUMED). -/
def TapState.next (t : TapState) (tms : Bool) : TapState :=
  let pick (one zero : TapState) : TapState := if tms then one else zero
  match t with
  | .testLogicReset => pick .testLogicReset .runTestIdle
  | .runTestIdle => pick .selectDr .runTestIdle
  | .selectDr => pick .selectIr .captureDr
  | .captureDr => pick .exit1Dr .shiftDr
  | .shiftDr => pick .exit1Dr .shiftDr
  | .exit1Dr => pick .updateDr .pauseDr
  | .pauseDr => pick .exit2Dr .pauseDr
  | .exit2Dr => pick .updateDr .shiftDr
  | .updateDr => pick .selectDr .runTestIdle
  | .selectIr => pick .testLogicReset .captureIr
  | .captureIr => pick .exit1Ir .shiftIr
  | .shiftIr => pick .exit1Ir .shiftIr
  | .exit1Ir => pick .updateIr .pauseIr
  | .pauseIr => pick .exit2Ir .pauseIr
  | .exit2Ir => pick .updateIr .shiftIr
  | .updateIr => pick .selectDr .runTestIdle

/-- One cycle of TCK with the levels of TMS and TDI and those of the bumps: the boundary register captures the bumps or shifts
towards TDO, which is driven only while shifting. No command of the table moves TCK, so the port stays unused as R52 asks. -/
def Tap.clock (t : Tap) (tms tdi : Bool) (bumps : List Bool) : Tap :=
  let now := t.state.next tms
  let cells := match t.state with
    | .captureDr => bumps
    | .shiftDr => (t.boundary ++ [tdi]).drop 1
    | _ => t.boundary
  { tck := false, tms := tms, tdi := tdi, state := now, boundary := cells
    tdo := if now = .shiftDr then cells.head? else none }

end Sys2Proof.Machine
end

