-- ==== Sys2Proof/Machine/Aes.lean ====
section
/-! DEFINITION. AES-256 and the modes the block uses: XTS for lines (R350), GCM with empty plaintext for
tags (R352), and AES key unwrap (R362). Bytes are numbers below 256; a block is a list of 16 bytes. -/

namespace Sys2Proof.Machine

/-- The AES S-box as one number: entry x in bits [8x+7:8x]. -/
def aesSboxWord : Nat :=
  0x16BB54B00F2D99416842E6BF0D89A18CDF2855CEE9871E9B948ED9691198F8E19E1DC186B95735610EF6034866B53E708A8BBD4B1F74DDE8C6B4A61C2E2578BA08AE7A65EAF4566CA94ED58D6D37C8E779E4959162ACD3C25C2406490A3A32E0DB0B5EDE14B8EE4688902A22DC4F816073195D643D7EA7C41744975FEC130CCDD2F3FF1021DAB6BCF5389D928F40A351A89F3C507F02F94585334D43FBAAEFD0CF584C4A39BECB6A5BB1FC20ED00D153842FE329B3D63B52A05A6E1B1A2C830975B227EBE28012079A059618C323C7041531D871F1E5A534CCF73F362693FDB7C072A49CAFA2D4ADF04759FA7DC982CA76ABD7FE2B670130C56F6BF27B777C63

/-- The inverse S-box. -/
def aesInvSboxWord : Nat :=
  0x7D0C2155631469E126D677BA7E042B17619953833CBBEBC8B0F52AAE4D3BE0A0EF9CC9939F7AE52D0D4AB519A97F51605FEC8027591012B131C7078833A8DD1FF45ACD78FEC0DB9A2079D2C64B3E56FC1BBE18AA0E62B76F89C5291D711AF1476EDF751CE837F9E28535ADE72274AC9673E6B4F0CECFF297EADC674F4111913A6B8A130103BDAFC1020F3FCA8F1E2CD00645B3B80558E4F70AD3BC8C00ABD890849D8DA75746155EDAB9EDFD5048706C92B6655DCC5CA4D41698688664F6F87225D18B6D49A25B76B224D92866A12E084EC3FA420B954CEE3D23C2A632947B54CBE9DEC444438E3487FF2F9B8239E37CFBD7F3819EA340BF38A53630D56A0952

def aesSub (x : Nat) : Nat := (aesSboxWord >>> (8 * x)) % 256
def aesInvSub (x : Nat) : Nat := (aesInvSboxWord >>> (8 * x)) % 256

/-- Multiply by x in the AES field. -/
def aesX (a : Nat) : Nat := if 128 ≤ a then (2 * a) ^^^ 0x11B else 2 * a

/-- The next round-key words: `ws` newest first, `i` the index of the word to form. -/
def aesKeyStep (ws : List (List Nat)) (i : Nat) : List (List Nat) :=
  let prev := ws.getD 0 []
  let back := ws.getD 7 []
  let t :=
    if i % 8 = 0 then
      let r := (prev.drop 1 ++ prev.take 1).map aesSub
      let rcon := (List.range (i / 8 - 1)).foldl (fun a _ => aesX a) 1
      (r.getD 0 0 ^^^ rcon) :: r.drop 1
    else if i % 8 = 4 then prev.map aesSub
    else prev
  List.zipWith (· ^^^ ·) back t :: ws

/-- The 15 round keys of AES-256, each 16 bytes. -/
def aesRoundKeys (key : List Nat) : List (List Nat) :=
  let w0 := (List.range 8).map fun i => (key.drop (4 * i)).take 4
  let ws := ((List.range 52).foldl (fun ws i => aesKeyStep ws (i + 8)) w0.reverse).reverse
  (List.range 15).map fun r => ((ws.drop (4 * r)).take 4).flatten

def xorBytes (a b : List Nat) : List Nat := List.zipWith (· ^^^ ·) a b

def aesShiftRows (b : List Nat) : List Nat :=
  (List.range 16).map fun i => b.getD ((i + 4 * (i % 4)) % 16) 0

def aesInvShiftRows (b : List Nat) : List Nat :=
  (List.range 16).map fun i => b.getD ((i + 12 * (i % 4)) % 16) 0

/-- One column of MixColumns with coefficients 2, 3, 1, 1. -/
def aesMixCol (a b c d : Nat) : List Nat :=
  let t := a ^^^ b ^^^ c ^^^ d
  [a ^^^ t ^^^ aesX (a ^^^ b), b ^^^ t ^^^ aesX (b ^^^ c), c ^^^ t ^^^ aesX (c ^^^ d),
   d ^^^ t ^^^ aesX (d ^^^ a)]

def aesMix (b : List Nat) : List Nat :=
  (List.range 4).flatMap fun i =>
    aesMixCol (b.getD (4 * i) 0) (b.getD (4 * i + 1) 0) (b.getD (4 * i + 2) 0) (b.getD (4 * i + 3) 0)

/-- The inverse of MixColumns: its cube, since its fourth power is the identity. -/
def aesInvMix (b : List Nat) : List Nat := aesMix (aesMix (aesMix b))

/-- AES-256 encryption of one block under round keys. -/
def aesEncWith (ks : List (List Nat)) (b : List Nat) : List Nat :=
  let s := xorBytes b (ks.getD 0 [])
  let s := (List.range 13).foldl (fun s r =>
    xorBytes (aesMix (aesShiftRows (s.map aesSub))) (ks.getD (r + 1) [])) s
  xorBytes (aesShiftRows (s.map aesSub)) (ks.getD 14 [])

/-- AES-256 decryption of one block under round keys. -/
def aesDecWith (ks : List (List Nat)) (b : List Nat) : List Nat :=
  let s := (aesInvShiftRows (xorBytes b (ks.getD 14 []))).map aesInvSub
  let s := (List.range 13).foldl (fun s r =>
    (aesInvShiftRows (aesInvMix (xorBytes s (ks.getD (13 - r) [])))).map aesInvSub) s
  xorBytes s (ks.getD 0 [])

def aesEnc (key b : List Nat) : List Nat := aesEncWith (aesRoundKeys key) b

/-- Numbers of bytes. -/
def toNats (bs : List Byte) : List Nat := bs.map BitVec.toNat
def ofNats (ns : List Nat) : List Byte := ns.map (BitVec.ofNat 8)

/-- Little-endian bytes as numbers. -/
def leNats (n v : Nat) : List Nat := toNats (leBytes n v)
def leVal (ns : List Nat) : Nat := leNat (ofNats ns)

/-- Multiply the XTS tweak by α: GF(2^128) over x^128 + x^7 + x^2 + x + 1, byte 0 lowest. -/
def xtsDouble (t : List Nat) : List Nat :=
  let v := leVal t
  let d := 2 * v
  leNats 16 (if 2 ^ 127 ≤ v then (d % 2 ^ 128) ^^^ 0x87 else d)

/-- XTS over the four blocks of a line (R350): `enc` encrypts or decrypts. The tweak is the LPA as 16
bytes, least significant first. -/
def xtsLine (decrypt : Bool) (key : List Byte) (lpa : Nat) (x : BitVec 512) : BitVec 512 :=
  let k1 := aesRoundKeys (toNats (key.take 32))
  let t0 := aesEnc (toNats ((key.drop 32).take 32)) (leNats 16 lpa)
  let bs := toNats (lineBytes x)
  let out := (List.range 4).foldl (fun (st : List Nat × List Nat) j =>
    let blk := xorBytes ((bs.drop (16 * j)).take 16) st.1
    let r := if decrypt then aesDecWith k1 blk else aesEncWith k1 blk
    (xtsDouble st.1, st.2 ++ xorBytes r st.1)) (t0, [])
  bytesLine (ofNats out.2)

/-- Product in the GHASH field of SP 800-38D, on 16-byte blocks as big-endian numbers: bit 127 of the
number is the block's first bit. -/
def ghashMul (x y : Nat) : Nat :=
  ((List.range 128).foldl (fun (st : Nat × Nat) i =>
    let z := if x.testBit (127 - i) then st.1 ^^^ st.2 else st.1
    let v := st.2 >>> 1
    (z, if st.2.testBit 0 then v ^^^ (0xE1 <<< 120) else v)) (0, y)).1

/-- GHASH of whole 16-byte blocks under `h`. -/
def ghash (h : Nat) (blocks : List Nat) : Nat := blocks.foldl (fun y b => ghashMul (y ^^^ b) h) 0

/-- Big-endian number of bytes. -/
def beVal (ns : List Nat) : Nat := ns.foldl (fun a b => 256 * a + b) 0

/-- The 32-bit tag of a line under KG (R352): GCM with empty plaintext over the 74 B of A, its first four
bytes; the result holds byte 0 lowest, as the tag line stores it. -/
def lineTag (key : List Byte) (lpa hall epoch : Nat) (cipher : BitVec 512) : BitVec 32 :=
  let ks := aesRoundKeys (toNats ((key.drop 64).take 32))
  let h := beVal (aesEncWith ks (List.replicate 16 0))
  let a := toNats (lineBytes cipher) ++ leNats 8 lpa ++ leNats 2 epoch ++ List.replicate 6 0
  let blocks := (List.range 5).map fun i => beVal ((a.drop (16 * i)).take 16)
  let s := ghash h (blocks ++ [592 * 2 ^ 64])
  let iv := leNats 8 lpa ++ leNats 2 hall ++ [0, 0]
  let j0 := beVal (aesEncWith ks (iv ++ [0, 0, 0, 1]))
  BitVec.ofNat 32 (leNat ((beBytes 16 (s ^^^ j0)).take 4))

/-- AES-KW unwrap of 104 bytes to 96 under a 32-byte key (R362, SP 800-38F): none when the integrity check
fails. -/
def aesUnwrap (kek wrapped : List Byte) : Option (List Byte) :=
  let ks := aesRoundKeys (toNats kek)
  let c := toNats wrapped
  let n := 12
  let a0 := c.take 8
  let r0 := (List.range n).map fun i => (c.drop (8 * (i + 1))).take 8
  let st := (List.range (6 * n)).foldl (fun (st : List Nat × List (List Nat)) k =>
    let t := 6 * n - k
    let i := (t - 1) % n
    let a := beVal st.1 ^^^ t
    let b := aesDecWith ks (toNats (beBytes 8 a) ++ st.2.getD i [])
    (b.take 8, st.2.set i (b.drop 8))) (a0, r0)
  if wrapped.length = 104 ∧ st.1 = List.replicate 8 0xA6 then some (ofNats st.2.flatten) else none

/-- The key check value (R363): the first four bytes of AES under K1 of sixteen FFh bytes. -/
def keyCheck (key : List Byte) : BitVec 32 :=
  BitVec.ofNat 32 (leNat (ofNats ((aesEnc (toNats (key.take 32)) (List.replicate 16 0xFF)).take 4)))

end Sys2Proof.Machine
end

