-- ==== Sys2Proof/Machine/Hash.lean ====
section
/-! DEFINITION. CRC-32C (R314, R342, R378, R454, R490), SHA-384 and ECDSA P-384 verification (R434, R435). -/

namespace Sys2Proof.Machine

/-- CRC-32C, reflected polynomial 82F63B78h, initial and final value all ones. -/
def crc32c (bs : List Byte) : W32 :=
  let c := bs.foldl (fun (c : Nat) b =>
    (List.range 8).foldl (fun c _ => if c % 2 = 1 then (c / 2) ^^^ 0x82F63B78 else c / 2)
      (c ^^^ b.toNat)) 0xFFFFFFFF
  BitVec.ofNat 32 (c ^^^ 0xFFFFFFFF)

/-- Round constants of SHA-384 (FIPS 180-4). -/
def shaK : List Nat :=
  [ 0x428A2F98D728AE22, 0x7137449123EF65CD, 0xB5C0FBCFEC4D3B2F, 0xE9B5DBA58189DBBC
  , 0x3956C25BF348B538, 0x59F111F1B605D019, 0x923F82A4AF194F9B, 0xAB1C5ED5DA6D8118
  , 0xD807AA98A3030242, 0x12835B0145706FBE, 0x243185BE4EE4B28C, 0x550C7DC3D5FFB4E2
  , 0x72BE5D74F27B896F, 0x80DEB1FE3B1696B1, 0x9BDC06A725C71235, 0xC19BF174CF692694 ] ++
  [ 0xE49B69C19EF14AD2, 0xEFBE4786384F25E3, 0x0FC19DC68B8CD5B5, 0x240CA1CC77AC9C65
  , 0x2DE92C6F592B0275, 0x4A7484AA6EA6E483, 0x5CB0A9DCBD41FBD4, 0x76F988DA831153B5
  , 0x983E5152EE66DFAB, 0xA831C66D2DB43210, 0xB00327C898FB213F, 0xBF597FC7BEEF0EE4
  , 0xC6E00BF33DA88FC2, 0xD5A79147930AA725, 0x06CA6351E003826F, 0x142929670A0E6E70 ] ++
  [ 0x27B70A8546D22FFC, 0x2E1B21385C26C926, 0x4D2C6DFC5AC42AED, 0x53380D139D95B3DF
  , 0x650A73548BAF63DE, 0x766A0ABB3C77B2A8, 0x81C2C92E47EDAEE6, 0x92722C851482353B
  , 0xA2BFE8A14CF10364, 0xA81A664BBC423001, 0xC24B8B70D0F89791, 0xC76C51A30654BE30
  , 0xD192E819D6EF5218, 0xD69906245565A910, 0xF40E35855771202A, 0x106AA07032BBD1B8 ] ++
  [ 0x19A4C116B8D2D0C8, 0x1E376C085141AB53, 0x2748774CDF8EEB99, 0x34B0BCB5E19B48A8
  , 0x391C0CB3C5C95A63, 0x4ED8AA4AE3418ACB, 0x5B9CCA4F7763E373, 0x682E6FF3D6B2B8A3
  , 0x748F82EE5DEFB2FC, 0x78A5636F43172F60, 0x84C87814A1F0AB72, 0x8CC702081A6439EC
  , 0x90BEFFFA23631E28, 0xA4506CEBDE82BDE9, 0xBEF9A3F7B2C67915, 0xC67178F2E372532B ] ++
  [ 0xCA273ECEEA26619C, 0xD186B8C721C0C207, 0xEADA7DD6CDE0EB1E, 0xF57D4F7FEE6ED178
  , 0x06F067AA72176FBA, 0x0A637DC5A2C898A6, 0x113F9804BEF90DAE, 0x1B710B35131C471B
  , 0x28DB77F523047D84, 0x32CAAB7B40C72493, 0x3C9EBE0A15C9BEBC, 0x431D67C49C100D4C
  , 0x4CC5D4BECB3E42B6, 0x597F299CFC657E2A, 0x5FCB6FAB3AD6FAEC, 0x6C44198C4A475817 ]

/-- Initial hash value of SHA-384. -/
def shaH0 : List Nat :=
  [ 0xCBBB9D5DC1059ED8, 0x629A292A367CD507, 0x9159015A3070DD17, 0x152FECD8F70E5939
  , 0x67332667FFC00B31, 0x8EB44A8768581511, 0xDB0C2E0D64F98FA7, 0x47B5481DBEFA4FA4 ]

def m64 (x : Nat) : Nat := x % 2 ^ 64
/-- Rotate a 64-bit number right. -/
def ror64 (n x : Nat) : Nat := (x >>> n) ||| m64 (x <<< (64 - n))

/-- The 80 message words of one 128-byte block, built newest first. -/
def shaSchedule (ws : List Nat) : List Nat :=
  ((List.range 64).foldl (fun (r : List Nat) _ =>
    let w15 := r.getD 14 0
    let w2 := r.getD 1 0
    let s0 := ror64 1 w15 ^^^ ror64 8 w15 ^^^ (w15 >>> 7)
    let s1 := ror64 19 w2 ^^^ ror64 61 w2 ^^^ (w2 >>> 6)
    m64 (r.getD 15 0 + s0 + r.getD 6 0 + s1) :: r) ws.reverse).reverse

/-- One round on the eight working values. -/
def shaRound (v : List Nat) (kw : Nat) : List Nat :=
  let a := v.getD 0 0
  let b := v.getD 1 0
  let c := v.getD 2 0
  let e := v.getD 4 0
  let f := v.getD 5 0
  let g := v.getD 6 0
  let s1 := ror64 14 e ^^^ ror64 18 e ^^^ ror64 41 e
  let chv := (e &&& f) ^^^ ((2 ^ 64 - 1 - e) &&& g)
  let t1 := v.getD 7 0 + s1 + chv + kw
  let s0 := ror64 28 a ^^^ ror64 34 a ^^^ ror64 39 a
  let maj := (a &&& b) ^^^ (a &&& c) ^^^ (b &&& c)
  [m64 (t1 + s0 + maj), a, b, c, m64 (v.getD 3 0 + t1), e, f, g]

def shaBlock (h : List Nat) (block : List Byte) : List Nat :=
  let ws := (List.range 16).map fun i => beNat ((block.drop (8 * i)).take 8)
  let v := (List.zipWith (· + ·) shaK (shaSchedule ws)).foldl shaRound h
  List.zipWith (fun x y => m64 (x + y)) h v

/-- Blocks of a padded message, by fuel. -/
def shaBlocks : Nat → List Nat → List Byte → List Nat
  | 0, h, _ => h
  | n + 1, h, bs => shaBlocks n (shaBlock h (bs.take 128)) (bs.drop 128)

/-- SHA-384 of a message, as a number of 384 bits. -/
def sha384 (bs : List Byte) : Nat :=
  let pad := (239 - bs.length % 128) % 128
  let m := bs ++ 0x80 :: List.replicate pad 0 ++ beBytes 16 (8 * bs.length)
  beNat (((shaBlocks (m.length / 128) shaH0 m).take 6).flatMap (beBytes 8))

/-! ## P-384 (R434) -/

def p384P : Nat := 2 ^ 384 - 2 ^ 128 - 2 ^ 96 + 2 ^ 32 - 1
def p384N : Nat :=
  0xFFFFFFFFFFFFFFFFFFFFFFFFFFFFFFFFFFFFFFFFFFFFFFFFC7634D81F4372DDF581A0DB248B0A77AECEC196ACCC52973
def p384B : Nat :=
  0xB3312FA7E23EE7E4988E056BE3F82D19181D9C6EFE8141120314088F5013875AC656398D8A2ED19D2A85C8EDD3EC2AEF
def p384Gx : Nat :=
  0xAA87CA22BE8B05378EB1C71EF320AD746E1D3B628BA79B9859F741E082542A385502F25DBF55296C3A545E3872760AB7
def p384Gy : Nat :=
  0x3617DE4A96262C6F5D9E98BF9292DC29F8F41DBD289A147CE9DA3113B5F0B8C00A60B1CE1D7E819D7A431D7C90EA0E5F

/-- b^e mod m over the 384 low bits of e. -/
def powMod (m b e : Nat) : Nat :=
  ((List.range 384).foldl (fun (st : Nat × Nat) i =>
    (if e.testBit i then st.1 * st.2 % m else st.1, st.2 * st.2 % m)) (1 % m, b % m)).1

/-- Inverse modulo a prime. -/
def invMod (m a : Nat) : Nat := powMod m a (m - 2)

/-- Points in Jacobian coordinates; z = 0 is the point at infinity. -/
def ecDouble (p : Nat × Nat × Nat) : Nat × Nat × Nat :=
  let q := p384P
  let (x, y, z) := p
  let d := z * z % q
  let g := y * y % q
  let b := x * g % q
  let a := 3 * (x + (q - d)) * (x + d) % q
  let x3 := (a * a + 8 * (q - b)) % q
  let z3 := 2 * y * z % q
  (x3, (a * (4 * b + (q - x3)) + 8 * (q - g * g % q)) % q, z3)

def ecAdd (p r : Nat × Nat × Nat) : Nat × Nat × Nat :=
  let q := p384P
  if p.2.2 % q = 0 then r
  else if r.2.2 % q = 0 then p
  else
    let z1z1 := p.2.2 * p.2.2 % q
    let z2z2 := r.2.2 * r.2.2 % q
    let u1 := p.1 * z2z2 % q
    let u2 := r.1 * z1z1 % q
    let s1 := p.2.1 * r.2.2 * z2z2 % q
    let s2 := r.2.1 * p.2.2 * z1z1 % q
    if u1 = u2 then (if s1 = s2 then ecDouble p else (1, 1, 0))
    else
      let h := (u2 + (q - u1)) % q
      let k := (s2 + (q - s1)) % q
      let hh := h * h % q
      let hhh := h * hh % q
      let v := u1 * hh % q
      let x3 := (k * k + (q - hhh) + 2 * (q - v)) % q
      (x3, (k * (v + (q - x3)) + s1 * (q - hhh)) % q, p.2.2 * r.2.2 % q * h % q)

/-- Scalar multiple, over 384 bits from the top. -/
def ecMul (k : Nat) (p : Nat × Nat × Nat) : Nat × Nat × Nat :=
  (List.range 384).foldl (fun acc i =>
    let d := ecDouble acc
    if k.testBit (383 - i) then ecAdd d p else d) (1, 1, 0)

/-- ECDSA P-384 verification: key point (qx, qy), hash e, signature (r, s). -/
def ecdsaVerify (qx qy e r s : Nat) : Bool :=
  let q := p384P
  let n := p384N
  let onCurve := decide (qx < q) && decide (qy < q) &&
    decide (qy * qy % q = (qx * qx * qx + 3 * (q - qx) + p384B) % q)
  let inRange := decide (0 < r) && decide (r < n) && decide (0 < s) && decide (s < n)
  if onCurve && inRange then
    let w := invMod n s
    let p := ecAdd (ecMul (e * w % n) (p384Gx, p384Gy, 1)) (ecMul (r * w % n) (qx, qy, 1))
    if p.2.2 % q = 0 then false
    else
      let zi := invMod q p.2.2
      decide (p.1 * (zi * zi % q) % q % n = r)
  else false

end Sys2Proof.Machine
end

