-- ==== Sys2Proof/Machine/Lz4.lean ====
section
/-! DEFINITION. The compressed segment: the LZ4 block decoder of R379, the container of R378, the error
kinds of R386, and the page-map entry of R376. -/

namespace Sys2Proof.Machine

/-- Read an extended length: each further byte is added, until a byte below 255. -/
def lzExtend : List Byte → Nat → Nat × List Byte
  | [], n => (n, [])
  | b :: bs, n => if b = 0xFF then lzExtend bs (n + 255) else (n + b.toNat, bs)

/-- Copy `n` bytes from `off` back, one at a time, so that overlapping copies repeat; `out` newest first. -/
def lzCopy (off : Nat) : Nat → List Byte → List Byte
  | 0, out => out
  | n + 1, out => lzCopy off n (out.getD (off - 1) 0 :: out)

/-- Decode an LZ4 block to exactly 1,024 bytes, or the error kind of R386. `fuel` bounds the sequences. -/
def lzDecode : Nat → List Byte → List Byte → List Byte ⊕ Nat
  | 0, _, _ => .inr 6
  | fuel + 1, src, out =>
    match src with
    | [] => .inr 6
    | tok :: rest =>
      let ln := tok.toNat / 16
      let (lit, rest) := if ln = 15 then lzExtend rest 15 else (ln, rest)
      if rest.length < lit then .inr 6
      else if 1024 < out.length + lit then .inr 5
      else
        let out := (rest.take lit).reverse ++ out
        match rest.drop lit with
        | [] => if out.length = 1024 then .inl out.reverse else .inr 6
        | [_] => .inr 6
        | o0 :: o1 :: rest =>
          let off := o0.toNat + 256 * o1.toNat
          if off = 0 ∨ out.length < off then .inr 4
          else
            let mn := tok.toNat % 16
            let (mx, rest) := if mn = 15 then lzExtend rest 15 else (mn, rest)
            if 1024 < out.length + (mx + 4) then .inr 5
            else lzDecode fuel rest (lzCopy off (mx + 4) out)

/-- Check and decode a segment's container (R378, R386): the decoded bytes, or the error kind. `bytes` are
the bytes of the segment's run lines. -/
def containerDecode (bytes : List Byte) (hall page seg : Nat) : List Byte ⊕ Nat :=
  let fmt := (bytes.getD 0 0).toNat
  let len := leNat ((bytes.drop 2).take 2)
  let check := leNat ((bytes.drop 4).take 4)
  if fmt ≠ 1 ∧ fmt ≠ 2 then .inr 1
  else if (bytes.getD 1 0).toNat % 4 ≠ seg ∨ leNat ((bytes.drop 8).take 5) ≠ page ∨
      leNat ((bytes.drop 13).take 2) % 1024 ≠ hall then .inr 2
  else if (fmt = 1 ∧ (len = 0 ∨ 1023 < len)) ∨ (fmt = 2 ∧ len ≠ 1024) ∨ bytes.length < 16 + len then .inr 3
  else
    let payload := (bytes.drop 16).take len
    let dec := if fmt = 2 then .inl payload else lzDecode (len + 1) payload []
    match dec with
    | .inr k => .inr k
    | .inl out => if (crc32c out).toNat = check then .inl out else .inr 7

/-- The container of a 1 KiB segment (R378, R380): LZ4 when its payload is below 1,024 bytes, RAW otherwise. -/
def containerOf (plain : List Byte) (hall page seg : Nat) : List Byte :=
  let lz := Config.lz4Encode plain
  let raw := decide (1024 ≤ lz.length)
  let payload := if raw then plain else lz
  [if raw then 2 else 1, BitVec.ofNat 8 seg] ++ leBytes 2 payload.length ++ leBytes 4 (crc32c plain).toNat ++
    leBytes 5 page ++ leBytes 2 hall ++ [0] ++ payload

/-- A page-map entry (R376). -/
structure PageEntry where
  loc : Nat
  count : Nat
  start : Nat
  frame : Nat
  incomp : Bool
  off1 : Nat
  off2 : Nat
  off3 : Nat
  deriving DecidableEq, Repr

def bitsOf (v hi lo : Nat) : Nat := (v >>> lo) % 2 ^ (hi + 1 - lo)

/-- Read the 8 B entry, little-endian. One with a reserved bit set breaks the rules of R376: it reads as the invalid `LOC` = 11b (log
entry 118, DEDUCED). -/
def pageEntryOf (v : Nat) : PageEntry :=
  { loc := if v.testBit 39 || decide (bitsOf v 63 58 ≠ 0) then 3 else bitsOf v 1 0, count := bitsOf v 4 2, start := bitsOf v 7 5, frame := bitsOf v 37 8
    incomp := v.testBit 38, off1 := bitsOf v 45 40, off2 := bitsOf v 51 46, off3 := bitsOf v 57 52 }

def PageEntry.word (e : PageEntry) : Nat :=
  e.loc ||| (e.count <<< 2) ||| (e.start <<< 5) ||| (e.frame <<< 8) ||| (b2n e.incomp <<< 38) |||
    (e.off1 <<< 40) ||| (e.off2 <<< 46) ||| (e.off3 <<< 52)

/-- The rules of R376; an entry that breaks them is a decode error of kind 8h. -/
def PageEntry.ok (e : PageEntry) : Bool :=
  let n := e.count + 1
  if e.loc = 1 then
    if e.count = 7 then decide (e.start = 0) && decide (e.off1 = 0) && decide (e.off2 = 0) && decide (e.off3 = 0)
    else decide (e.start + n ≤ 8) && decide (0 < e.off1) && decide (e.off1 < e.off2) &&
      decide (e.off2 < e.off3) && decide (e.off3 < 8 * n)
  else decide (e.loc ≠ 3) && decide (e.off1 = 0) && decide (e.off2 = 0) && decide (e.off3 = 0)

/-- The page is held compressed: POOL with `COUNT` below 111b. -/
def PageEntry.compressed (e : PageEntry) : Bool := e.loc == 1 && decide (e.count < 7)

/-- Run lines of segment `s`: first and one past the last (R376). -/
def PageEntry.segment (e : PageEntry) (s : Nat) : Nat × Nat :=
  let n := e.count + 1
  if s = 0 then (0, e.off1) else if s = 1 then (e.off1, e.off2) else if s = 2 then (e.off2, e.off3)
  else (e.off3, 8 * n)

/-- Entry `i` of a page-map line, and a line with it replaced. -/
def entryIn (line : BitVec 512) (i : Nat) : PageEntry := pageEntryOf ((line.extractLsb' (64 * i) 64).toNat)
def setEntry (line : BitVec 512) (i : Nat) (e : PageEntry) : BitVec 512 :=
  let v : BitVec 512 := BitVec.ofNat 512 (e.word <<< (64 * i))
  let m : BitVec 512 := BitVec.ofNat 512 ((2 ^ 64 - 1) <<< (64 * i))
  (line &&& ~~~m) ||| v

end Sys2Proof.Machine
end

