-- ==== Sys2Proof/Machine/Operands.lean ====
section
/-! DEFINITION. The operand forms: stamps (R78, R79, R129, R130, R143), the Hall Map's resolution (R107,
R125), the interleave and coordinates of a line (R113, R114), and the places of tag lines, page-map lines,
frames and heat lines (R111, R374, R375, R393). -/

namespace Sys2Proof.Machine

/-! ## Stamps -/

/-- Stamp of a time in ns (modulo 2^32). -/
def stampOf (t : Nat) : BitVec 32 := BitVec.ofNat 32 t
/-- The best-effort stamp (R78). -/
def beStamp (t : Nat) : BitVec 32 := BitVec.ofNat 32 (t + 16380)
/-- Stamp of a DUE value at acceptance time t (R78): 000h gives t itself. -/
def dueStamp (t : Nat) (due : BitVec 12) : BitVec 32 :=
  if due = 0xFFF then beStamp t else BitVec.ofNat 32 (t + 4 * due.toNat)
/-- Stamp a is nearer than stamp b: (b - a) mod 2^32 in 1 to 2^31 - 1 (R130). -/
def nearer (a b : BitVec 32) : Bool := decide (1 ≤ (b - a).toNat) && decide ((b - a).toNat < 2 ^ 31)
/-- The signed slack of a stamp in CCLK cycles (R135). -/
def slackOf (stamp : BitVec 32) (cycle : Nat) : Int := 2 * (stamp - BitVec.ofNat 32 (cycle / 2)).toInt
/-- The port bias of R143: added at staging, never beyond the best-effort stamp. -/
def biased (t : Nat) (cfg : W32) (stamp : BitVec 32) : BitVec 32 :=
  let v := stamp + BitVec.ofNat 32 (4 * fld cfg 11 0)
  if cfg.getLsbD 12 then beStamp t else if nearer (beStamp t) v then beStamp t else v

/-! ## Landing sets and interleave (R113) -/

def granuleBytes : Nat := 2 ^ 28

/-- Members of a Landing set, lowest global number first. -/
def Hall.members (h : Hall) : List Nat := setBits h.set
def Hall.bytes (h : Hall) : Nat := h.size * granuleBytes
/-- Galleries of the set, lowest first. -/
def Hall.galleries (h : Hall) : List Nat := (List.range 3).filter fun g => h.members.any fun l => l / 4 == g

/-- The XOR hash of a row of chunks. -/
def chunkHash (q : Nat) : Nat := (List.range 6).foldl (fun h k => h ^^^ (q / 2 ^ (6 * k)) % 64) 0

/-- A region offset's Landing and Landing address under an extent map over `members` (R113). -/
def interleave (members : List Nat) (ext : List (List Nat)) (o : Nat) : Nat × Nat :=
  let n := members.length
  let c := o / 256
  let q := c / n
  let slot := (c % n + chunkHash q) % n
  let loc := q * 256 + o % 256
  let granule := ((ext.getD slot []).getD (loc / granuleBytes) 0)
  (members.getD slot 0, granule * granuleBytes + loc % granuleBytes)

/-- The first hall offset of a member's local chunk q: the inverse of R113 for one chunk. -/
def chunkOffset (n slot q : Nat) : Nat := (q * n + (slot + n * 64 - chunkHash q) % n) * 256

/-- A line's place in a hall's data region. -/
def Hall.line (h : Hall) (o : Nat) : Nat × Nat := interleave h.members h.ext (o / 64 * 64)
/-- The tag line of the line at offset o, and its slot (R111). -/
def Hall.tagLine (h : Hall) (o : Nat) : (Nat × Nat) × Nat :=
  (interleave h.members h.tagExt (o / 1024 * 64), o / 64 % 16)
/-- The page-map line of page p, and the entry's index (R376). -/
def Hall.mapLine (h : Hall) (p : Nat) : (Nat × Nat) × Nat :=
  (interleave h.members h.mapExt (p * 8 / 64 * 64), p % 8)
/-- The home Gallery of a page (R373). -/
def Hall.home (h : Hall) (p : Nat) : Nat := h.galleries.getD (p % h.galleries.length) 0

/-- The line physical address of R349. -/
def lpaOf (l addr : Nat) : Nat := l * 2 ^ 40 + addr
def lpaLanding (lpa : Nat) : Nat := lpa / 2 ^ 40 % 16
def lpaAddr (lpa : Nat) : Nat := lpa % 2 ^ 40

/-! ## Coordinates (R114) -/

/-- Landing address to DRAM coordinates. -/
def coordOf (g : Geom) (addr : Nat) : Coord :=
  let colUp := if g.x8 then 5 else 6
  let bankW := if g.bank4 then 2 else 1
  let a := addr / 64
  let sub := a % 2
  let col0 := a / 2 % 2
  let bg := a / 4 % 8
  let colHi := a / 32 % 2 ^ colUp
  let a := a / 32 / 2 ^ colUp
  let bank := a % 2 ^ bankW
  let a := a / 2 ^ bankW
  let rank := a % 2 ^ g.rankBits
  let row := a / 2 ^ g.rankBits % 2 ^ (16 + g.rowBits)
  { sub := sub, rank := rank, bg := bg ^^^ row % 8, bank := bank ^^^ row / 8 % 2 ^ bankW, row := row
    col := 2 * colHi + col0 }

/-- The Landing address of coordinates: the inverse of `coordOf`. -/
def addrOf (g : Geom) (c : Coord) : Nat :=
  let colUp := if g.x8 then 5 else 6
  let bankW := if g.bank4 then 2 else 1
  let bg := c.bg ^^^ c.row % 8
  let bank := c.bank ^^^ c.row / 8 % 2 ^ bankW
  ((((c.row * 2 ^ g.rankBits + c.rank) * 2 ^ bankW + bank) * 2 ^ colUp + c.col / 2) * 8 + bg) * 256 +
    c.col % 2 * 128 + c.sub * 64

/-- Ranks and banks of the geometry. -/
def Geom.ranks (g : Geom) : Nat := 2 ^ g.rankBits
def Geom.banks (g : Geom) : Nat := if g.bank4 then 4 else 2

def State.coord (s : State) (l addr : Nat) : Coord := coordOf (s.land l).seq.geom addr

/-! ## Halls, windows and the Hall Map (R105, R107, R125) -/

def State.hall (s : State) (h : Nat) : Option Hall := lookupN s.halls h
def State.epoch (s : State) (h : Nat) : Nat := (lookupN s.epochs h).getD 0
def State.putHall (s : State) (h : Nat) (x : Hall) : State := { s with halls := putN s.halls h x }
def State.modHall (s : State) (h : Nat) (f : Hall → Hall) : State :=
  match s.hall h with
  | some x => s.putHall h (f x)
  | none => s

/-- Rights a request needs (R107). -/
inductive Right
  | read
  | readWrite
  deriving DecidableEq, Repr

/-- What the Hall Map answers: a hall and offset, or the status that ends the request. -/
inductive Resolved
  | ok (hall off : Nat)
  | bad (st : Status)
  deriving DecidableEq, Repr

/-- Size in bytes that requests may reach: a shrink removes its range at its boundary (R119). -/
def Hall.reach (h : Hall) : Nat :=
  match h.phase with
  | .shrinking g => g * granuleBytes
  | _ => h.bytes

/-- Resolve (port, LDID, address) to a hall (R107); the window covers exactly the hall's size. -/
def State.resolve (s : State) (p ldid addr : Nat) (need : Right) : Resolved :=
  let hit := s.windows.find? fun w =>
    w.active && w.port == p && w.ldid == ldid && decide (w.base ≤ addr) &&
      (match s.hall w.hall with
       | some h => decide (addr < w.base + h.reach)
       | none => false)
  match hit with
  | none => .bad .unmapped
  | some w => if need = .readWrite && !w.rw then .bad .denied else .ok w.hall (addr - w.base)

/-- Resolve a DBG request: the selected hall, with the address as the offset (R125). -/
def State.resolveDbg (s : State) (addr : Nat) : Resolved :=
  match s.misc.debugHall with
  | none => .bad .unmapped
  | some n =>
    match s.hall n with
    | none => .bad .unmapped
    | some h =>
      if h.reach ≤ addr then .bad .unmapped
      else if h.enc && !h.keyLoaded then .bad .unmapped
      else if h.phase = .releasing || h.phase = .creating then .bad .unmapped
      else if !h.dbgv then .bad .denied
      else .ok n addr

/-- Does a (port, LDID) hold a window on the hall with the right (R122). -/
def State.holdsWindow (s : State) (p ldid hall : Nat) (rw : Bool) : Bool :=
  s.windows.any fun w => w.active && w.port == p && w.ldid == ldid && w.hall == hall && (!rw || w.rw)

/-! ## The init watermark (R115–R117) -/

def regionBytes : Nat := 2 ^ 21
def State.aheadOf (s : State) (hall region : Nat) : Option Ahead :=
  s.ahead.find? fun a => a.hall == hall && a.region == region
/-- Beyond the watermark: at or above W with no ahead entry (R117). -/
def State.beyond (s : State) (n : Nat) (h : Hall) (o : Nat) : Bool :=
  decide (h.w ≤ o) && (s.aheadOf n (o / regionBytes)).isNone
/-- The region's zeroing is not finished (R116). -/
def State.zeroing (s : State) (n o : Nat) : Bool :=
  match s.aheadOf n (o / regionBytes) with
  | some a => !a.done
  | none => false

/-! ## Frames, frame tags, pool maps and heat lines (R374, R375, R393, R398) -/

def framesPerSet : Nat := 262144

/-- Address of frame line i of frame f of Gallery g: the Landing and its address. -/
def Gallery.frameLine (x : Gallery) (g f i : Nat) : Nat × Nat :=
  let loc := f * 1024 + i / 4 * 64
  let gr := (x.poolExt.getD (loc / granuleBytes) []).getD (i % 4) 0
  (4 * g + i % 4, gr * granuleBytes + loc % granuleBytes)

/-- Bytes of a block of the auxiliary area, on each Landing: 16 MiB of tags and 256 KiB of pool map. -/
def auxBlock : Nat := 2 ^ 24 + 2 ^ 18
/-- An address in the auxiliary area of a Landing of the Gallery: the heat area in the first granule set, then for each set of the
frame area a block with its part of the tag area and of the pool-map area (log entry 16, DESIGN CHOICE). -/
def Gallery.auxAddr (x : Gallery) (g i loc : Nat) : Nat × Nat :=
  let gr := (x.auxExt.getD (loc / granuleBytes) []).getD i 0
  (4 * g + i, gr * granuleBytes + loc % granuleBytes)

/-- Heat line h of a Gallery (R393). -/
def Gallery.heatLine (x : Gallery) (g h : Nat) : Nat × Nat := x.auxAddr g (h % 4) (h / 4 * 64)
/-- Frame tag line t = 4f + (i div 16), and the slot (R375). -/
def Gallery.frameTag (x : Gallery) (g f i : Nat) : (Nat × Nat) × Nat :=
  (x.auxAddr g (i / 16 % 4) (granuleBytes + f / framesPerSet * auxBlock + f % framesPerSet * 64), i % 16)
/-- Pool-map line of frame f, sixteen frames to a line, and the entry's index (R398). -/
def Gallery.poolLine (x : Gallery) (g f : Nat) : (Nat × Nat) × Nat :=
  let j := f % framesPerSet / 16
  (x.auxAddr g (j % 4) (granuleBytes + f / framesPerSet * auxBlock + 2 ^ 24 + j / 4 * 64), f % 16)

/-- Frames in the frame area. -/
def Gallery.frames (x : Gallery) : Nat := x.poolExt.length * framesPerSet
def Gallery.entry (x : Gallery) (f : Nat) : PoolEntry :=
  (lookupN x.pool f).getD { alcoves := 0, hall := 0, bound := false, quar := false }

/-- Heat lines of the parts of a hall's run in one Gallery (R393). -/
def Hall.heatPageLines (h : Hall) : Nat := h.heatSize * 512 / max 1 h.galleries.length
def Hall.heatRegionLines (h : Hall) : Nat := 4 * h.heatSize
def Hall.heatGigLines (h : Hall) : Nat := cdiv (cdiv h.heatSize 4) 21
def Hall.heatRun (h : Hall) : Nat := h.heatPageLines + h.heatRegionLines + h.heatGigLines

/-- A counter's heat line within the Gallery and its bit position and width (R392, R393). -/
structure HeatAt where
  line : Nat
  lo : Nat
  width : Nat
  deriving DecidableEq, Repr

def Hall.heatAt (h : Hall) (base p : Nat) : List HeatAt :=
  let m := max 1 h.galleries.length
  let u := p / m
  let r := p / 512
  let i := p / 262144
  [ { line := base + u / 128, lo := 8 * (u % 128 / 2) + 4 * (u % 2), width := 4 }
  , { line := base + h.heatPageLines + r / 32, lo := 16 * (r % 32), width := 16 }
  , { line := base + h.heatPageLines + h.heatRegionLines + i / 21, lo := 24 * (i % 21), width := 24 } ]

/-- A field of a line, and the line with it replaced. -/
def lineFld (x : BitVec 512) (lo w : Nat) : Nat := (x.toNat >>> lo) % 2 ^ w
def setLineFld (x : BitVec 512) (lo w v : Nat) : BitVec 512 :=
  (x &&& ~~~(BitVec.ofNat 512 ((2 ^ w - 1) <<< lo))) ||| BitVec.ofNat 512 ((v % 2 ^ w) <<< lo)

/-! ## Granules (R110, R112, R320, R402, R404) -/

/-- Granules of a Landing in use by halls and pools, and the calibration granule. -/
def State.usedGranules (s : State) (l : Nat) : List Nat :=
  let ofMap (h : Hall) (m : List (List Nat)) : List Nat :=
    match h.members.idxOf? l with
    | some i => m.getD i []
    | none => []
  let hallUse := s.halls.flatMap fun e =>
    ((ofMap e.2 e.2.ext).zipIdx.filterMap fun p => if e.2.unbacked.contains p.2 then none else some p.1) ++
      ofMap e.2 e.2.tagExt ++ ofMap e.2 e.2.mapExt
  let g := s.gal (l / 4)
  let poolUse := (g.poolExt ++ g.auxExt).map fun st => st.getD (l % 4) 0
  hallUse ++ poolUse ++ (if (s.land l).sbd.started then [(s.land l).granules - 1] else [])

/-- Free granules of a Landing, lowest first; none of a fenced Landing or one not started (R507). -/
def State.freeGranules (s : State) (l : Nat) : List Nat :=
  if s.landFenced l || !(s.land l).sbd.started then []
  else
    let used := s.usedGranules l
    (List.range (s.land l).granules).filter fun x => !used.contains x

/-- Allocated granules that patrol scrub reads (R236). -/
def State.scrubGranules (s : State) (l : Nat) : List Nat :=
  let used := s.usedGranules l
  (List.range ((s.land l).granules - 1)).filter fun x => used.contains x

/-- Lines allocated on a Landing that scrub reads. -/
def State.allocLines (s : State) (l : Nat) : Nat := (s.scrubGranules l).length * 2 ^ 22

/-- Block flights in a pass time in hours, to the nearest flight. -/
def State.passFlights (s : State) (hours : Nat) : Nat :=
  let ns := 16 * s.flightWritten
  max 1 ((hours * 3600000000000 + ns / 2) / max 1 ns)

/-- `STEP` for the Landing's allocation and requested pass time. -/
def State.stepFor (s : State) (l : Nat) : Nat := min 65535 (cdiv (s.allocLines l) (s.passFlights (s.land l).mnt.passHours))

/-- Firmware writes `STEP` anew, when the allocation or the requested time has changed. -/
def State.setStep (s : State) (l : Nat) : State :=
  let w := mergeMask 0xFFFF (s.lw l 0x61C) (at_ 0 (s.stepFor l))
  if w = s.lw l 0x61C then s else s.putLand l 0x61C w
/-- The same for every Landing of a list. -/
def State.setSteps (s : State) (ls : List Nat) : State := ls.foldl (fun s l => s.setStep l) s

/-- Granules per member of each region of a hall of size g over n Landings (R111). -/
def tagGranules (integ : Bool) (g n : Nat) : Nat := if integ then roundUp (cdiv g 16) n else 0
def mapGranules (cmp : Bool) (g n : Nat) : Nat := if cmp then roundUp (cdiv g 512) n else 0
/-- Granules a hall commits (R404). -/
def commitGranules (elastic : Bool) (g n : Nat) : Nat := if elastic then roundUp (cdiv g 2) n else g

/-- The size that a hall's allocation covers: the new one while it grows (R119). -/
def Hall.promised (h : Hall) : Nat :=
  match h.phase with
  | .growing g => g
  | _ => h.size

/-- Granules committed on a Landing by halls and pools (R112). -/
def State.committed (s : State) (l : Nat) : Nat :=
  let halls := (s.halls.map fun e =>
    let h := e.2
    let n := h.members.length
    if h.members.contains l then
      let g := h.promised
      (commitGranules h.elastic g n + tagGranules h.integ g n + mapGranules h.cmp g n) / n
    else 0).foldl (· + ·) 0
  let g := s.gal (l / 4)
  let unbacked := (s.halls.map fun e =>
    if e.2.members.contains l then e.2.unbacked.length else 0).foldl (· + ·) 0
  halls + (g.poolExt.length - unbacked) + g.auxExt.length

/-- Does each Landing of a set have `free` free granules and room for `commit` more committed ones. -/
def State.roomFor (s : State) (members : List Nat) (free commit : Nat) : Bool :=
  members.all fun l =>
    decide (free ≤ (s.freeGranules l).length) && decide (s.committed l + commit + 1 ≤ (s.land l).granules)

/-- Take the k lowest free granules on each member Landing. -/
def State.takeGranules (s : State) (members : List Nat) (skip k : Nat) : List (List Nat) :=
  members.map fun l => ((s.freeGranules l).drop skip).take k

end Sys2Proof.Machine
end

