-- ==== Sys2Proof/Machine/Cmd.lean ====
section
/-! DEFINITION. The DDR5 commands of a plan (R29, R154, R156, R178), the word that each puts on the bus, and taking a command
of a plan back (R181, R187, R190). -/

namespace Sys2Proof.Machine

/-- The edge of a CCLK cycle: the first at or after it. -/
def edgeOfCycle (rate cycle : Nat) : Nat := cdiv (cycle * rate) 4000

/-- Two-cycle commands of DDR5; the others take one edge of DCA (log entry 66, PRESUMED). -/
def Cmd.edges : Cmd → Nat
  | .act => 2
  | .rd => 2
  | .wr => 2
  | .rda => 2
  | .wra => 2
  | .mrr => 2
  | .mrw => 2
  | _ => 1

def Cmd.isRead : Cmd → Bool
  | .rd => true
  | .rda => true
  | .mrr => true
  | _ => false
def Cmd.isWrite : Cmd → Bool
  | .wr => true
  | .wra => true
  | _ => false
def Cmd.isCas (c : Cmd) : Bool := c.isRead || c.isWrite
/-- Precharges. -/
def Cmd.isPre : Cmd → Bool
  | .pre => true
  | .preSb => true
  | .preAb => true
  | _ => false
/-- Commands that act on every bank of a rank. -/
def Cmd.allBanks : Cmd → Bool
  | .preAb => true
  | .refAb => true
  | .rfmAb => true
  | .drfmAb => true
  | .zqLatch => true
  | .mrr => false
  | .mrw => true
  | .mpc => true
  | .srEnter => true
  | .srExit => true
  | .pdEnter => true
  | .pdExit => true
  | _ => false
/-- Commands that act on one bank index of every bank group. -/
def Cmd.oneIndex : Cmd → Bool
  | .preSb => true
  | .refSb => true
  | .rfmSb => true
  | .drfmSb => true
  | _ => false

/-- The busy-time rule of a refreshing command. -/
def Cmd.busyRule : Cmd → Option Nat
  | .refAb => some 21
  | .refSb => some 22
  | .rfmAb => some 23
  | .rfmSb => some 24
  | .drfmAb => some 25
  | .drfmSb => some 26
  | _ => none

/-- A command to be placed. -/
structure Want where
  cmd : Cmd
  sub : Nat
  rank : Nat
  bg : Nat
  bank : Nat
  row : Nat
  col : Nat
  deriving DecidableEq, Repr

/-- The number of a command, for its encoding. -/
def Cmd.code : Cmd → Nat
  | .act => 0
  | .pre => 1
  | .preSb => 2
  | .preAb => 3
  | .rd => 4
  | .wr => 5
  | .rda => 6
  | .wra => 7
  | .refAb => 8
  | .refSb => 9
  | .rfmAb => 10
  | .rfmSb => 11
  | .drfmAb => 12
  | .drfmSb => 13
  | .zqStart => 14
  | .zqLatch => 15
  | .mrr => 16
  | .pdEnter => 17
  | .pdExit => 18
  | .srEnter => 19
  | .srExit => 20
  | .mrw => 21
  | .mpc => 22

/-- The chip-select line and the CID bits of a rank (R154). -/
def rankCs (r : Nat) : Nat := r % 2
def rankCid (r : Nat) : Nat := r / 2 % 4

/-! ## Ranks and modules (R153) -/

/-- The slot of a rank number. -/
def Geom.slot (g : Geom) (r : Nat) : Nat := if g.dpc2 then r / (max 1 (g.ranks / 2)) else 0

/-- How two ranks lie to each other (R167): 0 same rank, 1 other pseudo-channel of the same MRDIMM, 2 other rank of
the same module, 3 other module, 4 other rank of the same pseudo-channel. -/
def Geom.relation (g : Geom) (a b : Nat) : Nat :=
  if a = b then 0 else if g.slot a ≠ g.slot b then 3 else if !g.mrd then 2 else if a % 2 ≠ b % 2 then 1 else 4

/-- Consecutive bursts to these ranks count as a rank switch (R170). -/
def Geom.switches (g : Geom) (a b : Nat) : Bool := decide (2 ≤ g.relation a b)

/-- Two commands of one rank meet in some bank. -/
def meets (a b : Cmd) (aBg aBank bBg bBank : Nat) : Bool :=
  a.allBanks || b.allBanks || (aBank == bBank && (a.oneIndex || b.oneIndex || aBg == bBg))

/-- The edge at which the banks that a command closes or refreshes are IDLE again (R156). -/
def Issued.idleFrom (e : Issued) : Nat :=
  let v (i : Nat) : Nat := e.ck.getD i 0
  match e.cmd with
  | .rda => e.edge + v 13 + v 1
  | .wra => e.edge + v 37 + 8 + v 14 + v 1
  | c =>
    if c.isPre then e.edge + v 1
    else match c.busyRule with
      | some i => e.edge + v i
      | none => 0

/-- Every bank of a rank is IDLE at edge `k`. -/
def Seq.banksIdle (q : Seq) (sub rank k : Nat) : Bool :=
  !(q.rows.any fun o => o.sub == sub && o.rank == rank) &&
    !(q.hist.any fun e => e.sub == sub && e.rank == rank && decide (k < e.idleFrom))

/-- The open row of a bank. -/
def Seq.rowAt (q : Seq) (sub rank bg bank : Nat) : Option OpenRow :=
  q.rows.find? fun o => o.sub == sub && o.rank == rank && o.bg == bg && o.bank == bank

/-- A bank is IDLE (R156): its row is closed, its precharge or refresh has ended, and its rank is not in POWER_DOWN. -/
def Seq.bankIdle (q : Seq) (c : Coord) (k : Nat) : Bool :=
  (q.rowAt c.sub c.rank c.bg c.bank).isNone && !(q.pd.contains (c.sub, c.rank)) &&
    !(q.hist.any fun e => e.sub == c.sub && e.rank == c.rank && meets e.cmd .act e.bg e.bank c.bg c.bank && decide (k < e.idleFrom))

/-- DPAR of a command: even parity over DCA (R41). -/
def Want.dpar (w : Want) : Bool :=
  let x := (Config.dca w.cmd.code (rankCid w.rank) w.bg w.bank w.row w.col).toNat
  (List.range 28).foldl (fun p i => p ^^ x.testBit i) false

/-- An RAA count one lower (R228). -/
def Mnt.uncount (m : Mnt) (k : Nat × Nat × Nat × Nat) : Mnt :=
  { m with raa := (mapIf (fun e => e.1 == k) (fun e => (e.1, e.2 - 1)) m.raa).filter fun e => e.2 ≠ 0
           raaStop := m.raaStop.filter fun e => e != k }

/-- What the Maintenance Unit counted for a command that was not issued. -/
def Mnt.untake (m : Mnt) (c : PlanCmd) : Mnt :=
  let k := (c.sub, c.rank, c.bg, c.bank)
  let m := if c.counted then m.uncount k else m
  let m := if c.sampled then { m with owedDrfm := m.owedDrfm.filter (fun e => e.1 != k), drfmRows := m.drfmRows.filter fun e => e.1 != k } else m
  if c.sample then { m with drfmRows := c.closed.foldl (fun r o => r ++ [((o.sub, o.rank, o.bg, o.bank), o.row)]) m.drfmRows } else m

/-- Take a command of a plan back: its timer entry and what it changed go, and its access, claim or hint returns to its queue. -/
def State.unplace (s : State) (l : Nat) (c : PlanCmd) : State :=
  let s := s.modSeq l fun q =>
    let back := match c.acc with
      | some id => q.inflight.filter fun a => a.id == id && c.cmd.isRead
      | none => []
    let wback := match c.acc with
      | some id => (q.wrote.filter fun e => e.2.id == id && c.cmd.isWrite).map (·.2)
      | none => []
    let here (e : Nat) (b : Nat) : Bool := e == c.edge && b == c.sub
    { q with planNow := q.planNow.filter (fun e => !here e.edge e.sub)
             planNext := q.planNext.filter (fun e => !here e.edge e.sub)
             claims := (match c.claim with
               | some a => if c.cmd.isPre || c.cmd == .pdExit || q.claims.any (fun e => e.id == a.id) then q.claims else q.claims ++ [{ a with ready := true }]
               | none => q.claims)
             hints := q.hints ++ c.hint.toList
             hist := q.hist.filter (fun e => !here e.edge e.sub)
             rq := back ++ q.rq, inflight := q.inflight.filter fun a => !(back.any fun b => b.id == a.id)
             wq := wback ++ q.wq, wrote := q.wrote.filter fun e => !(wback.any fun b => b.id == e.2.id)
             rows := c.closed ++ (if c.cmd = .act then q.rows.filter fun o =>
               !(o.sub == c.sub && o.rank == c.rank && o.bg == c.bg && o.bank == c.bank) else q.rows)
             pd := if c.woke then q.pd ++ [(c.sub, c.rank)] else if c.cmd = .pdEnter then q.pd.filter fun e => e != (c.sub, c.rank) else q.pd }
  s.modMnt l fun m => m.untake c

/-- Take commands back, the latest first. -/
def State.unplaceAll (s : State) (l : Nat) (cs : List PlanCmd) : State :=
  (cs.mergeSort fun a b => decide (b.edge ≤ a.edge)).foldl (fun s c => s.unplace l c) s

end Sys2Proof.Machine
end

