-- ==== Sys2Proof/Machine/Arcade.lean ====
section
/-! DEFINITION. The Arcade ring (R447–R452): packets enter whole, wide words leave. Word positions count
from the last time the buffer was empty; the ring holds the newest 65,536 words. -/

namespace Sys2Proof.Machine

/-- Words of the 256 KiB ring. -/
def ringWords : Nat := 65536

/-- The write pointer. -/
def Arcade.wptr (a : Arcade) : Nat := a.base + a.words.length

/-- The first packet wholly at or after a position; the write pointer where there is none. -/
def Arcade.firstFrom (a : Arcade) (pos : Nat) : Nat :=
  match a.packets.find? fun p => decide (pos ≤ p.first) with
  | some p => p.first
  | none => a.wptr

/-- Keep only what the ring holds, and move the read pointer when its wide word has been overwritten
(R451). -/
def Arcade.trim (a : Arcade) : Arcade :=
  let low := a.wptr - ringWords
  let hit := decide (a.rptr / 8 * 8 < low)
  { a with words := a.words.drop (low - a.base), base := max a.base low
           packets := a.packets.filter fun p => decide (low ≤ p.first)
           pads := a.pads.filter fun p => decide (low ≤ p.1)
           rptr := if hit then a.firstFrom low else a.rptr
           overrun := a.overrun || hit }

/-- The length word of a packet (R447). -/
def lengthWord (len src : Nat) (trunc snap : Bool) : W32 :=
  at_ 0 len ||| at_ 16 (b2n trunc) ||| at_ 17 (b2n snap) ||| at_ 24 src

/-- Write one packet: 65,535 words at most, the excess discarded with `TRUNC` (R449). -/
def Arcade.packet (a : Arcade) (src : Nat) (snap : Bool) (body : List W32) : Arcade :=
  let kept := body.take 65534
  let w := lengthWord (kept.length + 1) src (decide (65534 < body.length)) snap
  Arcade.trim { a with words := a.words ++ w :: kept
                       packets := a.packets ++ [{ first := a.wptr, len := kept.length + 1, src := src }] }

/-- `FLUSH` with no packet open: the partial wide word is padded and made readable (R452). -/
def Arcade.flush (a : Arcade) : Arcade :=
  let part := a.wptr % 8
  if part = 0 then a
  else Arcade.trim { a with words := a.words ++ List.replicate (8 - part) 0
                            pads := a.pads ++ [(a.wptr / 8, 4 * part)] }

/-- `MARK`: record the read pointer. -/
def Arcade.setMark (a : Arcade) : Arcade := { a with mark := some a.rptr }

/-- `REWIND`: back to the mark, or, when it has been overwritten, to the oldest packet with `MARK_LOST`.
With no mark recorded the command does nothing (log entry 123, DESIGN CHOICE). -/
def Arcade.rewind (a : Arcade) : Arcade :=
  match a.mark with
  | none => a
  | some m =>
    if m < a.base then { a with rptr := a.firstFrom a.base, markLost := true } else { a with rptr := m }

/-- `CLEAR`: empty the buffer and forget the mark. -/
def Arcade.clear (a : Arcade) : Arcade :=
  { a with words := [], base := 0, rptr := 0, pads := [], packets := [], mark := none }

/-- Readable wide words. -/
def Arcade.fill (a : Arcade) : Nat := a.wptr / 8 - a.rptr / 8

/-- The next wide word: its valid bytes and its eight words (R448); none while nothing is readable. -/
def Arcade.next (a : Arcade) : Option (Nat × List W32) :=
  if a.fill = 0 then none
  else
    let lo := a.rptr
    let hi := (lo / 8 + 1) * 8
    let ws := (a.words.drop (lo - a.base)).take (hi - lo)
    let whole := 4 * (hi - lo)
    let valid := match a.pads.find? fun p => p.1 = lo / 8 with
      | some p => p.2 - 4 * (lo % 8)
      | none => whole
    some (valid, ws ++ List.replicate (8 - ws.length) 0)

/-- Remove the next wide word. -/
def Arcade.advance (a : Arcade) : Arcade := { a with rptr := (a.rptr / 8 + 1) * 8 }

/-- The tag of a wide word (R448). -/
def arTag (valid : Nat) (empty : Bool) : W32 := at_ 0 valid ||| at_ 6 (b2n empty)

/-- A pop of the Arcade: the tag is the answer and the eight words are latched; EMPTY latches zeros. -/
def State.popWide (s : State) : W32 × State :=
  match s.arcade.next with
  | some (valid, ws) => (arTag valid false, { s with arcade := { s.arcade.advance with latch := ws } })
  | none => (arTag 0 true, { s with arcade := { s.arcade with latch := [] } })

/-- A stalled pop of the Arcade is answered once a wide word is readable. -/
def State.serveWide (s : State) : State :=
  match s.cfg.stalled with
  | some k =>
    if !k.arcade || s.arcade.next.isNone then s
    else
      let (w, s) := s.popWide
      s.endStall w k
  | none => s

/-- The Arcade changes, and a stalled pop may be answered. -/
def State.modArcade (s : State) (f : Arcade → Arcade) : State := State.serveWide { s with arcade := f s.arcade }

end Sys2Proof.Machine
end

