-- ==== Sys2Proof/Machine/Faults.lean ====
section
/-! DEFINITION. The Fault Collector's own part of a report (R498–R516): its class, the first-fault records,
counts and class states, the fence shadows, and the ends of states and conditions. What a report makes other
units do stands in Machine/React.lean. -/

namespace Sys2Proof.Machine

/-- The class of a source (R515): 1 C, 2 U, 3 F. The sources whose class the cause decides (7/03h, 10/F1h)
are given it by the detector. -/
def srcClass (subsys code : Nat) : Nat :=
  if code = 0xF0 then 1
  else if code = 0xF1 then
    (if subsys = 2 ∨ subsys = 6 then 3 else if subsys = 11 ∨ subsys = 14 ∨ subsys = 16 then 1 else 2)
  else if subsys = 10 then 3
  else if subsys = 15 then (if 4 ≤ code ∧ code ≤ 6 then 3 else 2)
  else if subsys = 1 ∨ subsys = 16 then 2
  else if subsys = 3 then (if code = 1 then 2 else 1)
  else if subsys = 4 then (if code = 2 then 2 else 1)
  else if subsys = 5 then (if code = 2 then 2 else 1)
  else if subsys = 6 then (if code = 1 ∨ code = 5 ∨ code = 7 then 1 else 2)
  else if subsys = 7 then (if code = 2 ∨ code = 4 then 2 else 1)
  else if subsys = 8 then (if code = 2 ∨ code = 4 then 2 else 1)
  else if subsys = 9 then 1
  else if subsys = 11 then 2
  else if subsys = 12 then (if code = 2 then 2 else 1)
  else if subsys = 14 then (if code = 3 then 1 else 2)
  else 1

/-- Sources that R515 lists: the code exists in its subsystem. -/
def srcExists (subsys code : Nat) : Bool :=
  if code = 0xF0 then decide (1 ≤ subsys ∧ subsys ≤ 16)
  else if code = 0xF1 then [1, 2, 6, 10, 11, 12, 13, 14, 16].contains subsys
  else
    let top := [2, 0, 2, 2, 3, 7, 4, 4, 3, 1, 2, 2, 0, 4, 7, 1].getD (subsys - 1) 0
    decide (1 ≤ subsys ∧ subsys ≤ 16 ∧ 1 ≤ code ∧ code ≤ top)

/-- Level sources (kind L of R515). -/
def srcLevel (subsys code : Nat) : Bool :=
  (subsys == 5 && (code == 1 || code == 2)) || (subsys == 7 && code == 4) || (subsys == 9 && code == 2) ||
    (subsys == 15 && decide (2 ≤ code ∧ code ≤ 7))

/-- The detail word of a source that names storage (R501). -/
def Coord.detail (c : Coord) : W32 :=
  at_ 0 (c.bg % 8) ||| at_ 3 (c.bank % 4) ||| at_ 5 (c.row % 2 ^ 18) ||| at_ 23 (c.sub % 2) ||| at_ 24 (c.rank % 8)

/-- A report without storage. -/
def rep (subsys code inst : Nat) (detail : W32) : Rep :=
  { subsys := subsys, code := code, inst := inst, cls := srcClass subsys code, detail := detail
    land := none, coord := none, port := none }
/-- A report naming a Landing. -/
def repL (subsys code l : Nat) (detail : W32) : Rep := { rep subsys code l detail with land := some l }
/-- A report naming storage of a Landing. -/
def repS (subsys code l : Nat) (c : Coord) : Rep := { repL subsys code l c.detail with coord := some c }

/-- The Landing that `INST` of a source names, if it names one (R515). -/
def srcLanding (subsys code inst : Nat) : Option Nat :=
  if (([3, 4, 5, 6, 7, 8].contains subsys || subsys == 10) && !(subsys == 7 && code == 4)) || (subsys == 15 && code == 2) ||
      (subsys == 14 && code == 4) then some inst else none

/-- The source word (R501). -/
def Rep.src (r : Rep) : W32 := at_ 0 r.code ||| at_ 8 r.inst ||| at_ 12 r.subsys ||| at_ 17 r.cls

/-! ## Fences and their shadows (R505–R509) -/

/-- Does the storage named by a report lie in the storage of a row, bank or rank fence. -/
def Fence.covers (f : Fence) (l : Nat) (c : Coord) : Bool :=
  f.landing == l && f.coord.sub == c.sub && f.coord.rank == c.rank &&
    match f.grain with
    | .rank => true
    | .bank => f.coord.bg == c.bg && f.coord.bank == c.bank
    | .row => f.coord.bg == c.bg && f.coord.bank == c.bank && f.coord.row == c.row
    | _ => false

/-- The detectors whose reports echo a fence (R508). -/
def Fence.echo (f : Fence) (r : Rep) : Bool :=
  let is (a b : Nat) : Bool := r.subsys == a && r.code == b
  match f.grain with
  | .landing =>
    match r.land with
    | some l => f.group.contains l &&
        ([3, 4, 5, 6, 7, 8].contains r.subsys || is 9 1 || is 9 2)
    | none => false
  | .cmp => (is 11 1 || is 11 2) && r.inst == f.gallery
  | .tier => is 12 1 || is 12 2 || is 12 3 || is 11 2
  | .port => ((is 1 1 || is 1 2) && r.inst == f.port) || ((is 3 1 || is 3 2) && r.port == some f.port)
  | _ =>
    (is 6 2 || is 6 3 || is 6 4 || is 5 3 || is 3 1 || is 3 2) &&
      match r.land, r.coord with
      | some l, some c => f.covers l c
      | _, _ => false

/-- The shadow runs: from the cycle after the start until 2 treads after the fence settled (R508). -/
def Fence.shadowed (f : Fence) (cycle : Nat) : Bool := f.shadow && decide (f.time < cycle)

/-- A report that only echoes a fence whose shadow runs; class F and integrity failures never do. -/
def State.consequential (s : State) (r : Rep) : Bool :=
  r.cls != 3 && s.flt.fences.any fun f => f.shadowed s.chip.cycle && f.echo r

/-- The code of a fence grain in event 10h (log entry 30, DESIGN CHOICE). -/
def grainCode : Grain → Nat
  | .row => 0
  | .bank => 1
  | .rank => 2
  | .landing => 3
  | .cmp => 4
  | .tier => 5
  | .port => 6

/-! ## A report (R502) -/

/-- Serial number of the module in the slot that holds a rank (R154: ranks from 4 up, or the upper half,
are slot 1's), or of the first module of the Landing. -/
def State.serialOf (s : State) (l : Nat) : W32 :=
  let b := (s.land l).sbd.slots
  match b[0], b[1] with
  | some m, _ => m.spd.serial
  | none, some m => m.spd.serial
  | none, none => 0

/-- Write a fault snapshot: source and detail words, the time and the status words of the unit named, which
the manual does not list (R450, R502). -/
def State.snapshot (s : State) (r : Rep) : State :=
  let body := [r.src, r.detail, BitVec.ofNat 32 s.now, BitVec.ofNat 32 (s.now / 2 ^ 32)] ++
    (List.range 59).map (Config.snapshotWord r.src)
  s.modArcade fun a => a.packet ((r.subsys - 1) * 16 + r.inst) true body

/-- The record of a class takes a report, or overflows (R502). -/
def Flt.latch (f : Flt) (k : Nat) (r : Rep) (time : Nat) : Flt :=
  match (f.first[k]?).getD none with
  | none => { f with first := f.first.setIfInBounds k (some { src := r.src, detail := r.detail, time := time }) }
  | some _ => { f with ovf := f.ovf.setIfInBounds k true }

/-- A report reaches the Fault Collector at time `time` (R502). `grain` is the code of the fence it starts,
FFh for none. -/
def State.reportAt (s : State) (r : Rep) (grain time : Nat) : State :=
  if s.consequential r then
    (s.modFlt fun f => { f with conseq := satInc f.conseq }).bumpB 0x206C 1
  else
    let k := r.cls - 1
    let wasFull := ((s.flt.first[k]?).getD none).isSome
    let wasActive := (s.flt.active[k]?).getD false
    let s := (s.modFlt fun f =>
      let f := f.latch k r time
      { f with count := f.count.setIfInBounds k (satInc ((f.count[k]?).getD 0))
               lastReport := f.lastReport.setIfInBounds k s.now }).bumpB (0x2060 + 4 * k) 1
    if wasActive then s
    else
      let s := s.modFlt fun f =>
        { f with active := f.active.setIfInBounds k true, irq := f.irq ||| BitVec.ofNat 4 (2 ^ k) }
      let s := s.snapshot r
      let s := s.history (.history r.cls r.src.toNat time ((r.land.map s.serialOf).getD 0) r.detail false)
      if k = 0 then s
      else s.post 0x10 0 [at_ 0 r.cls, r.src, r.detail, at_ 0 grain, at_ 0 (b2n (!wasFull))]

/-- A report now. With CORE off the always-on domain holds the first one of subsystem 15 (R513). -/
def State.report (s : State) (r : Rep) (grain : Nat) : State :=
  if s.chip.coreOn then s.reportAt r grain s.now
  else if r.subsys = 15 ∧ s.flt.heldP3 = none then s.modFlt fun f => { f with heldP3 := some (r, s.now) }
  else s

/-- A level condition begins to hold. -/
def State.levelOn (s : State) (r : Rep) : State :=
  if s.flt.levels.contains r then s else s.modFlt fun f => { f with levels := f.levels ++ [r] }

/-- The level conditions of a source at a unit end; the quiet period of their class counts from here
(R511). -/
def State.levelOff (s : State) (subsys code inst : Nat) : State :=
  s.modFlt fun f =>
    let gone := f.levels.filter fun r => r.subsys == subsys && r.code == code && r.inst == inst
    { f with levels := f.levels.filter fun r => !(r.subsys == subsys && r.code == code && r.inst == inst)
             lastReport := gone.foldl (fun v r => v.setIfInBounds (r.cls - 1) s.now) f.lastReport }

/-- Does a level condition of the source hold at the unit. -/
def State.levelHolds (s : State) (subsys code inst : Nat) : Bool :=
  s.flt.levels.any fun r => r.subsys == subsys && r.code == code && r.inst == inst

/-- A class state ends (R511, R512): the record and the overflow bit go to the fault history and are
cleared. -/
def State.endClass (s : State) (k : Nat) : State :=
  let s := match (s.flt.first[k]?).getD none with
    | some rec =>
      let serial := ((srcLanding (fld rec.src 16 12) (fld rec.src 7 0) (fld rec.src 11 8)).map s.serialOf).getD 0
      s.history (.history (k + 1) rec.src.toNat rec.time serial rec.detail ((s.flt.ovf[k]?).getD false))
    | none => s
  s.modFlt fun f =>
    { f with first := f.first.setIfInBounds k none, ovf := f.ovf.setIfInBounds k false
             active := f.active.setIfInBounds k false }

/-- Order of reports that arrive in one cycle (R500): class F first, then subsystem, instance, code. -/
def Rep.rank (r : Rep) : Nat := ((3 - r.cls) * 32 + r.subsys) * 4096 + r.inst * 256 + r.code

/-- Insert into a list ordered by rank. -/
def insertRep (r : Rep) : List Rep → List Rep
  | [] => [r]
  | x :: xs => if r.rank < x.rank then r :: x :: xs else x :: insertRep r xs
def sortReps (l : List Rep) : List Rep := l.foldl (fun acc r => insertRep r acc) []

end Sys2Proof.Machine
end

