-- ==== Sys2Proof/Machine/Ports.lean ====
section
/-! DEFINITION. Responses of the host ports and DBG: their forming, order, credits and lateness (R81–R100,
R149), and the port's locked sequences (R88–R90). -/

namespace Sys2Proof.Machine

/-! ## Reading a port -/

/-- OPC[4] of a request: WRQ class. -/
def Opc.wrq : Opc → Bool
  | .mrd => false
  | .unlk => false
  | .mwr => true
  | .mwrp => true
  | .bad w => w

/-- Answered by a DAT. -/
def Opc.dat : Opc → Bool
  | .mrd => true
  | _ => false

/-- A write opcode. -/
def Opc.write : Opc → Bool
  | .mwr => true
  | .mwrp => true
  | _ => false

/-- The user-page address of a count of a host port (R524). -/
def userCount (p off : Nat) : Nat := 0x20000 + p * 0x1000 + off

def Port.txn (x : Port) (id : Nat) : Option Txn := x.txns.find? fun t => t.id = id

/-- Two requests address one line: of one hall, or, where one of them was refused before a hall was known, by the same `LDID` and
address (R97). -/
def Txn.sameLine (a b : Txn) : Bool :=
  if a.hall.isSome && b.hall.isSome then a.hall == b.hall && a.off / 64 == b.off / 64
  else a.hdr.ldid == b.hdr.ldid && a.hdr.addr == b.hdr.addr

def Port.modTxn (x : Port) (id : Nat) (f : Txn → Txn) : Port := { x with txns := mapIf (fun t => t.id = id) f x.txns }
def State.modTxn (s : State) (p id : Nat) (f : Txn → Txn) : State := s.modPort p fun x => x.modTxn id f

/-- The open or broken sequence of an LDID on the port. -/
def Port.seqOf (x : Port) (ldid : Nat) : Option LockSeq := x.seqs.find? fun q => q.ldid = ldid

/-! ## DLOAD and the response header (R82–R84) -/

/-- Load of a Landing: read- and write-queue entries together, in quarters of their 128 (log entry 82, DEDUCED). -/
def Seq.load (q : Seq) : Nat := min 3 ((q.rq.length + q.wq.length) / 32)

/-- The status codes of R85; 9h to Fh are reserved and never sent. -/
def Status.code : Status → Nat
  | .ok => 0
  | .unmapped => 1
  | .denied => 2
  | .poisonedTarget => 3
  | .lockBroken => 4
  | .capacity => 5
  | .halted => 6
  | .fenced => 7
  | .malformed => 8

/-- The header word of a response (R82): OPC 21h or 22h, and bits [127:30] 0. -/
def Resp.word (r : Resp) : BitVec 128 :=
  BitVec.ofNat 128 ((if r.dat then 0x22 else 0x21) + r.tag.toNat * 2 ^ 6 + r.ldid.toNat * 2 ^ 18 + r.status.code * 2 ^ 22 +
    b2n r.poison * 2 ^ 26 + b2n r.late * 2 ^ 27 + r.dload % 4 * 2 ^ 28)

/-- The response to a request: a DAT with a status other than `OK`, or poisoned, carries zeros. `HALTED` reports no load (R83). -/
def State.respOf (s : State) (p : Nat) (t : Txn) (st : Status) (poison : Bool) (data : BitVec 512) : Resp :=
  let bad := poison || st != .ok
  { port := p, dat := t.opc.dat, tag := t.hdr.tag, ldid := t.hdr.ldid, status := st
    poison := t.opc.dat && bad, late := false
    dload := if st = .halted then 0 else (t.landing.map fun l => (s.land l).seq.load).getD 0
    data := if t.opc.dat && !bad then data else 0, header := 0 }

/-! ## Sending (R81, R93, R94, R97, R99, R149) -/

/-- May a formed response leave: its credit is held, no earlier request to the line is unanswered, and in
ordered mode no earlier request of its LDID. -/
def Port.sendable (x : Port) : List Txn → Option Txn → Option Txn
  | [], found => found
  | t :: rest, found =>
    let later := x.sendable rest found
    match t.resp with
    | none => later
    | some r =>
      let earlier := x.txns.takeWhile fun e => e.id != t.id
      let credit := if r.dat then decide (0 < x.dat) else decide (0 < x.cpl)
      if credit && !(earlier.any fun e => e.sameLine t || (x.ordered && e.hdr.ldid == t.hdr.ldid)) then some t
      else later

/-- Late: the header leaves after the stamp. DBG and best-effort responses are never late (R81). -/
def State.isLate (s : State) (p : Nat) (t : Txn) : Bool :=
  p != 8 && t.dl && nearer t.stamp (stampOf s.now)

/-- The counts of a late response (R81, R149): the port's, and at the Landing that served it the miss, which
is excused when a condition of R147 failed there, and otherwise reported unless one failed at the Landing of its tag or
page-map read, so that not every condition was met. -/
def State.countLate (s : State) (p : Nat) (t : Txn) : State :=
  if t.hdr.due.toNat < 0x096 then s.bumpB (userCount p 0x1C) 1
  else
    let s := s.bumpB (userCount p 0x18) 1
    match t.landing with
    | none => s
    | some l =>
      let s := (s.bumpL l 0x40 1).status1Hold 2
      if t.excused then s.bumpL l 0x44 1
      else if t.metaFailed then s
      else s.report { repL 3 2 l 0 with port := some p } 0xFF

/-- A response leaves the block: one credit is spent, the request's own is returned unless it was before,
and the request is outstanding no more. -/
def State.send (s : State) (p : Nat) (t : Txn) (r : Resp) : State :=
  let late := s.isLate p t
  let r := { r with late := late }
  let s := { s with sent := { r with header := r.word } :: s.sent }
  let s := s.modPort p fun x =>
    { x with txns := x.txns.filter fun e => e.id != t.id
             cpl := if r.dat then x.cpl else x.cpl - 1
             dat := if r.dat then x.dat - 1 else x.dat
             req := if t.opc.wrq || t.credited then x.req else x.req + 1
             wrq := if t.opc.wrq && !t.credited then x.wrq + 1 else x.wrq }
  let s := if p < 8 ∧ r.status ≠ .ok then s.bumpB (userCount p 0x24) 1 else s
  if late then s.countLate p t else s

/-- Send every response that may leave; one held for want of a credit fails a condition of R147. -/
def State.trySend (s : State) (p : Nat) : Nat → State
  | 0 => s
  | n + 1 =>
    match (s.port p).sendable (s.port p).txns none with
    | none => s.modPort p fun x =>
        { x with txns := mapIf (fun t => match t.resp with
            | some r => if r.dat then x.dat == 0 else x.cpl == 0
            | none => false) (fun t => { t with excused := true }) x.txns }
    | some t =>
      match t.resp with
      | none => s
      | some r => (s.send p t r).trySend p n

def State.flushPort (s : State) (p : Nat) : State := s.trySend p ((s.port p).txns.length + 1)

/-- Form a request's response, and send what may leave. A response once formed stays. -/
def State.form (s : State) (p id : Nat) (st : Status) (poison : Bool) (data : BitVec 512) : State :=
  match (s.port p).txn id with
  | none => s
  | some t =>
    if t.resp.isSome then s
    else
      let r := s.respOf p t st poison data
      (s.modTxn p id fun t => { t with resp := some r, wait := .formed }).flushPort p

/-- Form a response that carries no data. -/
def State.formS (s : State) (p id : Nat) (st : Status) : State := s.form p id st (st != .ok) 0

/-! ## The conditions of R147 -/

/-- A condition of R147 fails at the Landing now. -/
def State.boundFails (s : State) (l : Nat) : Bool :=
  let x := s.land l
  !s.dlMode l || !s.hostServes || !x.mnt.sameBank || x.arb.rsv.above ||
    (match x.arb.lock with
     | some g => (match g.cause with
       | .bpp _ _ => true
       | _ => false)
     | none => false) ||
    (x.arb.staging ++ x.arb.grantNext.toList).any (fun a => a.emergency) || x.seq.claims.any (fun a => a.emergency) ||
    x.seq.lstate != .run && x.seq.lstate != .retry || s.landFenced l

/-- A repair is under way on the bank (R264, R265). -/
def State.repairing (s : State) (l : Nat) (c : Coord) : Bool :=
  s.misc.repairs.any fun r => r.landing == l && r.coord.sub == c.sub && r.coord.rank == c.rank && r.coord.bg == c.bg && r.coord.bank == c.bank

/-- Numbers of the requests of a port that wait at a Landing on a bank under repair. -/
def State.repairDelays (s : State) (l p : Nat) : List Nat :=
  if s.misc.repairs.any fun r => r.landing == l then
    let x := s.land l
    (x.arb.staging ++ x.arb.grantNext.toList ++ x.seq.rq ++ x.seq.wq ++ x.seq.held).filterMap fun a => match a.client with
      | .host q id => if q = p ∧ s.repairing l (s.coord l a.addr) then some id else none
      | _ => none
  else []

/-- A condition of R147 has failed at a Landing for a request: at the Landing that serves it, or at one that serves its tag or
page-map read. -/
def Txn.failAt (t : Txn) (l : Nat) : Txn :=
  { t with excused := t.excused || t.landing == some l, metaFailed := t.metaFailed || t.metaAt.contains l }

/-- A condition of R147 fails at a Landing: it is noted for every request that the Landing serves. -/
def State.excuseAll (s : State) (l : Nat) : State :=
  { s with ports := s.ports.map fun x => { x with txns := x.txns.map fun t => t.failAt l } }

/-- Mark the requests served by a Landing while a condition fails there, and those that a repair of their bank delays (R265). -/
def State.excuse (s : State) (l : Nat) : State :=
  let fails := s.boundFails l
  { s with ports := s.ports.mapIdx fun p x =>
    let slow := s.repairDelays l p
    { x with txns := mapIf (fun t => fails || slow.contains t.id) (fun t => t.failAt l) x.txns } }

/-! ## Locks at a Landing (R22, R138–R142) -/

/-- Release a line: out of the line-lock table, and the grant with it when the sequence held it. -/
def State.unlockLine (s : State) (l addr : Nat) (mine : LockCause → Bool) : State :=
  let s := s.modSeq l fun q =>
    { q with lockTable := q.lockTable.filter fun e => !(e.addr == addr && mine e.cause) }
  s.modArb l fun a => match a.lock with
    | some g => if g.addr == addr && mine g.cause then { a with lock := none } else a
    | none => a

/-- A BPP sequence is over: out of the port's list, and its line released. -/
def State.endSeq (s : State) (p ldid : Nat) : State :=
  match (s.port p).seqOf ldid with
  | none => s
  | some q =>
    let s := s.modPort p fun x => { x with seqs := x.seqs.filter fun e => e.ldid != ldid }
    s.unlockLine q.landing q.addr fun c => c == .bpp p ldid

/-- A write of the access is already in a handed-off plan (R183). -/
def Seq.issued (q : Seq) (id : Nat) : Bool := q.wrote.any fun e => e.2.id == id

/-- Take an access out of staging and queues without a DRAM access. -/
def State.dropAccess (s : State) (l id : Nat) : State :=
  let keep (xs : List Access) : List Access := xs.filter fun a => a.id != id
  let s := s.modArb l fun a =>
    { a with staging := keep a.staging
             grantNext := match a.grantNext with
               | some g => if g.id == id then none else some g
               | none => none }
  s.modSeq l fun q => { q with rq := keep q.rq, wq := keep q.wq, held := keep q.held, inflight := keep q.inflight
                               checking := q.checking.filter fun e => e.1.id != id }

/-- Break a BPP sequence (R90): its line is released, and an accepted closing request not yet executed is
answered `st`; otherwise the sequence stays open in a broken state until its closing request comes. -/
def State.breakSeq (s : State) (p ldid : Nat) (st : Status) : State :=
  match (s.port p).seqOf ldid with
  | none => s
  | some q =>
    let s := s.unlockLine q.landing q.addr fun c => c == .bpp p ldid
    let closing := (s.land q.landing).arb.staging ++ (s.land q.landing).seq.held ++
      ((s.land q.landing).arb.grantNext.toList) ++ (s.land q.landing).seq.wq
    match closing.find? fun a => a.closes == some ldid && a.req == (if p = 8 then 12 else p) with
    | none => s.modPort p fun x => { x with seqs := mapIf (fun e => e.ldid = ldid) (fun e => { e with broken := true }) x.seqs }
    | some a =>
      let s := s.dropAccess q.landing a.id
      let s := s.modPort p fun x => { x with seqs := x.seqs.filter fun e => e.ldid != ldid }
      match a.client with
      | .host _ id => s.formS p id st
      | _ => s

end Sys2Proof.Machine
end

