-- ==== Sys2Proof/Machine/Rs.lean ====
section
/-! DEFINITION. The RS(80,64) code of R245 to R252 and R261: the field GF(2^8), the burst and symbol maps,
the encoder, the bounded-distance decoder with erasures, the acceptance policies and the classification. -/

namespace Sys2Proof.Machine

/-- Product in GF(2^8) over the polynomial 11Dh (R245): shift and add over the bits of `b`. -/
def gfMul (a b : Nat) : Nat :=
  ((List.range 8).foldl (fun (p : Nat × Nat) i =>
    let r := if b.testBit i then p.1 ^^^ p.2 else p.1
    let x := p.2 <<< 1
    (r, if 256 ≤ x then x ^^^ 0x11D else x)) (0, a)).1

/-- α^e, with α = 02h. -/
def gfExp : Nat → Nat
  | 0 => 1
  | e + 1 => gfMul 2 (gfExp e)

/-- a^n by repeated squaring over 8 exponent bits. -/
def gfPow (a n : Nat) : Nat :=
  ((List.range 8).foldl (fun (p : Nat × Nat) i =>
    (if n.testBit i then gfMul p.1 p.2 else p.1, gfMul p.2 p.2)) (1, a)).1

/-- Inverse of a nonzero element: a^254. -/
def gfInv (a : Nat) : Nat := gfPow a 254

/-- Value at `x` of a polynomial given by its coefficients, constant term first. -/
def polyEval (p : List Nat) (x : Nat) : Nat := p.foldr (fun c acc => c ^^^ gfMul acc x) 0

def polyAdd : List Nat → List Nat → List Nat
  | [], q => q
  | p, [] => p
  | a :: p, b :: q => (a ^^^ b) :: polyAdd p q

def polyScale (c : Nat) (p : List Nat) : List Nat := p.map (gfMul c)

def polyMul : List Nat → List Nat → List Nat
  | [], _ => []
  | a :: p, q => polyAdd (polyScale a q) (0 :: polyMul p q)

/-- The generator polynomial g(x) of R245, constant term first: (x - α^0)...(x - α^15). -/
def rsGen : List Nat := (List.range 16).foldl (fun g i => polyMul g [gfExp i, 1]) [1]

/-- The 16 check symbols of 64 data symbols (R249): the remainder of x^16 m(x) by g(x), by long division
from the highest data symbol down. -/
def rsChecks (data : List Nat) : List Nat :=
  data.reverse.foldl (fun r d =>
    let f := d ^^^ r.getD 15 0
    polyAdd (0 :: r.take 15) (polyScale f (rsGen.take 16))) (List.replicate 16 0)

/-- The codeword c_0 to c_79 of 64 data symbols: checks at positions 0 to 15. -/
def rsEncode (data : List Nat) : List Nat := rsChecks data ++ data

/-- Syndromes S_j = r(α^j), j from 0 to 15 (R250). -/
def rsSyndromes (r : List Nat) : List Nat := (List.range 16).map fun j => polyEval r (gfExp j)

/-- Berlekamp-Massey over a syndrome list: the locator of least degree. State: locator, previous locator,
degree, gap, previous discrepancy, syndromes seen (newest first). -/
def bmStep (st : List Nat × List Nat × Nat × Nat × Nat × List Nat) (s : Nat) :
    List Nat × List Nat × Nat × Nat × Nat × List Nat :=
  let (c, b, l, m, bd, seen) := st
  let seen' := s :: seen
  let d := (List.zipWith gfMul c seen').foldl (· ^^^ ·) 0
  let n := seen.length
  if d = 0 then (c, b, l, m + 1, bd, seen')
  else
    let c' := polyAdd c (List.replicate m 0 ++ polyScale (gfMul d (gfInv bd)) b)
    if 2 * l ≤ n then (c', c, n + 1 - l, 1, d, seen') else (c', b, l, m + 1, bd, seen')

def rsLocator (syn : List Nat) : List Nat :=
  (syn.foldl bmStep ([1], [1], 0, 1, 1, [])).1

/-- Drop zero coefficients of highest degree. -/
def polyTrim (p : List Nat) : List Nat := (p.reverse.dropWhile (· == 0)).reverse

/-- The formal derivative over a field of characteristic 2: odd coefficients stay. -/
def polyDeriv (p : List Nat) : List Nat :=
  (List.range (p.length - 1)).map fun i => if i % 2 = 0 then p.getD (i + 1) 0 else 0

/-- Find the error pattern of least weight with 2e + f ≤ 16 (R250): the error value at each of the 80
positions, or none when no such pattern exists. `erased` lists the erased positions. -/
def rsFind (r : List Nat) (erased : List Nat) : Option (List Nat) :=
  let syn := rsSyndromes r
  if syn.all (· == 0) then some (List.replicate 80 0)
  else
    let f := erased.length
    let gam := erased.foldl (fun g p => polyMul g [1, gfExp p]) [1]
    let msyn := (polyMul gam syn).take 16
    let lam := polyTrim (rsLocator (msyn.drop f))
    let all := polyTrim (polyMul gam lam)
    let omega := (polyMul all syn).take 16
    let der := polyDeriv all
    let found := (List.range 80).map fun p =>
      let xi := gfExp ((255 - p) % 255)
      if polyEval all xi = 0 then
        let den := polyEval der xi
        if den = 0 then 0 else gfMul (gfMul (gfExp p) (polyEval omega xi)) (gfInv den)
      else 0
    let fixed := List.zipWith (· ^^^ ·) r found
    let e := ((List.range 80).filter fun p => found.getD p 0 != 0 && !erased.contains p).length
    if (rsSyndromes fixed).all (· == 0) && decide (2 * e + f ≤ 16) then some found else none

/-- The device that supplies a position (R247, R248). -/
def deviceOf (x8 : Bool) (p : Nat) : Nat :=
  if x8 then (if p < 16 then 4 else (p - 16) / 16) else if p < 16 then 8 + p / 8 else (p - 16) / 8

/-- The positions a device supplies. -/
def devicePositions (x8 : Bool) (d : Nat) : List Nat := (List.range 80).filter fun p => deviceOf x8 p == d

/-- Error symbols of a pattern in each device outside the erased one: (device, count), counts above 0. -/
def errorDevices (x8 : Bool) (err : List Nat) (skip : Option Nat) : List (Nat × Nat) :=
  ((List.range (if x8 then 5 else 10)).map fun d =>
    (d, ((devicePositions x8 d).filter fun p => err.getD p 0 != 0).length)).filter fun e =>
      e.2 != 0 && some e.1 != skip

/-- Acceptance under `ECC_CTL.POLICY` (R251): FULL takes any pattern; DEVICE takes errors of one device,
and with x4 devices at most one further symbol in one other device. With a device erased and x4, one
further symbol is accepted (R260). -/
def rsAccept (full x8 : Bool) (erased : Option Nat) (err : List Nat) : Bool :=
  if full then true
  else
    let ds := errorDevices x8 err erased
    match erased with
    | some _ => (ds.map (·.2)).foldl (· + ·) 0 ≤ 1
    | none =>
      if x8 then ds.length ≤ 1
      else match ds with
        | [] => true
        | [_] => true
        | [a, b] => a.2 ≤ 1 || b.2 ≤ 1
        | _ => false

/-- The poison mask of R254 added at positions 0 to 15. -/
def rsMask (r : List Nat) : List Nat := (r.take 16).map (· ^^^ 0xA5) ++ r.drop 16

/-- The result of a decode: outcome, corrected symbols, error pattern outside an erased device. -/
structure Decode where
  outcome : EccOutcome
  symbols : List Nat
  errors : List Nat
  deriving DecidableEq, Repr

/-- The classification of R252 and R261. `erased` is the declared device of the rank. -/
def rsClassify (full x8 : Bool) (erased : Option Nat) (r : List Nat) : Decode :=
  let pos := match erased with | some d => devicePositions x8 d | none => []
  let fixBy (err : List Nat) := List.zipWith (· ^^^ ·) r err
  let outside (err : List Nat) := (List.range 80).map fun p => if pos.contains p then 0 else err.getD p 0
  let clear (err : List Nat) := (outside err).all (· == 0)
  if x8 && decide (pos.length = 16) then
    let dataZero := ((List.range 80).filter fun p => 16 ≤ p && !pos.contains p).all fun p => r.getD p 0 == 0
    let checks := (r.take 16).all (· == 0xA5)
    if dataZero && checks then ⟨.poison, r, []⟩
    else match rsFind r pos with
      | some err => ⟨.clean, fixBy err, []⟩
      | none => ⟨.clean, r, []⟩
  else
    let a := rsFind r pos
    let b := rsFind (rsMask r) pos
    let aClean := match a with | some e => clear e | none => false
    let bClean := match b with | some e => clear e | none => false
    let aOk := match a with | some e => rsAccept full x8 erased e | none => false
    let bOk := match b with | some e => rsAccept full x8 erased e | none => false
    match a, b with
    | some ea, _ =>
      if aClean then ⟨.clean, fixBy ea, []⟩
      else if bClean then ⟨.poison, r, []⟩
      else if aOk && !bOk then ⟨.corrected, fixBy ea, outside ea⟩
      else if bOk && !aOk then ⟨.poison, r, []⟩
      else ⟨.uncorrectable, r, []⟩
    | none, some _ => if bClean || bOk then ⟨.poison, r, []⟩ else ⟨.uncorrectable, r, []⟩
    | none, none => ⟨.uncorrectable, r, []⟩

/-- The device and symbol index of a position (R247, R248). -/
def symbolOf (x8 : Bool) (p : Nat) : Nat × Nat :=
  if x8 then (if p < 16 then (4, p) else ((p - 16) / 16, (p - 16) % 16))
  else if p < 16 then (8 + p / 8, p % 8) else ((p - 16) / 8, (p - 16) % 8)

/-- `n` bits of a burst on one beat from DQ `dq`: 40 DQ per beat, DQ[0] lowest (R246). -/
def burstBits (burst : BitVec 640) (beat dq n : Nat) : Nat := (burst.toNat >>> (40 * beat + dq)) % 2 ^ n

/-- The 80 received symbols of a burst, position 0 first. -/
def burstSymbols (x8 : Bool) (burst : BitVec 640) : List Nat :=
  (List.range 80).map fun p =>
    let (d, s) := symbolOf x8 p
    if x8 then burstBits burst s (8 * d) 8
    else burstBits burst (2 * s) (4 * d) 4 + 16 * burstBits burst (2 * s + 1) (4 * d) 4

/-- The burst that drives 80 symbols. -/
def symbolsBurst (x8 : Bool) (sym : List Nat) : BitVec 640 :=
  BitVec.ofNat 640 ((List.range 80).foldl (fun acc p =>
    let (d, s) := symbolOf x8 p
    let v := sym.getD p 0
    if x8 then acc ||| (v <<< (40 * s + 8 * d))
    else acc ||| ((v % 16) <<< (80 * s + 4 * d)) ||| ((v / 16) <<< (80 * s + 40 + 4 * d))) 0)

/-- The 64 B line as stored that a burst carries on DQ[31:0]: byte k on beat k div 4 (R246). -/
def burstLine (burst : BitVec 640) : BitVec 512 :=
  bytesLine ((List.range 64).map fun k => BitVec.ofNat 8 (burstBits burst (k / 4) (8 * (k % 4)) 8))

/-- The burst with a line on DQ[31:0] and zero check bits. -/
def lineBurst (x : BitVec 512) : BitVec 640 :=
  BitVec.ofNat 640 ((List.range 64).foldl (fun acc k =>
    acc ||| ((x.extractLsb' (8 * k) 8).toNat <<< (40 * (k / 4) + 8 * (k % 4)))) 0)

/-- The codeword of a stored line (R249), or the poison encoding (R254), as a burst. -/
def encodeLine (x8 poison : Bool) (x : BitVec 512) : BitVec 640 :=
  if poison then symbolsBurst x8 (List.replicate 16 0xA5 ++ List.replicate 64 0)
  else symbolsBurst x8 (rsEncode ((burstSymbols x8 (lineBurst x)).drop 16))

/-- Decode a burst: the outcome, the stored line as corrected, and the errors found (R252). -/
def decodeLine (full x8 : Bool) (erased : Option Nat) (burst : BitVec 640) :
    EccOutcome × BitVec 512 × List Nat :=
  let d := rsClassify full x8 erased (burstSymbols x8 burst)
  (d.outcome, burstLine (symbolsBurst x8 d.symbols), d.errors)

end Sys2Proof.Machine
end

