-- ==== Sys2Proof/Machine/Line.lean ====
section
/-! DEFINITION. A line on its way to and from a Landing: staging (R127, R136), the metadata caches and their
fetches (R358, R377, R393, R398), fenced places (R359, R507), the stored form of a line (R348–R356) and the
writes the block makes on its own (R25, R129, R257). -/

namespace Sys2Proof.Machine

/-! ## Staging -/

/-- A request of a requester for a line, with nothing else known of it. -/
def access (id : Nat) (client : Client) (req : Nat) (stamp : BitVec 32) (op : AccOp) (addr : Nat) : Access :=
  { id := id, client := client, req := req, stamp := stamp, dl := false, emergency := decide (req = 12)
    op := op, addr := addr, hall := none, data := 0, be := 0, stored := 0, poison := false, tag := none
    tagAt := none, off := 0, ready := false, opens := none, closes := none, inside := none, first := none
    stale := false, acc := stamp - 16380, entered := false, adm := 0, yields := false }

/-- The retry delay that half a slack allows, in cycles (R135, R136). -/
def slackDelay (urgent : Nat) (slack : Int) (delay : Nat) : Nat :=
  let d := min delay (max 4 (slack / 2)).toNat
  if slack ≤ urgent then min d 16 else d

/-- The urgent zone in cycles. -/
def State.urgent (s : State) (l : Nat) : Nat := 32 * fld (s.lv l 0) 23 16

def State.segOf (s : State) (g id : Nat) : Option SegFetch := (s.gal g).segs.find? fun e => e.id = id
def State.moveOf (s : State) (g id : Nat) : Option Move := (s.gal g).moves.find? fun e => e.id = id

/-- A claim of the Maintenance Unit is no line access. -/
def Access.isClaim (a : Access) : Bool :=
  match a.op with
  | .claim _ => true
  | _ => false

/-- The claim of a claim access. -/
def Access.claimKind (a : Access) : Option ClaimKind :=
  match a.op with
  | .claim k => some k
  | _ => none

/-- A granted claim of the Maintenance Unit works on the bank. -/
def ClaimKind.covers (k : ClaimKind) (c : Coord) : Bool :=
  match k with
  | .refAb s r => c.sub == s && c.rank == r
  | .rfmAb s r => c.sub == s && c.rank == r
  | .drfmAb s r => c.sub == s && c.rank == r
  | .aboRfm s r => c.sub == s && c.rank == r
  | .refSb s r b => c.sub == s && c.rank == r && c.bank == b
  | .rfmSb s r b => c.sub == s && c.rank == r && c.bank == b
  | .drfmSb s r b => c.sub == s && c.rank == r && c.bank == b
  | .zqStart s r => c.sub == s && c.rank == r
  | .zqLatch s r => c.sub == s && c.rank == r
  | .ecsRead s r => c.sub == s && c.rank == r
  | .retrain => true
  | .commit => false

/-- The row of the maintenance table that a claim is work of (R222). -/
def ClaimKind.row (k : ClaimKind) : Nat :=
  match k with
  | .refAb .. => 1
  | .refSb .. => 1
  | .rfmAb .. => 2
  | .rfmSb .. => 2
  | .drfmAb .. => 2
  | .drfmSb .. => 2
  | .aboRfm .. => 2
  | .retrain => 3
  | .commit => 3
  | .zqStart .. => 4
  | .zqLatch .. => 4
  | .ecsRead .. => 4

/-- The row of window work (R222); 0 for everything else. -/
def Access.row (a : Access) : Nat :=
  if a.emergency then 0
  else match a.claimKind with
    | some k => k.row
    | none => if a.client = .scrub && a.op == .read then 5 else 0

/-- A claim of refresh or row protection, emergencies among them: what a Landing in DRAIN still serves. -/
def Access.bankWork (a : Access) : Bool :=
  match a.claimKind with
  | some k => decide (k.row ≤ 2)
  | none => false

/-- The staged requests of a requester (R127). -/
def Arb.staged (x : Arb) (r : Nat) : List Access := x.staging.filter fun a => a.req == r && a.entered

/-- A port's data request: a line of its own, or a storage line that a read of a compressed page needs. -/
def Access.ofPort (a : Access) : Bool :=
  decide (a.req < 8) && match a.client with
    | .host .. => true
    | .seg .. => true
    | _ => false

/-- An MWRP with no byte enabled only orders: it makes no DRAM access (R76). -/
def Access.ordersOnly (a : Access) : Bool :=
  a.op == .write && !a.ready && match a.client with
    | .host .. => true
    | _ => false

/-- The request as it enters staging: a port's bias and `BE_ONLY` at this Landing are applied (R143). -/
def State.entering (s : State) (l : Nat) (a : Access) : Access :=
  if a.ofPort then
    let cfg := s.lv l (0x10 + 4 * a.req)
    { a with stamp := biased a.acc.toNat cfg a.stamp, dl := a.dl && !cfg.getLsbD 12, entered := true }
  else { a with entered := true }

/-- A retry delay being waited out is cut by a request that enters staging (R136). -/
def Arb.cutDelay (x : Arb) (urgent c : Nat) (a : Access) : Arb :=
  match (x.backoff[a.req]?).getD none with
  | some until_ =>
    if c < until_ then
      { x with backoff := x.backoff.setIfInBounds a.req (some (c + slackDelay urgent (slackOf a.stamp c) (until_ - c))) }
    else x
  | none => x

/-- A deadline request that `BE_ONLY` makes best effort is counted as a demotion, once (R143). -/
def State.demote (s : State) (p id : Nat) (stamp : BitVec 32) : State :=
  match (s.port p).txn id with
  | some t => if t.dl then (s.modTxn p id fun t => { t with dl := false, stamp := stamp }).bumpB (userCount p 0x20) 1 else s
  | none => s

/-- The transaction of a request takes the stamp that it was staged with (R129, R143). -/
def State.noteStamp (s : State) (old new : Access) : State :=
  match new.client with
  | .host p id =>
    if old.dl && !new.dl then s.demote p id new.stamp else s.modTxn p id fun t => { t with stamp := new.stamp }
  | .seg g f _ =>
    if old.dl && !new.dl then
      (((s.segOf g f).map fun e => e.waiters).getD []).foldl (fun s w => s.demote w.1 w.2.1 new.stamp) s
    else s
  | _ => s

/-- A request enters its requester's staging at a Landing, if one of the 16 places is free (R127, R136, R143). An emergency
there fails a condition of R147. -/
def State.enterStaging (s : State) (l : Nat) (a : Access) : State :=
  if 16 ≤ ((s.land l).arb.staged a.req).length then s
  else
    let b := s.entering l a
    let s := s.modArb l fun x : Arb =>
      { x with staging := x.staging.modify (x.staging.findIdx fun y : Access => y.id == a.id && !y.entered) fun _ => b }.cutDelay (s.urgent l) s.chip.cycle b
    let s := if b.emergency then s.excuseAll l else s
    s.noteStamp a b

/-- Requests that wait upstream enter staging where places are free, in order; the Maintenance Unit lets its claims go first
(log entry 91, DESIGN CHOICE). -/
def State.refill (s : State) (l : Nat) : State :=
  let up := (s.land l).arb.staging.filter fun a => !a.entered
  (up.filter (·.isClaim) ++ up.filter fun a => !a.isClaim).foldl (fun s a => s.enterStaging l a) s

/-- A request reaches a Landing: it enters staging, or waits upstream behind the earlier ones of its requester. -/
def State.stage (s : State) (l : Nat) (a : Access) : State :=
  (s.modArb l fun x => { x with staging := x.staging ++ [{ a with entered := false }] }).refill l

/-- The stamp and class under which a request would be staged now; a metadata read made for it carries them (R18). -/
def State.servedAs (s : State) (l : Nat) (a : Access) : Access :=
  if 16 ≤ ((s.land l).arb.staged a.req).length then a else s.entering l a

/-! ## Fenced places -/

/-- Does the line at a Landing address lie in fenced storage. -/
def State.placeFenced (s : State) (l addr : Nat) : Bool :=
  s.landFenced l ||
    (let c := s.coord l addr
     s.flt.fences.any fun f => f.active && f.covers l c)

/-- A fence of the bank or rank, whose acknowledged writes are discarded; a fenced row or Landing still drains them (R191). -/
def State.writeBarred (s : State) (l : Nat) (c : Coord) : Bool :=
  s.flt.fences.any fun f => f.active && (f.grain == .bank || f.grain == .rank) && f.covers l c

/-- Writes of the block's own to a place are discarded: a fenced bank or rank, or a Landing whose fence has settled. -/
def State.writeLost (s : State) (l addr : Nat) : Bool := s.writeBarred l (s.coord l addr) || (s.land l).seq.lstate == .fenced

/-! ## The stored form of a line -/

/-- The words a line of a hall is stored as at a place: AES-XTS with the hall's key when it is encrypted. -/
def State.cipherLine (s : State) (h : Hall) (l addr : Nat) (x : BitVec 512) : BitVec 512 :=
  if h.enc && s.chip.variant.cipher then xtsLine false h.key (lpaOf l addr) x else x

/-- Plaintext of a stored line. -/
def State.plainLine (s : State) (h : Hall) (l addr : Nat) (x : BitVec 512) : BitVec 512 :=
  if h.enc && s.chip.variant.cipher then xtsLine true h.key (lpaOf l addr) x else x

/-- The tag of a stored line of a hall with integrity (R352). -/
def State.tagOf (s : State) (n : Nat) (h : Hall) (l addr : Nat) (stored : BitVec 512) : BitVec 32 :=
  lineTag h.key (lpaOf l addr) n (s.epoch n) stored

/-! ## The metadata caches -/

def CacheLine.share (k : MetaKind) : MetaKind :=
  match k with
  | .poolMap => .pageMap
  | k => k

/-- Sets of a share (R38, R358): 4 MiB, 2 MiB and 0.5 MiB with the Compression Engine, else 6.5 MiB of tags. -/
def State.cacheSets (s : State) (g : Nat) (k : MetaKind) : Nat :=
  match CacheLine.share k with
  | .tag => (s.gal g).tagLines / 16
  | .heat => if s.chip.variant.cmpTier then 512 else 0
  | _ => if s.chip.variant.cmpTier then 2048 else 0

/-- The cached line of an LPA. -/
def State.cached (s : State) (g : Nat) (k : MetaKind) (lpa : Nat) : Option CacheLine :=
  (s.gal g).cache.find? fun c => c.kind == k && c.lpa == lpa

/-- Move a line to the front of its list. -/
def State.touch (s : State) (g : Nat) (k : MetaKind) (lpa : Nat) : State :=
  s.modGal g fun x =>
    let (mine, rest) := x.cache.partition fun c => c.kind == k && c.lpa == lpa
    { x with cache := mine ++ rest }

/-- Stage a write of the block's own; one to a fenced bank or rank is discarded (R191). -/
def State.ownPut (s : State) (l addr : Nat) (stamp : BitVec 32) (hall : Option Nat) (stored : BitVec 512)
    (poison yields : Bool) : State :=
  if s.writeLost l addr then s
  else
    let (id, s) := s.fresh
    s.stage l { access id .own 11 stamp .write addr with hall := hall, stored := stored, poison := poison, yields := yields }

/-- A write the block makes on its own, as the MU requester (R25, R129): `stored` is the line as stored. -/
def State.ownWrite (s : State) (l addr : Nat) (stamp : BitVec 32) (hall : Option Nat) (stored : BitVec 512)
    (poison : Bool) : State := s.ownPut l addr stamp hall stored poison false

/-- The write-back or poison write of a line that an access has read: it is not queued when a write of the line has been admitted
since that access was (R239, R257). -/
def State.rewrite (s : State) (l : Nat) (a : Access) (stored : BitVec 512) (poison : Bool) : State :=
  if a.stale then s else s.ownPut l a.addr a.stamp a.hall stored poison true

/-- The stored form of a metadata line: tag and page-map lines under the hall's key, heat and pool-map lines
plain (R348, R353, R377, R393, R398). -/
def State.metaStored (s : State) (c : CacheLine) : BitVec 512 :=
  match c.hall.bind s.hall with
  | some h => s.cipherLine h (lpaLanding c.lpa) (lpaAddr c.lpa) c.data
  | none => c.data

/-- Write a dirty metadata line back as best-effort work (R129, R358). -/
def State.writeBack (s : State) (g : Nat) (c : CacheLine) : State :=
  let s := if c.kind = .tag then s.bumpG g 0x3018 1 else s
  s.ownWrite (lpaLanding c.lpa) (lpaAddr c.lpa) (beStamp s.now) c.hall (s.metaStored c) false

/-- Bring a line into a cache, evicting the least recently used line of a full set (R358). -/
def State.insertMeta (s : State) (g : Nat) (c : CacheLine) : State :=
  let sets := s.cacheSets g c.kind
  if sets = 0 then s
  else
    let sameSet (e : CacheLine) : Bool :=
      CacheLine.share e.kind == CacheLine.share c.kind && e.lpa / 64 % sets == c.lpa / 64 % sets
    let others := (s.gal g).cache.filter fun e => !(e.kind == c.kind && e.lpa == c.lpa)
    let mates := others.filter sameSet
    if mates.length < 16 then s.modGal g fun x => { x with cache := c :: others }
    else
      match mates.getLast? with
      | none => s
      | some v =>
        let s := s.modGal g fun x => { x with cache := c :: others.filter fun e => !(e.kind == v.kind && e.lpa == v.lpa) }
        if v.dirty then s.writeBack g v else s

/-- Change a cached line; it becomes dirty. -/
def State.editMeta (s : State) (g : Nat) (k : MetaKind) (lpa : Nat) (f : BitVec 512 → BitVec 512) : State :=
  s.modGal g fun x =>
    { x with cache := mapIf (fun c => c.kind == k && c.lpa == lpa) (fun c => { c with data := f c.data, dirty := true }) x.cache }

/-- Outstanding fetches a kind may have: 256 tag-line reads (R358), 64 heat lines (R394). -/
def fetchLimit : MetaKind → Nat
  | .heat => 64
  | _ => 256

/-- Issue the read of a metadata line for a requester (R18). -/
def State.issueFetch (s : State) (g : Nat) (k : MetaKind) (lpa : Nat) (hall : Option Nat) (stamp : BitVec 32)
    (dl : Bool) (req : Nat) : State :=
  let (id, s) := s.fresh
  s.stage (lpaLanding lpa)
    { access id (.fill g k lpa) req stamp .read (lpaAddr lpa) with hall := hall, dl := dl }

/-- Look a metadata line up for a request: true when it is cached. A miss joins a fetch under way, starts one,
or waits for a slot (R358). -/
def State.needMeta (s : State) (g : Nat) (k : MetaKind) (lpa : Nat) (hall : Option Nat) (stamp : BitVec 32)
    (dl : Bool) (req : Nat) : Bool × State :=
  let isTag := k = .tag
  match s.cached g k lpa with
  | some _ => (true, (if isTag then s.bumpG g 0x3010 1 else s).touch g k lpa)
  | none =>
    let s := if isTag then s.bumpG g 0x3014 1 else s
    let x := s.gal g
    if x.fetches.any fun f => f.kind == k && f.lpa == lpa then (false, s)
    else
      let busy := (x.fetches.filter fun f => f.kind == k && f.started).length
      let start := decide (busy < fetchLimit k)
      let s := s.modGal g fun x =>
        { x with fetches := x.fetches ++ [{ kind := k, lpa := lpa, hall := hall, stamp := stamp, started := start, req := req, dl := dl, adds := [] }] }
      (false, if start then s.issueFetch g k lpa hall stamp dl req
              else if isTag then s.bumpG g 0x3020 1 else s)

/-- The Gallery whose cache holds a metadata line. -/
def metaGal (lpa : Nat) : Nat := lpaLanding lpa / 4

/-- Work that waits for a tag line asks for it, once: while its fetch is under way or waits for a slot there is no new lookup
(R358). -/
def State.awaitTag (s : State) (lpa : Nat) (a : Access) : State :=
  if (s.gal (metaGal lpa)).fetches.any fun f => f.kind == .tag && f.lpa == lpa then s
  else (s.needMeta (metaGal lpa) .tag lpa a.hall a.stamp a.dl a.req).2

/-- Slot t of a tag line (R353): the tag's four bytes in stored order. -/
def tagSlot (x : BitVec 512) (t : Nat) : BitVec 32 := x.extractLsb' (32 * t) 32
def setTagSlot (x : BitVec 512) (t : Nat) (v : BitVec 32) : BitVec 512 := setLineFld x (32 * t) 32 v.toNat

/-! ## Dirty lines of a Landing (R359) -/

def CacheLine.at (c : CacheLine) (l : Nat) : Bool := lpaLanding c.lpa == l

/-- Before a Landing leaves RUN: every dirty metadata line held for it enters its write queue. -/
def State.spillMeta (s : State) (l : Nat) : State :=
  let g := l / 4
  let dirty := (s.gal g).cache.filter fun c => c.at l && c.dirty
  let s := dirty.foldl (fun s c => s.writeBack g c) s
  s.modGal g fun x => { x with cache := mapIf (fun c => c.at l) (fun c => { c with dirty := false }) x.cache }

/-- A fence without a drain: the Landing's dirty lines are discarded, the tag lines among them counted. -/
def State.dropMeta (s : State) (l : Nat) : State :=
  let g := l / 4
  let lost := ((s.gal g).cache.filter fun c => c.at l && c.dirty && c.kind == .tag).length
  let s := s.modGal g fun x => { x with cache := x.cache.filter fun c => !(c.at l && c.dirty) }
  if lost = 0 then s else s.bumpG g 0x3024 lost

/-! ## Poison writes (R255, R257) -/

/-- The poison write of the line that an access found uncorrectable (R257). -/
def State.poisonWrite (s : State) (l : Nat) (a : Access) : State := s.rewrite l a 0 true

/-- A rewrite is not queued any more: a write of its line has been admitted since the read was, or the line's poison write is
queued already (R239, R257). -/
def Seq.superseded (q : Seq) (a : Access) : Bool :=
  a.yields && (a.stale || (a.poison && q.wq.any fun w => w.addr == a.addr && w.poison))

/-! ## Deadline class of an access for R146 -/

/-- Grants a request counts for in the window sum. -/
def Access.weight (a : Access) : Nat :=
  if a.dl then (if a.op = .rmw then 2 else 1) else 0

end Sys2Proof.Machine
end

