-- ==== Sys2Proof/Machine/Deliver.lean ====
section
/-! DEFINITION. What the end of a line access does for the one who asked for it: a host port, a DMA channel
(R420–R422), a Tier Engine move (R380, R400, R401), a segment fetch (R382, R385), a metadata fetch, or the
zeroing of a hall (R115–R119). -/

namespace Sys2Proof.Machine

/-- How an access ends. -/
inductive Arrival
  /-- a read line, decrypted and checked -/
  | data (d : BitVec 512)
  /-- the line decoded as POISON or UNCORRECTABLE -/
  | poison
  /-- a write is globally ordered -/
  | ordered
  /-- refused with a status of R85 -/
  | refused (st : Status)
  deriving DecidableEq, Repr

/-! ## DMA -/

/-- The DMA error code of a refusal (R421). -/
def dmaCode : Status → Nat
  | .unmapped => 2
  | .denied => 3
  | .fenced => 5
  | .capacity => 6
  | .poisonedTarget => 7
  | .lockBroken => 8
  | .halted => 0xB
  | _ => 1

/-- Record the first error of a descriptor (R422): code, direction (write true), hall, offset. -/
def DmaRun.fail (r : DmaRun) (code : Nat) (wr : Bool) (hall off : Nat) : DmaRun :=
  match r.err with
  | some _ => r
  | none => { r with err := some (code, wr, hall, off) }

/-- A descriptor that fails before any access: direction, hall and offset are a free value. -/
def DmaRun.failCheck (r : DmaRun) (code : Nat) (w : BitVec 59) : DmaRun :=
  r.fail code (w.getLsbD 0) (w.extractLsb' 1 10).toNat (w.extractLsb' 11 48).toNat

def modAt {α : Type} (l : List α) (i : Nat) (f : α → α) : List α := l.modify i f

/-- Halls of a descriptor's copy. -/
def DmaRun.srcHall (r : DmaRun) : Nat := fld (r.words.getD 2 0) 9 0
def DmaRun.dstHall (r : DmaRun) : Nat := fld (r.words.getD 2 0) 25 16

/-- A line of the source or destination side has its response. -/
def DmaRun.arrive (r : DmaRun) (wr : Bool) (i : Nat) (a : Arrival) : DmaRun × Nat :=
  let side := if wr then r.dsts else r.srcs
  match side[i]? with
  | none => (r, 0)
  | some ln =>
    let hall := if wr then r.dstHall else r.srcHall
    let done (f : DmaLine → DmaLine) : DmaRun :=
      let g := fun x => f { x with done := true }
      if wr then { r with dsts := modAt r.dsts i g } else { r with srcs := modAt r.srcs i g }
    match a with
    | .data d => (done fun x => { x with data := d }, 0)
    | .ordered => (done id, ln.hi - ln.lo)
    | .poison => ((done fun x => { x with failed := true }).fail (if wr then 7 else 4) wr hall (ln.off + ln.lo), 0)
    | .refused st => ((done fun x => { x with failed := true }).fail (dmaCode st) wr hall (ln.off + ln.lo), 0)

/-- A response of a DMA channel's request (R420, R422). -/
def State.dmaArrive (s : State) (ch : Nat) (wr : Bool) (i : Nat) (a : Arrival) : State :=
  s.modCh ch fun x =>
    match x.run with
    | none => x
    | some r =>
      let (r, n) := r.arrive wr i a
      { x with run := some r, doneBytes := x.doneBytes + n }

/-! ## Segment fetches and moves -/

def State.modSeg (s : State) (g id : Nat) (f : SegFetch → SegFetch) : State :=
  s.modGal g fun x => { x with segs := mapIf (fun e => e.id = id) f x.segs }
def State.modMove (s : State) (g id : Nat) (f : Move → Move) : State :=
  s.modGal g fun x => { x with moves := mapIf (fun e => e.id = id) f x.moves }

/-- Answer everyone who waits for a segment: hosts, DMA reads (R385, R386, R389). -/
def State.answerSeg (s : State) (f : SegFetch) (ans : Nat → Arrival) : State :=
  let s := f.waiters.foldl (fun s w =>
    match ans w.2.2 with
    | .data d => s.form w.1 w.2.1 .ok false d
    | .refused st => s.formS w.1 w.2.1 st
    | _ => s.form w.1 w.2.1 .ok true 0) s
  f.dmaWaiters.foldl (fun s w => s.dmaArrive w.1 false w.2.1 (ans w.2.2)) s

/-- Lines of a destination or a source read that a move abandons (R381, R408). -/
def State.abandonMove (s : State) (g id : Nat) : State := s.modMove g id fun m => { m with abandoned := true }

/-- A line of a move arrives or is ordered. A plain source that decodes bad abandons a demotion and marks
the page (R401); in a promotion it becomes a poisoned destination line. -/
def State.moveArrive (s : State) (g id i : Nat) (wr : Bool) (a : Arrival) : State :=
  s.modMove g id fun m =>
    match a with
    | .data d => { m with lines := putN m.lines i d }
    | .ordered => if wr then { m with written := m.written + 1 } else m
    | .poison => { m with poisoned := if m.poisoned.contains i then m.poisoned else m.poisoned ++ [i] }
    | .refused _ => { m with abandoned := true }

/-! ## Zeroing (R115–R119) -/

/-- The member of a hall and its local chunk that an offset lies in: the inverse of `chunkOffset`. -/
def Hall.chunkAt (h : Hall) (o : Nat) : Nat × Nat :=
  let n := max 1 h.members.length
  let q := o / 256 / n
  ((o / 256 % n + chunkHash q) % n, q)

/-- The lowest local chunk of a hall that some member has not zeroed: by the lines presented, those presented and not yet
ordered, and the ahead regions `lows` whose zeroing has not finished. -/
def Hall.lowChunk (h : Hall) (lows : List Nat) : Nat :=
  let n := max 1 h.members.length
  let byPos := h.zeroPos.foldl min (h.bytes / (256 * n) * 4) / 4
  let byOut := h.zeroOut.foldl (fun m o => min m (o / 256 / n)) byPos
  lows.foldl (fun m o => min m (o / 256 / n)) byOut

/-- W after the members' progress: 256·n times the lowest local chunk not yet zeroed (R115). It never falls. -/
def Hall.progress (h : Hall) (lows : List Nat) : Hall :=
  { h with w := max h.w (min h.bytes (256 * h.members.length * h.lowChunk lows)) }

/-- Where the unfinished ahead regions of a hall begin. -/
def State.aheadLows (s : State) (n : Nat) : List Nat :=
  (s.ahead.filter fun a => a.hall == n && !a.done).map (·.low)

/-- A hall's new record replaces the old one; when W reaches the hall's size, firmware posts event 18h (R473). -/
def State.advance (s : State) (n : Nat) (old new : Hall) : State :=
  let s := s.putHall n new
  if s.chip.fwReady && new.w == new.bytes && decide (old.w < old.bytes) then
    s.post 0x18 2 [at_ 0 n, at_ 0 (s.epoch n)]
  else s

/-- A hall's record changes, and W follows. -/
def State.advanceW (s : State) (n : Nat) (old new : Hall) : State := s.advance n old (new.progress (s.aheadLows n))

/-- A zero line of a hall is ordered, or was refused and is due again. -/
def State.zeroEnds (s : State) (n off : Nat) (ok : Bool) : State :=
  match s.hall n with
  | none => s
  | some h =>
    let new := { h with zeroOut := h.zeroOut.erase off }
    if ok then s.advanceW n h new
    else
      let (slot, q) := h.chunkAt off
      let back (z : Nat) : Nat := min z (4 * q + off % 256 / 64)
      match s.aheadOf n (off / regionBytes) with
      | some _ =>
        let mine (a : Ahead) : Bool := a.hall == n && a.region == off / regionBytes
        { s.putHall n new with ahead := mapIf mine (fun a => { a with pos := modAt a.pos slot back }) s.ahead }
      | none => s.putHall n { new with zeroPos := modAt new.zeroPos slot back }

/-- A zero line of a member's new metadata granules is ordered, or was refused and is due again. -/
def State.zeroMetaEnds (s : State) (l n i : Nat) (ok : Bool) : State :=
  s.modHall n fun h =>
    let slot := (h.members.idxOf? l).getD 0
    { h with metaOut := h.metaOut.erase (slot, i), metaPos := if ok then h.metaPos else modAt h.metaPos slot (min i) }

/-! ## Repairs (R264–R266) -/

/-- The repair under way at a Landing. -/
def State.repairOf (s : State) (l : Nat) : Option Repair := s.misc.repairs.find? fun r => r.landing == l

/-- Lines of the row that a repair stages: 128 with x4 devices, 64 with x8. -/
def Geom.rowLines (g : Geom) : Nat := if g.x8 then 64 else 128

/-- The addresses of the row's lines. -/
def Repair.lines (r : Repair) (g : Geom) : List Nat := (List.range g.rowLines).map fun i => addrOf g { r.coord with col := i }

/-- A repair cut short: the staged lines not yet written back join their Landing's write queue as acknowledged content (R266). -/
def State.drainRepair (s : State) (r : Repair) : State :=
  (r.staged.filter fun ln => r.back.isNone || r.left.contains ln.1).foldl (fun s ln =>
    let (id, s) := s.fresh
    let a : Access := { access id .own 11 (beStamp s.now) .write ln.1 with stored := ln.2.1, poison := ln.2.2, ready := true }
    s.modSeq r.landing fun q => { q with wq := q.wq ++ [a] }) s
/-- The same for every repair under way. -/
def State.drainRepairs (s : State) : State := s.misc.repairs.foldl State.drainRepair s

/-- A repair leaves its Landing: its reads go, the row's lines are unlocked, and the window claim that it took is released. -/
def State.dropRepair (s : State) (r : Repair) : State :=
  let keep (a : Access) : Bool := a.client != .ppr
  let s := s.modSeq r.landing fun q =>
    { q with lockTable := q.lockTable.filter (fun e => e.cause != .repair), rq := q.rq.filter keep, held := q.held.filter keep
             inflight := q.inflight.filter keep }
  let s := s.modArb r.landing fun x =>
    { x with staging := x.staging.filter keep, grantNext := x.grantNext.filter keep }
  s.modMisc fun m =>
    { m with repairs := m.repairs.filter fun e => e.landing != r.landing
             claims := if r.own then m.claims else m.claims.filter fun c => !(c.res == 1 && c.which == r.landing && c.holder == 15) }

/-- Repairs that a reset of the Control Processor or Halt cuts short: what they staged is written back. -/
def State.endRepairs (s : State) : State := s.misc.repairs.foldl (fun s r => (s.drainRepair r).dropRepair r) s

/-- The repair of a Landing cannot go on: a fence has taken its storage. -/
def State.failRepair (s : State) (l : Nat) : State :=
  match s.repairOf l with
  | none => s
  | some r => ((s.drainRepair r).dropRepair r).finishS r.mailbox .failed

/-- The repair is over: the locks and the claim go, a success is recorded, and `PPR_RUN` answers how long the bank was held (R264
step 6). -/
def State.endRepair (s : State) (r : Repair) (ok : Bool) (holdNs : Nat) : State :=
  let s := if ok then s.history (.repair r.serial r.coord r.landing r.dev r.hard) else s
  (s.dropRepair r).finish r.mailbox (if ok then .ok else .failed) [BitVec.ofNat 32 holdNs] []

/-- A line of the row is written back; with the last one the repair is over (R264 steps 5 and 6). -/
def State.repairWrote (s : State) (l addr : Nat) : State :=
  let s := s.modMisc fun m =>
    { m with repairs := mapIf (fun r => r.landing == l) (fun r => { r with left := r.left.filter fun a => a != addr }) m.repairs }
  match s.repairOf l with
  | none => s
  | some r => (match r.back with
    | some (ok, holdNs) => if r.left.isEmpty then s.endRepair r ok holdNs else s
    | none => s)

/-! ## The Control Processor (R124, R433) -/

/-- An access of the Control Processor ends. A line that decodes as POISON or UNCORRECTABLE, or is refused, gives zero data and an
access fault: the work item ends, a command with `FAILED`, background work with a note in the fault history. -/
def State.cpuEnds (s : State) (w : Nat) (r : Arrival) : State :=
  match s.misc.cpuWork.find? fun k => k.id == w with
  | none => s
  | some k =>
    let (d, fault) : BitVec 512 × Bool := match r with
      | .data d => (d, false)
      | .ordered => (0, false)
      | _ => (0, true)
    let s := s.modMisc fun m => { m with cpuWork := m.cpuWork.filter (fun e => e.id != w), cpuData := d, cpuFault := fault }
    if !fault then s
    else match k.mailbox with
      | some m => s.finishS m .failed
      | none => s.history (.background k.hall k.off)

/-! ## The end of an access -/

/-- Deliver the end of an access to its client. -/
def State.deliver (s : State) (l : Nat) (a : Access) (r : Arrival) : State :=
  match a.client with
  | .host p id =>
    match r with
    | .data d => s.form p id .ok false d
    | .ordered => s.formS p id .ok
    | .poison => if a.op = .rmw then s.formS p id .poisonedTarget else s.form p id .ok true 0
    | .refused st => s.formS p id st
  | .dma ch i => s.dmaArrive ch (a.op != .read) i r
  | .tier g id i => s.moveArrive g id i (a.op != .read) r
  | .seg g f i =>
    match r with
    | .data d => s.modSeg g f fun e =>
        { e with lines := putN e.lines i d, stale := if a.stale then i :: e.stale else e.stale.filter fun k => k != i }
    | .poison => s.modSeg g f fun e => { e with bad := true, lines := putN e.lines i 0 }
    | .ordered => s
    | .refused st =>
      match s.segOf g f with
      | none => s
      | some e =>
        let s := s.answerSeg e fun _ => .refused st
        let s := match e.move with
          | some m => s.abandonMove g m
          | none => s
        s.modGal g fun x => { x with segs := x.segs.filter fun y => y.id != f }
  | .fill g k lpa =>
    match r with
    | .refused _ => s.modGal g fun x => { x with fetches := x.fetches.filter fun f => !(f.kind == k && f.lpa == lpa) }
    | _ => s
  | .zero n => s.zeroEnds n a.off (r == .ordered)
  | .zeroMeta n i => s.zeroMetaEnds l n i (r == .ordered)
  | .cpu w => s.cpuEnds w r
  | .scrub => s
  | .own => s
  | .ppr =>
    match r with
    | .refused _ => s.failRepair l
    | .ordered => s.repairWrote l a.addr
    | _ => s

end Sys2Proof.Machine
end

