-- ==== Sys2Proof/Machine/React.lean ====
section
/-! DEFINITION. What a report makes the block do (R515): the fences (R191, R389, R408, R505–R507), Halt
(R190, R368), and the reset of the Control Processor (R432). -/

namespace Sys2Proof.Machine

/-! ## Taking queued work away -/

/-- Requests that wait at a Landing: staged, granted, held behind a lock, or in the read queue. -/
def Landing.waiting (x : Landing) : List Access :=
  x.arb.staging ++ x.arb.grantNext.toList ++ x.seq.held ++ x.seq.rq

/-- End one access at a Landing with a status; a partial write's lock goes with it. -/
def State.refuseOne (s : State) (l : Nat) (a : Access) (st : Status) : State :=
  let s := (s.dropAccess l a.id).unlockLine l a.addr fun c => c == .rmw a.id
  s.deliver l a (.refused st)

/-- End every waiting access that satisfies `c`, but the block's own writes. -/
def State.refuseWhere (s : State) (l : Nat) (c : Access → Bool) (st : Status) : State :=
  (((s.land l).waiting).filter fun a => !a.isClaim && a.client != .own && c a).foldl
    (fun s a => s.refuseOne l a st) s

/-- Writes in the queue that are globally ordered: everything but a merge not yet decided. -/
def Seq.acked (q : Seq) : List Access := q.wq.filter fun a => a.op == .write || a.ready

/-- Break every sequence and read-modify-write of a Landing whose line satisfies `c` (R90, R142). -/
def State.breakLocks (s : State) (l : Nat) (c : Nat → Bool) (st : Status) : State :=
  let s := (List.range 9).foldl (fun s p =>
    ((s.port p).seqs.filter fun q => q.landing == l && !q.broken && c q.addr).foldl
      (fun s q => s.breakSeq p q.ldid st) s) s
  let rmws := ((s.land l).seq.rq ++ (s.land l).seq.inflight ++ (s.land l).seq.checking.map (·.1)).filter fun a =>
    a.op == .rmw && c a.addr
  rmws.foldl (fun s a => s.refuseOne l a st) s

/-- Move the block's own staged writes straight into the write queue, for a drain (R359). -/
def State.queueOwn (s : State) (l : Nat) : State :=
  let x := s.land l
  let own (a : Access) : Bool := a.client == .own && a.op == .write
  let mine := (x.arb.staging ++ x.arb.grantNext.toList ++ x.seq.held).filter own
  let s := s.modArb l fun a =>
    { a with staging := a.staging.filter fun y => !own y
             grantNext := match a.grantNext with
               | some y => if own y then none else some y
               | none => none }
  s.modSeq l fun q => { q with wq := q.wq ++ (mine.filter fun a => !q.superseded a).map (fun a => { a with ready := true })
                               held := q.held.filter fun y => !own y }

/-- The outcome that a CAL_RUN waits for: of a margin check when bit 16 of its mask word is set, else of a run. -/
def Cal.outcomeFor (c : Cal) (mask : W32) : Option Nat := if mask.getLsbD 16 then c.checkOutcome else c.outcome

/-- The outcome words of CAL_RUN for the Landings of a mask: four bits for each, from word `w` on (R471). -/
def State.calWord (s : State) (mask : W32) (w : Nat) (open_ : Nat) : W32 :=
  (List.range 8).foldl (fun v i =>
    let l := 8 * w + i
    if l < 12 && mask.getLsbD l then v ||| at_ (4 * i) (((s.land l).cal.outcomeFor mask).getD open_) else v) 0

/-- Complete every CAL_RUN whose Landings have all ended (R334, R471). -/
def State.finishCalRuns (s : State) : State :=
  eachBelow 9 (fun m s =>
    let b := s.box m
    let mask := b.word 2
    if b.state == .busy && b.started && b.opc == 0x0301 &&
        (List.range 12).all (fun l => !mask.getLsbD l || ((s.land l).cal.outcomeFor mask).isSome) then
      s.finish m .ok [s.calWord mask 0 2, s.calWord mask 1 2] []
    else s) s

/-- A run of a Landing ends with an outcome. -/
def State.calOutcome (s : State) (l code : Nat) : State :=
  (s.modCal l fun c => { c with outcome := some code }).finishCalRuns

/-- A margin check of a Landing ends with an outcome. -/
def State.checkOutcome (s : State) (l code : Nat) : State :=
  (s.modCal l fun c => { c with checkOutcome := some code }).finishCalRuns

/-- A run or a margin check in progress, or staged values not committed, are given up (R333, R340): the cause is recorded
and the work is pending again. -/
def State.abortCal (s : State) (l cause : Nat) : State :=
  let c := (s.land l).cal
  if c.run.isNone && c.staged.isNone then s
  else
    let margin := match c.run with
      | some r => r.margin
      | none => false
    let n := c.aborts + 1
    let work (a : Access) : Bool := a.op == .claim .retrain || a.op == .claim .commit
    let s := s.modArb l fun x => { x with staging := x.staging.filter (fun a => !work a), grantNext := x.grantNext.filter fun a => !work a }
    let s := s.modSeq l fun q => { q with claims := q.claims.filter fun a => !work a }
    let s := (s.modCal l fun c =>
      { c with run := none, staged := none, state := 0, cause := cause, aborts := n
               pending := c.pending || !margin, marginWant := c.marginWant || margin }).bumpL l 0x3828 1
    if n = fld (s.lv l 0x3800) 7 4 then s.report (repL 8 3 l 0) 0xFF else s

/-- A Landing leaves RUN for a drain: its dirty metadata lines join the write queue first (R359), and the
calibration work on it is abandoned (R333). Refresh and row protection go on (R214). In a parity retry the drain begins when the retry
ends (R188). -/
def State.startDrain (s : State) (l : Nat) : State :=
  let s := (s.spillMeta l).queueOwn l
  let stays (a : Access) : Bool := !a.isClaim || a.bankWork
  let s := s.modArb l fun a => { a with staging := a.staging.filter stays, grantNext := a.grantNext.filter stays }
  let s := s.modSeq l fun q =>
    { q with lstate := if q.retry.isSome then q.lstate else .drain, retry := q.retry.map fun r => { r with back := .drain }
             claims := q.claims.filter stays }
  let s := s.abortCal l 7
  s.modLand l fun x => { x with drainFrom := some s.chip.cycle }

/-- Writes of a plan whose command has not issued by edge `k`. -/
def Seq.unissued (q : Seq) (k : Nat) : List Access :=
  let late := (q.planNow ++ q.planNext).filter fun c => c.cmd.isWrite && decide (k ≤ c.edge)
  (q.wrote.filter fun e => late.any fun c => c.acc == some e.2.id).map (·.2)

/-- Abandon what a Landing has not written: the count goes to the fault history (R61, R191, R368). -/
def State.abandonWrites (s : State) (l : Nat) : State :=
  let q := (s.land l).seq
  let n := q.acked.length + (q.unissued (edgeOfCycle q.geom.rate s.chip.cycle)).length
  let s := s.modSeq l fun q => { q with wq := [], planNow := [], planNext := [], wrote := [], rows := [] }
  if n = 0 then s else s.history (.abandoned l n)

/-! ## Fences -/

/-- A fence record. -/
def State.newFence (s : State) (g : Grain) (l : Nat) (r : Rep) : Fence :=
  { id := s.chip.nextId, grain := g, landing := l, group := [l]
    coord := r.coord.getD { sub := 0, rank := 0, bg := 0, bank := 0, row := 0, col := 0 }, gallery := l / 4
    port := 0, src := r.src, time := s.chip.cycle, active := false, settled := false, settledAt := 0
    shadow := true, rows := [], noDrain := false }

/-- A fence that stands already covers the new one. -/
def State.fencedAlready (s : State) (f : Fence) : Bool :=
  s.flt.fences.any fun e =>
    match f.grain with
    | .landing => e.grain == .landing && f.group.all fun l => e.group.contains l
    | .cmp => e.grain == .cmp && e.gallery == f.gallery
    | .tier => e.grain == .tier
    | .port => e.grain == .port && e.port == f.port
    | _ => (e.grain == .landing && e.group.contains f.landing) ||
        (e.covers f.landing f.coord && (e.grain != .row || f.grain == .row) && (e.grain != .bank || f.grain != .rank))

/-- Start a fence (R505): it takes effect at the next tread boundary. No fence starts once Halt has begun
(R506). -/
def State.startFence (s : State) (f : Fence) : State :=
  if s.halt || s.fencedAlready f then s
  else
    let (id, s) := s.fresh
    let s := s.modFlt fun x => { x with fences := x.fences ++ [{ f with id := id }], irq := x.irq ||| 8
                                        fencesStarted := satInc x.fencesStarted }
    (s.bumpB 0x2074 1).defer (.fence id)

/-- The fence of a row: the fourth row of a bank, or a full table of sixteen rows, fences the bank (R505). -/
def State.rowFence (s : State) (l : Nat) (r : Rep) : Fence :=
  let f := s.newFence .row l r
  let rows := s.flt.fences.filter fun e => e.grain == .row && e.landing == l
  let mates := rows.filter fun e => e.coord.sub == f.coord.sub && e.coord.rank == f.coord.rank &&
    e.coord.bg == f.coord.bg && e.coord.bank == f.coord.bank
  if 3 ≤ mates.length ∨ 16 ≤ rows.length then
    { f with grain := .bank, rows := (mates.map fun e => e.coord.row) ++ [f.coord.row] }
  else f

/-- A Landing fence, or one over the four Landings of a Gallery. -/
def State.landFence (s : State) (ls : List Nat) (r : Rep) : Fence :=
  { s.newFence .landing (ls.headD 0) r with group := ls }

/-- Break what a fenced Landing, bank or rank holds open, answer its queued requests, and drop its scrub reads
and, for a bank or rank, its acknowledged writes (R191). -/
def State.fenceStorage (s : State) (l : Nat) (hit : Nat → Bool) (writes : Bool) : State :=
  let s := s.breakLocks l hit .fenced
  let s := s.refuseWhere l (fun a => hit a.addr) .fenced
  if writes then
    let lost := ((s.land l).seq.acked.filter fun a => hit a.addr).length
    let stays (a : Access) : Bool := !(a.client == .own && hit a.addr)
    let s := s.modArb l fun a => { a with staging := a.staging.filter stays, grantNext := a.grantNext.filter stays }
    let s := s.modSeq l fun q => { q with wq := q.wq.filter (fun a => !hit a.addr), held := q.held.filter stays }
    if lost = 0 then s else s.history (.abandoned l lost)
  else s

/-- Requests elsewhere whose tag line lies in storage fenced now end with `FENCED` (R359). -/
def State.fenceTags (s : State) : State :=
  eachBelow 12 (fun l s => s.refuseWhere l (fun a => match a.tagAt with
    | some t => s.placeFenced (lpaLanding t.1) (lpaAddr t.1)
    | none => false) .fenced) s

/-- The partial writes of a port whose merge is open end with `LOCK_BROKEN`: their Landings release the lines and discard the
merge state (R142). -/
def State.breakMerges (s : State) (p : Nat) : State :=
  eachBelow 12 (fun l s =>
    let q := (s.land l).seq
    let open_ (a : Access) : Bool := a.op == .rmw && !a.emergency && match a.client with
      | .host p' _ => p' == p
      | _ => false
    ((q.rq ++ q.held ++ q.inflight ++ q.checking.map (·.1)).filter open_).foldl (fun s a => s.refuseOne l a .lockBroken) s) s

/-- A port stops accepting flits (R96), and its open read-modify-writes are broken (R142). Its BPP sequences are broken once its
requests have been answered (R96; log entry 90, DEDUCED). -/
def State.closePort (s : State) (p : Nat) : State :=
  if (s.port p).state = .opened then (s.modPort p fun x => { x with state := .closing }).breakMerges p else s

/-- Requests of the fenced Compression Engine's pages (R389): those that wait for a decode or a promotion
end with `FENCED`; moves into the Gallery are abandoned, and the buffer is emptied. -/
def State.fenceCmp (s : State) (g : Nat) : State :=
  let s := s.modGal g fun x => { x with cmpFenced := true, dbuf := [] }
  let s := (s.gal g).segs.foldl (fun s f => s.answerSeg f fun _ => .refused .fenced) s
  s.modGal g fun x => { x with segs := [], moves := x.moves.map fun m => { m with abandoned := true } }

/-- Fence the Tier Engine (R408): moves not switched are abandoned. -/
def State.fenceTier (s : State) : State :=
  let s := s.modMisc fun m => { m with tierFenced := true }
  eachBelow 3 (fun g s => s.modGal g fun x => { x with moves := x.moves.map fun m => { m with abandoned := true } }) s

/-- A fence takes effect (R191, R389, R505). -/
def State.applyFence (s : State) (f : Fence) : State :=
  let s := s.modFlt fun x => { x with fences := mapIf (fun e => e.id = f.id) (fun e => { e with active := true }) x.fences }
  match f.grain with
  | .row =>
    let s := s.fenceStorage f.landing (fun a => f.covers f.landing (s.coord f.landing a)) false
    s.fenceTags
  | .bank =>
    let s := s.modFlt fun x => { x with fences := x.fences.filter fun e =>
      !(e.grain == .row && f.covers e.landing e.coord) }
    (s.fenceStorage f.landing (fun a => f.covers f.landing (s.coord f.landing a)) true).fenceTags
  | .rank => (s.fenceStorage f.landing (fun a => f.covers f.landing (s.coord f.landing a)) true).fenceTags
  | .landing =>
    let one (s : State) (l : Nat) : State :=
      let s := (s.failRepair l).fenceStorage l (fun _ => true) false
      let s := s.modSeq l fun q => { q with hints := [], claims := [] }
      if (s.land l).seq.lstate = .sr then s.modSeq l fun q => { q with lstate := .fenced }
      else if f.noDrain then
        let s := (s.dropMeta l).abandonWrites l
        let s := s.modSeq l fun q => { q with lstate := .drain, retry := none, inflight := [], checking := [] }
        s.modLand l fun x => { x with drainFrom := some s.chip.cycle }
      else s.startDrain l
    (f.group.foldl one s).fenceTags
  | .cmp => s.fenceCmp f.gallery
  | .tier => s.fenceTier
  | .port => s.closePort f.port

/-! ## Halt (R368) -/

/-- A port in Halt: every unanswered request and every DAT not yet sent becomes `HALTED`; a formed CPL keeps
its status. -/
def State.haltPort (s : State) (p : Nat) : State :=
  let one (t : Txn) : Txn :=
    match t.resp with
    | some r => if r.dat then { t with resp := some { r with status := .halted, poison := true, data := 0, dload := 0 } } else t
    | none => { t with resp := some (s.respOf p t .halted true 0), wait := .formed }
  let s := s.modPort p fun x => { x with txns := x.txns.map one, seqs := [] }
  s.flushPort p

/-- A Landing in Halt (R190): everything but acknowledged writes goes, later plans are discarded, and the
drain begins. A Landing in self-refresh or fenced stays as it is. -/
def State.haltLanding (s : State) (l : Nat) : State :=
  let s := s.unplaceAll l (s.land l).seq.planNext
  let s := s.modSeq l fun q =>
    { q with rq := [], held := q.held.filter (fun a => a.client == .own), hints := [], inflight := [], checking := []
             wq := q.acked, lockTable := [], planNext := [], claims := q.claims.filter Access.bankWork }
  let s := s.modArb l fun a =>
    { a with lock := none, staging := a.staging.filter (fun y => y.client == .own)
             grantNext := match a.grantNext with
               | some y => if y.client == .own then some y else none
               | none => none }
  match (s.land l).seq.lstate with
  | .sr => s
  | .fenced => s
  | .halt => s
  | _ => s.startDrain l

/-! ## Power results (R496) -/

/-- The number of a power state. -/
def PState.num : PState → Nat
  | .p0 => 0
  | .p1 => 1
  | .p2 => 2
  | .p3 => 3
  | .p4 => 4

/-- A power request has a result: 1 `DONE`, 2 `NOOP`, 3 `SUPERSEDED`, 4 `REFUSED`, 5 `HALTED`, 6 `BLOCKED`,
7 `ABANDONED`. In P0 to P2 event 1Bh is posted. -/
def State.pwrResult (s : State) (code : Nat) (target : PState) (unit : Nat) : State :=
  let s := s.modPwr fun p => { p with resCode := code, resTarget := target.num, resUnit := unit, resSeq := p.resSeq + 1 }
  if s.pwr.state.num ≤ 2 then s.post 0x1B 2 [at_ 0 target.num, at_ 0 code, at_ 0 unit] else s

/-- Halt ends a transition and a pending request (R495). -/
def State.haltPower (s : State) : State :=
  let s := match s.pwr.trans with
    | some t => (s.modPwr fun p => { p with trans := none }).pwrResult 5 t.target 0
    | none => s
  match s.pwr.pend with
  | some t => (s.modPwr fun p => { p with pend := none }).pwrResult 5 t 0
  | none => s

/-- Long commands that do not work in Halt (R469–R477). -/
def haltLong (opc : Nat) : Bool := [0x0103, 0x0104, 0x0301, 0x0402, 0x0403, 0x0404, 0x0501, 0x0602, 0x0A03].contains opc

/-- A long command that runs when the block enters Halt completes with `HALTED` (R464). -/
def State.haltCommands (s : State) : State :=
  let s := eachBelow 9 (fun m s =>
    let b := s.box m
    if b.state = .busy && b.started && haltLong b.opc then s.finishS m .halted else s) s
  s.modMisc fun m => { m with discovery := { m.discovery with mailbox := none } }

/-- Enter Halt. -/
def State.enterHalt (s : State) : State :=
  if s.chip.halted then s
  else
    let s := s.modChip fun c => { c with halted := true }
    let s := eachBelow 9 (fun p s => s.haltPort p) s
    let s := eachBelow s.chip.variant.dmaCh (fun n s => s.modCh n fun x =>
      { x with state := .halted, errInfo := at_ 0 0xB, run := none, toStart := false }) s
    let s := eachBelow 3 (fun g s => s.modGal g fun x => { x with moves := [], segs := [], dbuf := [], fetches := [] }) s
    let s := eachBelow s.nLand (fun l s => s.haltLanding l) s.endRepairs
    s.haltPower.haltCommands

/-! ## The Control Processor's reset (R432) -/

/-- The resource word of a claim (R478). -/
def ClaimRec.word (c : ClaimRec) : W32 := at_ 0 c.which ||| at_ 8 c.res
/-- A holder as `LANDING_QUERY` and `CLAIM` code it (R478). -/
def ClaimRec.held (c : ClaimRec) : W32 := at_ 0 c.holder ||| at_ 4 1

/-- The Control Processor's partial writes whose merge is open are broken, and what it had asked of DRAM is forgotten, but for the page-map
lines that its firmware still has to read (R142, R398, R432). -/
def State.breakCpu (s : State) : State :=
  let s := s.modMisc fun m => { m with cpuWork := m.cpuWork.filter (·.mapLine) }
  let mine (a : Access) : Bool := a.op == .rmw && match a.client with
    | .cpu _ => true
    | _ => false
  eachBelow 12 (fun l s =>
    let q := (s.land l).seq
    ((q.rq ++ q.held ++ q.inflight ++ q.checking.map (·.1)).filter mine).foldl (fun s a => s.refuseOne l a .lockBroken) s) s

/-- The core alone is reset: every taken or rung command ends with `FW_RESTART`, every claim is released with
event 19h (R464), and the boot ROM runs again. -/
def State.cpReset (s : State) : State :=
  let s := eachBelow 9 (fun m s =>
    if (s.box m).state = .pending ∨ (s.box m).state = .busy then s.finishS m .fwRestart else s) s
  let s := s.misc.claims.foldl (fun s c => s.post 0x19 1 [c.word, c.held]) s
  let s := (s.modMisc fun m => { m with claims := [], discovery := { m.discovery with mailbox := none } }).endRepairs.breakCpu
  let s := { s with store := { s.store with cpResets := satInc s.store.cpResets, changed := true } }
  s.modChip fun c => { c with fwReady := false, verified := none, bootBuf := [], status1Pulse := false }

/-! ## Reports with their reactions -/

/-- A report, the fence it starts, and for class F the Halt (R499, R515). A consequential report does nothing
but count (R508). -/
def State.raise (s : State) (r : Rep) (f : Option Fence) : State :=
  if !s.chip.coreOn || s.consequential r then s.report r 0xFF
  else
    let grain := match f with
      | some x => if s.halt || s.fencedAlready x then 0xFF else grainCode x.grain
      | none => 0xFF
    let s := s.report r grain
    let s := match f with
      | some x => s.startFence x
      | none => s
    if r.cls = 3 then s.enterHalt else s

/-- Several reports of one cycle, in the order of R500. -/
def State.raiseAll (s : State) (rs : List (Rep × Option Fence)) : State :=
  (sortReps (rs.map (·.1))).foldl (fun s r =>
    s.raise r (match rs.find? fun e => e.1 == r with
      | some e => e.2
      | none => none)) s

/-- A fault of a port counts toward its fence: the third in a block flight fences a host port (R505). -/
def State.portFault (s : State) (p code : Nat) : State :=
  let n := (s.port p).faults + 1
  let s := s.modPort p fun x => { x with faults := n }
  let r := rep 1 code p 0
  s.raise r (if n = 3 ∧ p < 8 then some { s.newFence .port 0 r with port := p, group := [] } else none)

/-- An UNCORRECTABLE outcome (6/02h): a second one on another line of the same row within 16,384 block flights
fences the row (R505). -/
def State.raiseUE (s : State) (l : Nat) (c : Coord) : State :=
  let r := repS 6 2 l c
  let recent := s.flt.rowHist.filter fun e => decide (s.chip.flight ≤ e.2.2 + 16384)
  let second := recent.any fun e => e.1 == l && e.2.1.sub == c.sub && e.2.1.rank == c.rank && e.2.1.bg == c.bg &&
    e.2.1.bank == c.bank && e.2.1.row == c.row && e.2.1.col != c.col
  let s := if s.consequential r then s else s.modFlt fun x => { x with rowHist := recent ++ [(l, c, s.chip.flight)] }
  s.raise r (if second then some (s.rowFence l r) else none)

/-- A third rejection asks for a margin check under the committed values (R284, R337). -/
def State.askMargin (s : State) (l : Nat) : State := s.modCal l fun c => { c with marginWant := true, marginFence := true }

end Sys2Proof.Machine
end

