-- ==== Sys2Proof/Machine/Heat.lean ====
section
/-! DEFINITION. The heat tree and the frame pool's quantities (R392–R398, R403, R405), and decode errors
(R386, R387, R389). -/

namespace Sys2Proof.Machine

/-! ## Counters of a heat line -/

/-- Neutral values of the three levels (R392). -/
def neutralOf (width : Nat) : Nat := if width = 4 then 8 else if width = 16 then 0x8000 else 0x800000

/-- Add one to a counter, saturating. -/
def heatAdd (x : BitVec 512) (lo width : Nat) : BitVec 512 :=
  let v := lineFld x lo width
  setLineFld x lo width (min (2 ^ width - 1) (v + 1))

/-- The counter layout of heat line `h` of a Gallery: its width, by the part of a hall's run it lies in. -/
def State.heatWidth (s : State) (g h : Nat) : Nat :=
  match s.halls.find? fun e => match lookupN e.2.heat g with
    | some b => decide (b ≤ h ∧ h < b + e.2.heatRun)
    | none => false with
  | some e =>
    let i := h - (lookupN e.2.heat g).getD 0
    if i < e.2.heatPageLines then 4 else if i < e.2.heatPageLines + e.2.heatRegionLines then 16 else 24
  | none => 4

/-- Every counter of a line changed by `f`; a gigabyte line's byte 63 stays 00h. -/
def heatMap (width : Nat) (f : Nat → Nat) (x : BitVec 512) : BitVec 512 :=
  let n := if width = 24 then 21 else 512 / width
  (List.range n).foldl (fun x i => setLineFld x (width * i) width (f (lineFld x (width * i) width))) x

/-- What waits for a heat line is applied to it: a sample's increment at a place and width, or, with width 0, the halving of
a line whose counters have the width that stands in its place (R394, R395). -/
def heatApply (x : BitVec 512) (e : Nat × Nat × Option (Nat × Nat)) : BitVec 512 :=
  if e.2.1 = 0 then heatMap e.1 (· / 2) x else heatAdd x e.1 e.2.1

/-- The address of a heat line as an LPA. -/
def Gallery.heatLpa (x : Gallery) (g h : Nat) : Nat :=
  let (l, a) := x.heatLine g h
  lpaOf l a

/-- The page counter of a page, when its heat line is cached. -/
def State.pageHeat (s : State) (g n p : Nat) : Option Nat :=
  match s.hall n with
  | none => none
  | some h =>
    match lookupN h.heat g with
    | none => none
    | some base =>
      match (h.heatAt base p).head? with
      | none => none
      | some at0 => (s.cached g .heat ((s.gal g).heatLpa g at0.line)).map fun c => lineFld c.data at0.lo at0.width

/-- A sampled read that leaves the page counter at or above `HOT` asks for a promotion (R400). -/
def State.hotCheck (s : State) (g n p : Nat) : State :=
  let ctl := s.gv g 0x5000
  match s.pageHeat g n p with
  | some v =>
    if ctl.getLsbD 1 && decide (fld ctl 20 17 ≤ v) && !(s.gal g).hot.contains (n, p) then
      s.modGal g fun x => { x with hot := x.hot ++ [(n, p)] }
    else s
  | none => s

/-- Raise a counter of a cached heat line, and keep what it was for a halving of the same cycle (R396). -/
def State.raiseHeat (s : State) (g lpa : Nat) (a : HeatAt) : State :=
  match s.cached g .heat lpa with
  | none => s
  | some c =>
    let m : HeatMark := { lpa := lpa, lo := a.lo, width := a.width, cycle := s.chip.cycle, before := lineFld c.data a.lo a.width }
    let s := s.modGal g fun x => { x with marks := (x.marks.filter fun e => e.cycle == s.chip.cycle) ++ [m] }
    s.editMeta g .heat lpa fun x => heatAdd x a.lo a.width

/-- Halve the counters of a cached heat line. A sample of the same cycle counts in full: the halving is applied first (R396). -/
def State.halveCached (s : State) (g lpa width : Nat) : State :=
  let here := (s.gal g).marks.filter fun m => m.cycle == s.chip.cycle && m.lpa == lpa
  s.editMeta g .heat lpa fun x =>
    let x := here.reverse.foldl (fun x m => setLineFld x m.lo m.width m.before) x
    here.foldl (fun x m => heatAdd x m.lo m.width) (heatMap width (· / 2) x)

/-- Increment the counters of a sampled access; a line not cached is fetched as best effort, and a sample that
finds every fetch in use is dropped (R394). -/
def State.sampleAt (s : State) (g n : Nat) (h : Hall) (p : Nat) (read : Bool) : State :=
  match lookupN h.heat g with
  | none => s
  | some base =>
    let spots := h.heatAt base p
    let lpaOfSpot (a : HeatAt) : Nat := (s.gal g).heatLpa g a.line
    let missing := spots.filter fun a => (s.cached g .heat (lpaOfSpot a)).isNone
    let new := missing.filter fun a => !(s.gal g).fetches.any fun f => f.kind == .heat && f.lpa == lpaOfSpot a
    let busy := ((s.gal g).fetches.filter fun f => f.kind == .heat).length
    if fetchLimit .heat < busy + new.length then s.bumpG g 0x5054 1
    else
      let s := spots.foldl (fun s a =>
        let lpa := lpaOfSpot a
        match s.cached g .heat lpa with
        | some _ => (s.raiseHeat g lpa a).touch g .heat lpa
        | none =>
          let (_, s) := s.needMeta g .heat lpa none (beStamp s.now) false 9
          let tgt := if read && a.width == 4 then some (n, p) else none
          let add (f : MetaFetch) : MetaFetch := { f with adds := f.adds ++ [(a.lo, a.width, tgt)] }
          s.modGal g fun x => { x with fetches := mapIf (fun f => f.kind == .heat && f.lpa == lpa) add x.fetches }) s
      if read then s.hotCheck g n p else s

/-- A qualifying access to a page of a compressible hall: sampled at random (R394). -/
def State.heatSample (s : State) (n : Nat) (h : Hall) (off req : Nat) (read : Bool) : State :=
  if !h.cmp || 8 < req then s
  else
    let p := off / 4096
    let g := h.home p
    let (hit, s) := s.draw (fld (s.gv g 0x5000) 7 4)
    if hit then s.sampleAt g n h p read else s

/-! ## U, Q and H (R403) -/

/-- U: unbound frames that are not quarantined. -/
def Gallery.freeFrames (x : Gallery) : Nat :=
  x.frames - (x.pool.filter fun e => e.1 < x.frames && (e.2.bound || e.2.quar)).length
/-- The headroom H = U − Q. -/
def Gallery.headroom (x : Gallery) : Int := x.freeFrames - x.resv

/-- The group of a page and whether it is unbacked (R402). -/
def Hall.groupOf (h : Hall) (p : Nat) : Nat := p * 4096 / (h.members.length * granuleBytes)
def Hall.isUnbacked (h : Hall) (p : Nat) : Bool := h.unbacked.contains (h.groupOf p)

/-- Zone of a Gallery (R405). -/
def State.zoneOf (s : State) (g : Nat) : Nat :=
  let hd := (s.gal g).headroom
  if hd < (s.gv g 0x5020).toNat then 2 else if hd < (s.gv g 0x501C).toNat then 1 else 0

/-- Count a page's change between HOME and POOL or LOST, and between compressed and not, in its hall. -/
def State.countPage (s : State) (n p g : Nat) (dPool dCmp : Int) : State :=
  s.modHall n fun h =>
    let k := 4 * h.groupOf p + g
    let (a, b) := (lookupN h.pages k).getD (0, 0)
    { h with pages := putN h.pages k ((a + dPool).toNat, (b + dCmp).toNat) }

/-- Change Q for a page of a hall that is not elastic in an unbacked group. -/
def State.countResv (s : State) (n p g : Nat) (d : Int) : State :=
  match s.hall n with
  | none => s
  | some h => if !h.elastic && h.isUnbacked p then s.modGal g fun x => { x with resv := (x.resv + d).toNat } else s

/-! ## Page-map entries in the cache (R377) -/

/-- Page-map line of a page: its LPA and the entry's index. -/
def Hall.mapLpa (h : Hall) (p : Nat) : Nat × Nat :=
  let ((l, a), i) := h.mapLine p
  (lpaOf l a, i)

/-- The entry of a page, when its line is cached. -/
def State.entryOf (s : State) (h : Hall) (p : Nat) : Option PageEntry :=
  let (lpa, i) := h.mapLpa p
  (s.cached (metaGal lpa) .pageMap lpa).map fun c => entryIn c.data i

/-- Change the entry of a page in the cache, atomically (R24, R377). -/
def State.setPageEntry (s : State) (h : Hall) (p : Nat) (e : PageEntry) : State :=
  let (lpa, i) := h.mapLpa p
  s.editMeta (metaGal lpa) .pageMap lpa fun x => setEntry x i e

def homeEntry : PageEntry :=
  { loc := 0, count := 0, start := 0, frame := 0, incomp := false, off1 := 0, off2 := 0, off3 := 0 }
def lostEntry : PageEntry := { homeEntry with loc := 2 }

/-- Where a page stands by its entry; HOME when it is not listed. -/
def State.awayAt (s : State) (n p : Nat) : PageAt :=
  (s.away.find? fun e => e.hall == n && e.page == p).getD { hall := n, page := p, loc := 0, frame := 0, start := 0, count := 0 }
/-- The page is compressed. -/
def PageAt.packed (e : PageAt) : Bool := e.loc == 1 && decide (e.count < 7)
/-- Note the place that a page's new entry gives it. -/
def State.setAway (s : State) (n p : Nat) (e : PageEntry) : State :=
  let rest := s.away.filter fun x => !(x.hall == n && x.page == p)
  { s with away := if e.loc = 0 then rest
      else rest ++ [{ hall := n, page := p, loc := e.loc, frame := e.frame, start := e.start, count := e.count }] }

/-- Drop a page's decoded segments (R383). -/
def State.dropDecoded (s : State) (g n p : Nat) : State :=
  s.modGal g fun x => { x with dbuf := x.dbuf.filter fun d => !(d.hall == n && d.page == p) }

/-! ## Decode errors (R386–R389) -/

/-- Record a decode error of a Gallery; the third in a block flight fences the engine. -/
def State.decodeError (s : State) (g kind n p seg : Nat) : State :=
  let x := s.gal g
  let k := x.errFlight + 1
  let first : W32 := at_ 0 1 ||| at_ 1 kind ||| at_ 5 seg ||| at_ 8 n
  let s := (s.modGal g fun x =>
    { x with errFlight := min 3 k, errInfo := if x.errInfo.getLsbD 0 then x.errInfo else first
             errPage := if x.errInfo.getLsbD 0 then x.errPage else p }).bumpG g 0x4034 1
  let r := rep 11 1 g (at_ 0 kind)
  s.raise r (if k = 3 && !x.cmpFenced then
    some { s.newFence .cmp 0 r with gallery := g, group := [] } else none)

/-- A promotion of the page into a frame is under way: it has given up the page's place in Q (R403). -/
def Gallery.promoFrame (x : Gallery) (n p : Nat) : Bool :=
  x.moves.any fun m => !m.demote && m.toFrame && m.hall == n && m.page == p

/-- A compressed page of the home Gallery leaves Q as it is lost, unless its promotion has taken it out already. -/
def State.unreserve (s : State) (g n p : Nat) : State :=
  if (s.gal g).promoFrame n p then s else s.countResv n p g (-1)

/-- A page becomes LOST (R387). -/
def State.losePage (s : State) (n p : Nat) (h : Hall) : State :=
  let g := h.home p
  let old := s.awayAt n p
  let s := ((s.setPageEntry h p lostEntry).setAway n p lostEntry).dropDecoded g n p
  let s := s.countPage n p g (if old.loc = 0 then 1 else 0) (if old.packed then -1 else 0)
  if old.packed then s.unreserve g n p else s

/-- The entry of a page, when its line is cached. An entry that breaks the rules of R376 is a decode error of kind 8h, whoever reads
it, and the page is LOST (R386, R387). -/
def State.soundEntry (s : State) (h : Hall) (n p : Nat) : Option PageEntry × State :=
  match s.entryOf h p with
  | none => (none, s)
  | some e =>
    if e.ok then (some e, s)
    else
      let g := h.home p
      (some lostEntry, ((s.losePage n p h).bumpG g 0x403C 1).decodeError g 8 n p 0)

end Sys2Proof.Machine
end

