-- ==== Sys2Proof/Machine/Route.lean ====
section
/-! DEFINITION. From a resolved request to its Landing (R17, R23, R76, R113–R117, R382, R387, R418, R419): one
routing for host ports, DBG and DMA lines, and the passes that carry waiting requests on. -/

namespace Sys2Proof.Machine

/-- What a request asks of a line. -/
inductive AskOp
  | read
  /-- a full-line write -/
  | write
  /-- a write of some bytes -/
  | part
  /-- an ordering-only MWRP (R76) -/
  | order
  | unlk
  | hint
  deriving DecidableEq, Repr

/-- A resolved request for a line, whoever sends it. -/
structure Ask where
  client : Client
  req : Nat
  hall : Nat
  off : Nat
  op : AskOp
  stamp : BitVec 32
  /-- its acceptance time (R143) -/
  acc : BitVec 32
  dl : Bool
  data : BitVec 512
  be : BitVec 64
  poison : Bool
  opens : Option Nat
  closes : Option Nat
  inside : Option Nat
  /-- a locked read beyond the init watermark: it locks its line and reads zeros (R17, R88) -/
  zeros : Bool
  deriving DecidableEq, Repr

/-- What routing answers. -/
inductive Routed
  | wait (w : TxnWait)
  /-- the request ends without a Landing -/
  | ended (a : Arrival)
  | staged (l : Nat)
  deriving DecidableEq, Repr

def AskOp.writes : AskOp → Bool
  | .write => true
  | .part => true
  | _ => false

/-- A place: Landing, Landing address, and the tag line and slot of the line when it has one. -/
structure Spot where
  l : Nat
  addr : Nat
  tagAt : Option (Nat × Nat)
  deriving DecidableEq, Repr

/-- The HOME place of a line (R111, R113). -/
def Hall.homeSpot (h : Hall) (off : Nat) : Spot :=
  let (l, a) := h.line off
  let ((tl, ta), slot) := h.tagLine off
  { l := l, addr := a, tagAt := if h.integ then some (lpaOf tl ta, slot) else none }

/-- The place of frame line `i` of frame `f` (R374, R375). -/
def Gallery.frameSpot (x : Gallery) (g f i : Nat) (integ : Bool) : Spot :=
  let (l, a) := x.frameLine g f i
  let ((tl, ta), slot) := x.frameTag g f i
  { l := l, addr := a, tagAt := if integ then some (lpaOf tl ta, slot) else none }

/-- The line or its tag line lies in fenced storage (R85, R359). -/
def State.spotFenced (s : State) (p : Spot) : Bool :=
  s.placeFenced p.l p.addr ||
    match p.tagAt with
    | some t => s.placeFenced (lpaLanding t.1) (lpaAddr t.1)
    | none => false

/-- Bytes of a line chosen by byte enables. -/
def mergeBytes (old new : BitVec 512) (be : BitVec 64) : BitVec 512 :=
  let m : BitVec 512 := BitVec.ofNat 512
    ((List.range 64).foldl (fun acc k => if be.getLsbD k then acc ||| (0xFF <<< (8 * k)) else acc) 0)
  (old &&& ~~~m) ||| (new &&& m)

/-- The access of a request at a place. -/
def Ask.toAccess (k : Ask) (id : Nat) (sp : Spot) : Access :=
  { access id k.client k.req k.stamp
      (match k.op with
       | .read => .read
       | .write => .write
       | .part => .rmw
       | .order => .write
       | .unlk => .unlk
       | .hint => .hint) sp.addr with
    dl := k.dl, hall := some k.hall, data := k.data, be := k.be, poison := k.poison, tagAt := sp.tagAt
    off := k.off, ready := decide (k.op = .write) || k.zeros
    opens := k.opens, closes := k.closes, inside := k.inside, acc := k.acc }

/-- Look up a metadata line for a request. The Landing that serves a read of it counts for the request's bound (R147). -/
def State.askMeta (s : State) (k : Ask) (kind : MetaKind) (lpa : Nat) (stamp : BitVec 32) (dl : Bool) : Bool × State :=
  let (hit, s) := s.needMeta (metaGal lpa) kind lpa (some k.hall) stamp dl k.req
  match hit, k.client with
  | false, .host p id =>
    let l := lpaLanding lpa
    let fails := s.boundFails l
    (hit, s.modTxn p id fun t => { t with metaAt := t.metaAt ++ [l], metaFailed := t.metaFailed || fails })
  | _, _ => (hit, s)

/-- The sequence that a locked read opens stands at a place. -/
def State.placeSeq (s : State) (k : Ask) (l addr : Nat) (active : Bool) : State :=
  match k.opens, k.client with
  | some ldid, .host p _ => s.modPort p fun x =>
      { x with seqs := mapIf (fun q => q.ldid = ldid) (fun q => { q with landing := l, addr := addr, active := q.active || active }) x.seqs }
  | _, _ => s

/-- Stage a request at a place, looking its tag up under the stamp it is staged with (R18) and sampling it for the heat tree
(R394). -/
def State.stageAt (s : State) (k : Ask) (sp : Spot) (h : Hall) : State × Routed :=
  if s.spotFenced sp then (s, .ended (.refused .fenced))
  else
    let served := s.servedAs sp.l (k.toAccess 0 sp)
    let s : State := match sp.tagAt with
      | some t =>
        if (k.op == AskOp.read || k.op.writes) && !k.poison && !k.zeros then (s.askMeta k .tag t.1 served.stamp served.dl).2
        else s
      | none => s
    let s : State := if k.op = .hint ∨ k.op = .unlk then s
      else s.heatSample k.hall h k.off k.req (k.op == AskOp.read)
    let (id, s) := (s.placeSeq k sp.l sp.addr false).fresh
    (s.stage sp.l (k.toAccess id sp), .staged sp.l)

/-! ## Reading a compressed page (R382–R384) -/

/-- Another owner's sequence has locked the line. -/
def State.lockedBy (s : State) (k : Ask) : Bool :=
  (List.range 9).any fun p => (s.port p).seqs.any fun q =>
    !q.broken && q.active && q.hall == k.hall && q.off / 64 == k.off / 64 &&
      !(match k.client with
        | .host p' id => p' == p && (match (s.port p').txn id with
          | some t => t.hdr.ldid.toNat == q.ldid
          | none => false)
        | _ => false)

/-- A locked read of a compressed page's line: the line's HOME Landing enters it into its line-lock table, and the sequence
holds that Landing's grant (R22, R88, R138; log entry 86, DEDUCED). It waits while another sequence stands there. -/
def State.lockHome (s : State) (k : Ask) (h : Hall) : Option State :=
  match k.opens, k.client with
  | some ldid, .host p _ =>
    let (l, a) := h.line k.off
    let x := s.land l
    if x.arb.lock.isSome || x.seq.lockTable.any (fun e => e.addr == a) then none
    else
      let s := s.modSeq l fun q => { q with lockTable := q.lockTable ++ [{ addr := a, cause := .bpp p ldid }] }
      let s := s.modArb l fun y => { y with lock := some { owner := k.req, cause := .bpp p ldid, addr := a, treads := 0
                                                           suspended := false, wasSuspended := false } }
      some (s.placeSeq k l a true)
  | _, _ => some s

/-- Add a waiter to a segment fetch. -/
def SegFetch.join (f : SegFetch) (k : Ask) (line : Nat) : SegFetch :=
  match k.client with
  | .host p id => { f with waiters := f.waiters ++ [(p, id, line)] }
  | .dma ch i => { f with dmaWaiters := f.dmaWaiters ++ [(ch, i, line)] }
  | _ => f

/-- Fetch the storage lines of a segment under a stamp (R382 step 3). Answers no state when a line of it
lies in fenced storage. -/
def State.fetchSegment (s : State) (g n : Nat) (h : Hall) (p : Nat) (e : PageEntry) (seg : Nat)
    (stamp acc : BitVec 32) (dl : Bool) (req : Nat) (join : SegFetch → SegFetch) : Option State :=
  let (lo, hi) := e.segment seg
  let first := 8 * e.start + lo
  let spots := (List.range (hi - lo)).map fun i => (s.gal g).frameSpot g e.frame (first + i) h.integ
  if spots.any s.spotFenced then none
  else
    let (id, s) := s.fresh
    let s := s.modGal g fun x => { x with segs := x.segs ++ [join
      { id := id, hall := n, page := p, seg := seg, stamp := stamp, first := first, lines := [], need := hi - lo
        bad := false, frame := e.frame, stale := [], waiters := [], dmaWaiters := [], move := none }] }
    some ((spots.zipIdx).foldl (fun s sp =>
      let s := match sp.1.tagAt with
        | some t => (s.needMeta (metaGal t.1) .tag t.1 (some n) stamp dl req).2
        | none => s
      let (a, s) := s.fresh
      s.stage sp.1.l { access a (.seg g id sp.2) req stamp .read sp.1.addr with
        hall := some n, dl := dl, tagAt := sp.1.tagAt, off := p * 4096, acc := acc }) s)

/-- Read a line of a compressed page: from the decoded-segment buffer, or by joining or starting a fetch. -/
def State.readCompressed (s : State) (k : Ask) (h : Hall) (g p : Nat) (e : PageEntry) : State × Routed :=
  let line := k.off / 64 % 64
  let seg := line / 16
  let hit := (s.gal g).dbuf.find? fun d =>
    d.hall == k.hall && d.epoch == s.epoch k.hall && d.page == p && d.seg == seg
  match (if (s.gv g 0x4000).getLsbD 0 then hit else none) with
  | some d =>
    let s := s.modGal g fun x => { x with dbuf := d :: x.dbuf.filter fun y => y != d }
    let s := (s.bumpG g 0x4024 1).heatSample k.hall h k.off k.req true
    (s, .ended (.data (bytesLine ((d.bytes.drop (64 * (line % 16))).take 64))))
  | none =>
    let s := s.heatSample k.hall h k.off k.req true
    match (s.gal g).segs.find? fun f => f.hall == k.hall && f.page == p && f.seg == seg with
    | some f => (s.modSeg g f.id fun f => f.join k line, .wait .segment)
    | none =>
      match s.fetchSegment g k.hall h p e seg k.stamp k.acc k.dl k.req (fun f => f.join k line) with
      | some s => (s, .wait .segment)
      | none => (s, .ended (.refused .fenced))

/-- A storage line of a compressed page lies in fenced storage (R85, R507). -/
def State.pageFenced (s : State) (h : Hall) (g : Nat) (e : PageEntry) : Bool :=
  (List.range 4).any fun seg =>
    let (lo, hi) := e.segment seg
    (List.range (hi - lo)).any fun i => s.spotFenced ((s.gal g).frameSpot g e.frame (8 * e.start + lo + i) h.integ)

/-- A move serves a waiting write: from now on it is issued under the write's stamp, or the nearer one it has for another
write (R23, R407). -/
def Move.serve (m : Move) (stamp : BitVec 32) : Move :=
  { m with write := true, stamp := if m.write && nearer m.stamp stamp then m.stamp else stamp }

/-- A write to a compressed or lost page waits for its promotion, unless none can start: `FENCED` where the Tier Engine, the
line's own place or a storage line of the page is fenced, then `CAPACITY` (R23, R86, R389, R403, R408). -/
def State.awaitPromotion (s : State) (k : Ask) (h : Hall) (g p : Nat) (e : PageEntry) : State × Routed :=
  let mine (m : Move) : Bool := !m.demote && !m.abandoned && m.hall == k.hall && m.page == p
  if s.misc.tierFenced || (e.compressed && s.pageFenced h g e) || (!h.isUnbacked p && s.spotFenced (h.homeSpot k.off)) then
    (s, .ended (.refused .fenced))
  else if (s.gal g).moves.any mine then
    (s.modGal g fun x => { x with moves := mapIf mine (fun m => m.serve k.stamp) x.moves }, .wait .promotion)
  else if h.elastic && decide ((s.gal g).headroom < 1) then (s.bumpG g 0x504C 1, .ended (.refused .capacity))
  else (s, .wait .promotion)

/-- The place where the port's sequence holds its line, for its UNLK. -/
def State.unlkSpot (s : State) (k : Ask) (sp : Spot) : Spot :=
  match k.client, k.closes with
  | .host p _, some ldid => (match (s.port p).seqOf ldid with
    | some q => { sp with l := q.landing, addr := q.addr }
    | none => sp)
  | _, _ => sp

/-- Firmware still has to read the page-map line of a page for its pool maps (R398). -/
def State.rebuilding (s : State) (h : Hall) (p : Nat) : Bool :=
  s.misc.cpuWork.any fun w => w.mapLine && (match s.hall w.hall with
    | some x => (x.mapLpa (w.off / 4096)).1 == (h.mapLpa p).1
    | none => false)

/-- Route a request to a page whose place its page-map entry gives (R376, R382, R387). No compressed page is served while firmware
still rebuilds the pool maps (R398). -/
def State.routeMapped (s : State) (k : Ask) (h : Hall) : State × Routed :=
  let p := k.off / 4096
  let g := h.home p
  let lpa := (h.mapLpa p).1
  if s.placeFenced (lpaLanding lpa) (lpaAddr lpa) then (s, .ended (.refused .fenced))
  else
    let (hit, s) := s.askMeta k .pageMap lpa k.stamp k.dl
    let (e, s) := if hit then s.soundEntry h k.hall p else (none, s)
    match e with
    | none => (s, .wait (.pageMap lpa))
    | some e =>
      if e.loc = 0 then s.stageAt k (h.homeSpot k.off) h
      else if e.loc = 2 then
        (match k.op with
         | .read => (s, .ended .poison)
         | .hint => (s, .ended (.refused .unmapped))
         | _ => s.awaitPromotion k h g p e)
      else if e.count = 7 then
        (if k.op = .hint then (s, .ended (.refused .unmapped))
         else s.stageAt k ((s.gal g).frameSpot g e.frame (k.off / 64 % 64) h.integ) h)
      else if k.op = .hint then (s, .ended (.refused .unmapped))
      else if s.misc.cpuWork.any (·.mapLine) then (s, .wait (.pageMap lpa))
      else if (s.gal g).cmpFenced then (s, .ended (.refused .fenced))
      else if s.lockedBy k then (s, .wait .behind)
      else if k.op = .read then
        (match s.lockHome k h with
         | some s => s.readCompressed k h g p e
         | none => (s, .wait .behind))
      else s.awaitPromotion k h g p e

/-- The ahead entry of a region whose first write reaches it (R116): its zeroing covers the region from W on. -/
def State.newAhead (s : State) (k : Ask) (h : Hall) : Ahead :=
  let low := max (k.off / regionBytes * regionBytes) h.w
  { hall := k.hall, region := k.off / regionBytes, done := false, stamp := k.stamp, low := low
    pos := h.members.map fun _ => 4 * (low / 256 / max 1 h.members.length) }

/-- A partial write beyond the watermark merges into zeros (R76, R116). -/
def Ask.overZeros (k : Ask) : Ask :=
  if k.op = .part then { k with op := .write, data := mergeBytes 0 k.data k.be, be := BitVec.allOnes 64 } else k

/-- Route a resolved request. The first write to a region beyond the watermark allocates the region's ahead entry; it and every
later request of the region wait for the zeroing in the Landing queue (R116). -/
def State.routeAsk (s : State) (k : Ask) : State × Routed :=
  match s.hall k.hall with
  | none => (s, .ended (.refused .unmapped))
  | some h =>
    let sp := h.homeSpot k.off
    let beyond := s.beyond k.hall h k.off
    if k.op = .unlk then s.stageAt k (s.unlkSpot k sp) h
    else if k.op = .order ∧ !h.cmp then s.stageAt k sp h
    else if beyond && k.op == .read && k.opens.isNone then
      (if s.spotFenced sp then (s, .ended (.refused .fenced)) else (s, .ended (.data 0)))
    else if beyond && k.op == .read then s.stageAt { k with zeros := true } sp h
    else if beyond && k.op.writes then
      (if s.spotFenced sp then (s, .ended (.refused .fenced))
       else if s.ahead.length < 256 then ({ s with ahead := s.ahead ++ [s.newAhead k h] } : State).stageAt k.overZeros sp h
       else (s, .wait .ahead))
    else if s.zeroing k.hall k.off && (k.op.writes || k.op == .read) then s.stageAt k sp h
    else if h.cmp && !beyond then s.routeMapped k h
    else s.stageAt k sp h

/-! ## The Control Processor (R124) -/

/-- Issue an access of the Control Processor: by hall number and offset, with no window; as the CPU requester. A page-map line is
read once its Landing serves. -/
def State.cpuIssue (s : State) (w : CpuWork) : State :=
  let gone (s : State) : State := s.modMisc fun m => { m with cpuWork := mapIf (fun e => e.id == w.id) (fun e => { e with issued := true }) m.cpuWork }
  match s.hall w.hall with
  | none => s.cpuEnds w.id (.refused .unmapped)
  | some h =>
    if w.mapLine then
      let lpa := (h.mapLpa (w.off / 4096)).1
      if s.placeFenced (lpaLanding lpa) (lpaAddr lpa) then s.cpuEnds w.id (.refused .fenced)
      else if (s.land (lpaLanding lpa)).sbd.started then
        (gone s).stage (lpaLanding lpa) (access w.id (.cpu w.id) 10 (beStamp s.now) .read (lpaAddr lpa))
      else s
    else
      let (d, be) := w.store.getD (0, 0)
      let op : AskOp := if w.store.isNone then .read else if be = BitVec.allOnes 64 then .write else if be = 0 then .order else .part
      let (s, r) := s.routeAsk { client := .cpu w.id, req := 10, hall := w.hall, off := w.off, op := op, stamp := beStamp w.since
                                 acc := stampOf w.since, dl := false, data := d, be := be, poison := false, opens := none, closes := none
                                 inside := none, zeros := false }
      match r with
      | .wait _ => s
      | .ended a => s.cpuEnds w.id a
      | .staged _ => gone s

/-- The accesses of the Control Processor that have not gone to a Landing are tried again. -/
def State.cpuPump (s : State) : State :=
  if !s.hostServes || s.chip.halted then s
  else (s.misc.cpuWork.filter fun w => !w.issued).foldl (fun s w => s.cpuIssue w) s

/-- Firmware loads or stores a line of a hall (R124). -/
def State.cpuAccess (s : State) (mailbox : Option Nat) (n off : Nat) (store : Option (BitVec 512 × BitVec 64)) : State :=
  let (id, s) := s.fresh
  let w : CpuWork := { id := id, mailbox := mailbox, hall := n, off := off, mapLine := false, store := store, since := s.now, issued := false }
  (s.modMisc fun m => { m with cpuWork := m.cpuWork ++ [w] }).cpuIssue w

/-! ## Host requests -/

/-- The requester of a port. -/
def reqOf (p : Nat) : Nat := if p = 8 then 12 else p

/-- The acceptance time that a request's stamp was formed from (R78, R79). -/
def Txn.accepted (t : Txn) : BitVec 32 :=
  if t.dl then t.stamp - BitVec.ofNat 32 (4 * t.hdr.due.toNat) else t.stamp - 16380

/-- A request of the same port and LDID to the same line. -/
def Txn.sameSeq (a b : Txn) : Bool := a.hdr.ldid == b.hdr.ldid && a.sameLine b
/-- The MRD that opens a locked sequence. -/
def Txn.opensSeq (t : Txn) : Bool := t.hdr.lock && t.opc == .mrd

/-- A request belongs to the sequence of its port and LDID: it names the locked line, and it was accepted after the MRD that opens
the sequence (R88). -/
def State.partOfSeq (s : State) (p : Nat) (t : Txn) : Bool :=
  match (s.port p).seqOf t.hdr.ldid.toNat with
  | some q =>
    let later := ((s.port p).txns.dropWhile fun e => e.id != t.id).drop 1
    t.hall == some q.hall && q.off / 64 == t.off / 64 && !(later.any fun e => e.opensSeq && e.sameSeq t)
  | none => false

/-- A closing request of the sequence was accepted before this one and is not answered yet. -/
def State.closeBefore (s : State) (p : Nat) (t : Txn) : Bool :=
  let before := ((s.port p).txns.takeWhile fun e => e.id != t.id).reverse.takeWhile fun e => !(e.opensSeq && e.sameSeq t)
  before.any fun e => e.resp.isNone && e.sameSeq t && (e.opc.write || e.opc == .unlk)

/-- The question a host request asks, under the Vestibule's stamp; a bias is added where the request enters staging (R143). -/
def State.askOf (s : State) (p : Nat) (t : Txn) : Ask :=
  let n := t.hall.getD 0
  let full : Bool := decide (t.be = BitVec.allOnes 64)
  let part := s.partOfSeq p t
  let ends := t.opc.write || t.opc == .unlk
  let ldid := t.hdr.ldid.toNat
  { client := .host p t.id, req := reqOf p, hall := n, off := t.off
    op := match t.opc with
      | .mrd => .read
      | .unlk => .unlk
      | .mwr => .write
      | .mwrp => if t.poison || full then .write else if t.be = 0 then .order else .part
      | .bad _ => .read
    stamp := t.stamp, acc := t.accepted, dl := t.dl
    data := t.data, be := t.be, poison := t.poison
    opens := if t.hdr.lock && t.opc == .mrd then some ldid else none
    closes := if part && ends then some ldid else none
    inside := if part && t.opc == .mrd && !t.hdr.lock && !s.closeBefore p t then some ldid else none, zeros := false }

/-- Why a request is not at its Landing yet. -/
def TxnWait.retries : TxnWait → Bool
  | .landing => false
  | .segment => false
  | .formed => false
  | _ => true

/-- A compressed page of a hall whose Compression Engine, or a storage line of which, is fenced (R85). -/
def State.packedFenced (s : State) (n : Nat) (h : Hall) (p : Nat) : Bool :=
  s.away.any fun e => e.hall == n && e.page == p && e.packed &&
    ((s.gal (h.home p)).cmpFenced ||
      (List.range (8 * (e.count + 1))).any fun i => s.spotFenced ((s.gal (h.home p)).frameSpot (h.home p) e.frame (8 * e.start + i) h.integ))

/-- The closing request of a broken sequence is not executed: it ends with `LOCK_BROKEN`, or with `FENCED` when its
line lies in fenced storage, and the sequence is over (R86, R90). -/
def State.closeBroken (s : State) (p : Nat) (t : Txn) (n : Nat) : State × Routed :=
  let fenced := match s.hall n, (s.port p).seqOf t.hdr.ldid.toNat with
    | some h, some q => s.spotFenced (h.homeSpot t.off) || s.placeFenced q.landing q.addr || s.packedFenced n h (t.off / 4096)
    | _, _ => false
  let s := s.modPort p fun x => { x with seqs := x.seqs.filter fun q => q.ldid != t.hdr.ldid.toNat }
  (s, .ended (.refused (if fenced then .fenced else .lockBroken)))

/-- Carry one request on: route it and note what it waits for. A write that begins to wait for an ahead entry
is a crossing of the ahead-table watermark (R117, R527). -/
def State.routeTxn (s : State) (p : Nat) (t : Txn) : State :=
  let k := s.askOf p t
  let broken := k.closes.isSome && ((s.port p).seqOf t.hdr.ldid.toNat).any fun q => q.broken
  let (s, r) := if broken then s.closeBroken p t k.hall else s.routeAsk k
  match r with
  | .staged l =>
    let s := s.modTxn p t.id fun t => { t with wait := .landing, landing := some l }
    s.excuse l
  | .wait w =>
    let s := if w = .ahead ∧ t.wait ≠ .ahead then
        (s.modMisc fun m => { m with aheadWm := m.aheadWm.hit }).bumpB 0x1000000 1
      else s
    s.modTxn p t.id fun t => { t with wait := w }
  | .ended a =>
    match a with
    | .data d => s.form p t.id .ok false d
    | .ordered => s.formS p t.id .ok
    | .poison => s.form p t.id .ok true 0
    | .refused st =>
      let s := if k.opens.isSome then
          s.modPort p fun x => { x with seqs := x.seqs.filter fun q => q.ldid != t.hdr.ldid.toNat }
        else s
      s.formS p t.id st

/-- Carry a port's waiting requests on, in acceptance order; one behind an earlier request to its line that is
not at its Landing waits (R97). Nothing moves once an entry stops the Landings (R487). -/
def State.pumpPort (s : State) (p : Nat) : State :=
  if !s.hostServes || s.chip.halted then s
  else
    ((s.port p).txns.map (·.id)).foldl (fun s id =>
      match (s.port p).txn id with
      | none => s
      | some t =>
        if t.resp.isSome || !t.wait.retries then s
        else
          let earlier := (s.port p).txns.takeWhile fun e => e.id != id
          if earlier.any fun e => e.resp.isNone && e.wait != .landing && e.sameLine t then
            s.modTxn p id fun t => { t with wait := .behind }
          else s.routeTxn p t) s

/-! ## DMA (R417–R419) -/

/-- The stamp of a DMA request (R129, R418): a hall without the deadline attribute gives best effort. -/
def dmaStamp (t : Nat) (due : BitVec 12) (dl : Bool) : BitVec 32 := if dl then dueStamp t due else beStamp t

/-- May the channel reach the hall (R122): the hall's DMA property and a window of the bound port. -/
def State.dmaAllowed (s : State) (ch : Nat) (h : Hall) (n : Nat) (wr : Bool) : Bool :=
  match (s.ch ch).bind with
  | none => false
  | some (p, ldid) => (if wr then h.dma == 2 else decide (1 ≤ h.dma)) && s.holdsWindow p ldid n wr

/-- Issue one line of a descriptor. Its hall and rights are checked when it is first issued, and never again (R108, R419). -/
def State.dmaIssueLine (s : State) (ch : Nat) (r : DmaRun) (wr : Bool) (i : Nat) (ln : DmaLine) : State :=
  let n := if wr then r.dstHall else r.srcHall
  let mark (f : DmaLine → DmaLine) (s : State) : State := s.modCh ch fun x =>
    { x with run := x.run.map fun r =>
        if wr then { r with dsts := modAt r.dsts i f } else { r with srcs := modAt r.srcs i f } }
  let fail (st : Status) (s : State) : State :=
    (mark (fun x => { x with issued := true }) s).dmaArrive ch wr i (.refused st)
  match s.hall n with
  | none => fail .unmapped s
  | some h =>
    if ln.resolved.isNone && (h.reach ≤ ln.off || h.phase == .releasing) then fail .unmapped s
    else if ln.resolved.isNone && !s.dmaAllowed ch h n wr then fail .denied s
    else
      let since := ln.resolved.getD s.now
      let s := mark (fun x => { x with resolved := some since }) s
      let dl := h.dl && r.due != 0xFFF
      let full := ln.lo = 0 ∧ ln.hi = 64
      let be : BitVec 64 := BitVec.ofNat 64 ((2 ^ (ln.hi - ln.lo) - 1) <<< ln.lo)
      let k : Ask :=
        { client := .dma ch i, req := 8, hall := n, off := ln.off
          op := if wr then (if full || ln.poison then .write else .part) else .read
          stamp := dmaStamp since r.due h.dl, acc := stampOf since, dl := dl, data := ln.data, be := be, poison := ln.poison
          opens := none, closes := none, inside := none, zeros := false }
      let (s, out) := s.routeAsk k
      match out with
      | .staged _ => mark (fun x => { x with issued := true, ahead := false }) s
      | .wait .segment => mark (fun x => { x with issued := true }) s
      | .wait .ahead =>
        let s := if ln.ahead then s else
          (s.modMisc fun m => { m with aheadWm := m.aheadWm.hit }).bumpB 0x1000000 1
        mark (fun x => { x with ahead := true }) s
      | .wait _ => s
      | .ended a => (mark (fun x => { x with issued := true, ahead := false }) s).dmaArrive ch wr i a

/-- Swap the bytes of each 4-byte unit (R413, R416). -/
def swapByte (mode k : Nat) : Nat :=
  if mode = 1 then k / 4 * 4 + (3 - k % 4) else if mode = 2 then k / 4 * 4 + (k % 4 + 2) % 4 else k

/-- The content of destination line `i`: none while a source byte it needs has not arrived, and for ever when
that source line failed (R416–R418, R422). -/
def DmaRun.dstData (r : DmaRun) (ln : DmaLine) : Option (BitVec 512) :=
  let mode := fld (r.words.getD 0 0) 17 16
  let fill := fld (r.words.getD 0 0) 15 14 = 1
  if fill then
    let pat := wordBytes (r.words.getD 3 0)
    some (bytesLine ((List.range 64).map fun k => pat.getD (swapByte mode k % 4) 0))
  else
    let srcOff := (r.words.getD 3 0).toNat + fld (r.words.getD 4 0) 15 0 * 2 ^ 32
    let dstOff := (r.words.getD 5 0).toNat + fld (r.words.getD 4 0) 31 16 * 2 ^ 32
    let base := srcOff / 64 * 64
    let pick (k : Nat) : Option Byte :=
      if k < ln.lo ∨ ln.hi ≤ k then some 0
      else
        let d := ln.off + swapByte mode k
        let o := d + srcOff - dstOff
        match r.srcs[(o - base) / 64]? with
        | some sl => if sl.done && !sl.failed then some (sl.data.extractLsb' (8 * (o % 64)) 8) else none
        | none => none
    let bytes := (List.range 64).map pick
    if bytes.all Option.isSome then some (bytesLine (bytes.map fun b => b.getD 0)) else none

/-- Lines a channel may have in its bounce memory (R411). -/
def bounceLines : Nat := 1024

/-- Channels issue requests in P0, and until an entry's descriptors have ended (R427, R485). -/
def State.dmaServes (s : State) : Bool :=
  s.pwr.state == .p0 && !s.chip.halted &&
    match s.pwr.trans with
    | none => true
    | some t => t.stage == .held || t.stage == .quiesce || (match t.stage with
      | .ask _ => true
      | _ => false)

/-- Issue what a channel may issue now: source reads in ascending offset within the bounce memory, and each
destination write once its bytes have arrived; nothing after a first error but the poison of a line lost in bounce memory (R418, R422,
R515). -/
def State.dmaPump (s : State) (ch : Nat) : State :=
  let x := s.ch ch
  if !s.dmaServes || !(x.state == .running || x.state == .stopping) then s
  else
    match x.run with
    | none => s
    | some r0 =>
      let live (s : State) : Option DmaRun :=
        match (s.ch ch).run with
        | some r => if r.err.isNone then some r else none
        | none => none
      let first := (r0.dsts.findIdx fun d => !d.done)
      let s := (List.range r0.srcs.length).foldl (fun s i =>
        match live s with
        | none => s
        | some r =>
          match r.srcs[i]? with
          | some ln => if ln.issued || bounceLines ≤ i - first then s else s.dmaIssueLine ch r false i ln
          | none => s) s
      let s := (List.range r0.dsts.length).foldl (fun s i =>
        match ((s.ch ch).run).bind fun r => r.dsts[i]? with
        | some ln => if ln.poison && !ln.issued then s.dmaIssueLine ch ((s.ch ch).run.getD r0) true i ln else s
        | none => s) s
      (List.range r0.dsts.length).foldl (fun s i =>
        match live s with
        | none => s
        | some r =>
          match r.dsts[i]? with
          | some ln =>
            if ln.issued then s
            else
              match r.dstData ln with
              | none => s
              | some d =>
                let ln := { ln with data := d }
                let s := s.modCh ch fun x => { x with run := x.run.map fun r => { r with dsts := modAt r.dsts i (fun y => { y with data := d }) } }
                s.dmaIssueLine ch r true i ln
          | none => s) s

end Sys2Proof.Machine
end

