-- ==== Sys2Proof/Machine/Moves.lean ====
section
/-! DEFINITION. The work of a page move (R380, R381, R388, R400, R401, R403): the pool map's alcoves, compression and
the writes of a demotion, the writes of a promotion, and what an abandoned move gives back; and the pass
that carries everything that waits on. -/

namespace Sys2Proof.Machine

/-! ## The pool map (R398) -/

/-- The word of a pool-map entry (R398). -/
def PoolEntry.word (e : PoolEntry) : Nat := e.alcoves.toNat ||| (e.hall <<< 8) ||| (b2n e.bound <<< 18) ||| (b2n e.quar <<< 19)

/-- Pool-map line `j` of a Gallery as its pool stands. -/
def Gallery.poolData (x : Gallery) (j : Nat) : BitVec 512 :=
  (List.range 16).foldl (fun y i => setLineFld y (32 * i) 32 (x.entry (16 * j + i)).word) 0

/-- The LPA of the pool-map line of a frame. -/
def Gallery.poolLpa (x : Gallery) (g f : Nat) : Nat :=
  let ((l, a), _) := x.poolLine g f
  lpaOf l a

/-- Change the pool-map entry of a frame, in the pool and in the cached line. -/
def State.putPool (s : State) (g f : Nat) (e : PoolEntry) : State :=
  let s := s.modGal g fun x =>
    { x with pool := if e = { alcoves := 0, hall := 0, bound := false, quar := false } then dropN x.pool f else putN x.pool f e }
  s.editMeta g .poolMap ((s.gal g).poolLpa g f) fun _ => (s.gal g).poolData (f / 16)

/-- Alcoves `start` to `start + n - 1` of a frame. -/
def alcoveMask (start n : Nat) : BitVec 8 := BitVec.ofNat 8 ((2 ^ n - 1) <<< start)

/-- The first run of `n` free alcoves of a frame. -/
def PoolEntry.fit (e : PoolEntry) (n : Nat) : Option Nat :=
  (List.range (9 - n)).find? fun a => e.alcoves &&& alcoveMask a n == 0

/-- Allocate alcoves in a frame, binding it to the hall (R375). -/
def State.takeAlcoves (s : State) (g f hall start n : Nat) : State :=
  let e := (s.gal g).entry f
  s.putPool g f { e with alcoves := e.alcoves ||| alcoveMask start n, hall := hall, bound := true }

/-- Free alcoves; a frame whose last alcove is freed is unbound. -/
def State.freeAlcoves (s : State) (g f start n : Nat) : State :=
  let e := (s.gal g).entry f
  let left := e.alcoves &&& ~~~alcoveMask start n
  s.putPool g f (if left = 0 then { alcoves := 0, hall := 0, bound := false, quar := e.quar } else { e with alcoves := left })

/-- The lowest unbound frame that is not quarantined (log entry 17, DESIGN CHOICE). -/
def Gallery.unboundFrame (x : Gallery) : Option Nat :=
  (List.range x.frames).find? fun f => !(x.entry f).bound && !(x.entry f).quar

/-- The lowest frame of the hall with room for `n` alcoves. -/
def Gallery.boundFrame (x : Gallery) (hall n : Nat) : Option (Nat × Nat) :=
  x.pool.findSome? fun e =>
    if e.2.bound && e.2.hall == hall && !e.2.quar && e.1 < x.frames then (e.2.fit n).map fun a => (e.1, a) else none

/-! ## Ends of a move -/

/-- Requests of a move that have not reached a queue go. -/
def State.dropMoveAccesses (s : State) (g id : Nat) : State :=
  let mine (a : Access) : Bool := match a.client with
    | .tier g' i _ => g' == g && i == id
    | _ => false
  eachBelow 12 (fun l s => s.modArb l fun x => { x with staging := x.staging.filter fun a => !mine a }) s

/-- The page's entry is marked incompressible, where its line is cached. -/
def State.markIncomp (s : State) (n p : Nat) : State :=
  match s.hall n with
  | none => s
  | some h =>
    match s.entryOf h p with
    | some e => s.setPageEntry h p { e with incomp := true }
    | none => s

/-- An abandoned move ends: its destination is freed, what it changed in Q is undone, and the page keeps its entry (R381, R403). -/
def State.dropMove (s : State) (g : Nat) (m : Move) : State :=
  let s := s.dropMoveAccesses g m.id
  let s := if !m.toFrame then s
    else
      let s := s.freeAlcoves g m.frame m.start (m.count + 1)
      if m.demote then s.countResv m.hall m.page g (-1)
      else if (s.awayAt m.hall m.page).packed then s.countResv m.hall m.page g 1 else s
  s.modGal g fun x =>
    { x with moves := x.moves.filter (fun e => e.id != m.id)
             segs := x.segs.map fun f => if f.move = some m.id then { f with move := none } else f }

/-! ## Staging a move's lines -/

/-- Stage one line of a move at a place. -/
def State.stageMove (s : State) (g : Nat) (m : Move) (i : Nat) (op : AccOp) (sp : Spot) (data : BitVec 512) (poison : Bool) : State :=
  let s := match sp.tagAt with
    | some t => (s.needMeta (metaGal t.1) .tag t.1 (some m.hall) m.stamp false 9).2
    | none => s
  let (id, s) := s.fresh
  s.stage sp.l { access id (.tier g m.id i) 9 m.stamp op sp.addr with
    hall := some m.hall, data := data, poison := poison, tagAt := sp.tagAt, off := m.page * 4096, ready := op == .write }

/-- Pad to a length with zero bytes. -/
def padTo (n : Nat) (l : List Byte) : List Byte := l ++ List.replicate (n - l.length) 0

/-- The containers of a page's four segments, each padded to whole storage lines. -/
def Move.containers (m : Move) : List (List Byte) :=
  (List.range 4).map fun seg =>
    let plain := (List.range 16).flatMap fun i => lineBytes ((lookupN m.lines (16 * seg + i)).getD 0)
    let c := containerOf plain m.hall m.page seg
    padTo (roundUp c.length 64) c

/-- Step 3 of R380: each container decodes back to its input. -/
def Move.verified (m : Move) (cs : List (List Byte)) : Bool :=
  (List.range 4).all fun seg =>
    let plain := (List.range 16).flatMap fun i => lineBytes ((lookupN m.lines (16 * seg + i)).getD 0)
    match containerDecode (cs.getD seg []) m.hall m.page seg with
    | .inl out => out == plain
    | .inr _ => false

/-- Steps 2 to 5 of a demotion: encode, verify, allocate and write; or abandon. U and Q change together, with the allocation, so
that no later start finds a headroom that this demotion has used (R403; log entry 119, DEDUCED). -/
def State.encodeMove (s : State) (g : Nat) (m : Move) : State :=
  let cs := m.containers
  let lens := cs.map fun c => c.length / 64
  let used := lens.foldl (· + ·) 0
  let n := cdiv used 8
  let raws := (cs.filter fun c => c.head? == some 2).length
  let s := (s.bumpG g 0x4028 4).bumpG g 0x402C raws
  if (s.gv g 0x4000).getLsbD 1 && !m.verified cs then (s.abandonMove g m.id).decodeError g 9 m.hall m.page 0
  else if 8 ≤ n then ((s.markIncomp m.hall m.page).bumpG g 0x4030 1).abandonMove g m.id
  else
    let h := s.hall m.hall
    let reserve : Int := match h with
      | some h => if !h.elastic && h.isUnbacked m.page then 1 else 0
      | none => 0
    let place : Option (Nat × Nat) := match (s.gal g).boundFrame m.hall n with
      | some e => if 0 ≤ (s.gal g).headroom - reserve then some e else none
      | none => if 0 ≤ (s.gal g).headroom - 1 - reserve then (s.gal g).unboundFrame.map fun f => (f, 0) else none
    match place, h with
    | some (f, a), some h =>
      let s := (s.takeAlcoves g f m.hall a n).countResv m.hall m.page g 1
      let o1 := lens.getD 0 0
      let o2 := o1 + lens.getD 1 0
      let o3 := o2 + lens.getD 2 0
      let m := { m with toFrame := true, frame := f, start := a, count := n - 1, offs := [o1, o2, o3], total := 8 * n }
      let s := s.modMove g m.id fun _ => m
      let bytes := padTo (512 * n) (cs.flatMap id)
      (List.range (8 * n)).foldl (fun s i =>
        s.stageMove g m i .write ((s.gal g).frameSpot g f (8 * a + i) h.integ)
          (bytesLine ((bytes.drop (64 * i)).take 64)) false) s
    | _, _ => s.abandonMove g m.id

/-- The 64 plain lines of a promotion are written to its target, the broken ones with the poison encoding
(R388, R401). -/
def State.writePromotion (s : State) (g : Nat) (m : Move) : State :=
  match s.hall m.hall with
  | none => s.abandonMove g m.id
  | some h =>
    let m := { m with total := 64 }
    let s := s.modMove g m.id fun _ => m
    (List.range 64).foldl (fun s i =>
      let sp := if m.toFrame then (s.gal g).frameSpot g m.frame i h.integ else h.homeSpot (m.page * 4096 + 64 * i)
      s.stageMove g m i .write sp ((lookupN m.lines i).getD 0) (m.poisoned.contains i)) s

/-- A move goes on as far as it can. A demotion whose source decoded bad is abandoned and its page marked
(R401). -/
def State.moveOn (s : State) (g id : Nat) : State :=
  match s.moveOf g id with
  | none => s
  | some m =>
    if m.abandoned then s.dropMove g m
    else if m.demote && !m.poisoned.isEmpty then (s.markIncomp m.hall m.page).dropMove g m
    else if m.total ≠ 0 then s
    else if m.demote then (if m.lines.length = 64 then s.encodeMove g m else s)
    else if (List.range 64).all fun i => (lookupN m.lines i).isSome || m.poisoned.contains i then s.writePromotion g m
    else s

/-- Every move of every Gallery goes on. -/
def State.movePump (s : State) : State :=
  eachBelow 3 (fun g s => ((s.gal g).moves.map (·.id)).foldl (fun s id => (s.moveOn g id).moveOn g id) s) s

/-! ## Everything that waits -/

/-! ## Tag lines being rewritten (R258) -/

/-- A write of the block's own waits for its admission at a Landing. -/
def State.ownWaits (s : State) (l : Nat) (p : Access → Bool) : Bool :=
  let x := s.land l
  (x.arb.staging ++ x.arb.grantNext.toList ++ x.seq.held).any fun a => a.client == .own && a.op == .write && p a

/-- The next step of a lost tag line's repair (R258): once the poison writes of the covered lines are ordered the tag line is
rewritten, and once that is ordered the locks go. A tag line evicted meanwhile is being written by its eviction. -/
def State.tagLossStep (s : State) (g : Nat) (e : LostTag) : State :=
  if e.places.any fun p => s.ownWaits p.1 fun a => a.addr == p.2 && a.poison && !a.yields then s
  else if !e.written then
    let s := s.modGal g fun x => { x with lostTags := mapIf (fun y => y.lpa == e.lpa) (fun y => { y with written := true }) x.lostTags }
    match s.cached g .tag e.lpa with
    | none => s
    | some c =>
      if c.dirty then (s.modGal g fun x =>
        { x with cache := mapIf (fun y => y.kind == .tag && y.lpa == e.lpa) (fun y => { y with dirty := false }) x.cache }).writeBack g c
      else s
  else if s.ownWaits (lpaLanding e.lpa) fun a => a.addr == lpaAddr e.lpa && !a.poison then s
  else
    let s := s.modGal g fun x => { x with lostTags := x.lostTags.filter fun y => y.lpa != e.lpa }
    e.places.foldl (fun s p => s.unlockLine p.1 p.2 fun c => c == .tagLine e.lpa) s

/-- Every lost tag line of every Gallery takes its step. -/
def State.tagLosses (s : State) : State :=
  eachBelow 3 (fun g s => (s.gal g).lostTags.foldl (fun s e => s.tagLossStep g e) s) s

/-- Carry everything that waits on: every port in number order, every channel, every page move, every lost tag line. -/
def State.pump (s : State) : State :=
  let s := s.tagLosses
  let s := eachBelow 9 (fun p s => s.pumpPort p) s
  (eachBelow 8 (fun n s => s.dmaPump n) s.cpuPump).movePump

end Sys2Proof.Machine
end

