-- ==== Sys2Proof/Machine/Decoder.lean ====
section
/-! DEFINITION. What a decoded line means (R252–R262, R267–R269): the owner of a line of DRAM, the ECC counts
and log, device declarations, and the actions of each outcome on reads, merges, scrub and metadata (R239, R256,
R258, R360, R387, R397, R398). -/

namespace Sys2Proof.Machine

/-! ## The owner of a line -/

/-- What a line of a Landing belongs to (R111, R374, R375, R393, R398): the inverse of the interleave. -/
inductive Owner
  /-- the data line at an offset of a hall -/
  | data (hall off : Nat)
  /-- tag line `i` of a hall's tag region -/
  | tag (hall i : Nat)
  /-- page-map line `i` of a hall -/
  | pages (hall i : Nat)
  /-- a line of a frame -/
  | frame (f i : Nat)
  /-- tag line of a frame's lines 16·part to 16·part + 15 -/
  | frameTag (f part : Nat)
  | heat (h : Nat)
  /-- pool-map line of frames 16·j to 16·j + 15 -/
  | pool (j : Nat)
  | none
  deriving DecidableEq, Repr

/-- The region offset of a Landing address in an extent map, when one of the member's granules holds it. -/
def Hall.regionOff (h : Hall) (ext : List (List Nat)) (l addr : Nat) : Option (Nat × Nat) :=
  match h.members.idxOf? l with
  | none => Option.none
  | some slot =>
    match (ext.getD slot []).idxOf? (addr / granuleBytes) with
    | none => Option.none
    | some k =>
      let loc := k * granuleBytes + addr % granuleBytes
      some (chunkOffset h.members.length slot (loc / 256) + loc % 256, k)

/-- The owner of a line by the halls. -/
def hallOwner (l addr : Nat) : List (Nat × Hall) → Owner
  | [] => .none
  | (n, h) :: rest =>
    match h.regionOff h.ext l addr with
    | some (o, k) => if h.unbacked.contains k then hallOwner l addr rest else .data n o
    | none =>
      match h.regionOff h.tagExt l addr with
      | some (o, _) => .tag n (o / 64)
      | none =>
        match h.regionOff h.mapExt l addr with
        | some (o, _) => .pages n (o / 64)
        | none => hallOwner l addr rest

/-- The owner of a line by a Gallery's pool. -/
def Gallery.poolOwner (x : Gallery) (l addr : Nat) : Owner :=
  let i := l % 4
  let gr := addr / granuleBytes
  let at_ (m : List (List Nat)) : Option Nat := m.findIdx? fun st => st.getD i 0 == gr
  match at_ x.poolExt with
  | some k =>
    let loc := k * granuleBytes + addr % granuleBytes
    .frame (loc / 1024) (loc % 1024 / 64 * 4 + i)
  | none =>
    match at_ x.auxExt with
    | none => .none
    | some k =>
      let loc := k * granuleBytes + addr % granuleBytes
      if loc < granuleBytes then .heat (loc / 64 * 4 + i)
      else
        let b := (loc - granuleBytes) / auxBlock
        let r := (loc - granuleBytes) % auxBlock
        if r < 2 ^ 24 then .frameTag (b * framesPerSet + r / 64) i else .pool (b * (framesPerSet / 16) + (r - 2 ^ 24) / 64 * 4 + i)

/-- The owner of the line at a Landing address. -/
def State.ownerOf (s : State) (l addr : Nat) : Owner :=
  match (s.gal (l / 4)).poolOwner l addr with
  | .none => hallOwner l addr s.halls
  | o => o

/-- The hall and the places of the 16 lines a tag line covers; none for a slot that covers no line. -/
def State.covered (s : State) (l addr : Nat) : Option (Nat × List (Option Spot)) :=
  match s.ownerOf l addr with
  | .tag n i =>
    (s.hall n).map fun h => (n, (List.range 16).map fun t =>
      let off := (16 * i + t) * 64
      if off < h.bytes && !h.isUnbacked (off / 4096) then some (h.homeSpot off) else none)
  | .frameTag f part =>
    let x := s.gal (l / 4)
    let e := x.entry f
    if e.bound then
      some (e.hall, (List.range 16).map fun t => some (x.frameSpot (l / 4) f (16 * part + t) true))
    else none
  | _ => none

/-! ## Counts and the log (R259, R267, R269) -/

/-- Write one entry of `ECC_LOG`; with the ring full it replaces the oldest and sets `WRAP`. -/
def State.eccLog (s : State) (l : Nat) (c : Coord) (kind mask : Nat) (scrub : Bool) : State :=
  s.modGal (l / 4) fun x =>
    let base := 0x2100 + 0x10 * x.eccNext
    let w0 : W32 := at_ 0 1 ||| at_ 1 kind ||| at_ 3 (l % 4) ||| at_ 5 c.sub ||| at_ 6 c.rank ||| at_ 9 mask |||
      at_ 19 (b2n scrub)
    let w1 : W32 := at_ 0 c.bg ||| at_ 3 c.bank ||| at_ 5 c.row ||| at_ 23 c.col
    let m := setW 0 (setW 0 (setW 0 (setW 0 x.eccLog base w0) (base + 4) w1) (base + 8) (BitVec.ofNat 32 s.now))
      (base + 12) (BitVec.ofNat 32 (s.now / 2 ^ 32))
    { x with eccLog := m, eccNext := (x.eccNext + 1) % 16
             eccWrap := x.eccWrap || (getW 0 x.eccLog base).getLsbD 0 }

/-- The declared device of a rank and subchannel (R260). -/
def State.erased (s : State) (l : Nat) (c : Coord) : Option Nat :=
  ((s.gal (l / 4)).erase.find? fun e => e.1 == (l % 4, c.sub, c.rank)).map (·.2)

/-- Set the count of a key in an association list; a count of 0 is not listed. -/
def setCount {α : Type} [BEq α] (m : List (α × Nat)) (k : α) (v : Nat) : List (α × Nat) :=
  let rest := m.filter fun e => !(e.1 == k)
  if v = 0 then rest else rest ++ [(k, v)]

/-- One more multi-symbol correction of a device; at the threshold it is declared (R259). -/
def State.countDevice (s : State) (l : Nat) (c : Coord) (d : Nat) : State :=
  let g := l / 4
  let key := (l % 4, c.sub, c.rank, d)
  let n := (((s.gal g).devCounts.find? fun e => e.1 == key).map (·.2)).getD 0 + 1
  let s := s.modGal g fun x => { x with devCounts := setCount x.devCounts key n }
  let ctl := s.gv g 0x2000
  let due : Deferred := .declare l c.sub c.rank d
  if ctl.getLsbD 24 && decide (fld ctl 15 8 ≤ n) && !s.misc.deferred.contains due then s.defer due else s

/-- The counts and log entries of one decode (R259, R267, R269). A correction outside an erased device is logged with `KIND` 11b, also
where it has several symbols in one device (log entry 114, DESIGN CHOICE). -/
def State.eccCount (s : State) (l : Nat) (a : Access) (o : EccOutcome) (errs : List Nat) : State :=
  let g := l / 4
  let c := s.coord l a.addr
  let scrub := a.client == .scrub
  match o with
  | .clean => s
  | .poison => s.bumpG g (0x2030 + 4 * (l % 4)) 1
  | .uncorrectable => (s.bumpG g (0x2020 + 4 * (l % 4)) 1).eccLog l c 1 0 scrub
  | .corrected =>
    let s := (s.bumpG g (0x2010 + 4 * (l % 4)) 1).modGal g fun x => { x with ceFlight := x.ceFlight.setIfInBounds (l % 4) ((x.ceFlight[l % 4]?).getD 0 + 1) }
    let x8 := (s.land l).seq.geom.x8
    let ds := errorDevices x8 errs none
    let mask := ds.foldl (fun m e => m ||| 2 ^ e.1) 0
    let multi := ds.filter fun e => 2 ≤ e.2
    let s := if (s.erased l c).isSome then s.eccLog l c 3 mask scrub
      else if multi.isEmpty then s else s.eccLog l c 0 mask scrub
    multi.foldl (fun s e => s.countDevice l c e.1) s

/-! ## Declarations (R260, R262) -/

/-- A declaration takes effect (R260), apart from its record. A device already declared changes nothing; a second x8 data device
fences the rank like a second x4 device (log entry 115, DESIGN CHOICE: R260 has no row for it). -/
def State.declareOn (s : State) (l sub rank d : Nat) : State :=
  let c : Coord := { sub := sub, rank := rank, bg := 0, bank := 0, row := 0, col := 0 }
  let g := l / 4
  let x8 := (s.land l).seq.geom.x8
  let old := s.erased l c
  if old = some d then s
  else
    let s := s.eccLog l c 2 d false
    let erase (s : State) : State := s.modGal g fun x => { x with erase := x.erase ++ [((l % 4, sub, rank), d)] }
    let rankFence (s : State) : State :=
      let r := repS 6 6 l c
      s.raise r (some (s.newFence .rank l r))
    if x8 then
      if d = 4 ∨ old.isSome then rankFence s
      else
        let s := (erase s).raise (repS 6 6 l c) none
        s.post 0x13 1 [at_ 0 l, at_ 0 sub, at_ 0 rank, at_ 0 d]
    else if old.isSome then rankFence s
    else (erase s).raise (repS 6 5 l c) none

/-- Serial number of the module that holds a rank (R154). -/
def State.rankSerial (s : State) (l rank : Nat) : W32 :=
  let x := s.land l
  let g := x.seq.geom
  let slot := if g.dpc2 then rank / max 1 (g.ranks / 2) else 0
  (((x.sbd.slots[slot]?).getD none).map (·.spd.serial)).getD 0

/-- Declare a device and record it in the fault history (R262). -/
def State.declare (s : State) (l sub rank d : Nat) : State :=
  if s.erased l { sub := sub, rank := rank, bg := 0, bank := 0, row := 0, col := 0 } = some d then s
  else (s.declareOn l sub rank d).history (.device (s.rankSerial l rank) l sub rank d)

/-! ## Tag lines lost (R258, R360) -/

/-- Poison the lines a lost tag line covers, under a stamp (R258): each line without an admitted write is locked, given a poison
write and tag 0; a line with one keeps that write and its tag. The new tag line is cached; it is rewritten when the poison writes
are ordered (`State.tagLossStep`). -/
def State.poisonCovered (s : State) (lpa : Nat) (stamp : BitVec 32) : State :=
  match s.covered (lpaLanding lpa) (lpaAddr lpa) with
  | none => s
  | some (n, spots) =>
    let (s, line, places) := (spots.zipIdx).foldl (fun (acc : State × BitVec 512 × List (Nat × Nat)) e =>
      let (s, x, ps) := acc
      match e.1 with
      | none => acc
      | some sp =>
        let q := (s.land sp.l).seq
        let isIt (a : Access) : Bool := a.addr == sp.addr && (a.op == .write || a.op == .rmw && a.ready)
        match ((q.wrote.map (·.2)) ++ q.wq).reverse.find? isIt with
        | some w => (s, setTagSlot x e.2 (w.tag.getD 0), ps)
        | none =>
          if s.writeLost sp.l sp.addr then acc
          else
            let s := s.modSeq sp.l fun q =>
              let read (a : Access) : Bool := a.addr == sp.addr && (a.op == .read || a.op == .rmw)
              let bad (a : Access) : Access := { a with poison := true }
              { q with
                lockTable := q.lockTable ++ [{ addr := sp.addr, cause := .tagLine lpa }]
                held := q.held ++ q.rq.filter fun a => read a && a.op == .read
                rq := mapIf read bad (q.rq.filter fun a => !(read a && a.op == .read))
                inflight := mapIf read bad q.inflight
                checking := mapIf (fun t => read t.1) (fun t => (bad t.1, t.2)) q.checking }
            (s.ownWrite sp.l sp.addr stamp (some n) 0 true, x, ps ++ [(sp.l, sp.addr)])) (s, 0, [])
    let c : CacheLine := { kind := .tag, lpa := lpa, hall := some n, data := line, dirty := true }
    (s.insertMeta (metaGal lpa) c).modGal (metaGal lpa) fun x =>
      { x with lostTags := x.lostTags ++ [{ lpa := lpa, places := places, written := false }] }

/-- A tag line that cannot be read, with no cached copy. -/
def State.loseTagLine (s : State) (lpa : Nat) (stamp : BitVec 32) : State :=
  let l := lpaLanding lpa
  (s.raise (repS 6 4 l (s.coord l (lpaAddr lpa))) none).poisonCovered lpa stamp

/-! ## Other metadata lost (R387, R397, R398) -/

/-- The pages of a page-map line all become LOST; the line is cached and rewritten. -/
def State.losePageMap (s : State) (lpa n i : Nat) (stamp : BitVec 32) : State :=
  match s.hall n with
  | none => s
  | some h =>
    let g := metaGal lpa
    let l := lpaLanding lpa
    let s := (List.range 8).foldl (fun s k =>
      let p := 8 * i + k
      let e := s.awayAt n p
      let s := (s.dropDecoded (h.home p) n p).setAway n p lostEntry
      if p * 4096 < h.bytes then
        let s := s.countPage n p (h.home p) (if e.loc = 0 then 1 else 0) (if e.packed then -1 else 0)
        if e.packed then s.unreserve (h.home p) n p else s
      else s) s
    let line := (List.range 8).foldl (fun x k => setEntry x k lostEntry) (0 : BitVec 512)
    let c : CacheLine := { kind := .pageMap, lpa := lpa, hall := some n, data := line, dirty := false }
    let s := (s.insertMeta g c).bumpG g 0x403C 1
    let s := s.ownWrite l (lpaAddr lpa) stamp (some n) (s.metaStored c) false
    s.raise { repS 11 2 l (s.coord l (lpaAddr lpa)) with inst := g } none

/-- Every counter of a heat line at its neutral value; the line is cached and rewritten (R397). -/
def State.resetHeat (s : State) (lpa h : Nat) (stamp : BitVec 32) : State :=
  let g := metaGal lpa
  let w := s.heatWidth g h
  let line := heatMap w (fun _ => neutralOf w) 0
  let s := (s.insertMeta g { kind := .heat, lpa := lpa, hall := none, data := line, dirty := false }).bumpG g 0x5058 1
  let s := s.ownWrite (lpaLanding lpa) (lpaAddr lpa) stamp none line false
  s.raise (rep 12 1 g 0) none

/-- The sixteen frames of a lost pool-map line are quarantined (R398). -/
def State.losePoolMap (s : State) (lpa j : Nat) : State :=
  let g := metaGal lpa
  let s := (List.range 16).foldl (fun s i =>
    let f := 16 * j + i
    s.putPool g f { (s.gal g).entry f with quar := true }) s
  let s := s.insertMeta g { kind := .poolMap, lpa := lpa, hall := none, data := (s.gal g).poolData j, dirty := true }
  s.raise (rep 12 2 g 0) none

/-- A metadata line decoded as POISON or UNCORRECTABLE with no cached copy. -/
def State.loseMeta (s : State) (l addr : Nat) (stamp : BitVec 32) : State :=
  let lpa := lpaOf l addr
  match s.ownerOf l addr with
  | .tag _ _ => s.loseTagLine lpa stamp
  | .frameTag _ _ => s.loseTagLine lpa stamp
  | .pages n i => s.losePageMap lpa n i stamp
  | .heat h => s.resetHeat lpa h stamp
  | .pool j => s.losePoolMap lpa j
  | _ => s

/-! ## Patrol scrub (R239) -/

/-- The metadata kind of a line, by its owner. -/
def Owner.kind : Owner → Option MetaKind
  | .tag _ _ => some .tag
  | .frameTag _ _ => some .tag
  | .pages _ _ => some .pageMap
  | .heat _ => some .heat
  | .pool _ => some .poolMap
  | _ => Option.none

/-- The outcome of a scrub read. -/
def State.scrubbed (s : State) (l : Nat) (a : Access) (o : EccOutcome) (stored : BitVec 512) : State :=
  match o with
  | .clean => s
  | .corrected =>
    let s := s.bumpL l 0x69C 1
    s.rewrite l a stored false
  | _ =>
    let ue := o == .uncorrectable
    let s := if ue then s.bumpL l 0x6A0 1 else s
    let c := s.coord l a.addr
    let own := s.ownerOf l a.addr
    let lpa := lpaOf l a.addr
    match own.kind with
    | some k =>
      (match s.cached (l / 4) k lpa with
       | some line =>
         if ue then (s.writeBack (l / 4) { line with dirty := true }).raise (repS 6 7 l c) none else s
       | none => s.loseMeta l a.addr a.stamp)
    | none =>
      if !ue then s
      else
        let harmless : Bool := match own with
          | .data n off => (match s.hall n with
            | some h => s.beyond n h off
            | none => true)
          | .frame _ _ => false
          | _ => true
        if harmless then s.raise (repS 6 7 l c) none
        else (s.raiseUE l c).poisonWrite l a

/-! ## The actions of an outcome (R256) -/

/-- A read or merge that has no data to give: its entries go, its lock is released, its client is told. -/
def State.readFails (s : State) (l : Nat) (a : Access) : State :=
  let s := s.dropAccess l a.id
  let s := if a.op = .rmw then s.unlockLine l a.addr fun c => c == .rmw a.id else s
  let s : State := match a.client, a.closes with
    | .host p _, some ldid => s.endSeq p ldid
    | _, _ => s
  s.deliver l a .poison

/-- A line of a row under repair is staged as it is stored; one that decodes bad is kept as the poison encoding, and an
UNCORRECTABLE one is reported (R264 step 3). With the last line the sequencer closes the bank for the programming. -/
def State.pprLine (s : State) (l : Nat) (a : Access) (o : EccOutcome) (stored : BitVec 512) : State :=
  let bad := o == .poison || o == .uncorrectable
  let s := if o = .uncorrectable then s.raiseUE l (s.coord l a.addr) else s
  let add (r : Repair) : Repair := { r with staged := r.staged ++ [(a.addr, if bad then 0 else stored, bad)] }
  let s := s.modMisc fun m => { m with repairs := mapIf (fun r => r.landing == l) add m.repairs }
  match s.repairOf l with
  | none => s
  | some r =>
    let c := r.coord
    if r.staged.length < (s.land l).seq.geom.rowLines then s
    else s.modSeq l fun q =>
      { q with rows := q.rows.filter fun o => !(o.sub == c.sub && o.rank == c.rank && o.bg == c.bg && o.bank == c.bank) }

/-- Act on a decoded line: a sound one goes on to decryption and the tag check; a bad one ends here. -/
def State.settle (s : State) (l : Nat) (a : Access) (o : EccOutcome) (stored : BitVec 512) : State :=
  if a.client = .scrub then s.scrubbed l a o stored
  else if a.client = .ppr then s.pprLine l a o stored
  else
    match o with
    | .clean => s.modSeq l fun q => { q with checking := q.checking ++ [(a, stored, false)] }
    | .corrected => s.modSeq l fun q => { q with checking := q.checking ++ [(a, stored, true)] }
    | _ =>
      match a.client with
      | .fill g k lpa =>
        let s := s.modGal g fun x => { x with fetches := x.fetches.filter fun f => !(f.kind == k && f.lpa == lpa) }
        s.loseMeta l a.addr a.stamp
      | _ =>
        let c := s.coord l a.addr
        let s := if o = .uncorrectable then (s.raiseUE l c).poisonWrite l a
          else if a.op = .rmw then s.raise (repS 6 3 l c) none
          else s
        s.readFails l a

/-- A burst has come back (R252): counts, the log, and the outcome's actions. -/
def State.decodeBurst (s : State) (l : Nat) (a : Access) (burst : BitVec 640) : State :=
  let c := s.coord l a.addr
  let full := (s.gv (l / 4) 0x2000).getLsbD 0
  let (o, stored, errs) := decodeLine full (s.land l).seq.geom.x8 (s.erased l c) burst
  (s.eccCount l a o errs).settle l a o stored

end Sys2Proof.Machine
end

