-- ==== Sys2Proof/Machine/Check.lean ====
section
/-! DEFINITION. Decryption and the tag check (R354–R360), the merge of a partial write (R21, R357), metadata
fills, integrity failures (R366–R368), the ahead table's zeroing (R116, R117);
and the rows of the line path. -/

namespace Sys2Proof.Machine

/-! ## Integrity failures -/

/-- A tag that fails: the detecting Gallery records it, and the block enters Halt (R366–R368). -/
def State.integrityFail (s : State) (l : Nat) (a : Access) (corrected : Bool) : State :=
  let g := l / 4
  let info : W32 := at_ 0 1 ||| at_ 1 a.req ||| at_ 5 (b2n corrected) ||| at_ 6 (b2n (a.op == .rmw)) |||
    at_ 16 (a.hall.getD 0)
  let s := if s.chip.halted then s else
    s.modGal g fun x => { x with haltSrc := true, haltInfo := info, haltLpa := lpaOf l a.addr, haltTime := s.now }
  let s := s.modSeq l fun q => { q with checking := q.checking.filter fun e => e.1.id != a.id }
  s.raise (repL 10 1 l 0) none

/-! ## Admission of a write (R19, R239, R257, R381) -/

/-- A demotion of the page under way is abandoned (R381). -/
def State.abandonPage (s : State) (n p : Nat) : State :=
  eachBelow 3 (fun g s => s.modGal g fun x =>
    { x with moves := mapIf (fun m => m.demote && m.hall == n && m.page == p) (fun m => { m with abandoned := true }) x.moves }) s

/-- A write of the page clears its `INCOMP` (R376). -/
def State.pageWritten (s : State) (n p : Nat) : State :=
  match s.hall n with
  | none => s
  | some h =>
    if !h.cmp then s
    else
      match s.entryOf h p with
      | some e => if e.incomp then s.setPageEntry h p { e with incomp := false } else s
      | none => s

/-- A segment whose storage line has a write admitted since its read (R386). -/
def State.staleSegs (s : State) (l addr : Nat) : State :=
  let g := l / 4
  if (s.gal g).segs.isEmpty then s
  else match (s.gal g).poolOwner l addr with
    | .frame f j =>
      let read (e : SegFetch) : Bool :=
        e.frame == f && decide (e.first ≤ j ∧ j < e.first + e.need) && (lookupN e.lines (j - e.first)).isSome
      let mark (e : SegFetch) : SegFetch := { e with stale := (j - e.first) :: e.stale }
      s.modGal g fun x => { x with segs := mapIf (fun e => read e) mark x.segs }
    | _ => s

/-- A write of the line has been admitted: earlier reads of it and rewrites on their way are stale (R239, R257, R386), and demotions
of its page are abandoned (R381). -/
def State.writeAdmitted (s : State) (l : Nat) (a : Access) : State :=
  let old (r : Access) : Access := if r.addr == a.addr then { r with stale := true } else r
  let late (r : Access) : Access := if r.yields then old r else r
  let s := s.modArb l fun x => { x with staging := x.staging.map late, grantNext := x.grantNext.map late }
  let s := s.modSeq l fun q =>
    { q with rq := q.rq.map old, held := q.held.map old, inflight := q.inflight.map old
             checking := q.checking.map fun e => (old e.1, e.2) }
  let s := s.staleSegs l a.addr
  match a.client, a.hall with
  | .host .., some n => (s.abandonPage n (a.off / 4096)).pageWritten n (a.off / 4096)
  | .cpu .., some n => (s.abandonPage n (a.off / 4096)).pageWritten n (a.off / 4096)
  | .dma .., some n => (s.abandonPage n (a.off / 4096)).pageWritten n (a.off / 4096)
  | _, _ => s

/-- The BPP sequence that an access closes is over. -/
def State.closeIf (s : State) (a : Access) : State :=
  match a.client, a.closes with
  | .host p _, some ldid => s.endSeq p ldid
  | _, _ => s

/-! ## The merge (R21, R357) -/

/-- The checked read of a partial write is merged; its write entry becomes issuable and the write is globally
ordered. -/
def State.mergeRmw (s : State) (l : Nat) (a : Access) (h : Hall) (plain : BitVec 512) : State :=
  let n := a.hall.getD 0
  let stored := s.cipherLine h l a.addr (mergeBytes plain a.data a.be)
  let tag := if h.integ then some (s.tagOf n h l a.addr stored) else none
  let s := s.writeAdmitted l a
  let s := s.modSeq l fun q =>
    { q with wq := mapIf (fun w => w.id == a.id) (fun w => { w with ready := true, stored := stored, tag := tag }) q.wq }
  let s := s.unlockLine l a.addr fun c => c == .rmw a.id
  (s.closeIf a).deliver l a .ordered

/-! ## The tag check -/

/-- The stored tag of an access: the tag held by the write-queue entry it was forwarded from, or its slot of
the cached tag line. -/
def State.storedTag (s : State) (a : Access) : Option (BitVec 32) :=
  match a.tag with
  | some t => some t
  | none =>
    match a.tagAt with
    | none => none
    | some (lpa, slot) => (s.cached (metaGal lpa) .tag lpa).map fun c => tagSlot c.data slot

/-- A checked line goes to its client. -/
def State.release (s : State) (l : Nat) (a : Access) (h : Option Hall) (stored : BitVec 512) : State :=
  let s := s.modSeq l fun q => { q with checking := q.checking.filter fun e => e.1.id != a.id }
  let plain := match h with
    | some h => s.plainLine h l a.addr stored
    | none => stored
  match h with
  | some h => if a.op = .rmw then s.mergeRmw l a h plain else s.deliver l a (.data plain)
  | none => s.deliver l a (.data plain)

/-- Decryption and the tag check of one line end (R354). A line whose tag line is not cached asks for it and
waits. -/
def State.checkLine (s : State) (l : Nat) (a : Access) (stored : BitVec 512) (corrected : Bool) : State :=
  match a.client with
  | .fill .. => s
  | _ =>
    if a.poison then s.readFails l a
    else
      let h := a.hall.bind s.hall
      match h with
      | none => s.release l a none stored
      | some hx =>
        if hx.integ && s.chip.variant.cipher then
          match s.storedTag a with
          | none =>
            (match a.tagAt with
             | some (lpa, _) => s.awaitTag lpa a
             | none => s.release l a h stored)
          | some t =>
            if t = s.tagOf (a.hall.getD 0) hx l a.addr stored then (s.bumpG (l / 4) 0x301C 1).release l a h stored
            else s.integrityFail l a corrected
        else s.release l a h stored

/-! ## Metadata fills -/

/-- A fetched metadata line enters its cache; samples that waited for a heat line are added to it (R358,
R394). -/
def State.fillMeta (s : State) (g : Nat) (k : MetaKind) (lpa : Nat) : State :=
  let l := lpaLanding lpa
  match (s.land l).seq.checking.find? fun e => e.1.client == .fill g k lpa with
  | none => s
  | some (a, stored, _) =>
    let adds := match (s.gal g).fetches.find? fun f => f.kind == k && f.lpa == lpa with
      | some f => f.adds
      | none => []
    let s := s.modSeq l fun q => { q with checking := q.checking.filter fun e => e.1.id != a.id }
    let s := s.modGal g fun x => { x with fetches := x.fetches.filter fun f => !(f.kind == k && f.lpa == lpa) }
    let plain : BitVec 512 := match k with
      | .poolMap => (match s.ownerOf l (lpaAddr lpa) with
        | .pool j => (s.gal g).poolData j
        | _ => stored)
      | _ => (match a.hall.bind s.hall with
        | some h => s.plainLine h l (lpaAddr lpa) stored
        | none => stored)
    let data := adds.foldl heatApply plain
    let s := s.insertMeta g { kind := k, lpa := lpa, hall := a.hall, data := data, dirty := !adds.isEmpty }
    adds.foldl (fun s e => match e.2.2 with
      | some (n, p) => s.hotCheck g n p
      | none => s) s

/-- The fetch that waits longest by stamp starts when a slot is free (R358). -/
def State.startFetch (s : State) (g : Nat) (k : MetaKind) : State :=
  let fs := (s.gal g).fetches.filter fun f => f.kind == k
  let busy := (fs.filter fun f => f.started).length
  if fetchLimit k ≤ busy then s
  else
    match (fs.filter fun f => !f.started).foldl (fun (b : Option MetaFetch) f => match b with
        | none => some f
        | some x => if nearer f.stamp x.stamp then some f else some x) none with
    | none => s
    | some f =>
      let s := s.modGal g fun x =>
        { x with fetches := mapIf (fun e => e.kind == k && e.lpa == f.lpa) (fun e => { e with started := true }) x.fetches }
      s.issueFetch g k f.lpa f.hall f.stamp f.dl f.req

/-! ## Zero lines (R115–R117) -/

/-- The tag that a zero line of a hall has at its place. -/
def State.zeroTag (s : State) (n : Nat) (h : Hall) (off : Nat) : BitVec 32 :=
  let (l, a) := h.line off
  s.tagOf n h l a (s.cipherLine h l a 0)

/-- Cached tag lines of a zeroed region take the tags of its zero lines, from the offset on that its zeroing covers. -/
def State.zeroTags (s : State) (n : Nat) (h : Hall) (region low : Nat) : State :=
  if !h.integ then s
  else
    let fix (c : CacheLine) : CacheLine :=
      if c.kind == .tag && c.hall == some n then
        match s.ownerOf (lpaLanding c.lpa) (lpaAddr c.lpa) with
        | .tag m i =>
          if m = n ∧ i * 1024 / regionBytes = region then
            { c with dirty := true
                     data := (List.range 16).foldl (fun x t =>
                       if low ≤ (16 * i + t) * 64 then setTagSlot x t (s.zeroTag n h ((16 * i + t) * 64)) else x) c.data }
          else c
        | _ => c
      else c
    eachBelow 3 (fun g s => s.modGal g fun x => { x with cache := x.cache.map fix }) s

/-! ## The rows -/

/-- Data returned for a read of the replay window before the replay is discarded (R188 step 5). -/
def Seq.discards (q : Seq) (id : Nat) : Bool :=
  match q.retry with
  | some r => r.done.isNone && r.window.any fun c => c.acc == some id
  | none => false

/-- `LINE_DECODE`: a burst returns for a read in flight (R252). -/
def execLineDecode (l : LandingId) (id : Nat) (burst : BitVec 640) (s : State) : Out :=
  match (s.land l).seq.inflight.find? fun a => a.id == id with
  | none => .next s
  | some a =>
    if (s.land l).seq.discards id then .next s
    else
      let s := s.modSeq l fun q => { q with inflight := q.inflight.filter fun e => e.id != id }
      .next ((s.decodeBurst l a burst).pump)

/-- `TAG_CHECK`: decryption and the tag check of a decoded line finish (R354, R355). -/
def execTagCheck (l : LandingId) (id : Nat) (s : State) : Out :=
  match (s.land l).seq.checking.find? fun e => e.1.id == id with
  | none => .next s
  | some (a, stored, corrected) => .next ((s.checkLine l a stored corrected).pump)

/-- `HALT_DRAIN_TIMEOUT`: a Landing that has drained for 20 µs in Halt abandons its remaining writes, and the count is recorded
(R368 step 4). -/
def execHaltDrainTimeout (l : LandingId) (s : State) : Out :=
  if s.chip.halted && (s.land l).seq.lstate == .drain && (s.land l).drainFrom.any (fun t => decide (t + 40000 ≤ s.chip.cycle)) then
    .next (s.abandonWrites l)
  else .next s

/-- `TAG_LINE_FILL`: a metadata line read from DRAM enters its Gallery's cache (R358). -/
def execTagLineFill (g : GalleryId) (k : MetaKind) (lpa : Nat) (s : State) : Out := .next ((s.fillMeta g k lpa).pump)

/-- `TAG_FETCH_START`: a waiting miss gets a fetch slot (R358). -/
def execTagFetchStart (g : GalleryId) (k : MetaKind) (s : State) : Out := .next (s.startFetch g k)

/-- A zero line of a region is presented and not yet ordered. -/
def Hall.zeroingIn (h : Hall) (region : Nat) : Bool := h.zeroOut.any fun o => o / regionBytes == region

/-- `AHEAD_ZEROING_DONE`: every line of an ahead region is zeroed (R116), and the requests held for it go on. Lines that no
`INIT_ZERO_WRITE` presented are zeroed with this report (log entry 26, DESIGN CHOICE); one presented and not yet ordered
holds it up. -/
def execAheadZeroingDone (h : HallId) (region : Nat) (s : State) : Out :=
  match s.aheadOf h region, s.hall h with
  | some a, some x =>
    if a.done || x.zeroingIn region then .next s
    else
      let s := { s with ahead := mapIf (fun e => e.hall == h.val && e.region == region) (fun e => { e with done := true }) s.ahead }
      .next (((s.zeroTags h x region a.low).advanceW h x x).pump)
  | _, _ => .next s

/-- `AHEAD_ENTRY_FREE`: W has passed the region of an entry (R116); a waiting write may take the place (R117). -/
def execAheadEntryFree (h : HallId) (region : Nat) (s : State) : Out :=
  match s.aheadOf h region, s.hall h with
  | some a, some x =>
    if a.done && decide ((region + 1) * regionBytes ≤ x.w) then
      .next ({ s with ahead := s.ahead.filter fun e => !(e.hall == h.val && e.region == region) }.pump)
    else .next s
  | _, _ => .next s

end Sys2Proof.Machine
end

