-- ==== Sys2Proof/Machine/Arbiter.lean ====
section
/-! DEFINITION. The Landing arbiter (R126–R151): eligibility, the decision of R132, backoff, the locks that hold
the grant, and admission into the read queue, the write queue, the hint list or the claim list (R19, R22, R127,
R159); hall initialisation (R115); and the arbiter's rows. -/

namespace Sys2Proof.Machine

/-! ## Line locks (R22) -/

/-- An access of a port's locked sequence: the read that opens it, its owner's reads without LOCK, and the request that closes
it (R88). -/
def Access.ofSeq (a : Access) (p ldid : Nat) : Bool :=
  a.req == reqOf p && (a.opens == some ldid || a.closes == some ldid || a.inside == some ldid)

/-- A write of the Tier Engine's: it prepares a place that no request reads before the page-map entry switches to it (R23, R24). -/
def Access.ofMove (a : Access) : Bool :=
  a.op == .write && match a.client with
    | .tier .. => true
    | _ => false

/-- The access is the locked sequence's own, its owner's read without LOCK (R88), or the write that ends the lock; the
promotion that a sequence's closing write waits for passes too (log entry 86, DEDUCED). -/
def LineLock.ownedBy (e : LineLock) (a : Access) : Bool :=
  match e.cause with
  | .bpp p ldid => a.ofSeq p ldid || a.ofMove
  | .rmw id => id == a.id
  | .tagLine _ => a.client == .own && a.poison && !a.yields
  | .repair => a.client == .ppr

/-- A request to a locked line waits behind the sequence; of several causes on a line the oldest decides. -/
def Seq.blocks (q : Seq) (a : Access) : Bool := (q.lockTable.find? fun e => e.addr == a.addr).any fun e => !e.ownedBy a

/-- A request to a region that is being zeroed ahead of the watermark waits in the Landing queue like one behind a locked line
(R116). -/
def State.aheadHolds (s : State) (a : Access) : Bool :=
  match a.client, a.hall with
  | .host .., some n => s.zeroing n a.off
  | .dma .., some n => s.zeroing n a.off
  | _, _ => false

/-- A request waits in the Landing queue (R22, R116). -/
def State.holds (s : State) (l : Nat) (a : Access) : Bool := (s.land l).seq.blocks a || s.aheadHolds a

/-! ## Admission -/

/-- Write-queue entries in use, those behind a locked line included. -/
def Seq.wqUsed (q : Seq) : Nat := q.wq.length + (q.held.filter fun a => a.op != .read).length
/-- Read-queue entries in use. -/
def Seq.rqUsed (q : Seq) : Nat := q.rq.length + (q.held.filter fun a => a.op == .read || a.op == .rmw).length

/-- The write-queue form of a write: the block's own lines as they are stored, others encrypted and tagged, or
the poison encoding with the tag slot untouched (R77, R249, R356). -/
def State.toStore (s : State) (l : Nat) (a : Access) : Access :=
  let a := { a with ready := true }
  match a.client with
  | .own => a
  | .ppr => a
  | _ =>
    if a.poison then { a with stored := 0, tag := none }
    else
      match a.hall.bind s.hall with
      | none => { a with stored := a.data }
      | some h =>
        let stored := s.cipherLine h l a.addr a.data
        { a with stored := stored
                 tag := if h.integ && s.chip.variant.cipher && a.tagAt.isSome then some (s.tagOf (a.hall.getD 0) h l a.addr stored) else none }

/-- A write enters the write queue and is globally ordered (R19). An MWRP with no byte enabled only orders
(R76). -/
def State.admitWrite (s : State) (l : Nat) (a : Access) : State :=
  if a.ordersOnly then (s.closeIf a).deliver l a .ordered
  else if (s.land l).seq.superseded a then s
  else
    let w := { s.toStore l a with closes := none }
    let s := (s.writeAdmitted l a).modSeq l fun q => { q with wq := q.wq ++ [w] }
    (s.closeIf a).deliver l a .ordered

/-- A read enters the read queue, or is served from the newest queued write of its line (R159); a
locked read beyond the init watermark reads zeros (R17). -/
def State.admitRead (s : State) (l : Nat) (a : Access) : State :=
  match (s.land l).seq.wq.reverse.find? fun w => w.addr == a.addr && w.ready with
  | some w =>
    let o : EccOutcome := if w.poison then .poison else .clean
    ((s.bumpL l 0x42C 1).eccCount l a o []).settle l { a with tag := if w.tag.isSome then w.tag else a.tag } o w.stored
  | none =>
    let beyond : Bool := match a.hall.bind s.hall with
      | some h => a.op == .read && a.ready && s.beyond (a.hall.getD 0) h a.off
      | none => false
    if beyond then s.deliver l a (.data 0) else s.modSeq l fun q => { q with rq := q.rq ++ [a] }

/-- A partial write takes a read-queue and a write-queue entry and locks its line (R21, R22, R160); its data has
moved into the merge state, so its write credit returns (R93). -/
def State.admitRmw (s : State) (l : Nat) (a : Access) : State :=
  let s := s.modSeq l fun q =>
    { q with wq := q.wq ++ [{ a with ready := false }]
             lockTable := if q.lockTable.any fun e => e.addr == a.addr then q.lockTable
               else q.lockTable ++ [{ addr := a.addr, cause := .rmw a.id }] }
  let s : State := match a.client with
    | .host p id => (s.modTxn p id fun t => { t with credited := true }).modPort p fun x => { x with wrq := x.wrq + 1 }
    | _ => s
  s.admitRead l a

/-- A line access enters its queue, or waits behind a locked line (R22). -/
def State.admitLine (s : State) (l : Nat) (a : Access) : State :=
  if s.holds l a then s.modSeq l fun q => { q with held := q.held ++ [a] }
  else
    match a.op with
    | .write => s.admitWrite l a
    | .rmw => s.admitRmw l a
    | _ =>
      let s : State := match a.opens, a.client with
        | some ldid, .host p _ => (s.modSeq l fun q =>
            { q with lockTable := q.lockTable ++ [{ addr := a.addr, cause := .bpp p ldid }] }).abandonPage
              (a.hall.getD 0) (a.off / 4096)
        | _, _ => s
      s.admitRead l a

/-- Requests behind a line that is no longer locked take their place in the queues, in order. -/
def State.readmit (s : State) (l : Nat) : State :=
  (s.land l).seq.held.foldl (fun s a =>
    let q := (s.land l).seq
    if (q.held.any fun e => e.id == a.id) && !s.holds l a then
      (s.modSeq l fun q => { q with held := q.held.filter fun e => e.id != a.id }).admitLine l a
    else s) s

/-- A hint can wait for its ACT: hints are acted on, its bank is IDLE and not fenced (R184). -/
def State.hintStands (s : State) (l : Nat) (a : Access) : Bool :=
  let q := (s.land l).seq
  (s.lv l 0x400).getLsbD 2 && q.bankIdle (coordOf q.geom a.addr) (s.chip.cycle * q.geom.rate / 4000) && !s.placeFenced l a.addr

/-- A hint joins the list of 16, or is dropped (R127, R184). -/
def State.admitHint (s : State) (l : Nat) (a : Access) : State :=
  let q := (s.land l).seq
  if s.hintStands l a && decide (q.hints.length < 16) then
    s.modSeq l fun q => { q with hints := q.hints ++ [a] }
  else s.bumpL l 0x434 1

/-- What a granted request does (R127). -/
def State.admitGranted (s : State) (l : Nat) (a : Access) : State :=
  match a.op with
  | .claim _ => s.modSeq l fun q => { q with claims := q.claims ++ [a] }
  | .hint => s.admitHint l a
  | .unlk => (s.closeIf a).deliver l a .ordered
  | _ => s.admitLine l a

/-! ## Grants -/

/-- The sequence that a request begins at its grant holds the grant from then on, except the merge of an
emergency requester (R138). -/
def Access.starts (a : Access) : Option LockCause :=
  match a.op, a.opens, a.client with
  | .rmw, _, _ => if a.emergency || a.closes.isSome then none else some (.rmw a.id)
  | .read, some ldid, .host p _ => some (.bpp p ldid)
  | _, _, _ => none

/-- A best-effort, CPU or TIER request admitted after its stamp fails a condition of R147. -/
def Access.aged (a : Access) (now : Nat) : Bool := !a.dl && decide (a.req ≤ 10) && nearer a.stamp (stampOf now)

/-- The counters and state of a grant (R135, R146, R151, R406), then the admission. -/
def State.grant (s : State) (l : Nat) (a : Access) : State :=
  let waited := match a.first with
    | some c => min 0xFFFF ((s.chip.cycle - c) / 2)
    | none => 0
  let s := s.bumpL l (0x100 + 0x10 * a.req) 1
  let s := s.modArb l fun x =>
    { x with losses := x.losses.setIfInBounds a.req 0, dlNow := x.dlNow + a.weight
             longest := x.longest.setIfInBounds a.req (max ((x.longest[a.req]?).getD 0) waited)
             starved := x.starved.filter fun i => i != a.id
             lock := match x.lock, a.starts with
               | none, some c => some { owner := a.req, cause := c, addr := a.addr, treads := 0
                                        suspended := false, wasSuspended := false }
               | k, _ => k }
  let s := if a.req = 9 then s.modLand l fun x =>
      { x with tokens := max (x.tokens - 1) (-(4 * (fld (s.gv (l / 4) 0x5004) 7 0 : Nat) : Int)) }
    else s
  let s := if a.aged s.now then s.excuseAll l else s.excuse l
  let (adm, s) := s.fresh
  s.admitGranted l { a with adm := adm }

/-! ## The decision (R128, R132–R137) -/

/-- A TIER access carries the stamp of a waiting write (R406). -/
def State.forWrite (s : State) (a : Access) : Bool :=
  match a.client with
  | .tier g id _ => ((s.moveOf g id).map fun m => m.write).getD false
  | .seg g f _ => (((s.segOf g f).bind fun e => e.move).bind fun m => (s.moveOf g m).map fun m => m.write).getD false
  | _ => false

/-- The Landing admits requests: it is in RUN; in a parity retry they wait until it ends (R560). -/
def Landing.admits (x : Landing) : Bool := x.seq.lstate == .run

/-- A read of a tag line. A Landing in DRAIN still makes those that its write queue needs, since a write issues only after its tag
is merged (R158, R356; log entry 97, DEDUCED). -/
def Access.fillsTag (a : Access) : Bool :=
  match a.client with
  | .fill _ .tag _ => true
  | _ => false

/-- The Landing admits the request: any in RUN; in DRAIN the Maintenance Unit's claims, since every owed refresh is placed before
self-refresh (R214), and the tag lines of its write queue. -/
def Landing.passes (x : Landing) (a : Access) : Bool := x.admits || (x.seq.lstate == .drain && (a.isClaim || a.fillsTag))

/-- The arbiter of the Landing works; in Halt only while the Landing drains. -/
def State.arbitrates (s : State) (l : Nat) : Bool :=
  (s.land l).seq.lstate == .drain || ((s.land l).admits && !s.chip.halted)

/-- Room in the queue a request takes; an MWRP with no byte enabled takes none (R76, R127). -/
def Seq.room (q : Seq) (a : Access) : Bool :=
  if a.ordersOnly then true
  else match a.op with
  | .read => decide (q.rqUsed < 64)
  | .write => decide (q.wqUsed < 64)
  | .rmw => decide (q.rqUsed < 64) && decide (q.wqUsed < 64)
  | _ => true

/-- A claim waits at a Landing: staged, granted or in the sequencer. -/
def Landing.claimed (x : Landing) (p : ClaimKind → Bool) : Bool :=
  (x.arb.staging ++ x.arb.grantNext.toList ++ x.seq.claims).any fun a => match a.claimKind with
    | some k => p k
    | none => false

/-- May a staged request be presented now (R128, R138, R406). `before` are the earlier ones of its
requester. The owner of the sequence that holds the grant presents none that would begin another, since a Landing holds one at
most (log entry 87, DESIGN CHOICE). The Maintenance Unit presents its window work row by row (R222). -/
def State.eligible (s : State) (l : Nat) (before : List Access) (a : Access) : Bool :=
  let x := s.land l
  let waits := match (x.arb.backoff[a.req]?).getD none with
    | some t => decide (s.chip.cycle < t) && !a.emergency
    | none => false
  let lockOk := match a.starts, x.arb.lock with
    | some _, some k => k.owner != a.req
    | _, _ => true
  let token := a.req != 9 || s.forWrite a || decide (0 < x.tokens)
  let inTurn := a.row = 0 || !(x.arb.staged a.req).any fun b => b.row != 0 && decide (b.row < a.row)
  inTurn && x.passes a && x.seq.room a && !waits && lockOk && token && !before.any fun b => b.addr == a.addr && !b.isClaim && !a.isClaim

/-- The eligible requests of a list, in order. -/
def State.eligibles (s : State) (l : Nat) : List Access → List Access → List Access
  | _, [] => []
  | before, a :: rest =>
    let more := s.eligibles l (before ++ [a]) rest
    if s.eligible l before a then a :: more else more

/-- The order of the Maintenance Unit's emergencies: refresh at its cap before an Alert Back-Off (R226). -/
def Access.urgency (a : Access) : Nat :=
  match a.op with
  | .claim (.aboRfm ..) => 1
  | _ => 0

/-- The better of two requests of one requester: an emergency first (log entry 88, DESIGN CHOICE), refresh before a back-off
(R226), then the nearer stamp, then the older. -/
def Access.better (b a : Access) : Bool :=
  if b.emergency != a.emergency then a.emergency
  else if a.emergency && b.urgency != a.urgency then decide (a.urgency < b.urgency)
  else nearer a.stamp b.stamp

/-- The request a requester presents. -/
def State.presents (s : State) (l r : Nat) : Option Access :=
  (s.eligibles l [] ((s.land l).arb.staged r)).foldl (fun b a => match b with
    | none => some a
    | some x => if x.better a then some a else some x) none

/-- The scan of R132 over the twelve ranked requesters: the winner, and whether a tie occurred. -/
def scanRank (cand : List Access) (ptr : Nat) : Option Access × Bool :=
  (List.range 12).foldl (fun acc i =>
    match cand.find? fun a => a.req == (ptr + i) % 12 with
    | none => acc
    | some a =>
      match acc.1 with
      | none => (some a, acc.2)
      | some w => if nearer a.stamp w.stamp then (some a, acc.2) else (acc.1, acc.2 || a.stamp == w.stamp)) (none, false)

/-- A requester loses a decision: its delay (R135); DBG never backs off. -/
def State.loses (s : State) (l : Nat) (a : Access) : State :=
  let s := s.bumpL l (0x104 + 0x10 * a.req) 1
  if a.req = 12 then s
  else
    let urgent := s.urgent l
    let c := s.chip.cycle
    s.modArb l fun x =>
      let n := (x.losses[a.req]?).getD 0 + 1
      let d := slackDelay urgent (slackOf a.stamp c) (min (4 * 2 ^ (min n 9 - 1)) 1024)
      { x with losses := x.losses.setIfInBounds a.req n, backoff := x.backoff.setIfInBounds a.req (some (c + 1 + d)) }

/-- A request of the Tier Engine promotes the page of the line that a port's sequence has locked, for its closing write
(log entry 86, DEDUCED). -/
def State.servesSeq (s : State) (k : GrantLock) (a : Access) : Bool :=
  match k.cause, a.client with
  | .bpp p ldid, .tier g m _ =>
    (s.port p).seqs.any fun q => q.ldid == ldid && q.active && (s.moveOf g m).any fun m => m.hall == q.hall && m.page == q.off / 4096
  | _, _ => false

/-- Decide among the presented requests; the winner leaves staging and is granted in the next cycle. -/
def State.chooseWinner (s : State) (l : Nat) : State :=
  let all := (List.range 13).filterMap fun r => s.presents l r
  let c := s.chip.cycle
  let seen (a : Access) : Access :=
    if a.first.isNone && all.any (fun b => b.id == a.id) then { a with first := some c } else a
  let s := s.modArb l fun x => { x with staging := x.staging.map seen }
  let all := all.map seen
  let mu := all.find? fun a => a.req == 11 && a.emergency
  let dbg := all.find? fun a => a.req == 12
  let emergency := mu.isSome || dbg.isSome
  let s := s.modArb l fun x =>
    { x with lock := x.lock.map fun k => { k with suspended := emergency, wasSuspended := k.wasSuspended || emergency } }
  let cand := match (s.land l).arb.lock with
    | some k => if k.suspended then all else all.filter fun a => a.req == k.owner || s.servesSeq k a
    | none => all
  let ptr := (s.land l).arb.tiePtr
  let (winner, tie) : Option Access × Bool := match mu, dbg with
    | some w, _ => (some w, false)
    | none, some w => (some w, false)
    | none, none => scanRank (cand.filter fun a => a.req < 12) ptr
  match winner with
  | none => s
  | some w =>
    let s := s.modArb l fun x =>
      { x with staging := x.staging.filter (fun a => a.id != w.id), grantNext := some w
               tiePtr := if tie then (w.req + 1) % 12 else x.tiePtr }
    (cand.filter fun a => a.req != w.req).foldl (fun s a => s.loses l a) s

/-- One cycle of the arbiter: the winner of the last decision is granted, then the next one is chosen
(R131). -/
def State.arbitrate (s : State) (l : Nat) : State :=
  if !s.arbitrates l then s
  else
    let s := (if (s.land l).admits then s.readmit l else s).refill l
    let s : State := match (s.land l).arb.grantNext with
      | some a =>
        let s := s.modArb l fun x => { x with grantNext := none }
        if (s.land l).passes a then s.grant l a else s.modArb l fun x => { x with staging := a :: x.staging }
      | none => s
    if s.arbitrates l then (s.chooseWinner l).refill l else s

/-! ## Hall initialisation (R115–R119) -/

/-- The Maintenance Unit of a Landing may present a zero line: the Landing serves, and a staging place is free. -/
def State.mayZero (s : State) (l : Nat) : Bool :=
  (s.land l).admits && !s.chip.halted && decide (((s.land l).arb.staged 11).length < 16)

/-- The hall offset of a member's zero line. -/
def Hall.zeroOff (h : Hall) (slot pos : Nat) : Nat := chunkOffset h.members.length slot (pos / 4) + pos % 4 * 64

/-- The next line a member zeroes behind the watermark: regions of the ahead table are skipped (R116). -/
def State.nextZero (s : State) (n : Nat) (h : Hall) (slot : Nat) : Nat → Nat → Nat
  | 0, pos => pos
  | fuel + 1, pos =>
    let off := h.zeroOff slot pos
    let region := off / regionBytes
    if off < h.reach && (s.aheadOf n region).isSome then
      s.nextZero n h slot fuel (max (pos + 1) (4 * ((region + 1) * 8192 / max 1 h.members.length)))
    else pos

/-- The next line of an ahead region that a member zeroes, if one is left. -/
def Hall.nextAhead (h : Hall) (a : Ahead) (slot : Nat) : Option Nat :=
  let p := a.pos.getD slot 0
  let p := if h.zeroOff slot p < a.low then 4 * (p / 4 + 1) else p
  if h.zeroOff slot p < min ((a.region + 1) * regionBytes) h.reach then some p else none

/-- Stage a zero line of a hall under a stamp: it is encrypted and tagged as a host write (R115). -/
def State.stageZero (s : State) (n : Nat) (h : Hall) (off : Nat) (stamp : BitVec 32) : State :=
  let sp := h.homeSpot off
  let s : State := match sp.tagAt with
    | some t => (s.needMeta (metaGal t.1) .tag t.1 (some n) stamp false 11).2
    | none => s
  let (id, s) := s.fresh
  s.stage sp.l { access id (.zero n) 11 stamp .write sp.addr with
    hall := some n, tagAt := sp.tagAt, off := off, ready := true }

/-- A member's granules that a creation or a growth zeroes: the new ones of its tag region, then of its page map (R118, R119). -/
def Hall.newMeta (h : Hall) (slot : Nat) : List Nat :=
  let n := max 1 h.members.length
  let old := if h.phase = .creating then 0 else h.size
  (h.tagExt.getD slot []).drop (tagGranules h.integ old n / n) ++ (h.mapExt.getD slot []).drop (mapGranules h.cmp old n / n)

/-- The hall's new metadata granules are being zeroed. -/
def Hall.zeroesMeta (h : Hall) : Bool :=
  match h.phase with
  | .creating => true
  | .growing _ => true
  | _ => false

/-- A member's Maintenance Unit presents the next zero line of its new metadata granules. -/
def State.zeroMeta (s : State) (l n : Nat) (h : Hall) (slot : Nat) : State :=
  let i := h.metaPos.getD slot 0
  match (h.newMeta slot)[i / (granuleBytes / 64)]? with
  | none => s
  | some g =>
    let addr := g * granuleBytes + i % (granuleBytes / 64) * 64
    if s.placeFenced l addr then s
    else
      let s := s.putHall n { h with metaPos := modAt h.metaPos slot fun _ => i + 1, metaOut := h.metaOut ++ [(slot, i)] }
      let (id, s) := s.fresh
      s.stage l { access id (.zeroMeta n i) 11 (beStamp s.now) .write addr with hall := some n, ready := true }

/-- The next zero line of a hall on a member Landing joins its Maintenance Unit's staging: of an ahead region at its write's
stamp (R116), of new metadata granules, or behind the watermark, both as best effort (R26, R115). -/
def State.zeroNext (s : State) (l n : Nat) : State :=
  match s.hall n with
  | none => s
  | some h =>
    match h.members.idxOf? l with
    | none => s
    | some slot =>
      if h.phase == .releasing || !s.mayZero l then s
      else
        match s.ahead.find? fun a => a.hall == n && !a.done && (h.nextAhead a slot).isSome with
        | some a =>
          let p := (h.nextAhead a slot).getD 0
          let off := h.zeroOff slot p
          if s.spotFenced (h.homeSpot off) then s
          else
            let s := s.putHall n { h with zeroOut := h.zeroOut ++ [off] }
            let mine (e : Ahead) : Bool := e.hall == n && e.region == a.region
            let s := { s with ahead := mapIf mine (fun e => { e with pos := modAt e.pos slot fun _ => p + 1 }) s.ahead }
            s.stageZero n h off a.stamp
        | none =>
          if h.zeroesMeta && decide (h.metaPos.getD slot 0 < (granuleBytes / 64) * (h.newMeta slot).length) then s.zeroMeta l n h slot
          else if h.phase == .creating then s
          else
            let p := s.nextZero n h slot (8 * (s.ahead.length + 1)) (h.zeroPos.getD slot 0)
            let off := h.zeroOff slot p
            let last := decide (h.reach / max 1 h.members.length ≤ 64 * p)
            if last || s.spotFenced (h.homeSpot off) then
              s.advanceW n h { h with zeroPos := modAt h.zeroPos slot fun _ => p }
            else
              (s.advanceW n h { h with zeroPos := modAt h.zeroPos slot fun _ => p + 1, zeroOut := h.zeroOut ++ [off] }).stageZero n h off (beStamp s.now)

/-! ## The hold limit (R139, R142) -/

/-- The hold count of a locked sequence at a tread boundary: the tread just ended counts unless the sequence was
suspended in it. -/
def GrantLock.tread (k : GrantLock) : GrantLock :=
  { k with treads := if k.wasSuspended then k.treads else k.treads + 1, wasSuspended := k.suspended }

/-- `LOCK_MAX` of a Landing. -/
def State.lockMax (s : State) (l : Nat) : Nat := fld (s.lv l 0) 15 8

/-- Break the sequence that holds the grant, whose count has reached `LOCK_MAX`. -/
def State.expireLock (s : State) (l : Nat) : State :=
  match (s.land l).arb.lock with
  | none => s
  | some k =>
    let s := (s.bumpL l 0x48 1).modArb l fun x => { x with lock := none }
    match k.cause with
    | .bpp p ldid => s.breakSeq p ldid .lockBroken
    | .rmw id =>
      let q := (s.land l).seq
      (match (q.rq ++ q.held ++ q.inflight ++ q.checking.map (·.1)).find? fun a => a.id == id with
       | some a => s.refuseOne l a .lockBroken
       | none => s)
    | _ => s

/-- A tread boundary at the arbiter's lock: the hold count advances, and the sequence is broken when an increment brings it to
`LOCK_MAX` (R139). -/
def State.lockTread (s : State) (l : Nat) : State :=
  match (s.land l).arb.lock with
  | none => s
  | some k =>
    let s := s.modArb l fun x => { x with lock := some k.tread }
    if k.treads < k.tread.treads && decide (s.lockMax l ≤ k.tread.treads) then s.expireLock l else s

/-! ## The rows -/

/-- `BACKOFF_EXPIRY`: a requester's retry delay is over (R135). -/
def execBackoffExpiry (l : LandingId) (r : RequesterId) (s : State) : Out :=
  .next (s.modArb l fun x => { x with backoff := match (x.backoff[r.val]?).getD none with
    | some t => if t ≤ s.chip.cycle then x.backoff.setIfInBounds r.val none else x.backoff
    | none => x.backoff })

/-- `STARVATION`: a staged request lies more than 1,000,000 ns past its stamp (R134). Each such request is
reported once (log entry 89, DESIGN CHOICE). DBG's requests have no stamp (R129). -/
def execStarvation (l : LandingId) (r : RequesterId) (s : State) : Out :=
  let x := (s.land l).arb
  let late (a : Access) : Bool :=
    nearer a.stamp (stampOf s.now) && decide (1000000 < (stampOf s.now - a.stamp).toNat) && !x.starved.contains a.id
  match (if r.val = 12 then none else (x.staged r).find? late) with
  | none => .next s
  | some a =>
    let s := s.modArb l fun x => { x with starved := x.starved ++ [a.id] }
    let port := if r.val < 8 then some r.val else none
    .next (s.raise { repL 3 1 l (at_ 0 r.val) with port := port, coord := some (s.coord l a.addr) } none)

/-- `LOCK_EXPIRY`: the hold count has reached `LOCK_MAX`; the Landing breaks the sequence (R139). The tread boundary whose
increment makes them equal breaks it itself; this row finds one only where `LOCK_MAX` has been lowered to the count or below it
since (log entry 38, DESIGN CHOICE). -/
def execLockExpiry (l : LandingId) (s : State) : Out :=
  match (s.land l).arb.lock with
  | some k => if s.lockMax l ≤ k.treads then .next ((s.expireLock l).pump) else .next s
  | none => .next s

/-- `INIT_ZERO_WRITE`: a member's Maintenance Unit presents the next zero line of a hall; W advances as the lines are ordered
(R115, R116, R118). -/
def execInitZeroWrite (l : LandingId) (h : HallId) (s : State) : Out := .next ((s.zeroNext l h).pump)

/-- `ARB_CLR_LONGEST`: a full-word write of `ARB_CLR.LONGEST` clears every ARB_RQ_LONGEST of the Landing
(R151). A write without all strobes takes no effect and sets `CFG_ERR` (R57). -/
def State.clrLongest (s : State) (l : Nat) : State := s.modArb l fun x => { x with longest := Vector.replicate 13 0 }

end Sys2Proof.Machine
end

