-- ==== Sys2Proof/Machine/Gate.lean ====
section
/-! DEFINITION. The gate every CFG access passes (R6, R11, R56, R57, R530, R531, R536): does CFG answer, is the unit
present, is its domain on, and is the strobe whole. -/

namespace Sys2Proof.Machine

/-- CFG takes a request: not in P4 and not while a cold reset is held (R536). -/
def State.cfgAlive (s : State) : Bool := s.pwr.state != .p4 && s.chip.phase != .cold

/-- A pop stalls CFG, or requests wait behind one: responses return in request order (R56, R445). -/
def State.cfgWaits (s : State) : Bool := s.cfg.stalled.isSome || !s.cfg.queue.isEmpty

/-- The Gallery of an address of the Gallery slices, the offset in the slice, and the Landing page of the offset. -/
def sliceOf (a : Nat) : Option (Nat × Nat) :=
  if 0x100000 ≤ a ∧ a < 0x1C0000 then some ((a - 0x100000) / 0x40000, (a - 0x100000) % 0x40000) else none

/-- The Landing page of a slice offset: local Landing and offset in the page. -/
def pageOf (o : Nat) : Option (Nat × Nat) :=
  if 0x10000 ≤ o ∧ o < 0x20000 then some ((o - 0x10000) / 0x4000, (o - 0x10000) % 0x4000) else none

/-- The address lies in a page of an absent Gallery or DMA channel, or in the registers of an absent engine of a Gallery (R6). -/
def State.absentAt (s : State) (a : Nat) : Bool :=
  let v := s.chip.variant
  match sliceOf a with
  | some (g, o) =>
    decide (s.nGal ≤ g) || (decide (0x3000 ≤ o ∧ o < 0x4000) && !v.cipher) || (decide (0x4000 ≤ o ∧ o < 0x6000) && !v.cmpTier)
  | none => decide (0x10000 ≤ a ∧ a < 0x18000) && decide (s.chip.variant.dmaCh ≤ (a - 0x10000) / 0x1000)

/-- A Gallery domain, or a PHY domain, is on. -/
def State.galUp (s : State) (g : Nat) : Bool := (s.chip.galOn[g]?).getD false && (s.chip.pgGal[g]?).getD false
def State.phyUp (s : State) (l : Nat) : Bool := (s.chip.phyOn[l]?).getD false && (s.chip.pgPhy[l]?).getD false

/-- The domain that serves an address is off or held in reset (R57, R536). Addresses that name no register
belong to no domain. -/
def State.domainDown (s : State) (a : Nat) : Bool :=
  if a < 0xF00 ∨ (0x1000 ≤ a ∧ a < 0x2000) then false
  else if s.absentAt a then false
  else if s.pwr.state = .p3 ∧ !s.chip.coreOn then true
  else
    match sliceOf a with
    | some (g, o) =>
      (match pageOf o with
       | some (l, off) =>
         if off = 0x1008 then !s.phyUp (4 * g) || s.chip.phase != .out
         else if 0x1000 ≤ off ∧ off < 0x3800 then !s.phyUp (4 * g + l) || s.chip.phase != .out
         else !s.galUp g || s.chip.phase != .out
       | none => if o < 0x10000 then !s.galUp g || s.chip.phase != .out else false)
    | none => if a < 0xD000 ∨ (0x10000 ≤ a ∧ a < 0x38000) then !s.chip.coreOn || s.chip.phase != .out else false

/-- A CFG write past the port: without the whole strobe, or with the domain off, it is ignored with CFG_ERR; at an
absent unit it is ignored; else `f` is its effect (R6, R57). -/
def State.writeGate (s : State) (a : Nat) (strb : BitVec 4) (f : State → State) : State :=
  if strb ≠ 0xF then s.cfgReply 0 true
  else if s.absentAt a then s.cfgReply 0 false
  else if s.domainDown a then s.cfgReply 0 true
  else (f s).cfgReply 0 false

/-- A CFG read past the port: `f` gives the word and the state it leaves. With a partial strobe the whole word is read with
CFG_ERR. -/
def State.readGate (s : State) (a : Nat) (strb : BitVec 4) (f : State → W32 × State) : State :=
  if s.absentAt a then s.cfgReply 0 (decide (strb ≠ 0xF))
  else if s.domainDown a then s.cfgReply 0 true
  else
    let (w, t) := f s
    t.cfgReply w (decide (strb ≠ 0xF))

/-- A request at the port: it waits behind a stalled pop and what waits there already; else it acts at once (R56). -/
def State.cfgRequest (s : State) (r : CfgReq) (f : State → State) : State :=
  if !s.cfgAlive then s
  else if s.cfgWaits then { s with cfg := { s.cfg with queue := s.cfg.queue ++ [r] } }
  else f s

/-- A CFG write of a word at an address, with the effect `f` where it passes. -/
def State.cfgWrite (s : State) (a : Nat) (w : CfgWord) (f : State → State) : State :=
  s.cfgRequest { write := true, addr := a, strb := w.strb, data := w.data, counts := [] } fun s => s.writeGate a w.strb f

/-- A CFG read at an address, with the effect `f`. -/
def State.cfgRead (s : State) (a : Nat) (strb : BitVec 4) (f : State → State) : State :=
  s.cfgRequest { write := false, addr := a, strb := strb, data := 0, counts := [] } f

/-- The RWL fields of the map take CFG writes in Bring-up mode only (R10, R465). -/
def State.rwl (s : State) : Bool := s.chip.bringup

end Sys2Proof.Machine
end

