-- ==== Sys2Proof/Machine/Pins.lean ====
section
/-! DEFINITION. Events at the pins (R46–R51, R59, R65, R479, R514): thermal shutdown, power-good and rail-good
inputs, the reference clock, ALIVE and STATUS1. -/

namespace Sys2Proof.Machine

/-- The block's pins act: it is not held in cold reset and not in P4 (R485 step 8). -/
def State.awake (s : State) : Bool := s.chip.phase != .cold && s.pwr.state != .p4

/-- A level source begins to hold, and is reported with the fence it starts. -/
def State.levelReport (s : State) (r : Rep) (f : Option Fence) : State := (s.levelOn r).raise r f

/-! ## STATUS1 (R50, R479) -/

/-- A Calibration Unit is in a run, a margin check or a restore path. -/
def State.calibrating (s : State) : Bool := s.landings.any fun x => x.cal.run.isSome || x.cal.state == 5

/-- Is STATUS1 low. -/
def State.status1Low (s : State) : Bool :=
  match s.claimOf 0 0 with
  | none => s.faultState
  | some c =>
    s.chip.status1Pulse ||
      (if c.param = 0 then s.faultState else if c.param = 1 then s.chip.halted else if c.param = 3 then s.calibrating
       else if c.param = 4 then s.pwr.trans.isSome else if c.param = 5 then !((s.eq.items[0]).isEmpty) else false)

/-! ## The rows -/

/-- `THERM_N_ASSERT`: the junction is above the shutdown limit (R51); source 15/07h. -/
def execThermNAssert (s : State) : Out :=
  if s.awake && s.chip.thermN then
    .next ((s.modChip fun c => { c with thermN := false }).levelReport (rep 15 7 0 0) none)
  else .next s

/-- `THERM_N_RELEASE`: the junction reads 10 °C below the limit (R51). -/
def execThermNRelease (s : State) : Out :=
  if s.awake then .next ((s.modChip fun c => { c with thermN := true }).levelOff 15 7 0) else .next s

/-- `PWR_GOOD_FALL`: PWR_GOOD falls while PWR_EN is high (R46); source 15/05h, Halt. -/
def execPwrGoodFall (s : State) : Out :=
  if s.awake && s.chip.pwrEn && s.chip.pwrGood then
    .next ((s.modChip fun c => { c with pwrGood := false }).levelReport (rep 15 5 0 0) none)
  else .next (s.modChip fun c => { c with pwrGood := false })

/-- The level of a rail-good input. -/
def Chip.setPg (c : Chip) (pin : PgPin) (v : Bool) : Chip :=
  match pin with
  | .core => { c with pgCore := v }
  | .cp => { c with pgCp := v }
  | .gal g => { c with pgGal := c.pgGal.set g.val v }
  | .phy l => { c with pgPhy := c.pgPhy.set l.val v }

/-- A rail-good input falls while its domain is on (R65, R515). -/
def State.pgFall (s : State) (pin : PgPin) : State :=
  let t := s.modChip fun c => c.setPg pin false
  match pin with
  | .core => if s.chip.coreOn && s.chip.pgCore then t.levelReport (rep 15 4 0 0) none else t
  | .cp => if s.chip.cpOn && s.chip.pgCp then t.levelReport (rep 15 4 0 0) none else t
  | .gal g =>
    if s.chip.galOn[g.val] && s.chip.pgGal[g.val] then
      let r := rep 15 3 g.val 0
      t.levelReport r (some (t.landFence ((List.range 4).map fun i => 4 * g.val + i) r))
    else t
  | .phy l =>
    if s.chip.phyOn[l.val] && s.chip.pgPhy[l.val] && (s.land l).sbd.started then
      let r := repL 15 2 l.val 0
      t.levelReport r (some (t.landFence [l.val] r))
    else t

/-- `PG_INPUT_FALL`: a rail-good input falls; sources 15/02h to 15/04h. -/
def execPgInputFall (pin : PgPin) (s : State) : Out := if s.awake then .next (s.pgFall pin) else .next s

/-- `PG_INPUT_RISE`: the input is high again, and the level condition of its source ends. -/
def execPgInputRise (pin : PgPin) (s : State) : Out :=
  if !s.awake then
    .next (s.modChip fun c =>
      let c := c.setPg pin true
      if c.railWait && c.pgCore && c.pgCp then c.start else c)
  else
    let s := s.modChip fun c => c.setPg pin true
    match pin with
    | .core => if s.chip.pgCp then .next (s.levelOff 15 4 0) else .next s
    | .cp => if s.chip.pgCore then .next (s.levelOff 15 4 0) else .next s
    | .gal g => .next (s.levelOff 15 3 g.val)
    | .phy l => .next (s.levelOff 15 2 l.val)

/-- `REFCLK_STOP`: REFCLK has stopped for more than 1 µs (R59); source 15/06h, Halt. -/
def execRefclkStop (s : State) : Out := if s.awake then .next (s.levelReport (rep 15 6 0 0) none) else .next s

/-- `ALIVE_TOGGLE`: half an ALIVE period has passed. ALIVE toggles in P0 to P3 once firmware has reported ready,
while no U or F state is active (R48, R514). -/
def execAliveToggle (s : State) : Out :=
  if s.awake && s.chip.aliveOn && !s.faultState && !s.chip.halted then
    .next (s.modChip fun c => { c with alive := !c.alive })
  else .next s

/-- `STATUS1_PULSE_END`: the least hold of a short assertion is over (R479). -/
def execStatus1PulseEnd (s : State) : Out := .next (s.modChip fun c => { c with status1Pulse := false })

end Sys2Proof.Machine
end

