-- ==== Sys2Proof/Machine/Store.lean ====
section
/-! DEFINITION. The Record Store (R454–R457): the bank taken at boot, the image a commit writes, and the records
as bytes. -/

namespace Sys2Proof.Machine

/-- Sequence number a is newer than b (R455). -/
def newerSeq (a b : BitVec 32) : Bool := decide (1 ≤ (a - b).toNat) && decide ((a - b).toNat < 2 ^ 31)

/-- The bank firmware takes at boot: false A, true B, none when neither is valid (R455). -/
def RecStore.choose (r : RecStore) : Option Bool :=
  match r.bankA, r.bankB with
  | none, none => none
  | some _, none => some false
  | none, some _ => some true
  | some a, some b => some (newerSeq b.seq a.seq)

/-- The bank taken. -/
def RecStore.bank (r : RecStore) : Option Bank :=
  match r.taken with
  | none => none
  | some false => r.bankA
  | some true => r.bankB

/-- Records firmware keeps as items: calibration snapshots and the fault history. -/
def Record.isItem : Record → Bool
  | .snapshot _ => true
  | r => r.isHistory

/-- The type byte of a record (R454). -/
def Record.type : Record → Nat
  | .snapshot _ => 1
  | .counters .. => 3
  | .hall .. => 4
  | .epochs _ => 5
  | _ => 2

/-- Newest `n` elements of a list kept oldest first. -/
def lastN {α : Type} (n : Nat) (l : List α) : List α := l.drop (l.length - n)

/-- Items after a boot: those of the bank, and the fault history not yet committed, which is sticky (R62). -/
def RecStore.reload (r : RecStore) : RecStore :=
  let t := { r with taken := r.choose }
  let kept := match t.bank with
    | some b => b.recs.filter Record.isItem
    | none => []
  let extra := r.items.filter fun x => x.isHistory && !kept.contains x
  let resets := match t.bank with
    | some b => b.recs.foldl (fun n x => match x with
        | .counters _ c => max n c.toNat
        | _ => n) r.cpResets.toNat
    | none => r.cpResets.toNat
  { t with items := kept ++ extra, changed := r.changed || !extra.isEmpty, cpResets := BitVec.ofNat 32 resets }

/-- A hall as its record holds it: no key (R454, R363). -/
def Hall.stored (h : Hall) : Hall := { h with key := [], keyLoaded := !h.enc }

/-- The records of a new image, in type order. -/
def State.imageRecords (s : State) : List Record :=
  let snaps := lastN 64 (s.store.items.filter fun r => r.type == 1)
  let hist := lastN 1024 (s.store.items.filter Record.isHistory)
  snaps ++ hist ++ [.counters s.flt.recoveries s.store.cpResets] ++
    (s.halls.map fun e => .hall e.1 e.2.stored (s.epoch e.1) (s.windows.filter fun w => w.hall == e.1)) ++
    [.epochs s.epochs]

/-- Write an image to the bank not taken; it becomes the one taken only when its check passes (R456). -/
def State.commitStore (s : State) (checkOk : Bool) : State :=
  let r := s.store
  let seq : BitVec 32 := match r.bank with
    | some b => b.seq + 1
    | none => 1
  let toB := match r.taken with
    | some true => false
    | some false => true
    | none => false
  if checkOk then
    let b : Bank := { seq := seq, recs := s.imageRecords }
    { s with store := { (if toB then { r with bankB := some b } else { r with bankA := some b }) with
      taken := some toB, changed := false, lastCommit := some s.now } }
  else
    let s : State := { s with store := { (if toB then { r with bankB := none } else { r with bankA := none }) with
      lastCommit := some s.now } }
    (s.post 0x17 1 [at_ 0 (b2n toB), 3, 1]).raise (rep 14 3 0 0) none

/-- The body of a record, where the manual gives its layout (R454); the layouts of types 02h to 04h are
open. -/
def Record.body (r : Record) (place : Nat) : List Byte :=
  match r with
  | .snapshot b => b
  | .epochs e => (List.range 1024).flatMap fun n => leBytes 2 ((lookupN e n).getD 0)
  | _ => Config.recordBody r.type place

/-- A record of a type with its header and CRC (R454). -/
def recordBytes (seq : BitVec 32) (type : Nat) (body : List Byte) : List Byte :=
  let hb := [0x52, 0x53, 0x54, 0x4F] ++ leBytes 4 seq.toNat ++ [BitVec.ofNat 8 type, 1, 0, 0] ++
    leBytes 4 body.length ++ body
  hb ++ leBytes 4 (crc32c hb).toNat

/-- The records of a bank with one type, as bytes, oldest first; the last record of an image is END. -/
def Bank.ofType (b : Bank) (type : Nat) : List (List Byte) :=
  if type = 0x7F then [recordBytes b.seq 0x7F []]
  else (b.recs.zipIdx.filter fun e => e.1.type == type).map fun e => recordBytes b.seq type (e.1.body e.2)

/-! ## Commands that wait for a commit (R477) -/

/-- A record of a type that a drop names by serial number, FFFF_FFFFh naming all. A snapshot carries the serials of both slots; a
history entry without a serial number goes only with all. -/
def Record.dropped (r : Record) (type : Nat) (serial : W32) : Bool :=
  let all := serial == 0xFFFFFFFF
  r.isItem && r.type == type &&
    (all || match r with
      | .snapshot b => [12, 16].any fun k => leNat ((b.drop k).take 4) == serial.toNat
      | .history _ _ _ n _ _ => n == serial
      | .device n _ _ _ _ => n == serial
      | .repair n _ _ _ _ => n == serial
      | _ => false)

/-- The sequence number of the bank taken. -/
def RecStore.seq (r : RecStore) : W32 := (r.bank.map (·.seq)).getD 0

/-- A mailbox whose `RS_COMMIT` or `RS_DROP` waits. -/
def State.storeWaiter (s : State) (m : Nat) : Bool :=
  let b := s.box m
  b.state == .busy && b.started && (b.opc == 0x0A02 || b.opc == 0x0A03)

/-- Take the records of a waiting `RS_DROP` out of the store. -/
def State.applyDrops (s : State) : State :=
  eachBelow 9 (fun m s =>
    let b := s.box m
    if s.storeWaiter m && b.opc == 0x0A03 then
      { s with store := { s.store with items := s.store.items.filter fun r => !r.dropped (fld (b.word 2) 7 0) (b.word 3) } }
    else s) s

/-- A commit has ended: `RS_COMMIT` completes either way, `RS_DROP` once the image without its records stands. -/
def State.answerStore (s was : State) (checkOk : Bool) : State :=
  eachBelow 9 (fun m s =>
    let b := s.box m
    if !s.storeWaiter m then s
    else if b.opc = 0x0A02 then (if checkOk then s.finish m .ok [s.store.seq] [] else s.finishS m .failed)
    else if checkOk then
      s.finish m .ok [BitVec.ofNat 32 (was.store.items.filter fun r => r.dropped (fld (b.word 2) 7 0) (b.word 3)).length] []
    else s) s

/-- `RECORD_STORE_COMMIT` (R456): a stored item has changed, or a command waits for a commit, and 1 s has passed since the end of
the last one; commits go on in Halt. A drop takes effect in the commit whose check passes. -/
def execRecordStoreCommit (checkOk : Bool) (s : State) : Out :=
  let due := match s.store.lastCommit with
    | some t => decide (t + 1000000000 ≤ s.now)
    | none => true
  let wanted := s.store.changed || (List.range 9).any fun m => s.storeWaiter m
  if s.chip.fwReady && wanted && due then
    .next (((if checkOk then s.applyDrops else s).commitStore checkOk).answerStore s checkOk)
  else .next s

end Sys2Proof.Machine
end

