-- ==== Sys2Proof/Machine/Resets.lean ====
section
/-! DEFINITION. The resets, power-up and boot (R47–R65, R431–R436, R542): what each reset keeps and clears, the
boot ROM's image checks, the start of firmware, and their rows. -/

namespace Sys2Proof.Machine

/-! ## Cold reset (R60, R62) -/

/-- The block in cold reset: every unit at its reset values, DRST_N and PWR_EN low, the flash untouched. The
variant, the pins of the integrator and the model's own counters stay. -/
def State.cold (s : State) : State :=
  let c := s.chip
  State.capture { State.reset with
    pending := s.pending, sent := s.sent
    store := { RecStore.empty with bankA := s.store.bankA, bankB := s.store.bankB }
    chip := { Chip.reset with
      variant := c.variant, phase := .cold, coreOn := false, cpOn := false, pgCore := c.pgCore, pgCp := c.pgCp
      pgGal := c.pgGal, pgPhy := c.pgPhy, tap := c.tap, free := c.free, nextId := c.nextId }
    cfg := { Cfg.reset with replies := s.cfg.replies } }

/-! ## Warm reset (R61–R63, R542) -/

/-- Every port stops, and its unanswered requests go without response (R61 step 1). -/
def Port.drop (_ : Port) : Port := Port.reset

/-- What a Landing has not acknowledged goes: reads, merges, claims, locks and staged requests, but the block's own
writes. -/
def State.dropUnacked (s : State) (l : Nat) : State :=
  let s := s.modSeq l fun q =>
    { q with rq := [], held := q.held.filter (fun a => a.client == .own), hints := [], inflight := [], checking := []
             wq := q.acked, lockTable := [], claims := [] }
  s.modArb l fun a =>
    { a with lock := none, staging := a.staging.filter (fun y => y.client == .own)
             grantNext := match a.grantNext with
               | some y => if y.client == .own then some y else none
               | none => none }

/-- A Landing in a warm reset: what is not acknowledged goes, and the drain begins unless the Landing is fenced
or in self-refresh (R61 steps 2 and 3). -/
def State.warmLanding (s : State) (l : Nat) : State :=
  match (s.land l).seq.lstate with
  | .sr => s
  | .fenced => s
  | .halt => s
  | .drain => s.dropUnacked l
  | _ => (s.dropUnacked l).startDrain l

/-- A reset abandons a power transition, and the request that waits behind it (R63). -/
def State.abandonTransition (s : State) : State :=
  match s.pwr.trans, s.pwr.pend with
  | none, none => s
  | some t, _ => (s.modPwr fun p => { p with trans := none, pend := none }).pwrResult 7 t.target 0
  | none, some t => (s.modPwr fun p => { p with pend := none }).pwrResult 7 t 0

/-- `WARM_RST_N` falls (R60, R61, R63): a pop stalled at CFG is answered, since its domain goes into reset. -/
def State.warm (s : State) : State :=
  let s := s.modChip fun c => { c with phase := .warm, fwReady := false, verified := none, bootBuf := [] }
  let s : State := { s.abandonTransition.dropStall with ports := s.ports.map Port.drop }
  let s := s.drainRepairs
  let s := eachBelow s.nLand (fun l s => s.warmLanding l) s
  { s with misc := { s.misc with repairs := [] } }

/-- A Landing has nothing left to drain. -/
def LState.quiet : LState → Bool
  | .sr => true
  | .halt => true
  | .fenced => true
  | _ => false

/-- What a Gallery keeps across a warm reset (R542), with its pool, which firmware rebuilds (R398). -/
def Gallery.warm (x : Gallery) : Gallery :=
  { Gallery.reset with
    eccLog := x.eccLog, eccNext := x.eccNext, eccWrap := x.eccWrap, haltInfo := x.haltInfo, haltLpa := x.haltLpa
    haltTime := x.haltTime, errInfo := x.errInfo, errPage := x.errPage, poolMax := x.poolMax, poolExt := x.poolExt
    auxExt := x.auxExt, resv := x.resv
    pool := (x.pool.map fun e => (e.1, { e.2 with quar := false })).filter fun e =>
      e.2 != { alcoves := 0, hall := 0, bound := false, quar := false } }

/-- The end of a warm reset: every register not listed in R542 returns to its reset value, `BLK_TIME` to 0 and the
power state to P0 (R62, R63). -/
def State.warmEnd (s : State) : State :=
  let c := s.chip
  let f := s.flt
  let p := s.pwr
  State.capture { State.reset with
    pending := s.pending, sent := s.sent
    galleries := s.galleries.map Gallery.warm, away := s.away
    desc := s.desc, store := { s.store with taken := none, lastCommit := none }
    pwr := { Pwr.reset with
      lastWake := p.lastWake, time := p.time, resUnit := p.resUnit, resCode := p.resCode, resTarget := p.resTarget
      resSeq := p.resSeq, aon := p.aon }
    cfg := { Cfg.reset with queue := s.cfg.queue, rdata := s.cfg.rdata, err := s.cfg.err, replies := s.cfg.replies }
    flt := { Flt.reset with
      first := f.first, ovf := f.ovf, count := f.count, conseq := f.conseq, recoveries := f.recoveries
      fencesStarted := f.fencesStarted }
    chip := { Chip.reset with
      variant := c.variant, phase := .out, galOn := c.galOn, phyOn := c.phyOn, pgCore := c.pgCore, pgCp := c.pgCp
      pgGal := c.pgGal, pgPhy := c.pgPhy, pwrEn := c.pwrEn, pwrGood := c.pwrGood, drstN := c.drstN
      alive := c.alive, aliveOn := c.aliveOn, thermN := c.thermN, bootsel := c.bootsel
      rootKeyHash := c.rootKeyHash, warm := true, tap := c.tap, free := c.free, nextId := c.nextId } }

/-! ## Images (R434, R435) -/

/-- The fields of an image header. -/
structure ImageHeader where
  magic : Bool
  len : Nat
  code : Nat
  version : W32
  major : Nat
  minor : Nat
  key : List Byte
  r : Nat
  s : Nat
  signed : List Byte
  deriving DecidableEq, Repr

/-- Read the header of an image. -/
def imageHeader (b : List Byte) : ImageHeader :=
  let part (lo n : Nat) : List Byte := (b.drop lo).take n
  { magic := part 0 4 == [0x41, 0x4D, 0x49, 0x4F], len := leNat (part 4 4), code := leNat (part 8 4)
    version := BitVec.ofNat 32 (leNat (part 12 4)), major := (b.getD 16 0).toNat, minor := (b.getD 17 0).toNat
    key := part 32 97, r := beNat (part 136 48), s := beNat (part 184 48), signed := part 0 136 }

/-- The header is an image's and its key is the one ROOT_KEY_HASH names. -/
def ImageHeader.known (h : ImageHeader) (hash : BitVec 384) : Bool := h.magic && sha384 h.key == hash.toNat

/-- The lengths lie within the limits of R434. -/
def ImageHeader.lengths (h : ImageHeader) : Bool :=
  decide (1 ≤ h.len) && decide (h.len ≤ 1572864) && decide (h.code ≤ 1048576) && decide (h.code ≤ h.len) &&
    decide (h.len - h.code ≤ 524288)

/-- The version fields accept `BLK_VERSION`. -/
def ImageHeader.accepts (h : ImageHeader) : Bool :=
  decide (h.major = fld blkVersion 31 24) && decide (h.minor ≤ fld blkVersion 23 16)

/-- The signature over header bytes 0 to 135 and the payload verifies. -/
def imageSigned (b : List Byte) : Bool :=
  let h := imageHeader b
  let payload := (b.drop 256).take h.len
  let q := h.key
  decide (payload.length = h.len) && q.head? == some 0x04 &&
    ecdsaVerify (beNat ((q.drop 1).take 48)) (beNat ((q.drop 49).take 48)) (sha384 (h.signed ++ payload)) h.r h.s

/-- A slot is a candidate (R435 step 2). -/
def isCandidate (hash : BitVec 384) (b : List Byte) : Bool :=
  let h := imageHeader b
  h.known hash && h.lengths && h.accepts

/-- The image that starts: candidates by descending version, slot 0 first among equals, the first that
verifies. -/
def chooseImage (hash : BitVec 384) (f : FlashView) : Option (W32 × Nat) :=
  let cands := [(f.slot0, 0), (f.slot1, 1)].filter fun e => isCandidate hash e.1
  let order := match cands with
    | [a, b] => if (imageHeader a.1).version.toNat < (imageHeader b.1).version.toNat then [b, a] else [a, b]
    | l => l
  (order.find? fun e => imageSigned e.1).map fun e => ((imageHeader e.1).version, e.2)

/-- The boot error of a flash from which no image starts (R435). -/
def bootError (hash : BitVec 384) (f : FlashView) : BitVec 3 :=
  let known := [f.slot0, f.slot1].filter fun b => (imageHeader b).known hash
  if !f.idOk then 5
  else if known.isEmpty then 2
  else if known.any (isCandidate hash) then 4
  else if known.any fun b => (imageHeader b).lengths then 3
  else 7

/-- The payload of an image is loaded: its code into the code SRAM, the rest into the data SRAM from its base (R434). -/
def State.loadImage (s : State) (img : List Byte) : State :=
  let h := imageHeader img
  let payload := (img.drop 256).take h.len
  s.modChip fun c => { c with cpCode := writeBytes [] 0 (payload.take h.code), cpData := writeBytes [] 0 (payload.drop h.code) }

/-- The boot ROM runs: the CP domain is on and out of reset, and firmware has not started. -/
def State.inRom (s : State) : Bool := s.chip.phase == .out && s.chip.cpOn && !s.chip.fwReady && s.pwr.state != .p4

/-- One run of the boot ROM from flash (R435). With BOOTSEL high it waits for LBA. -/
def State.bootRom (s : State) (f : FlashView) : State :=
  let hash := s.chip.rootKeyHash
  if hash = 0 then s.modChip fun c => { c with bootErr := 1 }
  else if s.chip.bootsel then s
  else
    match (if f.idOk then chooseImage hash f else none) with
    | some v => (s.loadImage (if v.2 = 0 then f.slot0 else f.slot1)).modChip fun c => { c with verified := some v }
    | none => s.modChip fun c => { c with bootErr := bootError hash f }

/-! ## The start of firmware (R435 step 5, R457) -/

/-- Tag lines of a Gallery's cache (R38, R371). -/
def Variant.tagLines (v : Variant) : Nat := if v.cmpTier then 0x10000 else if v.cipher then 0x1A000 else 0

/-- DBG opens with its one credit of each class (R54). -/
def State.openDbg (s : State) : State :=
  s.modPort 8 fun x => if x.state = .closed then { Port.reset with state := .opened, req := 1, wrq := 1 } else x

/-- Halls and windows as the taken bank stores them (R457, R474). -/
def State.restoreHalls (s : State) : State :=
  match s.store.bank with
  | none => s
  | some b => b.recs.foldl (fun s r => match r with
      | .hall n h e ws =>
        let pos := if h.members.length = 0 then 0 else h.w / (256 * h.members.length) * 4
        let h := { h with phase := .ready, zeroPos := h.members.map fun _ => pos, zeroOut := [], metaOut := [] }
        { s with halls := putN s.halls n h, epochs := putN s.epochs n e
                 windows := s.windows ++ ws.map fun w => { w with active := h.keyLoaded } }
      | _ => s) s

/-- The counts of a hall's pages by group and home Gallery: POOL or LOST, and compressed (R402, R403). -/
def State.pageCounts (s : State) (n : Nat) (h : Hall) : List (Nat × Nat × Nat) :=
  (s.away.filter fun e => e.hall == n).foldl (fun m e =>
    let k := 4 * h.groupOf e.page + h.home e.page
    let (a, b) := (lookupN m k).getD (0, 0)
    putN m k (a + 1, b + b2n e.packed)) []

/-- Firmware queues the read of a page's page-map line, once for each line (R124, R398). -/
def State.askMapLine (s : State) (n p : Nat) : State :=
  match s.hall n with
  | none => s
  | some h =>
    if s.rebuilding h p then s
    else
      let (id, s) := s.fresh
      let w : CpuWork := { id := id, mailbox := none, hall := n, off := 4096 * p, mapLine := true, store := none, since := s.now, issued := false }
      s.modMisc fun m => { m with cpuWork := m.cpuWork ++ [w] }

/-- After the halls of a warm reset are back: pages, frames and reserves of halls that are gone go too, and the counts follow the
page map (R398). -/
def State.rebuildPools (s : State) : State :=
  let stands (n : Nat) : Bool := (s.hall n).isSome
  let s : State := { s with away := s.away.filter fun e => stands e.hall }
  let s : State := { s with halls := s.halls.map fun e => (e.1, { e.2 with pages := s.pageCounts e.1 e.2 }) }
  let held (g : Nat) : Nat := (s.away.filter fun e => e.packed && (match s.hall e.hall with
    | some h => h.home e.page == g && !h.elastic && h.isUnbacked e.page
    | none => false)).length
  let s := eachBelow 3 (fun g s => s.modGal g fun x =>
    { x with pool := x.pool.filter (fun e => stands e.2.hall), resv := held g }) s
  s.away.foldl (fun s e => s.askMapLine e.hall e.page) s

/-- The epoch table of the taken bank. -/
def State.restoreEpochs (s : State) : State :=
  match s.store.bank with
  | none => s
  | some b => b.recs.foldl (fun s r => match r with
      | .epochs e => { s with epochs := e }
      | _ => s) s

/-- Amiom starts: the Record Store's bank is taken and applied, `FW_READY` is set, event 01h is posted and DBG
opens. After a block reset the metadata caches are sized, the epochs are loaded, and after a warm reset the
halls return. -/
def State.startFirmware (s : State) (v : W32) (slot : Nat) : State :=
  let fresh := (s.port 8).state == .closed && s.pwr.state != .p3
  let s := { s with store := s.store.reload }
  let s := s.modChip fun c => { c with fwReady := true, bootErr := 0, verified := none, bootBuf := [], imageVersion := v
                                       aliveOn := true }
  let bank : Nat := match s.store.taken with
    | some false => 0
    | some true => 1
    | none => 2
  let s := s.post 0x01 2 [v, at_ 0 slot, at_ 0 bank]
  let s := if s.store.taken.isNone then s.post 0x17 1 [at_ 0 2, 0, 0] else s
  if !fresh then s
  else
    let s := eachBelow s.nGal (fun g s => s.modGal g fun x => { x with tagLines := s.chip.variant.tagLines }) s
    let s := s.restoreEpochs
    (if s.chip.warm then s.restoreHalls.rebuildPools.setSteps (List.range s.nLand) else s).openDbg

/-! ## The boot ROM's own commands (R436) -/

/-- Limit of an image: header and payload. -/
def imageLimit : Nat := 1572864 + 256

/-- LBA holds a rung command of the boot ROM. -/
def State.romCommand (s : State) (opc : Nat) : Bool :=
  s.inRom && s.chip.bootsel && s.chip.rootKeyHash != 0 && s.chip.verified.isNone && (s.box 8).state == .pending &&
    (s.box 8).opc == opc

/-- Take a chunk: `BAD_PARAM` for a length or offset outside R436, and boot error 6h for a chunk beyond the
image limit. -/
def State.takeChunk (s : State) : State :=
  let b := s.box 8
  let off := (b.word 2).toNat
  if b.plen = 0 ∨ 4096 < b.plen ∨ off % 4096 ≠ 0 then s.finishS 8 .badParam
  else if imageLimit < off + b.plen then (s.modChip fun c => { c with bootErr := 6 }).finishS 8 .badParam
  else (s.modChip fun c => { c with bootBuf := writeBytes c.bootBuf off b.payload }).finishS 8 .ok

/-- Check the image received, and start it or discard it. An image that fails leaves boot error 6h, the one code for an image sent
through LBA (log entry 121, DEDUCED). -/
def State.bootGo (s : State) : State :=
  let total := ((s.box 8).word 2).toNat
  let img := readBytes s.chip.bootBuf 0 (min total imageLimit)
  let good := decide (total ≤ imageLimit) && isCandidate s.chip.rootKeyHash img && imageSigned img
  if good then
    ((s.loadImage img).modChip fun c => { c with verified := some ((imageHeader img).version, 2), bootBuf := [] }).finishS 8 .ok
  else (s.modChip fun c => { c with bootBuf := [], bootErr := 6 }).finishS 8 .badParam

/-! ## The rows -/

/-- `COLD_RESET`: PORST_N or COLD_RST_N goes low (R60, R62). -/
def execColdReset (s : State) : Out := .next s.cold

/-- `POWER_ON_SEQUENCE`: PORST_N rises (R65). BOOTSEL and ROOT_KEY_HASH are sampled. CP and CORE are switched on and the reset ends
once PG_CP and PG_CORE are high: now, or at the rise of the later of them (`PG_INPUT_RISE`). The state right after reset stands at the end of this sequence with nothing yet
run, so the row also applies to it (log entry 6, DESIGN CHOICE). -/
def execPowerOnSequence (bootsel : Bool) (hash : BitVec 384) (s : State) : Out :=
  let start := s.chip.phase == .cold || (s.chip.cycle == 0 && !s.chip.warm && !s.chip.fwReady && s.chip.verified.isNone && s.chip.bootErr == 0)
  if start then
    .next (s.modChip fun c =>
      let c := { c with bootsel := bootsel, rootKeyHash := hash, warm := false }
      if c.pgCore && c.pgCp then c.start else { c with phase := .cold, coreOn := false, cpOn := false, railWait := true })
  else .next s

/-- `WARM_RESET`: WARM_RST_N goes low (R60, R61, R63). -/
def execWarmReset (s : State) : Out :=
  if s.chip.phase = .out ∧ s.pwr.state ≠ .p4 then .next s.warm else .next s

/-- `WARM_RESET_END`: WARM_RST_N is high and every Landing is in self-refresh (R61 step 4). -/
def execWarmResetEnd (s : State) : Out :=
  if s.chip.phase = .warm ∧ (List.range s.nLand).all (fun l => (s.land l).seq.lstate.quiet) then .next s.warmEnd
  else .next s

/-- `WARM_RESET_DRAIN_TIMEOUT`: a Landing not drained within 20 µs abandons its writes, which are counted in the
fault history, and is placed in self-refresh (R61). -/
def execWarmResetDrainTimeout (l : LandingId) (s : State) : Out :=
  if s.chip.phase = .warm ∧ (s.land l).seq.lstate.quiet = false then
    let s := s.abandonWrites l
    .next (s.modSeq l fun q => { q with lstate := .sr })
  else .next s

/-- `BOOT`: the boot ROM checks the images in flash (R435). -/
def execBoot (f : FlashView) (s : State) : Out :=
  if s.inRom && s.chip.verified.isNone then .next (s.bootRom f) else .next s

/-- `FIRMWARE_START`: the verified image starts (R435 step 5). -/
def execFirmwareStart (s : State) : Out :=
  match s.chip.verified with
  | some (v, slot) => if s.inRom then .next (s.startFirmware v slot) else .next s
  | none => .next s

/-- `BOOT_CHUNK` (R436). -/
def execBootChunk (s : State) : Out := if s.romCommand 0x0F01 then .next s.takeChunk else .next s

/-- `BOOT_GO` (R436). -/
def execBootGo (s : State) : Out := if s.romCommand 0x0F02 then .next s.bootGo else .next s

/-- `WATCHDOG_EXPIRY`: source 14/01h and a CP reset (R432). -/
def execWatchdogExpiry (s : State) : Out :=
  if s.chip.phase = .out ∧ s.chip.cpOn ∧ s.pwr.state ≠ .p4 then .next ((s.raise (rep 14 1 0 0) none).cpReset) else .next s

end Sys2Proof.Machine
end

