-- ==== Sys2Proof/Machine/Timing.lean ====
section
/-! DEFINITION. The timers of the sequencer (R156, R157, R167–R173, R179, R194, R199): edges of a tread, the gap each
placed command asks of a later one, and the earliest legal edge of a command. -/

namespace Sys2Proof.Machine

/-! ## Edges (R179) -/

/-- First edge of tread `n` at data rate `rate`: edge k falls at k × 2000/rate ns. -/
def firstEdge (rate n : Nat) : Nat := cdiv (n * rate) 125

/-- The converted values of R199 in table order, with `RL` and `WL` after them. -/
def State.ckList (s : State) (l : Nat) : List Nat :=
  let x := s.land l
  (List.range 36).map (fun i => fld (getW 0 x.conv (0x900 + 4 * i)) 15 0) ++
    [fld (s.lv l 0x8C0) 7 0, fld (s.lv l 0x8C0) 15 8]

/-- The gap between two CAS commands of a subchannel (R167, R168, R172). -/
def casGap (g : Geom) (ck : List Nat) (a b : Cmd) (ra rb aBg bBg : Nat) : Nat :=
  let v (i : Nat) : Nat := ck.getD i 0
  let same := g.relation ra rb == 0 || g.relation ra rb == 4
  let k := if same then 0 else g.relation ra rb
  let rl := v 36
  let wl := v 37
  let sameBg := aBg == bBg && ra == rb
  let base : Nat :=
    if a.isRead && b.isRead then
      (if k = 0 then (if sameBg then v 8 else v 7) else if k = 1 then 8 else if k = 2 then max (8 + v 17) 10 else max (8 + v 18) 10)
    else if a.isWrite && b.isWrite then
      (if k = 0 then (if sameBg then v 10 else v 9) else if k = 1 then 8 else if k = 2 then max (8 + v 19) 10 else max (8 + v 20) 10)
    else if a.isRead then
      max (rl + 8 + v 16 + (if k = 2 then v 17 else if k = 3 then v 18 else 0) - wl) (rl + 10 - wl)
    else
      max (if k = 0 then wl + 8 + (if sameBg then v 12 else v 11) else if k = 1 then wl + 8 + v 11
        else max (wl + 8 + (if k = 2 then v 17 else v 18) + 2 - rl) (v 7)) (wl + 10 - rl)
  if g.mrd && k = 0 then max base 16 else base

/-! ## The gap between two commands -/

/-- The least gap from an issued command to a later one, under the values the first started with (R207). -/
def gapOf (g : Geom) (e : Issued) (w : Want) : Nat :=
  if e.sub ≠ w.sub then 0
  else
    let v (i : Nat) : Nat := e.ck.getD i 0
    let bus := e.cmd.edges
    let same := decide (e.rank = w.rank)
    let meet := same && meets e.cmd w.cmd e.bg e.bank w.bg w.bank
    let opens := w.cmd == .act || w.cmd.busyRule.isSome || w.cmd == .srEnter || w.cmd == .pdEnter
    let cas := if e.cmd.isCas && w.cmd.isCas then casGap g e.ck e.cmd w.cmd e.rank w.rank e.bg w.bg else 0
    let own : Nat :=
      match e.cmd with
      | .act =>
        if w.cmd = .act then (if !same then 0 else if meet then max (v 3) (v 5) else if e.bg = w.bg then v 5 else v 4)
        else if meet && w.cmd.isCas then v 0
        else if meet && w.cmd.isPre then v 2
        else 0
      | .rd => if meet && w.cmd.isPre then v 13 else 0
      | .wr => if meet && w.cmd.isPre then v 37 + 8 + v 14 else 0
      | .rda => if meet && opens then v 13 + v 1 else 0
      | .wra => if meet && opens then v 37 + 8 + v 14 + v 1 else 0
      | .mrr => if same then v 33 else 0
      | .zqStart => if same && w.cmd == .zqLatch then v 31 else 0
      | .zqLatch => if same then v 32 else 0
      | .pdEnter => if same then v 29 else 0
      | .pdExit => if same then v 28 else 0
      | .srExit => if same then v 30 else 0
      | .srEnter => 0
      | .mrw => if same then v 33 else 0
      | .mpc => if same then v 33 else 0
      | c =>
        if c.isPre then (if meet && opens then v 1 else if same && w.cmd.isPre then v 15 else 0)
        else match c.busyRule with
          | some i => if c.allBanks then (if same then v i else 0) else if meet then v i else 0
          | none => 0
    max bus (max cas own)

/-- The fourth last ACT of a rank bounds the next one (R199 tFAW). -/
def fawEdge (hist : List Issued) (w : Want) : Nat :=
  if w.cmd ≠ .act then 0
  else
    let acts := hist.filter fun e => e.cmd == .act && e.sub == w.sub && e.rank == w.rank
    match (acts.map fun e => e.edge + e.ck.getD 6 0).mergeSort (fun a b => decide (b ≤ a)) with
    | _ :: _ :: _ :: d :: _ => d
    | _ => 0

/-- The earliest legal edge of a command under every timer that runs. -/
def earliest (g : Geom) (hist : List Issued) (w : Want) : Nat :=
  hist.foldl (fun m e => max m (e.edge + gapOf g e w)) (fawEdge hist w)

/-- A command of the sequencer's own as a plan holds it. -/
def Want.planned (w : Want) (k : Nat) : PlanCmd :=
  { edge := k, cmd := w.cmd, sub := w.sub, rank := w.rank, bg := w.bg, bank := w.bank, row := w.row, col := w.col, acc := none
    emergency := false, line := 0, claim := none, hint := none, cs := rankCs w.rank, cid := rankCid w.rank, dpar := w.dpar
    sample := false, closed := [], woke := false, counted := false, sampled := false }

/-- A command outside the plans, at its earliest legal edge from the present on: the way into and out of self-refresh and
power-down (R204, R214, R485, R489). -/
def State.issueOwn (s : State) (l : Nat) (w : Want) : State :=
  let q := (s.land l).seq
  let rate := q.geom.rate
  let k := max (edgeOfCycle rate s.chip.cycle) (earliest q.geom q.hist w)
  let ck := s.ckList l
  let now := decide (k < firstEdge rate (s.tread + 1))
  s.modSeq l fun q =>
    { q with planNow := if now then q.planNow ++ [w.planned k] else q.planNow
             planNext := if now then q.planNext else q.planNext ++ [w.planned k]
             hist := q.hist ++ [{ edge := k, cmd := w.cmd, sub := w.sub, rank := w.rank, bg := w.bg, bank := w.bank, row := w.row, ck := ck }] }

/-- The command for a whole rank. -/
def rankWant (c : Cmd) (e : Nat × Nat) : Want := { cmd := c, sub := e.1, rank := e.2, bg := 0, bank := 0, row := 0, col := 0 }

/-- How far back a timer can reach, in CK. -/
def histReach : Nat := 65536

end Sys2Proof.Machine
end

