-- ==== Sys2Proof/Machine/Power.lean ====
section
/-! DEFINITION. The Power Manager (R481–R497): requests and the pending slot, the entry steps, the save image of
P3, the wake, the legacy handshake and its rollback, and their rows. -/

namespace Sys2Proof.Machine

/-! ## Readings -/

def pstateOf (n : Nat) : PState :=
  match n with
  | 0 => .p0
  | 1 => .p1
  | 2 => .p2
  | 3 => .p3
  | _ => .p4

/-- Commands that need DRAM (R463). -/
def needsDram (opc : Nat) : Bool := [0x0402, 0x0403, 0x0404, 0x0103, 0x0104, 0x0301, 0x0602, 0x0501, 0x0406].contains opc

/-- A command that needs DRAM runs. -/
def State.dramBusy (s : State) : Bool :=
  (List.range 9).any fun m => (s.box m).state == .busy && (s.box m).started && needsDram (s.box m).opc

/-- Landings that take part in a transition: started, neither fenced nor in Halt (R485). -/
def State.serving (s : State) (l : Nat) : Bool :=
  (s.land l).sbd.started && (s.land l).seq.lstate != .fenced && (s.land l).seq.lstate != .halt && !s.landFenced l

def State.serves (s : State) : List Nat := (List.range s.nLand).filter s.serving

/-- The ranks of a Landing, as (subchannel, rank): at most eight on a subchannel (R192). -/
def Landing.rankList (x : Landing) : List (Nat × Nat) :=
  (List.range 2).flatMap fun b => (List.range (min 8 x.seq.geom.ranks)).map fun r => (b, r)

/-- Nothing of the Landing waits or flies, so its ranks may go into POWER_DOWN. -/
def Seq.calm (q : Seq) : Bool :=
  q.rq.isEmpty && q.inflight.isEmpty && q.checking.isEmpty && q.retry.isNone && q.claims.isEmpty && q.planNow.isEmpty &&
    q.planNext.isEmpty

/-! ## Results -/

/-- Duration of a transition in ns, saturating. -/
def State.since (s : State) (from_ : Nat) : W32 := BitVec.ofNat 32 (min 0xFFFFFFFF (s.now - from_))

/-! ## Entry (R485) -/

/-- Step 2: running DMA channels stop at a descriptor boundary. -/
def State.stopDma (s : State) : State :=
  let live := (List.range 8).filter fun n => (s.ch n).state == .running
  let s := live.foldl (fun s n => s.modCh n fun x => { x with state := .stopping }) s
  s.modPwr fun p => { p with trans := p.trans.map fun t => { t with stoppedDma := t.stoppedDma ++ live } }

/-- DMA, Tier Engine and sideband are at rest. -/
def State.quiesced (s : State) : Bool :=
  (List.range 8).all (fun n => (s.ch n).state != .stopping && (s.ch n).run.isNone) &&
    (List.range 3).all (fun g => (s.gal g).moves.isEmpty) && s.misc.sbdBusy.isEmpty

/-- Step 4: a Landing in RUN drains, its PHY active also where P1 had gated it. -/
def State.drainLanding (s : State) (l : Nat) : State :=
  if (s.land l).seq.lstate = .run ∨ (s.land l).seq.lstate = .retry then (s.startDrain l).modPhy l fun p => { p with mode := .active } else s

/-- Close the open banks of a rank. -/
def State.closeRank (s : State) (l : Nat) (e : Nat × Nat) : State :=
  if (s.land l).seq.rows.any fun o => o.sub == e.1 && o.rank == e.2 then
    (s.issueOwn l (rankWant .preAb e)).modSeq l fun q => { q with rows := q.rows.filter fun o => !(o.sub == e.1 && o.rank == e.2) }
  else s

/-- Step 3: every rank in POWER_DOWN and the PHY in GATED. -/
def State.gateLanding (s : State) (l : Nat) : State :=
  let s := (s.land l).rankList.foldl (fun s e =>
    if (s.land l).seq.pd.contains e then s
    else ((s.closeRank l e).issueOwn l (rankWant .pdEnter e)).modSeq l fun q => { q with pd := q.pd ++ [e] }) s
  s.modPhy l fun p => { p with mode := .gated }

/-- A Landing has finished its part of an entry. -/
def State.entered (s : State) (target : PState) (l : Nat) : Bool :=
  if target = .p1 then (s.land l).seq.calm else (s.land l).seq.lstate == .sr

/-- The entry moves on as far as it can (R485). Step 2 waits while a command that needs DRAM runs. -/
def State.pwrAdvance (s : State) : State :=
  match s.pwr.trans with
  | none => s
  | some t =>
    if t.stage = .held ∧ !s.dramBusy then
      if s.pwr.legacy then s.modPwr fun p => { p with trans := some { t with stage := .ask 1 } }
      else (s.modPwr fun p => { p with trans := some { t with stage := .quiesce } }).stopDma
    else if t.stage = .quiesce ∧ s.quiesced then
      let s := s.modPwr fun p => { p with trans := some { t with stage := .drain } }
      if t.target = .p1 then s else s.serves.foldl (fun s l => s.drainLanding l) s
    else s

/-! ## The P3 save image (R490, R491) -/

/-- What a Landing keeps in P3: its registers, counts and PHY values; queues are empty and the Stringer state is
rebuilt at the wake. -/
def Landing.saved (x : Landing) : Landing :=
  let a := x.arb
  let p := x.phy
  { x with
    arb := { Arb.reset with longest := a.longest, rsv := a.rsv }
    phy := { Phy.reset with mode := .retain, setA := p.setA, setB := p.setB, sched := p.sched, rejRun := p.rejRun } }

/-- A Gallery keeps its counts, log and device counts; the caches and the decoded-segment buffer are empty. -/
def Gallery.saved (x : Gallery) : Gallery :=
  { x with pllLock := false, cache := [], fetches := [], dbuf := [], segs := [], marks := [] }

/-- The mailbox after the wake: IDLE with zeroed areas, its `LBY_CTL` as saved. -/
def Mailbox.saved (b : Mailbox) : Mailbox := { Mailbox.reset with ie := b.ie, pwin := b.pwin }

/-- A DMA channel keeps its registers and is IDLE; its descriptors are gone. -/
def Dma.saved (x : Dma) : Dma :=
  { x with state := .idle, run := none, tailDone := false, toStart := false, dbPend := false }

/-- Step 7: the image is written and CORE, the Galleries and the macros are switched off. What the image does not
carry is lost; the descriptor SRAM's content is undefined. The bytes of the image in the AON SRAM are free values, for the manual
gives its contents and no layout (log entry 108, DESIGN CHOICE). -/
def State.enterP3 (s : State) : State :=
  let n := s.chip.free
  let s : State := { s.dropStall with
    landings := s.landings.map Landing.saved, galleries := s.galleries.map Gallery.saved
    boxes := s.boxes.map Mailbox.saved, dma := s.dma.map Dma.saved
    desc := writeBytes [] 0 ((Config.lostBytes n).take 131072)
    eq := { EvQueue.reset with mask := s.eq.mask, stall := s.eq.stall }, arcade := Arcade.reset
    ports := s.ports.map (fun _ => Port.reset)
    windows := s.windows.map (fun w => { w with active := false }) }
  let s := s.modPwr fun p => { p with image := true, aon := writeBytes p.aon 0 ((Config.saveImage n).take 202752), galWas := s.chip.galOn, phyWas := s.chip.phyOn }
  s.modChip fun c => { c with coreOn := false, free := c.free + 1, galOn := Vector.replicate 3 false
                              phyOn := Vector.replicate 12 false }

/-- Step 8: a pending commit is written at once, DRST_N and PWR_EN fall, and CP and CORE are switched off. -/
def State.enterP4 (s : State) : State :=
  let s := if s.store.changed then s.commitStore true else s
  { s with
    chip := { s.chip with coreOn := false, cpOn := false, pwrEn := false, drstN := Vector.replicate 12 false
                          galOn := Vector.replicate 3 false, phyOn := Vector.replicate 12 false, alive := false }
    ports := s.ports.map fun _ => Port.reset
    cfg := { s.cfg with stalled := none, queue := [] } }

/-! ## Requests (R482–R484) -/

/-- The first steps of the wake order (R489): the domains return and the image is restored (R490). -/
def State.wakeDomains (s : State) : State :=
  if s.pwr.state = .p3 then
    let s := s.modChip fun c => { c with coreOn := true, galOn := s.pwr.galWas, phyOn := s.pwr.phyWas }
    match s.flt.heldP3 with
    | some (r, t) => (s.modFlt fun f => { f with heldP3 := none }).reportAt r 0xFF t
    | none => s
  else s

/-- Begin a transition: to a shallower state it wakes first. -/
def State.beginTransition (s : State) (target : PState) (began src : Nat) : State :=
  let up := decide (target.num < s.pwr.state.num)
  let t : Transition :=
    { target := target, from_ := s.pwr.state, stage := if up then .wake else .held, began := began, stoppedDma := []
      agreed := [], delays := 0, refuser := 0, src := src }
  let s := s.status1Hold 4
  let s := s.modPwr fun p => { p with trans := some t, lastWake := if up then src else p.lastWake }
  if up then s.wakeDomains else s.pwrAdvance

/-- Start the request in the pending slot, if there is one. -/
def State.startPending (s : State) : State :=
  match s.pwr.pend with
  | none => s
  | some target =>
    let at0 := s.pwr.pendAt
    let src := s.pwr.pendSrc
    let s := s.modPwr fun p => { p with pend := none }
    if target = s.pwr.state then s.pwrResult 2 target 0 else s.beginTransition target at0 src

/-- A request for a state; `src` is its code in `PWR_STAT.LAST_WAKE` (R482, R483). -/
def State.powerRequest (s : State) (target : PState) (src : Nat) : State :=
  if s.chip.halted ∧ target ≠ .p4 then s.pwrResult 5 target 0
  else if target = .p3 ∧ (List.range 8).any (fun p => (s.port p).state != .closed) then s.pwrResult 6 target 0
  else if (target = .p3 ∨ target = .p4) ∧ !s.chip.fwReady then s.pwrResult 6 target 0
  else if s.chip.halted then
    let s := s.enterP4
    let s := s.modPwr fun p => { p with state := .p4, time := 0, trans := none, pend := none }
    s.pwrResult 1 .p4 0
  else
    match s.pwr.trans with
    | none => if target = s.pwr.state then s.pwrResult 2 target 0 else s.beginTransition target s.now src
    | some t =>
      let s := match s.pwr.pend with
        | some old => (s.modPwr fun p => { p with pend := none }).pwrResult 3 old 0
        | none => s
      if target = t.target then s.pwrResult 2 target 0
      else s.modPwr fun p => { p with pend := some target, pendAt := s.now, pendSrc := src }

/-! ## Completion -/

/-- The state is reached: the result is written, and the pending request starts. -/
def State.reached (s : State) (t : Transition) : State :=
  let s := s.modPwr fun p => { p with state := t.target, trans := none, time := s.since t.began, reachedAt := s.now }
  (s.pwrResult 1 t.target 0).startPending

/-- Each Gallery whose Landings are all in self-refresh switches its PLL off (R485 step 5). -/
def State.pllsOff (s : State) : State :=
  eachBelow 3 (fun g s =>
    if (List.range 4).all fun i => !s.serving (4 * g + i) || (s.land (4 * g + i)).seq.lstate == .sr then
      s.modGal g fun x => { x with pllLock := false }
    else s) s

/-- The entry completes when its last step is done. -/
def State.entryDone (s : State) (t : Transition) : State :=
  if !s.serves.all (s.entered t.target) then s
  else if t.target = .p1 then ((s.serves.foldl (fun s l => s.gateLanding l) s)).reached t
  else
    let s := s.pllsOff
    if t.target = .p3 then
      if s.chip.fwReady && (List.range 9).all (fun m => (s.box m).state != .pending && (s.box m).state != .busy) then
        s.enterP3.reached t
      else s
    else if t.target = .p4 then s.enterP4.reached t
    else s.reached t

/-! ## The wake (R489) -/

/-- A wake source asks for P0 (R483, R488); a repetition by the source whose request is under way changes
nothing. -/
def State.wakeFrom (s : State) (src : Nat) : State :=
  let same := match s.pwr.trans with
    | some t => (t.target == .p0 && t.src == src) || (s.pwr.pend == some .p0 && s.pwr.pendSrc == src)
    | none => false
  let asleep := (s.pwr.state != .p0 && s.pwr.state != .p4) ||
    (s.pwr.state == .p0 && (match s.pwr.trans with
      | some t => t.target != .p0
      | none => false))
  if asleep && !same && s.chip.phase == .out then s.powerRequest .p0 src else s

/-- Bit k enables wake source k (R488); a request needs no enable. -/
def State.wakeEnabled (s : State) (k : Nat) : Bool := s.pwr.wakeEn.getLsbD k

/-- Sources that act in P1 and P2 only. -/
def State.coreAwake (s : State) : Bool := s.chip.coreOn

/-- The Landing may serve again: from P1 at once; else with its PLL locked and its tables valid. -/
def State.mayServe (s : State) (from_ : PState) (l : Nat) : Bool :=
  from_ == .p1 || from_ == .p0 || ((s.gal (l / 4)).pllLock && (s.land l).phy.strValid && !(s.land l).sbd.waiting)

/-- The temperature of a Landing has moved since its reference (R328). -/
def State.moved (s : State) (l : Nat) : Bool :=
  let x := s.land l
  let d := fld (s.lv l 0x3808) 7 0
  decide (x.cal.tRef + d < x.mnt.temp) || decide (x.mnt.temp + d < x.cal.tRef)

/-- The grid offset of a rank with REFab (R218); with REFsb every offset is 0 (R219). -/
def gridOffset (flight ranks sub rank : Nat) : Nat := rank * flight / ranks + sub * (flight / (2 * ranks))

/-- A rank's grid times restart at tread `start`; the debt keeps its count, and the owed instances are the grid times just before
(R221). An instance presented for its former due time is presented anew. -/
def RefSched.restart (r : RefSched) (f start : Nat) : RefSched :=
  { r with sched := { ideal := start - r.sched.debt * f, next := start, debt := r.sched.debt, merged := 0 }, presented := false }

/-- A claim of a refresh instance that has not started: part two of a started one, and what an alert has taken back, stand. -/
def Landing.unstarted (x : Landing) (a : Access) : Bool :=
  let fresh (b r : Nat) : Bool := !a.ready && (x.mnt.ref[8 * b + r]?).any fun e => e.presented
  match a.op with
  | .claim (.refAb b r) => fresh b r
  | .claim (.refSb b r i) => decide (i < 2) && fresh b r
  | _ => false

/-- Restart the refresh grid of every rank of a Landing at tread `t` (R217, R221). -/
def State.restartGrids (s : State) (l t : Nat) : State :=
  let x := s.land l
  let n := max 1 x.seq.geom.ranks
  let f := x.mnt.flight
  let again (i : Nat) (r : RefSched) : RefSched :=
    if i % 8 < n then r.restart f (t + (if x.mnt.sameBank then 0 else gridOffset f n (i / 8) (i % 8))) else r
  let stays (a : Access) : Bool := !x.unstarted a
  let s := s.modArb l fun a => { a with staging := a.staging.filter stays, grantNext := a.grantNext.filter stays }
  let s := s.modSeq l fun q => { q with claims := q.claims.filter stays }
  s.modMnt l fun m => { m with ref := m.ref.mapIdx again }

/-- A Landing leaves POWER_DOWN or self-refresh: the exit is placed, and after self-refresh the refresh schedules restart with debt
0 and a grid time one refresh flight later (R157, R204, R214, R489). -/
def State.leaveSr (s : State) (l : Nat) : State :=
  let x := s.land l
  let wasSr := x.seq.lstate == .sr
  let s := (if wasSr then x.rankList else x.seq.pd).foldl (fun s e => s.issueOwn l (rankWant (if wasSr then .srExit else .pdExit) e)) s
  let s := s.modSeq l fun q => { q with lstate := if q.lstate = .sr then .run else q.lstate, pd := [] }
  let due := s.tread + x.mnt.flight
  let fresh (_ : RefSched) : RefSched :=
    { sched := { Sched.zero with ideal := due, next := due }, partTwo := none, presented := false }
  let s := if wasSr then
      s.modMnt l fun m => { m with ref := m.ref.map fresh, abo := none }
    else s
  let s := (s.modLand l fun y => { y with drainFrom := none }).modCal l fun c => { c with woke := false }
  s.modPhy l fun p => { p with mode := .active }

/-- A moved Landing asks for the calibration of R328 before it serves. -/
def State.askWakeCal (s : State) (l : Nat) : State :=
  s.modCal l fun c => if c.woke then c else { c with pending := true, asked := true, woke := true, outcome := none }

/-- P0 is reached: the windows are active again, DBG opens after a wake from P3, and the Tier Engine resumes. -/
def State.awakeAgain (s : State) (t : Transition) : State :=
  let s := s.serves.foldl (fun s l => s.leaveSr l) s
  let s := s.modPwr fun p => { p with image := false }
  let s := if t.from_ = .p3 then
      let s := s.windows.foldl (fun s w =>
        if (match s.hall w.hall with
          | some h => !h.enc || h.keyLoaded
          | none => false) then s.defer (.windowOn w.num) else s) s
      if s.chip.fwReady then s.openDbg else s
    else s
  if t.target = .p0 then (s.reached t).pump
  else
    let s := s.modPwr fun p => { p with state := .p0, trans := some { t with stage := .held, from_ := .p0 } }
    s.pwrAdvance

/-- The save image failed its CRC on the wake (R492): the saved registers return to their reset values, no key is
loaded, and every Landing takes full boot training. What the Fault Collector has recorded stands (log entry 126, DESIGN CHOICE). -/
def State.dropImage (s : State) : State :=
  let land (x : Landing) : Landing :=
    { x with page := { RegFile.zero with cnt := [] }, phy := { x.phy with setA := 0, setB := 0 }
             cal := Cal.reset, sbd := { x.sbd with waiting := x.sbd.started }
             arb := Arb.reset, conv := x.conv }
  let gal (x : Gallery) : Gallery :=
    { x with page := RegFile.zero, devCounts := [], erase := [], eccLog := [], eccNext := 0, eccWrap := false
             haltInfo := 0, haltLpa := 0, haltTime := 0, errInfo := 0, errPage := 0, cntFix := 0
             prog := Vector.replicate 8 (0, 0), ovf := 0 }
  let s : State := { s with
    landings := s.landings.map land, galleries := s.galleries.map gal
    halls := s.halls.map (fun e => (e.1, if e.2.enc then { e.2 with keyLoaded := false, key := [] } else e.2))
    dma := s.dma.map (fun _ => Dma.reset), eq := EvQueue.reset
    boxes := s.boxes.map (fun b => { b with ie := false, pwin := false }) }
  let s := s.modMisc fun m => { m with kek := none, kekLock := false, cntUserEn := 0 }
  s.modPwr fun p => { p with image := false }

/-! ## The legacy handshake (R493, R494) -/

/-- What a unit answers. -/
inductive Answer
  | absent
  | agree
  | delay
  | refuse
  deriving DecidableEq, Repr

/-- What unit `u` answers, after it has been asked to stop. -/
def State.answer (s : State) (target : PState) (u : Nat) : Answer :=
  if u = 1 then
    if (List.range 8).any fun n => (s.ch n).state == .error then .refuse
    else if (List.range 8).any fun n => (s.ch n).state == .stopping || (s.ch n).state == .running then .delay
    else .agree
  else if u = 2 then
    if !s.chip.variant.cmpTier then .absent
    else if (List.range 3).all fun g => (s.gal g).moves.isEmpty then .agree else .delay
  else if u = 3 then (if s.misc.sbdBusy.isEmpty then .agree else .delay)
  else if !s.serving (u - 4) then .absent
  else if (s.claimOf 1 (u - 4)).isSome || (s.land (u - 4)).cal.run.isSome || (s.land (u - 4)).cal.state == 5 then .refuse
  else if s.entered target (u - 4) then .agree
  else .delay

/-- Unit `u` begins to stop. -/
def State.askStop (s : State) (target : PState) (u : Nat) : State :=
  if u = 1 then (if s.answer target 1 = .refuse then s else s.stopDma)
  else if 4 ≤ u ∧ s.answer target u ≠ .refuse ∧ s.answer target u ≠ .absent ∧ target ≠ .p1 then s.drainLanding (u - 4)
  else s

/-- The last unit of the handshake. -/
def State.lastUnit (s : State) : Nat := 3 + s.nLand

def State.setTrans (s : State) (t : Transition) : State := s.modPwr fun p => { p with trans := some t }

/-- A refusal begins the rollback; a refusing Landing whose drain was under way serves again. -/
def State.refuseUnit (s : State) (t : Transition) (u : Nat) : State :=
  let s := s.setTrans { t with stage := .rollback, refuser := u }
  if 4 ≤ u ∧ (s.land (u - 4)).seq.lstate = .drain ∧ s.serving (u - 4) then
    (s.modSeq (u - 4) fun q => { q with lstate := .run }).modLand (u - 4) fun x => { x with drainFrom := none }
  else s

/-- Ask unit `u` (R493). -/
def State.askUnit (s : State) (t : Transition) (u : Nat) : State :=
  let s := s.askStop t.target u
  let t := (s.pwr.trans).getD t
  let next (s : State) (agreed : List Nat) : State :=
    let s := if s.lastUnit ≤ u then s.setTrans { t with stage := .drain, agreed := agreed, delays := 0 }
      else s.setTrans { t with stage := .ask (u + 1), agreed := agreed, delays := 0 }
    s
  match s.answer t.target u with
  | .absent => next s t.agreed
  | .agree => next (if 4 ≤ u ∧ t.target = .p1 then s.gateLanding (u - 4) else s) (t.agreed ++ [u])
  | .refuse => s.refuseUnit t u
  | .delay =>
    if fld s.pwr.leg 15 0 < t.delays + 1 then s.refuseUnit t u
    else s.setTrans { t with delays := t.delays + 1 }

/-- Restart the last unit that agreed (R494): a Landing leaves self-refresh once its Stringer tables are valid
again. -/
def State.restartUnit (s : State) (t : Transition) (u : Nat) : State :=
  let t' := { t with agreed := t.agreed.dropLast }
  if u = 1 then
    (t.stoppedDma.foldl (fun s n => s.modCh n fun x =>
      if x.state ≠ .stopped then x
      else if x.tailDone then { x with state := .parked } else { x with state := .running, toStart := true }) s).setTrans t'
  else if u < 4 then s.setTrans t'
  else if t.target = .p1 ∨ (s.land (u - 4)).phy.strValid then (s.leaveSr (u - 4)).setTrans t'
  else s

/-! ## The rows -/

/-- The wake code of a source (`PWR_STAT.LAST_WAKE`) and its enable. -/
def wakeCode : WakeSource → Nat
  | .wakeN => 1
  | .port => 2
  | .dmaDoorbell => 3
  | .fault => 4
  | .timer => 5
  | .request => 6

/-- The address of `PWR_REQ`. -/
def addrPwrReq : Nat := 0x1000

/-- `PWR_REQ`: a CFG write of `TARGET`; 5h to 7h are ignored (R482). -/
def execPwrReq (w : CfgWord) (s : State) : Out :=
  .next (s.cfgWrite addrPwrReq w fun s =>
    if s.chip.phase ≠ .out ∨ 4 < fld w.data 2 0 then s else s.powerRequest (pstateOf (fld w.data 2 0)) 6)

/-- `POWER_TRANSITION_DONE` (R485): the steps of an entry are done. -/
def execPowerTransitionDone (s : State) : Out :=
  let s := s.pwrAdvance
  match s.pwr.trans with
  | some t => if t.stage = .drain then .next (s.entryDone t) else .next s
  | none => .next s

/-- `PWR_TIMER` has run out since the last entry (R488, R497). -/
def State.timerOut (s : State) : Bool :=
  s.pwr.timer != 0 && s.pwr.state != .p0 && decide (s.pwr.reachedAt + 1000 * s.pwr.timer.toNat ≤ s.now)

/-- The event of a wake source stands: a request that waits at a port, a class U or F state, the timer's end (R488). What WAKE_N and a
doorbell do is the event itself. -/
def State.sourceActs (s : State) (src : WakeSource) : Bool :=
  match src with
  | .port => s.coreAwake && (s.ports.toList.any fun x => x.txns.any fun t => t.wait == .wake && t.resp.isNone)
  | .dmaDoorbell => s.coreAwake
  | .fault => s.faultState || s.flt.heldP3.isSome
  | .timer => s.timerOut
  | .wakeN => true
  | .request => true

/-- `WAKE`: an enabled source, or a request for P0 (R488, R489). Ports and doorbells act in P1 and P2 only. -/
def execWake (src : WakeSource) (s : State) : Out :=
  if (src == .request || s.wakeEnabled (wakeCode src - 1)) && s.sourceActs src then .next (s.wakeFrom (wakeCode src))
  else .next s

/-- `WAKE_COMPLETE`: every started Landing serves again (R489). A Landing whose temperature has moved asks for
its calibration first. -/
def execWakeComplete (s : State) : Out :=
  match s.pwr.trans with
  | none => .next s
  | some t =>
    if t.stage ≠ .wake ∨ !s.serves.all (s.mayServe t.from_) then .next s
    else
      let hot := if t.from_ = .p1 then [] else s.serves.filter fun l =>
        (!(s.land l).cal.woke && s.moved l) || ((s.land l).cal.woke && ((s.land l).cal.pending || (s.land l).cal.run.isSome))
      if hot.isEmpty then .next (s.awakeAgain t) else .next (hot.foldl (fun s l => s.askWakeCal l) s)

/-- `PWR_TIMER_EXPIRY` (R488). -/
def execPwrTimerExpiry (s : State) : Out :=
  if s.timerOut && s.wakeEnabled 4 then .next (s.wakeFrom 5) else .next s

/-- `WAKE_N_ASSERT` (R49): WAKE_N low for ten REFCLK cycles. -/
def execWakeNAssert (s : State) : Out := if s.wakeEnabled 0 then .next (s.wakeFrom 1) else .next s

/-- `LEGACY_ASK` (R493): the next unit is asked. -/
def execLegacyAsk (s : State) : Out :=
  let s := s.pwrAdvance
  match s.pwr.trans with
  | some t => (match t.stage with
    | .ask u => .next (s.askUnit t u)
    | _ => .next s)
  | none => .next s

/-- `LEGACY_ROLLBACK_RESTART` (R494): the units that agreed restart in descending order; after the last delay the
transition ends `REFUSED`. -/
def execLegacyRollbackRestart (s : State) : Out :=
  match s.pwr.trans with
  | some t =>
    if t.stage ≠ .rollback then .next s
    else (match t.agreed.getLast? with
      | some u => .next (s.restartUnit t u)
      | none =>
        let s := (s.modPwr fun p => { p with trans := none }).pwrResult 4 t.target t.refuser
        .next (s.startPending.pump))
  | none => .next s

end Sys2Proof.Machine
end

