-- ==== Sys2Proof/Machine/Tier.lean ====
section
/-! DEFINITION. The Tier Engine and the Compression Engine's decoder (R372–R408): the starts and switches of demotions and
promotions, unbacking, and segment decodes; and their rows. -/

namespace Sys2Proof.Machine

/-- The Tier Engine may start a move: in P0, and during an entry until it is asked to stop (R405–R408, R485, R493). -/
def State.tierRuns (s : State) : Bool :=
  s.chip.variant.cmpTier && !s.misc.tierFenced && !s.chip.halted && s.pwr.state == .p0 && (match s.pwr.trans with
    | none => true
    | some t => t.stage == .held || t.stage == .ask 1)

/-- Where a demotion reads line `i` of its page. -/
def State.plainSpot (s : State) (h : Hall) (g p : Nat) (e : PageEntry) (i : Nat) : Spot :=
  if e.loc = 1 then (s.gal g).frameSpot g e.frame i h.integ else h.homeSpot (p * 4096 + 64 * i)

/-- A new move of a page. -/
def newMove (id n p : Nat) (demote write : Bool) (stamp : BitVec 32) : Move :=
  { id := id, demote := demote, write := write, hall := n, page := p, stamp := stamp, toFrame := false, frame := 0
    start := 0, count := 0, offs := [], lines := [], poisoned := [], written := 0, total := 0, abandoned := false }

/-- A move of the page is under way. -/
def Gallery.moving (x : Gallery) (n p : Nat) : Bool := x.moves.any fun m => m.hall == n && m.page == p

/-- An open locked sequence holds a line of the page (R381). -/
def State.pageLocked (s : State) (n p : Nat) : Bool :=
  s.ports.toList.any fun x => x.seqs.any fun q => !q.broken && q.hall == n && q.off / 4096 == p

/-! ## Demotion (R380, R399) -/

/-- The page lies below W, outside every ahead entry (R372). -/
def State.settledPage (s : State) (n : Nat) (h : Hall) (p : Nat) : Bool :=
  decide ((p + 1) * 4096 ≤ h.w) && (s.aheadOf n (p * 4096 / regionBytes)).isNone

/-- The demotion threshold of the zone. -/
def coldOf (ctl : W32) (zone : Nat) : Nat :=
  if zone = 0 then fld ctl 10 8 else if zone = 1 then fld ctl 13 11 else fld ctl 16 14

/-- Bring the lines a scan needs into the caches (R377, R394). -/
def State.scanLines (s : State) (g n : Nat) (h : Hall) (p : Nat) : State :=
  let (lpa, _) := h.mapLpa p
  let (_, s) := s.needMeta (metaGal lpa) .pageMap lpa (some n) (beStamp s.now) false 9
  match lookupN h.heat g with
  | none => s
  | some base =>
    ((h.heatAt base p).take 2).foldl (fun s a => (s.needMeta g .heat ((s.gal g).heatLpa g a.line) none (beStamp s.now) false 9).2) s

/-- Is the page a demotion candidate now (R399). -/
def State.candidate (s : State) (g n : Nat) (h : Hall) (p : Nat) (e : PageEntry) (heat regionHeat : Nat) : Bool :=
  let ctl := s.gv g 0x5000
  h.cmp && h.phase == .ready && ctl.getLsbD 0 && !(s.gal g).cmpFenced && !(s.gal g).moving n p && !s.pageLocked n p &&
    e.ok && (e.loc == 0 || (e.loc == 1 && e.count == 7)) && !e.incomp && s.settledPage n h p &&
    decide (heat ≤ coldOf ctl (s.zoneOf g)) && decide (regionHeat < 0x8000) &&
    decide (((s.gal g).moves.filter fun m => m.demote).length < 4) &&
    decide ((s.gal g).demFlight < fld (s.gv g 0x5004) 15 8)

/-- The region counter of a page, when its heat line is cached. -/
def State.regionHeat (s : State) (g : Nat) (h : Hall) (p : Nat) : Option Nat :=
  match lookupN h.heat g with
  | none => none
  | some base =>
    match (h.heatAt base p)[1]? with
    | none => none
    | some a => (s.cached g .heat ((s.gal g).heatLpa g a.line)).map fun c => lineFld c.data a.lo a.width

/-- Start the demotion of a page: its 64 lines are read as best-effort work. -/
def State.startDemotion (s : State) (g n p : Nat) : State :=
  match s.hall n with
  | none => s
  | some h =>
    if h.home p ≠ g ∨ h.bytes ≤ p * 4096 then s
    else
      let s := s.scanLines g n h p
      let (e, s) := s.soundEntry h n p
      match e, s.pageHeat g n p, s.regionHeat g h p with
      | some e, some heat, some region =>
        if !s.candidate g n h p e heat region then s
        else
          let (id, s) := s.fresh
          let m := newMove id n p true false (beStamp s.now)
          let s := s.modGal g fun x => { x with moves := x.moves ++ [m], demFlight := x.demFlight + 1 }
          (List.range 64).foldl (fun s i => s.stageMove g m i .read (s.plainSpot h g p e i) 0 false) s
      | _, _, _ => s

/-- A move's old storage is freed at the switch. -/
def State.freeOld (s : State) (g : Nat) (e : PageEntry) : State :=
  if e.loc = 1 then s.freeAlcoves g e.frame e.start (e.count + 1) else s

/-- A move leaves the list. -/
def State.endMove (s : State) (g id : Nat) : State :=
  s.modGal g fun x => { x with moves := x.moves.filter fun m => m.id != id }

/-- The entry of a moved page, its line brought into the cache where it is not there. -/
def State.moveEntry (s : State) (h : Hall) (n p : Nat) (stamp : BitVec 32) : Option PageEntry × State :=
  let (lpa, _) := h.mapLpa p
  let (_, s) := s.needMeta (metaGal lpa) .pageMap lpa (some n) stamp false 9
  s.soundEntry h n p

/-- Step 6 of R380: the page-map entry switches to POOL. The demotion of a page that was lost meanwhile is abandoned. -/
def State.switchDemotion (s : State) (g : Nat) (m : Move) : State :=
  match s.hall m.hall with
  | none => s
  | some h =>
    let (old, s) := s.moveEntry h m.hall m.page m.stamp
    match old with
    | none => s
    | some old =>
      if old.loc = 2 then s.abandonMove g m.id
      else
      let e : PageEntry := { loc := 1, count := m.count, start := m.start, frame := m.frame, incomp := false
                             off1 := m.offs.getD 0 0, off2 := m.offs.getD 1 0, off3 := m.offs.getD 2 0 }
      let s := ((s.setPageEntry h m.page e).setAway m.hall m.page e).freeOld g old
      let s := s.countPage m.hall m.page g (if old.loc = 0 then 1 else 0) 1
      (s.bumpG g 0x5040 1).endMove g m.id

/-! ## Promotion (R23, R388, R400) -/

/-- Stamps of the writes that wait for the page's promotion. -/
def State.waitingWrites (s : State) (n p : Nat) : List (BitVec 32 × Nat × Nat) :=
  (List.range 9).flatMap fun q => (s.port q).txns.filterMap fun t =>
    if t.wait == .promotion && t.resp.isNone && t.hall == some n && t.off / 4096 == p then
      some ((s.askOf q t).stamp, q, t.id) else none

/-- The nearest of several stamps. -/
def nearest : List (BitVec 32) → Option (BitVec 32)
  | [] => none
  | x :: xs => match nearest xs with
    | none => some x
    | some y => if nearer y x then some y else some x

/-- The DMA writes and the stores of the Control Processor that wait at a page: their stamps. -/
def State.waitingInner (s : State) (n p : Nat) : List (BitVec 32) :=
  ((List.range 8).filterMap fun c =>
    match (s.ch c).run with
    | none => none
    | some r =>
      if r.dstHall == n && r.err.isNone then
        nearest ((r.dsts.filter fun d => !d.issued && d.off / 4096 == p && (r.dstData d).isSome).map fun d =>
          dmaStamp (d.resolved.getD s.now) r.due ((s.hall n).map (fun h => h.dl) |>.getD false))
      else none) ++
  (s.misc.cpuWork.filter fun w => w.store.isSome && !w.issued && !w.mapLine && w.hall == n && w.off / 4096 == p).map fun w => beStamp w.since

/-- A write waits on some other page of the Gallery whose promotion has not started: it goes before a read promotion (R400). -/
def State.writeFirst (s : State) (g n p : Nat) : Bool :=
  let waits (k q : Nat) : Bool := !(k == n && q == p) && (match s.hall k with
    | some h => h.home q == g && !(s.gal g).moving k q
    | none => false)
  ((List.range 9).any fun q => (s.port q).txns.any fun t =>
    t.wait == .promotion && t.resp.isNone && (match t.hall with
      | some k => waits k (t.off / 4096)
      | none => false)) ||
  s.away.any fun e => (e.loc == 2 || e.packed) && waits e.hall e.page && !(s.waitingInner e.hall e.page).isEmpty

/-- The source of a promotion: four segment fetches, or the lines of a page that is LOST. Answers no state when
storage it needs is fenced. -/
def State.readPromotion (s : State) (g : Nat) (m : Move) (h : Hall) (e : PageEntry) : Option State :=
  if e.loc = 2 then some (s.modMove g m.id fun m => { m with poisoned := List.range 64 })
  else
    (List.range 4).foldl (fun acc seg => acc.bind fun s =>
      match (s.gal g).segs.find? fun f => f.hall == m.hall && f.page == m.page && f.seg == seg with
      | some f => some (s.modSeg g f.id fun f => { f with move := some m.id })
      | none => s.fetchSegment g m.hall h m.page e seg m.stamp m.stamp false 9 fun f => { f with move := some m.id }) (some s)

/-- Writes that wait for a page whose promotion cannot read fenced storage. -/
def State.refuseWaiting (s : State) (n p : Nat) (st : Status) : State :=
  (s.waitingWrites n p).foldl (fun s e => s.formS e.2.1 e.2.2 st) s

/-- The target of a promotion: HOME when the group is backed, else one unbound frame (R400). -/
def State.promoTarget (s : State) (g : Nat) (m : Move) (h : Hall) : Option (Move × State) :=
  if !h.isUnbacked m.page then some (m, s)
  else
    match (s.gal g).unboundFrame with
    | none => none
    | some f => some ({ m with toFrame := true, frame := f, start := 0, count := 7 }, s.takeAlcoves g f m.hall 0 8)

/-- Start a promotion: by a waiting write, or by a hot sampled read (R400, R403, R405). U and Q change together, here (R403; log
entry 119, DEDUCED). -/
def State.startPromotion (s : State) (g n p : Nat) : State :=
  match s.hall n with
  | none => s
  | some h =>
    let stamps := (s.waitingWrites n p).map (·.1) ++ s.waitingInner n p
    let hot := (s.gal g).hot.contains (n, p) && (s.gv g 0x5000).getLsbD 1
    let write := !stamps.isEmpty
    if h.home p ≠ g ∨ (s.gal g).moves.any (fun m => !m.demote && m.hall == n && m.page == p) then s
    else if 16 ≤ ((s.gal g).moves.filter fun m => !m.demote).length then s
    else if !write && (!hot || s.writeFirst g n p || (h.elastic && s.zoneOf g == 2)) then s
    else
      let s := s.modGal g fun x => { x with hot := x.hot.filter fun e => e != (n, p) }
      let stamp := (nearest stamps).getD (beStamp s.now)
      let (e, s) := s.moveEntry h n p stamp
      match e with
      | none => s
      | some e =>
        if !(e.compressed || (e.loc == 2 && write)) || (s.gal g).cmpFenced && e.compressed then s
        else if h.elastic && decide ((s.gal g).headroom < 1) then s
        else
          let (id, s) := s.fresh
          match s.promoTarget g (newMove id n p false write stamp) h with
          | none => s
          | some (m, t) =>
            let t := if m.toFrame && e.compressed then t.countResv n p g (-1) else t
            let t := t.modGal g fun x => { x with moves := x.moves ++ [m] }
            match t.readPromotion g m h e with
            | some t => t
            | none => s.refuseWaiting n p .fenced

/-- A locked line of a page keeps its lock at the page's new place (R22, R88). -/
def State.relockPage (s : State) (n p : Nat) (place : Nat → Spot) : State :=
  eachBelow 9 (fun port s =>
    ((s.port port).seqs.filter fun q => q.hall == n && q.off / 4096 == p && q.active && !q.broken).foldl (fun s q =>
      let sp := place q.off
      if sp.l = q.landing ∧ sp.addr = q.addr then s
      else
        let cause := LockCause.bpp port q.ldid
        let s := s.unlockLine q.landing q.addr fun c => c == cause
        let s := s.modSeq sp.l fun x => { x with lockTable := x.lockTable ++ [{ addr := sp.addr, cause := cause }] }
        let s := s.modArb sp.l fun x => if x.lock.isSome then x else
          { x with lock := some { owner := reqOf port, cause := cause, addr := sp.addr, treads := 0, suspended := false, wasSuspended := false } }
        s.modPort port fun x =>
          { x with seqs := mapIf (fun e => e.ldid = q.ldid) (fun e => { e with landing := sp.l, addr := sp.addr }) x.seqs }) s) s

/-- The switch of a promotion: the page is plain for every later access, and the old alcoves are freed (R24,
R383). -/
def State.switchPromotion (s : State) (g : Nat) (m : Move) : State :=
  match s.hall m.hall with
  | none => s
  | some h =>
    let (old, s) := s.moveEntry h m.hall m.page m.stamp
    match old with
    | none => s
    | some old =>
      let e : PageEntry := if m.toFrame then { homeEntry with loc := 1, count := 7, frame := m.frame } else homeEntry
      let s := (((s.setPageEntry h m.page e).setAway m.hall m.page e).freeOld g old).dropDecoded g m.hall m.page
      let s := s.countPage m.hall m.page g (if m.toFrame then 0 else -1) (if old.compressed then -1 else 0)
      let s := s.relockPage m.hall m.page fun off =>
        if m.toFrame then (s.gal g).frameSpot g m.frame (off / 64 % 64) h.integ else h.homeSpot off
      (s.bumpG g (if m.write then 0x5044 else 0x5048) 1).endMove g m.id

/-! ## Unbacking (R402, R403) -/

/-- Compressed pages of a group homed in a Gallery. -/
def Hall.compressedIn (h : Hall) (group g : Nat) : Nat := ((lookupN h.pages (4 * group + g)).getD (0, 0)).2
/-- Pages of a group that are POOL or LOST. -/
def Hall.movedIn (h : Hall) (group : Nat) : Nat :=
  (h.galleries.map fun g => ((lookupN h.pages (4 * group + g)).getD (0, 0)).1).foldl (· + ·) 0

/-- The granules of a group: member Landing and granule. -/
def Hall.groupGranules (h : Hall) (group : Nat) : List (Nat × Nat) :=
  (h.members.zipIdx).map fun e => (e.1, (h.ext.getD e.2 []).getD group 0)

/-- The conditions of R402 and R403. -/
def State.mayUnback (s : State) (n : Nat) (h : Hall) (group : Nat) : Bool :=
  let bytes := h.members.length * granuleBytes
  let lo := group * bytes
  let hi := lo + bytes
  h.cmp && h.phase == .ready && decide (hi ≤ h.bytes) && decide (hi ≤ h.w) && !h.unbacked.contains group &&
    (s.gv 0 0x5000).getLsbD 2 && decide (h.movedIn group = bytes / 4096) &&
    !(s.ahead.any fun a => a.hall == n && decide (lo ≤ a.region * regionBytes) && decide (a.region * regionBytes < hi)) &&
    !((h.groupGranules group).any fun e => ((s.land e.1).seq.wq ++ (s.land e.1).seq.wrote.map (·.2)).any fun w => w.addr / granuleBytes == e.2) &&
    !(s.galleries.toList.any fun x => x.moves.any fun m => m.hall == n && h.groupOf m.page == group && !m.demote && !m.toFrame) &&
    h.galleries.all fun g =>
      let x := s.gal g
      let q : Int := if h.elastic then 0 else h.compressedIn group g
      decide (x.poolExt.length + 1 ≤ x.poolMax) && decide (0 ≤ x.headroom + framesPerSet - q)

/-- Unbacking takes effect: each Gallery gains the group's granules as one set of its frame area. -/
def State.unback (s : State) (n group : Nat) : State :=
  match s.hall n with
  | none => s
  | some h =>
    if !s.mayUnback n h group then s
    else
      let s := s.putHall n { h with unbacked := h.unbacked ++ [group] }
      h.galleries.foldl (fun s g =>
        let set := (List.range 4).map fun i => (((h.groupGranules group).find? fun e => e.1 == 4 * g + i).map (·.2)).getD 0
        let q := if h.elastic then 0 else h.compressedIn group g
        (s.modGal g fun x => { x with poolExt := x.poolExt ++ [set], resv := x.resv + q }).bumpG g 0x5050 1) s

/-! ## Segment decode (R382–R388) -/

/-- A decoded segment enters the buffer of 256, least recently used first out (R383). -/
def State.bufferSegment (s : State) (g : Nat) (f : SegFetch) (bytes : List Byte) : State :=
  let d : Decoded := { hall := f.hall, epoch := s.epoch f.hall, page := f.page, seg := f.seg, bytes := bytes }
  s.modGal g fun x =>
    { x with dbuf := (d :: x.dbuf.filter fun y => !(y.hall == f.hall && y.page == f.page && y.seg == f.seg)).take 256 }

/-- Sixteen lines of a promotion's page: decoded, or to be written with poison. -/
def State.segToMove (s : State) (g : Nat) (f : SegFetch) (bytes : Option (List Byte)) : State :=
  match f.move with
  | none => s
  | some id =>
    s.modMove g id fun m =>
      match bytes with
      | some b => (List.range 16).foldl (fun m i =>
          { m with lines := putN m.lines (16 * f.seg + i) (bytesLine ((b.drop (64 * i)).take 64)) }) m
      | none => { m with poisoned := m.poisoned ++ (List.range 16).map fun i => 16 * f.seg + i }

/-- Every storage line of a broken segment is written with the poison encoding, unless a newer write of it waits
(R386). -/
def State.poisonSegment (s : State) (g : Nat) (f : SegFetch) : State :=
  match s.hall f.hall with
  | none => s
  | some h =>
      ((List.range f.need).filter fun i => !f.stale.contains i).foldl (fun s i =>
        let sp := (s.gal g).frameSpot g f.frame (f.first + i) h.integ
        s.poisonWrite sp.l { access 0 .own 11 f.stamp .read sp.addr with hall := some f.hall }) s

/-- A segment that has no sound content: `kind` names its decode error, or none for a poisoned storage line. -/
def State.segFails (s : State) (g : Nat) (f : SegFetch) (kind : Option Nat) : State :=
  let s := s.modGal g fun x => { x with segs := x.segs.filter fun e => e.id != f.id }
  let s := match kind with
    | some k => ((s.poisonSegment g f).bumpG g 0x4038 1).decodeError g k f.hall f.page f.seg
    | none => s
  (s.segToMove g f none).answerSeg f fun _ => .poison

/-- The decoder takes a segment whose storage lines have all arrived, the nearest stamp first (R384). -/
def State.decodeSegment (s : State) (g : Nat) (f : SegFetch) : State :=
  let ready (e : SegFetch) : Bool := decide (e.need ≤ e.lines.length)
  let first := (s.gal g).segs.any fun e => ready e && e.id != f.id && (nearer e.stamp f.stamp || (e.stamp == f.stamp && decide (e.id < f.id)))
  if !ready f || first then s
  else if f.bad then s.segFails g f none
  else
    let bytes := (List.range f.need).flatMap fun i => lineBytes ((lookupN f.lines i).getD 0)
    match containerDecode bytes f.hall f.page f.seg with
    | .inr k => s.segFails g f (some k)
    | .inl out =>
      let s := s.modGal g fun x => { x with segs := x.segs.filter fun e => e.id != f.id }
      let s := ((s.bumpG g 0x4020 1).bufferSegment g f out).segToMove g f (some out)
      s.answerSeg f fun line => .data (bytesLine ((out.drop (64 * (line % 16))).take 64))

/-! ## The rows -/

/-- `TIER_DEMOTION_START`: the scan reaches a page (R399). -/
def execTierDemotionStart (g : GalleryId) (h : HallId) (page : Nat) (s : State) : Out :=
  if s.tierRuns then .next (s.startDemotion g h page) else .next s

/-- `TIER_DEMOTION_SWITCH`: every storage line is ordered, and the entry switches (R380 step 6). -/
def execTierDemotionSwitch (g : GalleryId) (move : Nat) (s : State) : Out :=
  match s.moveOf g move with
  | some m =>
    if m.demote && !m.abandoned && decide (0 < m.total) && m.written == m.total && !s.chip.halted then
      .next ((s.switchDemotion g m).pump)
    else .next s
  | none => .next s

/-- `TIER_PROMOTION_START` (R400). -/
def execTierPromotionStart (g : GalleryId) (h : HallId) (page : Nat) (s : State) : Out :=
  if s.tierRuns then .next ((s.startPromotion g h page).pump) else .next s

/-- `TIER_PROMOTION_SWITCH` (R24). -/
def execTierPromotionSwitch (g : GalleryId) (move : Nat) (s : State) : Out :=
  match s.moveOf g move with
  | some m =>
    if !m.demote && !m.abandoned && m.total == 64 && m.written == 64 && !s.chip.halted then
      .next ((s.switchPromotion g m).pump)
    else .next s
  | none => .next s

/-- `TIER_UNBACK`: a group is to be unbacked, at the next tread boundary (R402). -/
def execTierUnback (h : HallId) (group : Nat) (s : State) : Out :=
  match s.hall h with
  | some x => if s.tierRuns && s.mayUnback h x group then .next (s.defer (.unback h group)) else .next s
  | none => .next s

/-- `SEGMENT_DECODE` (R382). -/
def execSegmentDecode (g : GalleryId) (fetch : Nat) (s : State) : Out :=
  match s.segOf g fetch with
  | some f => if s.chip.halted then .next s else .next ((s.decodeSegment g f).pump)
  | none => .next s

end Sys2Proof.Machine
end

