-- ==== Sys2Proof/Machine/Tread.lean ====
section
/-! DEFINITION. The tread boundary (R30): counters and the Counter Gallery (R518–R522), changes that wait for a boundary,
the reserve meter (R146, R176), lock holds (R139), the conversion of timing rules (R194–R197, R207), watermarks
(R525–R527), and the tables and values that come into force (R282, R339); and the block-flight boundary (R31). -/

namespace Sys2Proof.Machine

/-! ## The Counter Gallery (R518–R522) -/

/-- The unit page and offset that an event code counts: 0 Landing page, 1 Gallery page, 2 block. -/
def eventPlace (code : Nat) : Option (Nat × Nat × Nat) :=
  let unit := code / 4096
  let inst := code / 256 % 16
  let sel := code % 256
  if unit = 0 then
    (if sel = 1 then some (2, 0, 0x1000008) else if sel = 2 then some (2, 0, 0x1000004) else if sel = 3 then some (2, 0, 0x100000C)
     else none)
  else if unit = 1 then
    (if (0x10 ≤ sel ∧ sel ≤ 0x12) ∨ (0x40 ≤ sel ∧ sel < 0x74 ∧ sel % 4 < 2) then some (0, inst, 4 * sel) else none)
  else if unit = 2 then (if 8 ≤ sel ∧ sel ≤ 15 then some (0, inst, 0x400 + 4 * sel) else none)
  else if unit = 3 then (if 0x20 ≤ sel ∧ sel ≤ 0x2B then some (0, inst, 0x600 + 4 * sel) else none)
  else if unit = 4 then (if sel = 8 ∨ sel = 9 then some (0, inst, 0x1000 + 4 * sel) else none)
  else if unit = 5 then (if 8 ≤ sel ∧ sel ≤ 11 then some (0, inst, 0x3800 + 4 * sel) else none)
  else if unit = 6 then (if sel < 3 then some (1, inst / 4, 0x2010 + 0x10 * sel + 4 * (inst % 4)) else none)
  else if unit = 7 then (if 4 ≤ sel ∧ sel ≤ 9 then some (1, inst, 0x3000 + 4 * sel) else none)
  else if unit = 8 then (if 8 ≤ sel ∧ sel ≤ 15 then some (1, inst, 0x4000 + 4 * sel) else none)
  else if unit = 9 then (if 0x10 ≤ sel ∧ sel ≤ 0x16 then some (1, inst, 0x5000 + 4 * sel) else none)
  else if unit = 10 then
    (if sel = 7 ∨ sel = 0xB then some (2, 0, 0x10000 + 0x1000 * inst + 4 * sel) else none)
  else if unit = 11 then (if 0x18 ≤ sel ∧ sel ≤ 0x1D then some (2, 0, 0x2000 + 4 * sel) else none)
  else if unit = 12 then (if 4 ≤ sel ∧ sel ≤ 9 then some (2, 0, 0x20000 + 0x1000 * inst + 4 * sel) else none)
  else if unit = 13 then
    (if sel < 4 then some (0, inst, 0x10000 + sel) else if sel = 4 then some (1, inst, 0x100004) else none)
  else if unit = 14 then (if sel = 0 then some (2, 0, 0x1000000) else none)
  else none

/-- Increments of an event in the tread that ends. -/
def State.eventCount (s : State) (code : Nat) : Nat :=
  match eventPlace code with
  | none => 0
  | some (k, i, off) =>
    if k = 0 then (getW 0 (s.land i).page.inc off).toNat
    else if k = 1 then (getW 0 (s.gal i).page.inc off).toNat
    else (getW 0 s.blk.inc off).toNat

/-- One boundary of a Gallery's eight programmable counters, from counter k on, with the wraps carried in: the
values and the counters that wrapped. -/
def State.progStep (s : State) (prog : Vector (W32 × Nat) 8) : List Nat → Nat → Vector (W32 × Nat) 8 × List Nat
  | [], _ => (prog, [])
  | k :: rest, wraps =>
    let (sel, v) := (prog[k]?).getD (0, 0)
    let chained := decide (0 < k) && ((prog[k - 1]?).getD (0, 0)).1.getLsbD 16
    let add := if chained then wraps else if fld sel 15 0 = 0 then 0 else s.eventCount (fld sel 15 0)
    let n := v + add
    let w := n / 2 ^ 48
    let (p, ws) := s.progStep (prog.setIfInBounds k (sel, n % 2 ^ 48)) rest w
    (p, if 0 < w then k :: ws else ws)

/-- The counters of a Gallery at a boundary. -/
def State.counterStep (s : State) (g : Nat) : State :=
  s.modGal g fun x =>
    let (p, ws) := s.progStep x.prog (List.range 8) 0
    { x with prog := p, cntFix := x.cntFix + 32
             ovf := ws.foldl (fun o k => o ||| BitVec.ofNat 8 (2 ^ k)) x.ovf }

/-! ## Timing rules (R194–R197, R207, R210) -/

/-- The converted register of a rule word at a clock period (R196, R210). -/
def convertRule (w : W32) (unit tck : Nat) : W32 :=
  let v := fld w 15 0
  let n := fld w 23 16
  let t := if unit = 0 then v else if unit = 1 then v * 1000 else 0
  let time := if t = 0 ∨ tck = 0 then 0 else (t * 997 / tck + 1000) / 1000
  let ck := max time n
  let by_ := decide (time < n)
  if 65535 < ck then at_ 0 65535 ||| at_ 16 (b2n by_) ||| at_ 17 1 else at_ 0 ck ||| at_ 16 (b2n by_)

/-- The clock period of a data rate in ps, truncated (R195). -/
def tckOf (rate : Nat) : Nat := if rate = 0 then 0 else 2000000 / rate

/-- Convert every rule of a Landing at a tread boundary. The block flight needs no clock, so a write of `SEQ_T_REFI` is in force from the
boundary on a Landing without geometry too (R196, R197; log entry 101, DEDUCED). -/
def State.convert (s : State) (l : Nat) : State :=
  let s := s.modLand l fun x => { x with refiPend := false }
  let x := s.land l
  let pend := x.tchk.getLsbD 2
  if !pend || !x.seq.geom.valid then s
  else
    let tck := tckOf x.seq.geom.rate
    let conv := (List.range 36).foldl (fun m i =>
      let off := 0x800 + 4 * i
      if off = offRefi then m
      else match ruleAt off with
        | some r => setW 0 m (off + 0x100) (convertRule (s.lw l off) r.unit tck)
        | none => m) ([] : Words)
    let sat := conv.any fun e => e.2.getLsbD 17
    s.modLand l fun x => { x with conv := conv, tchk := mergeMask 0x6 x.tchk (at_ 1 (b2n sat)) }

/-! ## Deferred changes -/

/-- Break the open sequences on a hall that satisfy `c` (port and LDID). -/
def State.breakOn (s : State) (h : Nat) (c : Nat → Nat → Bool) : State :=
  eachBelow 9 (fun p s =>
    ((s.port p).seqs.filter fun q => q.hall == h && !q.broken && c p q.ldid).foldl (fun s q => s.breakSeq p q.ldid .lockBroken) s) s

/-- A window goes, and breaks the open sequence of its (port, LDID) on the hall (R121). -/
def State.dropWindow (s : State) (num : Nat) : State :=
  let gone := s.windows.filter fun w => w.num == num
  let s : State := { s with windows := s.windows.filter fun w => w.num != num }
  gone.foldl (fun s w => s.breakOn w.hall fun p ldid => p == w.port && ldid == w.ldid) s

/-- The first steps of a release (R120): every window goes, every open sequence on the hall is broken, and demotions of its pages
are abandoned (R407). -/
def State.beginRelease (s : State) (h : Nat) : State :=
  let s : State := { s with windows := s.windows.filter fun w => w.hall != h }
  let s := (s.modHall h fun x => { x with phase := .releasing }).breakOn h fun _ _ => true
  { s with galleries := s.galleries.map fun x =>
    { x with moves := mapIf (fun m => m.hall == h && m.demote) (fun m => { m with abandoned := true }) x.moves } }

/-- Apply a change whose boundary has come. -/
def State.applyDeferred (s : State) (d : Deferred) : State :=
  match d with
  | .bringup on => s.modChip fun c => { c with bringup := on }
  | .debugSelect h => s.modMisc fun m => { m with debugHall := h }
  | .windowOn num => { s with windows := mapIf (fun w => w.num = num) (fun w => { w with active := true }) s.windows }
  | .windowOff num => s.dropWindow num
  | .releaseWindows h => s.beginRelease h
  | .activateHall h =>
    { s with windows := mapIf (fun w => w.hall = h) (fun w => { w with active := true }) s.windows }
  | .shrink h g => s.modHall h fun x => { x with phase := .shrinking g }
  | .unback h group => s.unback h group
  | .fence i => match s.flt.fences.find? fun f => f.id == i with
    | some f => s.applyFence f
    | none => s
  | .declare l sub rank dev => s.declare l sub rank dev
  | .cnt g k sel => s.modGal g fun x =>
      { x with prog := x.prog.setIfInBounds k (sel, 0), ovf := x.ovf &&& ~~~(BitVec.ofNat 8 (2 ^ k)) }
  | .cntUser en => s.modMisc fun m => { m with cntUserEn := en }
  | .fltMode svc => s.modFlt fun f =>
      { f with service := svc, switched := if svc && !f.service then s.now else f.switched }
  | .done m n res =>
    let b := s.box m
    if b.state == .busy && b.started && b.taken == n then s.finish m .ok res [] else s

/-! ## One Landing at a boundary -/

/-- The window limit of R146 in lines. -/
def rsvLimit (pct rate : Nat) : Nat := pct * rate * 32 / 100000

/-- The reserve meter: charges of bursts that have ended join the grants of the tread, and the last 16 treads are
summed (R146, R176). Outside deadline mode no charge is reported (R177). -/
def State.reserveStep (s : State) (l : Nat) : State :=
  let x := s.land l
  let now := s.tread
  let dl := s.dlMode l
  let due := if dl then x.seq.charges.filter fun c => c.1 < now else []
  let slots := (due.map (·.2)).foldl (· + ·) 0
  let s := s.modSeq l fun q => { q with charges := if dl then q.charges.filter fun c => !(c.1 < now) else [], costs := if dl then q.costs else [] }
  let s := if slots = 0 then s else s.bumpL l 0x43C slots
  let limit := rsvLimit (fld (s.lv l 0) 30 24) x.seq.geom.rate
  s.modArb l fun a =>
    let hist := ((a.dlNow + slots) :: a.dlHist).take 16
    let sum := hist.foldl (· + ·) 0
    { a with dlHist := hist, dlNow := 0, rsvLimit := limit, rsv := a.rsv.eval (dl && decide (limit < sum)) }

/-- Something is queued for a rank: an access, one behind a locked line, or a claim (R163). -/
def Seq.hasWork (q : Seq) (sub rank : Nat) : Bool :=
  ((q.rq ++ q.wq ++ q.inflight ++ q.held).any fun a =>
    let c := coordOf q.geom a.addr
    c.sub == sub && c.rank == rank) ||
  q.claims.any fun a => match a.claimKind with
    | some k => (List.range 4).any fun b => k.covers { sub := sub, rank := rank, bg := 0, bank := b, row := 0, col := 0 }
    | none => false

/-- Treads for which each rank has been idle: every bank IDLE and nothing queued for it (R163). -/
def State.idleStep (s : State) (l : Nat) : State :=
  let x := s.land l
  let k := s.tread * x.seq.geom.rate / 125
  let count (e : Nat × Nat) : Nat × Nat × Nat :=
    let n := match x.seq.idle.find? fun i => i.1 == e.1 && i.2.1 == e.2 with
      | some i => i.2.2
      | none => 0
    (e.1, e.2, if x.seq.banksIdle e.1 e.2 k && !x.seq.hasWork e.1 e.2 then n + 1 else 0)
  s.modSeq l fun q => { q with idle := x.rankList.map count }

/-- Refresh debts at a boundary, while the ranks are not in self-refresh (R34, R214). -/
def State.debtStep (s : State) (l : Nat) : State :=
  let x := s.land l
  if !x.sbd.started || x.seq.lstate == .sr || x.seq.lstate == .fenced || x.seq.lstate == .halt then s
  else
    let now := s.tread
    let n := x.seq.geom.ranks
    let owe (i : Nat) (r : RefSched) : RefSched :=
      if i % 8 < n then { r with sched := schedOwe x.mnt.flight now r.sched } else r
    let m : Mnt := { x.mnt with ref := x.mnt.ref.mapIdx owe }
    s.modMnt l fun _ => { m with debtWm := m.debtWm.eval (m.ref.any fun r => 3 ≤ r.sched.debt) }

/-- The coalescing kinds of a Landing at a boundary: grid times that have passed late are merged and counted (R34). A merged scrub
step's lines join those of the waiting one. -/
def State.mergeStep (s : State) (l : Nat) : State :=
  let x := s.land l
  if !x.sbd.started then s
  else
    let t := s.tread
    let bf := s.blockFlight
    let count (s : State) (at_ k : Nat) : State := if k = 0 then s else s.bumpL l at_ k
    let (zq, zk) := schedMerge (fld (s.lv l 0x628) 9 0 * bf) 2 t x.mnt.zq
    let (sc, sk) := if x.mnt.scrubOn then schedMerge (fld (s.lv l 0x63C) 2 0 * bf) 16 t x.mnt.scrub else (x.mnt.scrub, 0)
    let lines := fld (s.lv l 0x61C) 15 0 * sk
    let s := s.modMnt l fun m =>
      { m with zq := zq, scrub := sc
               scrubOwed := if x.mnt.scrubWait && 0 < lines then addAt m.scrubOwed sc.next lines else m.scrubOwed }
    let s := count (count (count (count s 0x68C zk) 0x10002 zk) 0x68C sk) 0x10003 sk
    let (st, tk) := if x.phy.measured then schedMerge bf 1 t x.phy.sched else (x.phy.sched, 0)
    let s := count (s.modPhy l fun p => { p with sched := st }) 0x10000 tk
    let (ca, ck) := schedMerge (16 * bf) 1 t x.cal.sched
    count (s.modCal l fun c => { c with sched := ca }) 0x10001 ck

/-- Margins of some ranks replace those held. -/
def mergeMargins (old new : List Margin) : List Margin :=
  (old.filter fun m => !new.any fun n => n.sub == m.sub && n.rank == m.rank) ++ new

/-- Staged calibration values load at the boundary that ends the quiet interval (R339, R334, R336). -/
def State.loadStaged (s : State) (l : Nat) : State :=
  match (s.land l).cal.staged with
  | none => s
  | some g =>
    if !(match g.placed with
      | some t => decide (t ≤ s.tread)
      | none => false) then s
    else
      let s := g.words.foldl (fun s e => s.loadLand l e.1 (periodicMerge e.1 (s.lv l e.1) e.2)) s
      let s := (s.modCal l fun c =>
        { c with staged := none, tRef := g.temp, last := s.now, state := 0, pending := false, asked := false, rejRun := 0
                 aborts := 0, margins := mergeMargins c.margins g.margins }).bumpL l 0x3820 1
      s.calOutcome l 0

/-- The scrub step of a Landing starts (R237). -/
def State.startScrub (s : State) (l : Nat) : State :=
  if !(s.land l).mnt.scrubWait then s
  else
    let w := s.lv l 0x63C
    s.modMnt l fun m =>
      { m with scrubWait := false, scrub := schedStart (fld w 2 0 * s.blockFlight) (fld w 12 3) (fld w 22 13) s.tread m.scrub }

/-- A read of the scrub step that waits to start. -/
def Mnt.ofStep (m : Mnt) (a : Access) : Bool := a.client == .scrub && a.op == .read && a.stamp == stampOf (16 * m.scrub.next)

/-- Patrol scrub is switched on or off at a boundary: its first grid time is the next block-flight boundary; a step that has
started completes its reads, and one that has not is given up, the position returning to its first line (R236). -/
def State.scrubSwitch (s : State) (l : Nat) : State :=
  let on := (s.lv l 0x600).getLsbD 5
  let x := s.land l
  let m := x.mnt
  if on && !m.scrubOn then
    s.modMnt l fun m => { m with scrubOn := true, scrub := { Sched.zero with ideal := s.chip.nextFlight, next := s.chip.nextFlight } }
  else if !on && m.scrubOn then
    if !m.scrubWait then s.modMnt l fun m => { m with scrubOn := false }
    else
      let stays (a : Access) : Bool := !m.ofStep a
      let gone := (x.seq.rq ++ x.seq.held ++ x.arb.grantNext.toList ++ x.arb.staging).filter m.ofStep
      let s := s.modSeq l fun q => { q with rq := q.rq.filter stays, held := q.held.filter stays }
      let s := s.modArb l fun a => { a with staging := a.staging.filter stays, grantNext := a.grantNext.filter stays }
      s.modMnt l fun m =>
        { m with scrubOn := false, scrubWait := false, scrubOwed := m.scrubOwed.filter fun e => e.1 != m.scrub.next
                 scrubPos := match gone with
                   | a :: _ => a.addr / 64
                   | [] => m.scrubPos }
  else s

/-- A waiting scrub step whose reads have all been served without a burst starts too: each was forwarded from the write queue
(R159) or dropped for a fence (R191); log entry 98, DEDUCED. -/
def State.scrubSpent (s : State) (l : Nat) : State :=
  let x := s.land l
  if x.mnt.scrubWait && !(x.mnt.scrubOwed.any fun e => e.1 == x.mnt.scrub.next) &&
      !((x.seq.rq ++ x.seq.held ++ x.arb.grantNext.toList ++ x.arb.staging).any x.mnt.ofStep) then s.startScrub l else s

/-- A retry whose replay has ended succeeded (R188, R189): RUN again, with a class C report. -/
def State.endRetry (s : State) (l : Nat) : State :=
  match (s.land l).seq.retry with
  | some r =>
    (match r.done with
     | some e =>
       if e ≤ s.tread * (s.land l).seq.geom.rate / 125 then
         (s.modSeq l fun q => { q with retry := none, lstate := if q.lstate = .retry then r.back else q.lstate }).raise (repL 4 1 l 0) none
       else s
     | none => s)
  | none => s

/-- A table accepted in the tread begins to apply at the boundary, whose first CK edge is `e` (R282). -/
def Phy.applyTable (p : Phy) (e : Nat) : Phy :=
  if p.newTable then
    { p with newTable := false, slew := true, leaving := (p.inForce, e) :: (if p.slew then p.leaving else []), inForce := p.lin }
  else p

/-- One Landing at a boundary: a Stringer table accepted in the tread begins to apply (R282), the plan handed over_ is
issued and the next one is to be built, and the token bucket gains (R406). -/
def State.landStep (s : State) (l : Nat) : State :=
  let s := (s.excuse l).reserveStep l
  let s := s.lockTread l
  let s := s.modPhy l fun p => p.applyTable (firstEdge (s.land l).seq.geom.rate s.tread)
  let s := (s.loadStaged l).convert l
  let s := (((((s.idleStep l).debtStep l).mergeStep l).scrubSpent l).scrubSwitch l).endRetry l
  let now := s.tread
  let back := max 512 (fld (getW 0 (s.land l).conv 0x98C) 15 0 + 256)
  let s := s.modSeq l fun q =>
    { q with past := (q.past ++ q.planNow).filter (fun c => decide (now * q.geom.rate / 125 ≤ c.edge + back))
             planNow := q.planNext, planNext := [], wrote := q.wrote.filter fun e => now ≤ e.1 + 1 }
  let lines := fld (s.gv (l / 4) 0x5004) 7 0
  s.modLand l fun x => { x with tokens := min (x.tokens + lines) (4 * lines : Nat) }

/-! ## One Gallery at a boundary -/

/-- Zone and watermarks of a Gallery's pool; entry to the critical zone posts event 16h (R405). -/
def State.zoneStep (s : State) (g : Nat) : State :=
  if !s.chip.variant.cmpTier || (s.gal g).poolMax = 0 then s
  else
    let z := s.zoneOf g
    let hd := (s.gal g).headroom
    let low := (s.gv g 0x501C).toNat
    let crit := (s.gv g 0x5020).toNat
    let was := (s.gal g).zone
    let s := s.modGal g fun x =>
      { x with zone := z, wmLow := x.wmLow.eval (decide (hd < low)), wmCrit := x.wmCrit.eval (decide (hd < crit)) }
    if z = 2 ∧ was ≠ 2 then s.post 0x16 1 [at_ 0 g, BitVec.ofInt 32 hd] else s

/-- Heat decay steps that are late are merged, and counted in each Gallery (R34). -/
def State.mergeHeat (s : State) : State :=
  if !s.chip.variant.cmpTier then s
  else
    let (sc, k) := schedMerge (fld (s.gv 0 0x5008) 2 0 * s.blockFlight) 64 s.tread s.misc.heat
    let s := s.modMisc fun m => { m with heat := sc }
    if k = 0 then s else eachBelow s.nGal (fun g s => s.bumpG g 0x100004 k) s

/-! ## The boundary -/

/-- The delay set of a burst to a rank: on MRDIMM that of the pair of pseudo-channels (R286). -/
def Geom.setOf (g : Geom) (rank : Nat) : Nat := if g.mrd then rank / 2 * 2 else rank

/-- The PHY loads the set of a burst into the lane registers of its subchannel, in the gap of R168 before it (R287). -/
def Phy.load (p : Phy) (sub set : Nat) : Phy := if sub = 0 then { p with setA := set } else { p with setB := set }

/-- A word of the lane registers: delays, Vref, DFE taps and FFE of the set that the subchannel's last burst used, as in force
(R287, R298). -/
def State.laneWord (s : State) (l sub o : Nat) : W32 :=
  let p := (s.land l).phy
  s.lv l (setOff sub (if sub = 0 then p.setA else p.setB) o)

/-- Bursts of the plan that ends that went to another rank or slot than the burst before them (R170), and the sets they used (R287). -/
def State.countSwitches (s : State) (l : Nat) : State :=
  let g := (s.land l).seq.geom
  let bursts := ((s.land l).seq.planNow.filter fun c => c.cmd.isCas && c.cmd != .mrr).mergeSort fun a b => decide (a.edge ≤ b.edge)
  bursts.foldl (fun s c =>
    let last := ((s.land l).seq.lastRank[c.sub]?).getD none
    let s := (s.modSeq l fun q => { q with lastRank := q.lastRank.setIfInBounds c.sub (some c.rank) }).modPhy l fun p =>
      p.load c.sub (g.setOf c.rank)
    match last with
    | some r => if g.switches r c.rank then s.bumpL l 0x424 1 else s
    | none => s) s

/-- The work of a tread boundary. -/
def State.boundary (s : State) : State :=
  let s := eachBelow s.nLand (fun l s => s.countSwitches l) s
  let s := s.bumpB 0x1000008 1
  let s := eachBelow s.nGal (fun g s => s.counterStep g) s
  let s : State := { s with
    landings := s.landings.map (fun x => { x with page := x.page.boundary })
    galleries := s.galleries.map (fun x => { x with page := x.page.boundary })
    blk := s.blk.boundary
    dma := s.dma.map fun x => { x with doneShown := x.descDone, skipShown := x.skipped } }
  let ds := s.misc.deferred
  let s := s.modMisc fun m => { m with deferred := [] }
  let s := ds.foldl (fun s d => s.applyDeferred d) s
  let s := eachBelow s.nLand (fun l s => s.landStep l) s
  let s := (eachBelow s.nGal (fun g s => s.zoneStep g) s).mergeHeat
  let waits := s.ports.toList.any (fun x => x.txns.any fun t => t.wait == .ahead && t.resp.isNone) ||
    s.dma.toList.any (fun c => match c.run with
      | some r => r.dsts.any fun d => d.ahead
      | none => false)
  let s := s.modMisc fun m => { m with aheadWm := { m.aheadWm with above := waits } }
  s.pwrAdvance.capture.pump

/-- The clock of a state runs: not in cold reset, not in P4. -/
def State.clocked (s : State) : Bool := s.chip.phase != .cold && s.pwr.state != .p4 && (s.chip.cpOn || s.pwr.state == .p3)

/-! ## The block-flight boundary (R31, R32, R217, R221) -/

/-- The refresh command in force (R217). -/
def State.wantsSb (s : State) (l : Nat) : Bool := fld (s.lv l 0x600) 1 0 = 1 || s.dlMode l

/-- One Landing at a block-flight boundary. -/
def State.flightLanding (s : State) (l : Nat) : State :=
  let x := s.land l
  let hot := x.mnt.hotNext
  let bf := s.blockFlight
  let flight := if hot then bf / 2 else bf
  let sb := s.wantsSb l
  let change := decide (flight ≠ x.mnt.flight) || sb != x.mnt.sameBank
  let limit := fld (s.lv l 0x638) 23 16
  let s := s.modMnt l fun m =>
    { m with hot := hot, flight := flight, sameBank := sb, aboFlight := 0
             aboWm := m.aboWm.eval (decide (limit < m.aboFlight)) }
  if change then s.restartGrids l s.tread else s

/-- One Gallery at a block-flight boundary: the corrected-error watermarks (R268) and the per-flight counts. -/
def State.flightGallery (s : State) (g : Nat) : State :=
  eachBelow 4 (fun i s =>
    let x := s.gal g
    let limit := fld (s.gv g (0x2040 + 4 * i)) 23 16
    let over_ := decide (limit < (x.ceFlight[i]?).getD 0)
    let was := ((x.ceWm[i]?).getD Wm.zero).above
    let s := s.modGal g fun x =>
      { x with ceFlight := x.ceFlight.setIfInBounds i 0, ceWm := x.ceWm.setIfInBounds i (((x.ceWm[i]?).getD Wm.zero).eval over_) }
    if over_ && !was then s.raise (repL 6 1 (4 * g + i) 0) none else s)
    (s.modGal g fun x => { x with errFlight := 0, demFlight := 0 })

/-- The work of a block-flight boundary. -/
def State.flightBoundary (s : State) : State :=
  let m := s.chip.flight + 1
  let s := s.modChip fun c => { c with flight := m, nextFlight := c.nextFlight + s.blockFlight }
  let s := s.bumpB 0x1000004 1
  let s := if m % 16384 = 0 then s.bumpB 0x100000C 1 else s
  let s := eachBelow s.nLand (fun l s => s.flightLanding l) s
  let s := eachBelow s.nGal (fun g s => s.flightGallery g) s
  { s with ports := s.ports.map fun x => { x with faults := 0 } }

/-! ## The rows -/

/-- `BLOCK_FLIGHT_BOUNDARY` (R31): the tread of the next flight has come. -/
def execBlockFlightBoundary (s : State) : Out :=
  if s.clocked && s.chip.coreOn && s.chip.phase == .out && decide (s.chip.nextFlight ≤ s.tread) then .next s.flightBoundary
  else .next s

end Sys2Proof.Machine
end

