-- ==== Sys2Proof/Machine/Plan.lean ====
section
/-! DEFINITION. The plan of a tread (R159–R186): which queue entries are issuable, the command chosen at each edge, the
direction of each data bus, maintenance claims, hints and the overhead charge; emergency placement (R181);
and the rows TREAD_PLAN and ARB_DECISION. -/

namespace Sys2Proof.Machine

/-! ## Banks -/

/-- The access belongs to the sequence that holds the grant (R138): the sequencer serves it as though it carried the nearest
stamp (R140). A suspended sequence does not hold the grant (R141). -/
def Arb.owns (x : Arb) (a : Access) : Bool :=
  match x.lock with
  | some k => !k.suspended && (match k.cause with
    | .bpp p ldid => a.ofSeq p ldid
    | .rmw id => id == a.id
    | _ => false)
  | none => false

/-- A bank-level claim that was not placed in the first tread of its window waits for the next one in deadline mode (R223). -/
def State.nextWindow (s : State) (l n : Nat) (a : Access) : Bool :=
  s.dlMode l && !a.emergency && !a.ready && (a.row == 1 || a.row == 2) && match (s.land l).mnt.winPlan with
    | some t => t != n
    | none => false

/-- In the plan of tread `n` an access is held back by a granted claim on its bank, unless it is an emergency, the locked
sequence's own, or nearer. -/
def State.claimHolds (s : State) (l n : Nat) (a : Access) (c : Coord) : Bool :=
  let x := s.land l
  !a.emergency && !x.arb.owns a && x.seq.claims.any fun y =>
    (match y.claimKind with
     | some k => k.covers c
     | none => false) && !s.nextWindow l n y && !nearer a.stamp y.stamp

/-! ## Issuable entries (R22, R159, R160, R182) -/

/-- The tag of a write can be merged into its tag line now. -/
def State.tagReady (s : State) (q : Seq) (a : Access) : Bool :=
  match a.tagAt, a.tag with
  | some t, some _ =>
    (s.cached (metaGal t.1) .tag t.1).isSome &&
      !((q.inflight ++ q.checking.map (·.1)).any fun r => r.addr == a.addr && r.tag.isNone)
  | _, _ => true

/-- Is the write entry issuable: its merge is decided, no access to its line admitted before it waits, and its tag line is at
hand. -/
def State.writeIssuable (s : State) (q : Seq) (a : Access) : Bool :=
  a.ready && !(q.rq.any fun r => r.addr == a.addr && r.id != a.id && decide (r.adm ≤ a.adm)) &&
    ((q.wq.find? fun w => w.addr == a.addr).map (·.id)) == some a.id && s.tagReady q a

/-- A read waits for a write of its line that was admitted before it and has come back from a discarded plan (R159). -/
def Seq.readWaits (q : Seq) (a : Access) : Bool :=
  q.wq.any fun w => w.addr == a.addr && w.id != a.id && w.ready && decide (w.adm < a.adm)

/-- The programming time of a repair holds the bank (R265): every line of the row is staged. -/
def State.bankHeld (s : State) (l : Nat) (c : Coord) : Bool :=
  s.misc.repairs.any fun r => r.landing == l && r.back.isNone && decide ((s.land l).seq.geom.rowLines ≤ r.staged.length) && r.coord.sub == c.sub &&
    r.coord.rank == c.rank && r.coord.bg == c.bg && r.coord.bank == c.bank

/-- The queue entries of a subchannel that nothing holds back from the plan of tread `n`. -/
def State.issuable (s : State) (l n sub : Nat) : List Access :=
  let x := s.land l
  let q := x.seq
  let here (a : Access) : Bool :=
    let c := coordOf q.geom a.addr
    c.sub == sub && !s.claimHolds l n a c && !s.bankHeld l c
  let reads := q.rq.filter fun a => (q.lstate == .run || a.fillsTag) && here a && !q.readWaits a &&
    (a.client == .ppr || !s.placeFenced l a.addr)
  reads ++ q.wq.filter fun a => here a && !s.writeBarred l (coordOf q.geom a.addr) && s.writeIssuable q a

/-! ## The command an entry needs -/

/-- An access is a write of the data bus. -/
def Access.isWr (a : Access) : Bool := a.op == .write || (a.op == .rmw && a.ready)

/-- A candidate for an edge. -/
structure Cand where
  want : Want
  acc : Access
  hit : Bool
  deriving DecidableEq, Repr

/-- The rank of a command is in POWER_DOWN: the exit comes first (R163). -/
def Seq.wake (q : Seq) (w : Want) : Want :=
  if q.pd.any fun e => e.1 == w.sub && e.2 == w.rank then { w with cmd := .pdExit, bg := 0, bank := 0 } else w

/-- The next command of a queue entry, with the page policy's choice of auto-precharge (R162). -/
def Seq.next (q : Seq) (page : Nat) (others : List Access) (a : Access) : Cand :=
  let c := coordOf q.geom a.addr
  let mk (k : Cmd) : Want := { cmd := k, sub := c.sub, rank := c.rank, bg := c.bg, bank := c.bank, row := c.row, col := c.col }
  match q.rowAt c.sub c.rank c.bg c.bank with
  | none => { want := q.wake (mk .act), acc := a, hit := false }
  | some o =>
    if o.row = c.row then
      let more := others.any fun b => b.id != a.id &&
        (let d := coordOf q.geom b.addr
         d.sub == c.sub && d.rank == c.rank && d.bg == c.bg && d.bank == c.bank && d.row == c.row)
      let auto := decide (page = 1) && !more
      { want := mk (if a.isWr then (if auto then .wra else .wr) else if auto then .rda else .rd), acc := a, hit := true }
    else { want := { mk .pre with row := o.row }, acc := a, hit := false }

/-- Is `a` nearer than `b`, an access of the sequence that holds the grant being the nearest of all (R130, R140). -/
def Arb.nearerAcc (x : Arb) (a b : Access) : Bool :=
  if x.owns a != x.owns b then x.owns a else nearer a.stamp b.stamp

/-- A farther entry does not close a row that a nearer issuable entry hits. -/
def Landing.mayClose (l : Landing) (cands : List Access) (x : Cand) : Bool :=
  let q := l.seq
  x.want.cmd != .pre || x.acc.emergency || !(cands.any fun b =>
    let d := coordOf q.geom b.addr
    d.sub == x.want.sub && d.rank == x.want.rank && d.bg == x.want.bg && d.bank == x.want.bank && d.row == x.want.row &&
      !l.arb.nearerAcc x.acc b)

/-- The RAA count of a bank (R228). -/
def Mnt.raaOf (m : Mnt) (k : Nat × Nat × Nat × Nat) : Nat := ((m.raa.find? fun e => e.1 == k).map (·.2)).getD 0

def ClaimKind.isAbo (k : ClaimKind) : Bool :=
  match k with
  | .aboRfm _ _ => true
  | _ => false

/-- No ACT to a bank whose count has reached MMT until its owed RFM has issued (R229), and none past the window of an open alert until its RFMs are
placed (R232). -/
def State.actAllowed (s : State) (l : Nat) (w : Want) : Bool :=
  let x := s.land l
  w.cmd != .act ||
    ((!(s.lv l 0x600).getLsbD 3 || (decide (x.mnt.raaOf (w.sub, w.rank, w.bg, w.bank) < fld (s.lv l 0x610) 19 10) &&
        !x.mnt.raaStop.contains (w.sub, w.rank, w.bg, w.bank))) &&
      !(match x.mnt.abo with
        | some a => a.actStopped && (!a.presented || x.claimed ClaimKind.isAbo)
        | none => false))

/-! ## Claims (R186) -/

/-- The next command of a granted claim: close the banks it needs, then the command itself. -/
def Seq.claimNext (q : Seq) (k : ClaimKind) : Option Want :=
  let any (s r : Nat) (p : OpenRow → Bool) : Bool := q.rows.any fun o => o.sub == s && o.rank == r && p o
  let one (c : Cmd) (s r b : Nat) : Want := { cmd := c, sub := s, rank := r, bg := 0, bank := b, row := 0, col := 0 }
  let sb (c : Cmd) (s r b : Nat) : Option Want := some (q.wake (if any s r (fun o => o.bank == b) then one .preSb s r b else one c s r b))
  let ab (c : Cmd) (s r : Nat) : Option Want := some (q.wake (if any s r (fun _ => true) then one .preAb s r 0 else one c s r 0))
  match k with
  | .refAb s r => ab .refAb s r
  | .rfmAb s r => ab .rfmAb s r
  | .drfmAb s r => ab .drfmAb s r
  | .aboRfm s r => ab .rfmAb s r
  | .refSb s r b => sb .refSb s r b
  | .rfmSb s r b => sb .rfmSb s r b
  | .drfmSb s r b => sb .drfmSb s r b
  | .zqStart s r => some (q.wake (one .zqStart s r 0))
  | .zqLatch s r => some (q.wake (one .zqLatch s r 0))
  | .ecsRead s r => some (q.wake (one .mrr s r 0))
  | .retrain => none
  | .commit => none

/-! ## Choice (R161) -/

/-- The order among emergencies: refresh at its cap, then an Alert Back-Off (R226), then DBG (R133). -/
def Access.rankUrgent (a : Access) : Nat := if a.req = 12 then 2 else a.urgency

/-- Is `b` chosen before `a`: an emergency, then the sequence that holds the grant and the nearer stamp, then a row hit, then on
MRDIMM with two modules a burst that stays on the module of the last one (R174), then the older admission. -/
def Cand.before (arb : Arb) (lastSlot : Option Nat) (g : Geom) (b a : Cand) : Bool :=
  if b.acc.emergency != a.acc.emergency then b.acc.emergency
  else if b.acc.emergency && b.acc.rankUrgent != a.acc.rankUrgent then decide (b.acc.rankUrgent < a.acc.rankUrgent)
  else if arb.owns b.acc != arb.owns a.acc then arb.owns b.acc
  else if b.acc.stamp ≠ a.acc.stamp then nearer b.acc.stamp a.acc.stamp
  else if b.hit != a.hit then b.hit
  else
    let stays (x : Cand) : Bool := match lastSlot with
      | some t => g.slot x.want.rank == t
      | none => true
    if g.mrd && g.dpc2 && b.want.cmd.isCas && a.want.cmd.isCas && stays b != stays a then stays b
    else decide (b.acc.adm < a.acc.adm)

/-- The best of a list in order. -/
def bestCand (arb : Arb) (lastSlot : Option Nat) (g : Geom) (l : List Cand) : Option Cand :=
  l.foldl (fun m c => match m with
    | none => some c
    | some x => if c.before arb lastSlot g x then some c else some x) none

/-- The nearest of some candidates. -/
def nearestOf (arb : Arb) (l : List Cand) : Option Cand :=
  l.foldl (fun m c => match m with
    | none => some c
    | some x => if arb.nearerAcc c.acc x.acc then some c else some x) none

/-! ## Direction (R164–R166) -/

/-- Some deadline entry of one direction is nearer than the nearest of the other: a turn that it requires knows no batch minimum
(R165). -/
def deadlineTurns (arb : Arb) (dl : Bool) (mine : List Cand) (other : Cand) : Bool :=
  dl && mine.any fun y => y.acc.dl && arb.nearerAcc y.acc other.acc

/-- The direction of a subchannel after the tests at an edge: true for writes. `reads` and `writes` are the entries of each kind
issuable at some edge of the plan, in every respect but the turn; `rNow` and `wNow` say that a burst of one is at this edge. -/
def turnTo (arb : Arb) (dir dl flood : Bool) (wq hi lo batch minBatch : Nat) (reads writes : List Cand) (rNow wNow : Bool) : Bool :=
  match nearestOf arb reads, nearestOf arb writes with
  | none, none => dir
  | some _, none => dir && !rNow
  | none, some _ => dir || wNow
  | some a, some b =>
    let full := decide (minBatch ≤ batch)
    if !dir then
      wNow && (flood || decide (hi ≤ wq) || (arb.nearerAcc b.acc a.acc && (full || deadlineTurns arb dl writes a)))
    else if flood then true
    else !(rNow && (decide (wq ≤ lo) || (arb.nearerAcc a.acc b.acc && (full || deadlineTurns arb dl reads b))))

/-! ## Placing -/

/-- The last CAS of a subchannel. -/
def lastCas (hist : List Issued) (sub : Nat) : Option Issued :=
  (hist.filter fun e => e.sub == sub && e.cmd.isCas).foldl (fun m e => match m with
    | none => some e
    | some x => if x.edge ≤ e.edge then some e else some x) none

/-- The tread that holds an edge. -/
def treadOfEdge (rate k : Nat) : Nat := if rate = 0 then 0 else k * 125 / rate

/-- The CCLK cycle of an edge. -/
def cycleOfEdge (rate k : Nat) : Nat := cdiv (k * 4000) (max 1 rate)

/-- The rows of a rank after a command. -/
def Seq.rowsAfter (q : Seq) (w : Want) (n : Nat) : List OpenRow :=
  let hit (o : OpenRow) : Bool := o.sub == w.sub && o.rank == w.rank && (w.cmd.allBanks || (o.bank == w.bank && (w.cmd.oneIndex || o.bg == w.bg)))
  match w.cmd with
  | .act => q.rows ++ [{ sub := w.sub, rank := w.rank, bg := w.bg, bank := w.bank, row := w.row, used := n }]
  | .rd => mapIf hit (fun o => { o with used := n }) q.rows
  | .wr => mapIf hit (fun o => { o with used := n }) q.rows
  | .mrr => q.rows
  | .mrw => q.rows
  | .mpc => q.rows
  | .zqStart => q.rows
  | .zqLatch => q.rows
  | .pdEnter => q.rows
  | .pdExit => q.rows
  | _ => q.rows.filter fun o => !hit o

/-- What goes with a placed command: the access, claim or hint it serves, and what the Maintenance Unit counted for it. -/
structure Served where
  acc : Option Nat
  emergency : Bool
  line : BitVec 640
  claim : Option Access
  hint : Option Access
  counted : Bool
  sampled : Bool

/-- A command that serves nothing of the queues. -/
def Served.own : Served :=
  { acc := none, emergency := false, line := 0, claim := none, hint := none, counted := false, sampled := false }

/-- A command that serves a queue entry. -/
def Served.entry (a : Access) (line : BitVec 640) : Served := { Served.own with acc := some a.id, emergency := a.emergency, line := line }

/-- A command that serves a claim. -/
def Served.ofClaim (a : Access) : Served := { Served.own with claim := some a, emergency := a.emergency }

/-- Record a placed command: the plan, the timers and the rows. A precharge of a sampled row, an auto-precharge too, carries the
DRFM sampling indication (R231). -/
def State.record (s : State) (l k n : Nat) (w : Want) (v : Served) : State :=
  let ck := s.ckList l
  let q := (s.land l).seq
  let after := q.rowsAfter w n
  let closed := if w.cmd.isPre || w.cmd == .rda || w.cmd == .wra then q.rows.filter fun o => !after.contains o else []
  let named (e : (Nat × Nat × Nat × Nat) × Nat) : Bool := closed.any fun o => e == ((o.sub, o.rank, o.bg, o.bank), o.row)
  let sample := (s.land l).mnt.drfmRows.any named
  let s := if sample then s.modMnt l fun m => { m with drfmRows := m.drfmRows.filter fun e => !named e } else s
  s.modSeq l fun q =>
    { q with planNext := q.planNext ++ [{ edge := k, cmd := w.cmd, sub := w.sub, rank := w.rank, bg := w.bg, bank := w.bank
                                          row := w.row, col := w.col, acc := v.acc, emergency := v.emergency, line := v.line
                                          claim := v.claim, hint := v.hint, cs := rankCs w.rank, cid := rankCid w.rank, dpar := w.dpar
                                          sample := sample, closed := closed, woke := w.cmd == .pdExit, counted := v.counted
                                          sampled := v.sampled }]
             hist := q.hist ++ [{ edge := k, cmd := w.cmd, sub := w.sub, rank := w.rank, bg := w.bg, bank := w.bank, row := w.row, ck := ck }]
             rows := after
             pd := if w.cmd = .pdExit then q.pd.filter fun e => !(e.1 == w.sub && e.2 == w.rank) else q.pd }

/-- The banks of a refreshing command lose its decrement of their RAA counts (R228). -/
def Mnt.relieve (m : Mnt) (sub rank : Nat) (bank : Option Nat) (d : Nat) : Mnt :=
  { m with raa := (m.raa.map fun e =>
      if e.1.1 == sub && e.1.2.1 == rank && (match bank with
        | some b => e.1.2.2.2 == b
        | none => true) then (e.1, e.2 - d) else e).filter fun e => e.2 ≠ 0 }

/-- What an RFM of a rank, or of one bank index of it, settles: the counts fall by IMT, the RFMs owed to its banks are paid, and a
bank that had reached MMT may take ACTs again (R228, R229). -/
def Mnt.rfmDone (m : Mnt) (sub rank : Nat) (bank : Option Nat) (imt : Nat) : Mnt :=
  let mine (k : Nat × Nat × Nat × Nat) : Bool := k.1 == sub && k.2.1 == rank && (match bank with
    | some b => k.2.2.2 == b
    | none => true)
  { m.relieve sub rank bank imt with owedRfm := m.owedRfm.filter (fun e => !mine e.1), raaStop := m.raaStop.filter fun k => !mine k }

/-- What a DRFM settles (R231). -/
def Mnt.drfmDone (m : Mnt) (sub rank : Nat) (bank : Option Nat) : Mnt :=
  { m with owedDrfm := m.owedDrfm.filter fun e => !(e.1.1 == sub && e.1.2.1 == rank && (match bank with
      | some b => e.1.2.2.2 == b
      | none => true)) }

/-- An ACT counts in its bank's RAA count and may be sampled for DRFM: a count that reaches IMT owes the bank an RFM, and one that
reaches MMT stops its ACTs (R228, R229, R231). The answers say whether it was counted, and newly sampled. -/
def State.countAct (s : State) (l : Nat) (w : Want) : Bool × Bool × State :=
  let key := (w.sub, w.rank, w.bg, w.bank)
  let ctl := s.lv l 0x600
  let n := (s.land l).mnt.raaOf key + 1
  let stop := decide (fld (s.lv l 0x610) 19 10 ≤ n)
  let owes := decide (fld (s.lv l 0x610) 9 0 ≤ n)
  let rfm := ctl.getLsbD 3
  let now := s.now
  let s := if rfm then s.modMnt l fun m =>
      { m with raa := setCount m.raa key n
               owedRfm := if owes && !(m.owedRfm.any fun e => e.1 == key) then m.owedRfm ++ [(key, now)] else m.owedRfm
               raaStop := if stop && !m.raaStop.contains key then m.raaStop ++ [key] else m.raaStop }
    else s
  if ctl.getLsbD 4 then
    let (hit, s) := s.draw (fld (s.lv l 0x614) 3 0)
    let new := hit && !(s.land l).mnt.owedDrfm.any fun e => e.1 == key
    (rfm, new, if hit then s.modMnt l fun m =>
        { m with owedDrfm := if new then m.owedDrfm ++ [(key, s.now)] else m.owedDrfm
                 drfmRows := (m.drfmRows.filter fun e => e.1 != key) ++ [(key, w.row)] }
      else s)
  else (rfm, false, s)

/-- Record a command whose ACT, if it is one, is counted. -/
def State.recordAct (s : State) (l k n : Nat) (w : Want) (v : Served) : State :=
  if w.cmd = .act then
    let (counted, sampled, s) := s.countAct l w
    s.record l k n w { v with counted := counted, sampled := sampled }
  else s.record l k n w v

/-- The refresh instance of a rank starts in the tread in which its first refresh command is placed (R33, R211, R212, R219): its
next due time, and part two half a flight later where same-bank refresh needs it. Late and emergency starts are counted. -/
def State.startRefresh (s : State) (l sub rank : Nat) (emergency : Bool) : State :=
  let i := 8 * sub + rank
  let t := s.tread
  let m := (s.land l).mnt
  match m.ref[i]? with
  | none => s
  | some r =>
    if !r.presented then s
    else
      let f := m.flight
      let late := decide (r.sched.ideal < t)
      let sched := schedStart f (f / 4) ((f + 1) / 2) t r.sched
      let two := if m.sameBank && (s.land l).seq.geom.bank4 then some (t + f / 2) else none
      let s := (s.modMnt l fun m =>
        { m with ref := m.ref.setIfInBounds i { sched := sched, partTwo := two, presented := false } }).bumpL l 0x680 1
      let s := if emergency then s.bumpL l 0x688 1 else s
      if late then s.bumpL l 0x684 1 else s

/-- The ZQ instance of a Landing starts (R240). -/
def State.startZq (s : State) (l : Nat) : State :=
  if !(s.land l).mnt.zqWaiting then s
  else
    let w := s.lv l 0x628
    let bf := s.blockFlight
    s.modMnt l fun m =>
      { m with zqWaiting := false, zq := schedStart (fld w 9 0 * bf) (fld w 19 10 * bf) (fld w 29 20 * bf) s.tread m.zq }

/-- What the Maintenance Unit learns of a claim whose command is placed. Part two of a same-bank instance, bank indices 2 and 3,
starts no instance (R212, R219). -/
def State.claimPlaced (s : State) (l k : Nat) (emergency : Bool) (kind : ClaimKind) : State :=
  let rfm := s.lv l 0x610
  let dec := fld rfm 29 20
  let imt := fld rfm 9 0
  match kind with
  | .refAb b r => (s.startRefresh l b r emergency).modMnt l fun m => m.relieve b r none dec
  | .refSb b r x => (if x < 2 then s.startRefresh l b r emergency else s).modMnt l fun m => m.relieve b r (some x) dec
  | .rfmAb b r => (s.modMnt l fun m => m.rfmDone b r none imt).bumpL l 0x690 1
  | .rfmSb b r x => (s.modMnt l fun m => m.rfmDone b r (some x) imt).bumpL l 0x690 1
  | .drfmAb b r => (s.modMnt l fun m => m.drfmDone b r none).bumpL l 0x694 1
  | .drfmSb b r x => (s.modMnt l fun m => m.drfmDone b r (some x)).bumpL l 0x694 1
  | .aboRfm b r => s.modMnt l fun m => m.rfmDone b r none imt
  | .zqStart b r =>
    let due := cycleOfEdge (s.land l).seq.geom.rate (k + (s.ckList l).getD 31 0)
    (s.startZq l).modMnt l fun m => { m with zqOpen := m.zqOpen ++ [(b, r, due)] }
  | .zqLatch b r => s.modMnt l fun m => { m with zqOpen := m.zqOpen.filter fun e => !(e.1 == b && e.2.1 == r) }
  | _ => s

/-- The first bank-level command of a window fixes the tread in which all of them are placed in deadline mode (R223). -/
def State.noteWindow (s : State) (l n : Nat) (a : Access) : State :=
  if (a.row == 1 || a.row == 2) && (s.land l).mnt.winPlan.isNone then s.modMnt l fun m => { m with winPlan := some n } else s

/-- Place the next command of a claim at edge `k` of tread `n`. A claim whose command an alert has discarded (`ready`) is only
placed again. -/
def State.placeClaim (s : State) (l k n : Nat) (a : Access) (kind : ClaimKind) (w : Want) : State :=
  let s := (s.noteWindow l n a).record l k n w (Served.ofClaim a)
  if w.cmd.isPre || w.cmd == .pdExit then s
  else (if a.ready then s else s.claimPlaced l k a.emergency kind).modSeq l fun q => { q with claims := q.claims.filter fun e => e.id != a.id }

/-- The overhead in CK of a CAS: the gap of a turn or of a rank or slot change (R175). -/
def casOverhead (g : Geom) (ck : List Nat) (last : Option Issued) (w : Want) : Nat :=
  match last with
  | none => 0
  | some e =>
    let gap := casGap g ck e.cmd w.cmd e.rank w.rank e.bg w.bg
    let turn := e.cmd.isWrite != w.cmd.isWrite
    (if turn then gap else 0) + (if g.switches e.rank w.rank then gap else 0)

/-- Add to the cost of a deadline access not yet issued. -/
def State.addCost (s : State) (l : Nat) (a : Access) (ck : Nat) : State :=
  if ck = 0 || !a.dl || !s.dlMode l then s
  else s.modSeq l fun q => { q with costs := setCount q.costs a.id (((q.costs.find? fun e => e.1 == a.id).map (·.2)).getD 0 + ck) }

/-- A subchannel's data bus faces a direction: a change is a turn (R164, R170). -/
def State.faceBus (s : State) (l sub : Nat) (dir : Bool) : State :=
  let q := (s.land l).seq
  if (if sub = 0 then q.dirA else q.dirB) == dir then s
  else (s.modSeq l fun q => { (if sub = 0 then { q with dirA := dir } else { q with dirB := dir }) with
      batch := q.batch.setIfInBounds sub 0 }).bumpL l 0x420 1

/-- The scrub step of a Landing starts with the placing of its own first read (R33, R237). -/
def State.scrubPlaced (s : State) (l : Nat) (a : Access) : State :=
  if a.client = .scrub && a.stamp == stampOf (16 * (s.land l).mnt.scrub.next) then s.startScrub l else s

/-- The burst of an access is placed: it leaves its queue, its tag joins the cached tag line, its charge is noted, and the
bus counts follow (R170, R175). -/
def State.placeCas (s : State) (l k n : Nat) (x : Cand) : State :=
  let a := x.acc
  let w := x.want
  let q := (s.land l).seq
  let g := q.geom
  let ck := s.ckList l
  let last := lastCas q.hist w.sub
  let s := (s.faceBus l w.sub w.cmd.isWrite).addCost l a (casOverhead g ck last w)
  let cost := (((s.land l).seq.costs.find? fun e => e.1 == a.id).map (·.2)).getD 0
  let ends := treadOfEdge g.rate (k + (if w.cmd.isWrite then ck.getD 37 0 else ck.getD 36 0) + 8)
  let s := s.modSeq l fun q =>
    { q with costs := q.costs.filter fun e => e.1 != a.id
             charges := if cost = 0 then q.charges else q.charges ++ [(ends, cdiv cost 4)]
             batch := q.batch.setIfInBounds w.sub ((q.batch[w.sub]?).getD 0 + 1) }
  if w.cmd.isWrite then
    let s := match a.tagAt, a.tag with
      | some t, some v => s.editMeta (metaGal t.1) .tag t.1 fun y => setTagSlot y t.2 v
      | _, _ => s
    let s := s.modSeq l fun q => { q with wq := q.wq.filter (fun e => e.id != a.id), wrote := q.wrote ++ [(n, a)] }
    s.record l k n w (Served.entry a (encodeLine g.x8 a.poison a.stored))
  else
    let s := s.scrubPlaced l a
    let s := s.modSeq l fun q => { q with rq := q.rq.filter (fun e => e.id != a.id), inflight := q.inflight ++ [a] }
    s.record l k n w (Served.entry a 0)

/-- The edge before which the ACTs of a rank hold an ACT back: tRC, tRRD and tFAW (R175). -/
def Seq.actFrom (q : Seq) (w : Want) : Nat :=
  earliest q.geom (q.hist.filter fun e => e.cmd == .act && e.rank == w.rank) w

/-- Place the command of a queue entry. `from_` is the first edge of the plan. -/
def State.placeEntry (s : State) (l k n from_ : Nat) (x : Cand) : State :=
  let w := x.want
  if w.cmd.isCas then s.placeCas l k n x
  else
    let ck := s.ckList l
    let s := if w.cmd = .pre then (s.bumpL l 0x428 1).addCost l x.acc (ck.getD 1 0)
      else if w.cmd = .act then s.addCost l x.acc ((s.land l).seq.actFrom w - from_)
      else s
    s.recordAct l k n w (Served.entry x.acc 0)

/-- At the end of a plan, the wait of a deadline access whose ACT the plan could not take is added to its cost (R175). -/
def State.chargeWaits (s : State) (l lo hi : Nat) : State :=
  if !s.dlMode l then s
  else
    ((s.land l).seq.rq ++ (s.land l).seq.wq).foldl (fun s a =>
      let q := (s.land l).seq
      let w := (q.next 0 [] a).want
      if w.cmd = .act then s.addCost l a (min hi (q.actFrom w) - lo) else s) s

/-! ## One edge of one subchannel -/

/-- A claim's command touches a bank that a repair holds: it waits, an emergency too (R265). -/
def State.wantHeld (s : State) (l : Nat) (w : Want) : Bool :=
  s.misc.repairs.any fun r => s.bankHeld l r.coord && r.landing == l && r.coord.sub == w.sub && r.coord.rank == w.rank &&
    (w.cmd.allBanks || r.coord.bank == w.bank)

/-- The refresh of a rank's next instance waits until part two of the last one has been placed (R212, R213). -/
def State.afterPartTwo (s : State) (l : Nat) (kind : ClaimKind) : Bool :=
  let x := s.land l
  let waits (b r : Nat) : Bool := ((x.mnt.ref[8 * b + r]?).any fun e => e.presented) && x.claimed fun k => match k with
    | .refSb b' r' y => b' == b && r' == r && decide (2 ≤ y)
    | _ => false
  match kind with
  | .refSb b r y => decide (y < 2) && waits b r
  | .refAb b r => waits b r
  | _ => false

/-- The next command of a claim that may be placed in the plan of tread `n`. -/
def State.claimWant (s : State) (l n : Nat) (a : Access) : Option Want :=
  match a.claimKind with
  | none => none
  | some k =>
    if s.nextWindow l n a || (!a.ready && s.afterPartTwo l k) then none
    else ((s.land l).seq.claimNext k).filter fun w => !s.wantHeld l w

/-- A command that starts at edge `k` ends before the edge `hi` (R29). -/
def Want.fits (w : Want) (k hi : Nat) : Bool := decide (k + w.cmd.edges ≤ hi)

/-- The claims of a subchannel whose next command is legal at an edge of a plan that ends at `hi`. -/
def State.claimsAt (s : State) (l n k hi sub : Nat) : List Cand :=
  let q := (s.land l).seq
  q.claims.filterMap fun a =>
    match s.claimWant l n a with
    | some w => if w.sub = sub ∧ w.fits k hi ∧ earliest q.geom q.hist w ≤ k then some { want := w, acc := a, hit := false } else none
    | none => none

/-- The first edge at which a command is legal in every respect but a turn of the bus. -/
def Seq.legalFrom (q : Seq) (w : Want) : Nat :=
  earliest q.geom (if w.cmd.isCas then q.hist.filter fun e => !(e.cmd.isCas && e.cmd.isWrite != w.cmd.isWrite) else q.hist) w

/-- No burst falls into the quiet interval of a calibration commit (R186). -/
def State.burstFree (s : State) (l k : Nat) (w : Want) : Bool :=
  !w.cmd.isCas || decide ((s.land l).seq.stillTo ≤ k + (s.ckList l).getD (if w.cmd.isWrite then 37 else 36) 0)

/-- The issuable entries of a subchannel: their next command is legal at some edge from `k` to the plan's end `hi`, in every
respect but a turn (R161). -/
def State.entriesAt (s : State) (l n k hi sub : Nat) : List Cand :=
  let q := (s.land l).seq
  let all := s.issuable l n sub
  let page := fld (s.lv l 0x400) 1 0
  (all.map fun a => q.next page (q.rq ++ q.wq) a).filter fun x =>
    s.actAllowed l x.want && (s.land l).mayClose all x && x.want.fits (max k (q.legalFrom x.want)) hi

/-- Turn a subchannel at an edge (R164–R166). `now` are the entries legal at this very edge but for the turn. -/
def State.turnAt (s : State) (l sub : Nat) (entries now : List Cand) : State :=
  let x := s.land l
  let q := x.seq
  let dir := if sub = 0 then q.dirA else q.dirB
  let reads := entries.filter fun x => !x.acc.isWr
  let writes := entries.filter fun x => x.acc.isWr
  let wq := s.lv l 0x404
  let hi := fld wq 6 0
  let flood := ((q.flood[sub]?).getD false && decide (hi < q.wqUsed)) || (decide (64 ≤ q.wqUsed) && !writes.isEmpty)
  let new := turnTo x.arb dir (s.dlMode l) flood q.wqUsed hi (fld wq 14 8) ((q.batch[sub]?).getD 0) (fld (s.lv l 0x400) 23 16) reads writes
    (now.any fun x => x.want.cmd.isRead) (now.any fun x => x.want.cmd.isWrite)
  (s.modSeq l fun q => { q with flood := q.flood.setIfInBounds sub flood }).faceBus l sub new

/-- R165: a deadline command waits only for the bus to turn, so no farther burst goes in the other direction. -/
def blockedByTurn (arb : Arb) (dl : Bool) (now : List Cand) (x : Cand) : Bool :=
  dl && x.want.cmd.isCas && now.any fun y =>
    y.acc.dl && y.want.cmd.isCas && y.want.cmd.isWrite != x.want.cmd.isWrite && arb.nearerAcc y.acc x.acc

/-- The first edge at which the bank of a queue entry can take its ACT, its precharge included. -/
def Seq.actReady (q : Seq) (tRp : Nat) (a : Access) : Option Nat :=
  let c := coordOf q.geom a.addr
  let w : Want := { cmd := .act, sub := c.sub, rank := c.rank, bg := c.bg, bank := c.bank, row := c.row, col := 0 }
  match q.rowAt c.sub c.rank c.bg c.bank with
  | none => some (earliest q.geom q.hist w)
  | some o =>
    if o.row = c.row then none
    else some (max (earliest q.geom q.hist w) (earliest q.geom q.hist { w with cmd := .pre } + tRp))

/-- An ACT at an edge delays the ACT of a queued access (R184). -/
def Seq.delaysAct (q : Seq) (ck : List Nat) (k : Nat) (w : Want) : Bool :=
  let later : Seq := { q with hist := q.hist ++ [{ edge := k, cmd := w.cmd, sub := w.sub, rank := w.rank, bg := w.bg, bank := w.bank, row := w.row, ck := ck }] }
  (q.rq ++ q.wq).any fun b => match q.actReady (ck.getD 1 0) b, later.actReady (ck.getD 1 0) b with
    | some t, some t' => decide (max k t < t')
    | _, _ => false

/-- A maintenance claim works on the rank: one is granted and not placed, or its ZQCal Latch is outstanding. -/
def Landing.inClaim (x : Landing) (sub rank : Nat) : Bool :=
  (x.mnt.zqOpen.any fun e => e.1 == sub && e.2.1 == rank) || x.seq.claims.any fun a => match a.claimKind with
    | some k => (List.range 4).any fun b => k.covers { sub := sub, rank := rank, bg := 0, bank := b, row := 0, col := 0 }
    | none => false

/-- The plans that a hint has seen. -/
def Seq.hintPlans (q : Seq) (id : Nat) : Nat := ((q.hintAge.find? fun e => e.1 == id).map (·.2)).getD 0

/-- An ACT for an open-row hint at an edge where nothing else issues, that delays no queued ACT, in one of the next two plans
(R184, R185). -/
def State.placeHint (s : State) (l k n hi sub : Nat) : State :=
  let x := s.land l
  let q := x.seq
  let want (c : Coord) : Want := { cmd := .act, sub := c.sub, rank := c.rank, bg := c.bg, bank := c.bank, row := c.row, col := 0 }
  let able (a : Access) : Bool :=
    let c := coordOf q.geom a.addr
    let w := want c
    c.sub == sub && decide (q.hintPlans a.id < 2) && (q.rowAt c.sub c.rank c.bg c.bank).isNone && !(q.pd.contains (c.sub, c.rank)) &&
      !x.inClaim c.sub c.rank && !s.placeFenced l a.addr && !s.bankHeld l c && s.actAllowed l w && w.fits k hi &&
      decide (earliest q.geom q.hist w ≤ k) && !q.delaysAct (s.ckList l) k w
  match q.hints.find? able with
  | none => s
  | some a =>
    let s := s.recordAct l k n (want (coordOf q.geom a.addr)) { Served.own with hint := some a }
    (s.modSeq l fun q => { q with hints := q.hints.filter (fun e => e.id != a.id), hintAge := q.hintAge.filter fun e => e.1 != a.id }).bumpL l 0x430 1

/-- Window work of a later row waits at an edge at which work of an earlier one can be placed (R222). -/
def rowsInOrder (cands : List Cand) : List Cand :=
  cands.filter fun x => x.acc.row = 0 || !cands.any fun y => y.acc.row != 0 && decide (y.acc.row < x.acc.row)

/-- Fill one edge of a subchannel, at most 48 commands to a plan that ends at edge `hi`. -/
def State.fillEdge (s : State) (l n from_ hi k sub : Nat) : State :=
  let q := (s.land l).seq
  if 48 ≤ (q.planNext.filter fun c => c.sub == sub).length ∨ k < q.quietTo then s
  else
    let claims := s.claimsAt l n k hi sub
    let entries := s.entriesAt l n k hi sub
    let now := entries.filter fun x => decide (q.legalFrom x.want ≤ k)
    let s := s.turnAt l sub entries now
    let x := s.land l
    let q := x.seq
    let dir := if sub = 0 then q.dirA else q.dirB
    let flood := (q.flood[sub]?).getD false
    let free := now.filter fun y =>
      (!y.want.cmd.isCas || y.want.cmd.isWrite == dir) && decide (earliest q.geom q.hist y.want ≤ k) &&
        !blockedByTurn x.arb (s.dlMode l) now y && s.burstFree l k y.want
    let slot := (lastCas q.hist sub).map fun e => q.geom.slot e.rank
    let cands := (rowsInOrder (claims ++ free)).filter fun y => !flood || y.acc.isWr || y.acc.emergency
    match bestCand x.arb slot q.geom cands with
    | none => if flood then s else s.placeHint l k n hi sub
    | some y =>
      match y.acc.claimKind with
      | some kd => s.placeClaim l k n y.acc kd y.want
      | none => s.placeEntry l k n from_ y

/-! ## Claims on the whole Landing -/

/-- The calibration commit of a Landing is placed: both buses carry no burst until the start of tread `t`, in which the values
load (R186, R339). -/
def State.quietUntil (s : State) (l t : Nat) : State :=
  (s.modCal l fun c => { c with staged := c.staged.map fun g => { g with placed := some t } }).modSeq l fun q =>
    { q with stillTo := max q.stillTo (firstEdge q.geom.rate t) }

/-- A retraining step takes the Landing for at most tRFCsb; a commit keeps both buses quiet for the next two treads
(R186, R339). -/
def State.wholeClaims (s : State) (l n : Nat) : State :=
  let q := (s.land l).seq
  let rate := q.geom.rate
  let ck := s.ckList l
  (q.claims.filter fun a => a.op == .claim .retrain || a.op == .claim .commit).foldl (fun s a =>
    let s := s.modSeq l fun q => { q with claims := q.claims.filter fun e => e.id != a.id }
    if a.op = .claim .retrain then
      (s.modSeq l fun q => { q with quietTo := firstEdge rate n + ck.getD 22 0 }).modCal l fun c =>
        { c with run := c.run.map fun r => { r with placed := true } }
    else s.quietUntil l (n + 2)) s

/-! ## The plan -/

/-- Tag lines that ready writes need come from DRAM as best-effort work. -/
def State.fetchTags (s : State) (l : Nat) : State :=
  (s.land l).seq.wq.foldl (fun s a => match a.tagAt, a.tag with
    | some t, some _ =>
      if (s.cached (metaGal t.1) .tag t.1).isSome then s
      else s.awaitTag t.1 a
    | _, _ => s) s

/-- The plan of a window's first tread is built: bank-level work that was not placed in it is left over for the next window
(R223). -/
def State.closeWindow (s : State) (l n : Nat) : State :=
  let m := (s.land l).mnt
  if s.dlMode l && m.winPlan == some n && !m.winFull && ((s.land l).seq.claims.any fun a => s.nextWindow l (n + 1) a) then
    (s.modMnt l fun m => { m with winFull := true }).bumpL l 0x6A8 1
  else s

/-- Build the plan of tread `n` (R178). -/
def State.buildPlan (s : State) (l n : Nat) : State :=
  let rate := (s.land l).seq.geom.rate
  let lo := firstEdge rate n
  let hi := firstEdge rate (n + 1)
  let s := (s.fetchTags l).wholeClaims l n
  let s := s.modSeq l fun q => { q with planTread := n, hist := q.hist.filter fun e => decide (lo ≤ e.edge + histReach) }
  let s := (List.range (hi - lo)).foldl (fun s i => s.fillEdge l n lo hi (lo + i) 1)
    ((List.range (hi - lo)).foldl (fun s i => s.fillEdge l n lo hi (lo + i) 0) s)
  ((s.chargeWaits l lo hi).closeWindow l n).modSeq l fun q =>
    { q with hintAge := q.hints.map fun a => (a.id, q.hintPlans a.id + 1) }

/-- A plan is built in RUN, and in DRAIN for the writes and owed refreshes; once per tread. -/
def State.plans (s : State) (l : Nat) : Bool :=
  let q := (s.land l).seq
  (q.lstate == .run || q.lstate == .drain) && q.geom.valid && q.planTread != s.tread + 1 && s.chip.coreOn

/-! ## Emergency placement (R181) -/

/-- The command as an issued one. -/
def PlanCmd.want (c : PlanCmd) : Want :=
  { cmd := c.cmd, sub := c.sub, rank := c.rank, bg := c.bg, bank := c.bank, row := c.row, col := c.col }

/-- The command serves an access or a claim. -/
def PlanCmd.servesAccess (c : PlanCmd) (a : Access) : Bool := c.acc == some a.id || (c.claim.map (·.id)) == some a.id

/-- A planned command conflicts with emergency work at edge `e`: neither may stand as near the other, or both are ACTs of one
rank. -/
def PlanCmd.conflicts (c : PlanCmd) (g : Geom) (ck : List Nat) (w : Want) (e : Nat) : Bool :=
  let as (k : Nat) (x : Want) : Issued := { edge := k, cmd := x.cmd, sub := x.sub, rank := x.rank, bg := x.bg, bank := x.bank, row := x.row, ck := ck }
  c.sub == w.sub && ((c.cmd == .act && w.cmd == .act && c.rank == w.rank) ||
    if c.edge ≤ e then decide (e < c.edge + gapOf g (as c.edge c.want) w) else decide (c.edge < e + gapOf g (as e w) c.want))

/-- The planned commands that emergency work at edge `e` removes, those from edge `k` on: the conflicting ones, and later ones of
a bank whose earlier command goes. -/
def conflictSet (g : Geom) (ck : List Nat) (cs : List PlanCmd) (w : Want) (k e : Nat) : List PlanCmd :=
  ((cs.filter fun c => decide (k ≤ c.edge)).mergeSort fun a b => decide (a.edge ≤ b.edge)).foldl (fun gone c =>
    if c.conflicts g ck w e || gone.any (fun d => d.sub == c.sub && d.rank == c.rank && meets d.cmd c.cmd d.bg d.bank c.bg c.bank)
    then gone ++ [c] else gone) []

/-- An access to the same line stands planned from edge `k` on: the emergency keeps the line's order and waits for it
(R159, R161). -/
def Seq.linePlanned (q : Seq) (a : Access) (k : Nat) : Bool :=
  (q.inflight ++ q.wrote.map (·.2)).any fun e => e.addr == a.addr && e.id != a.id &&
    (q.planNow ++ q.planNext).any fun c => decide (k ≤ c.edge) && c.acc == some e.id && (c.cmd.isRead || c.cmd.isWrite)

/-- The next command of emergency work that stands in the sequencer and that nothing holds back. -/
def State.urgentWant (s : State) (l k : Nat) (a : Access) : Option Want :=
  let q := (s.land l).seq
  match a.claimKind with
  | some _ => if q.claims.any fun e => e.id == a.id then s.claimWant l s.tread a else none
  | none =>
    if ((s.issuable l s.tread (coordOf q.geom a.addr).sub).any fun e => e.id == a.id) && !q.linePlanned a k
    then some (q.next (fld (s.lv l 0x400) 1 0) (q.rq ++ q.wq) a).want else none

/-- Place the commands of emergency work one after the other, each at its earliest edge from `k` on, before `limit`; `last` is the
first edge of the next tread. Conflicting commands return to their queues. -/
def State.placeUrgent (s : State) (l k last limit : Nat) (a : Access) : Nat → State
  | 0 => s
  | fuel + 1 =>
    match s.urgentWant l k a with
    | none => s
    | some w =>
      let q := (s.land l).seq
      let ck := s.ckList l
      let free := max k (earliest q.geom (q.hist.filter fun e => decide (e.edge < k) || (e.sub == w.sub && e.rank == w.rank &&
        (q.planNow ++ q.planNext).any fun c => c.edge == e.edge && c.sub == e.sub && c.servesAccess a)) w)
      let e := if free < last && last < free + w.cmd.edges then last else free
      if !w.fits e limit || !s.burstFree l e w then s
      else
        match conflictSet q.geom ck ((q.planNow ++ q.planNext).filter fun c => !c.servesAccess a) w k e with
        | c :: cs => (s.unplaceAll l (c :: cs)).placeUrgent l k last limit a fuel
        | [] =>
          let n := if e < last then s.tread else s.tread + 1
          let s := match a.claimKind with
            | some kd => s.placeClaim l e n a kd w
            | none => s.placeEntry l e n k { want := w, acc := a, hit := w.cmd.isCas }
          s.placeUrgent l k last limit a fuel

/-- Emergency work granted while a plan issues: from the fourth edge on it takes its place in the issuing plan, and in the plan
built after it where its own timing reaches that far. -/
def State.placeEmergency (s : State) (l : Nat) (a : Access) : State :=
  let q := (s.land l).seq
  if (q.lstate != .run && q.lstate != .drain) || !q.geom.valid || !s.chip.coreOn then s
  else
    let rate := q.geom.rate
    let k := edgeOfCycle rate s.chip.cycle + 4
    let last := firstEdge rate (s.tread + 1)
    let limit := if q.planTread = s.tread + 1 then firstEdge rate (s.tread + 2) else last
    let s := s.placeUrgent l k last limit a 12
    s.modSeq l fun q =>
      { q with planNow := q.planNow ++ q.planNext.filter (fun c => decide (c.edge < last))
               planNext := q.planNext.filter fun c => !(decide (c.edge < last)) }

/-! ## The rows -/

/-- `TREAD_PLAN`: the sequencer builds the plan of the next tread (R178). -/
def execTreadPlan (l : LandingId) (s : State) : Out :=
  if s.plans l then .next ((s.buildPlan l (s.tread + 1)).pump) else .next s

/-- An emergency that takes the Landing abandons the retraining step that holds it (R224, R333). -/
def State.breakStep (s : State) (l : Nat) : State :=
  let x := s.land l
  if x.cal.run.isSome && decide (edgeOfCycle x.seq.geom.rate s.chip.cycle < x.seq.quietTo) then
    (s.modSeq l fun q => { q with quietTo := 0 }).abortCal l 5
  else s

/-- `ARB_DECISION`: one cycle of a Landing's arbiter (R131, R132); an emergency granted while a plan issues is placed in it
(R181). -/
def execArbDecision (l : LandingId) (s : State) : Out :=
  let granted := (s.land l).arb.grantNext
  let s := s.arbitrate l
  match granted with
  | some a => if a.emergency && (s.land l).passes a then .next (((s.breakStep l).placeEmergency l a).pump) else .next s.pump
  | none => .next s.pump

end Sys2Proof.Machine
end

