-- ==== Sys2Proof/Machine/Maint.lean ====
section
/-! DEFINITION. The Maintenance Unit (R211–R244): what it presents and when: refresh with its emergency and part two, maintenance
windows, row protection, ZQ calibration, patrol scrub and ECS readout; heat decay (R395) and the leak of the device counts
(R259). -/

namespace Sys2Proof.Machine

/-! ## Presenting a claim (R186, R222) -/

/-- The Maintenance Unit works on a Landing that serves: RUN, or RETRY over a CA parity alert. -/
def State.mntRuns (s : State) (l : Nat) : Bool :=
  (s.land l).sbd.started && (s.land l).seq.geom.valid && ((s.land l).seq.lstate == .run || (s.land l).seq.lstate == .retry) &&
    s.chip.coreOn

/-- Refresh and row protection go on in DRAIN too, until the ranks are in self-refresh (R214). -/
def State.mntServes (s : State) (l : Nat) : Bool :=
  s.mntRuns l || ((s.land l).sbd.started && (s.land l).seq.geom.valid && (s.land l).seq.lstate == .drain && s.chip.coreOn)

/-- Present a claim as the MU requester, with a stamp or as an emergency. -/
def State.present (s : State) (l : Nat) (k : ClaimKind) (stamp : BitVec 32) (emergency : Bool) : State :=
  let (id, s) := s.fresh
  s.stage l { access id .own 11 stamp (.claim k) 0 with emergency := emergency }

/-- Claims that wait and satisfy `p` become emergencies. -/
def State.urge (s : State) (l : Nat) (p : ClaimKind → Bool) : State :=
  let up (a : Access) : Access := match a.claimKind with
    | some k => if p k then { a with emergency := true } else a
    | none => a
  let s := s.modArb l fun x => { x with staging := x.staging.map up, grantNext := x.grantNext.map up }
  (s.modSeq l fun q => { q with claims := q.claims.map up }).excuse l

/-- The claim refreshes the rank. -/
def ClaimKind.refreshes (sub rank : Nat) (k : ClaimKind) : Bool :=
  match k with
  | .refAb b r => b == sub && r == rank
  | .refSb b r _ => b == sub && r == rank
  | _ => false

/-- A storage place of a Landing lies in a fenced bank or rank, which row protection and scrub skip (R216). -/
def State.bankFenced (s : State) (l sub rank bg bank : Nat) : Bool :=
  s.flt.fences.any fun f => f.active && f.grain != .row &&
    f.covers l { sub := sub, rank := rank, bg := bg, bank := bank, row := 0, col := 0 }

/-! ## Windows (R222–R226) -/

/-- A window may begin now: in deadline mode no sooner than `DL_GAP` treads after the last began (R223). -/
def State.windowFree (s : State) (l : Nat) : Bool :=
  !s.dlMode l ||
    match (s.land l).mnt.lastWindow with
    | none => true
    | some t => t == s.tread || decide (t + fld (s.lv l 0x600) 15 8 ≤ s.tread)

/-- A feature holds the window of a Landing (R225). -/
def State.windowClaimed (s : State) (l : Nat) : Bool := (s.claimOf 1 l).isSome

/-- A window begins, or the one that began in this tread takes more work. -/
def State.openWindow (s : State) (l : Nat) : State :=
  let t := s.tread
  s.modMnt l fun m =>
    if m.lastWindow = some t then m
    else { m with lastWindow := some t, winPlan := none, winHold := 0, winRef := false, winFull := false, winScrub := false }

/-- The CK for which work of rows 3 and 5 may still hold the Landing in the window of this tread: tRFCsb altogether in deadline mode
(R223). -/
def State.holdLeft (s : State) (l : Nat) : Nat :=
  let m := (s.land l).mnt
  (s.ckList l).getD 22 0 - if m.lastWindow = some s.tread then m.winHold else 0

/-- Work of row 3 or 5 joins the window. -/
def State.holdWindow (s : State) (l ck : Nat) : State := s.modMnt l fun m => { m with winHold := m.winHold + ck }

/-! ## Refresh (R211–R219) -/

/-- The schedule of a rank. -/
def State.refOf (s : State) (l sub rank : Nat) : Option RefSched := ((s.land l).mnt.ref)[8 * sub + rank]?

def State.modRef (s : State) (l sub rank : Nat) (f : RefSched → RefSched) : State :=
  s.modMnt l fun m => match m.ref[8 * sub + rank]? with
    | some r => { m with ref := m.ref.setIfInBounds (8 * sub + rank) (f r) }
    | none => m

/-- Present the claims of an instance, or of its part one. -/
def State.presentInstance (s : State) (l sub rank : Nat) (r : RefSched) (emergency : Bool) : State :=
  let stamp := stampOf (16 * r.sched.next)
  let s := s.modRef l sub rank fun r => { r with presented := true }
  if (s.land l).mnt.sameBank then
    (s.present l (.refSb sub rank 0) stamp emergency).present l (.refSb sub rank 1) stamp emergency
  else s.present l (.refAb sub rank) stamp emergency

/-- Present part two of the instance that has started (R219). -/
def State.presentPartTwo (s : State) (l sub rank at_ : Nat) (emergency : Bool) : State :=
  let s := s.modRef l sub rank fun r => { r with partTwo := none }
  let stamp := stampOf (16 * at_)
  (s.present l (.refSb sub rank 2) stamp emergency).present l (.refSb sub rank 3) stamp emergency

/-- The instance of a rank is due and nothing of the one before it is outstanding (R212). -/
def State.refreshReady (s : State) (l sub rank : Nat) (r : RefSched) : Bool :=
  s.mntServes l && decide (rank < (s.land l).seq.geom.ranks) && !r.presented && r.partTwo.isNone &&
    !(s.land l).claimed (ClaimKind.refreshes sub rank) && decide (r.sched.next ≤ s.tread)

/-- Present the refresh of a rank when it is due, bringing its debt up to date. -/
def State.presentRefresh (s : State) (l sub rank : Nat) : State :=
  match s.refOf l sub rank with
  | none => s
  | some r =>
    if !s.refreshReady l sub rank r || !s.windowFree l then s
    else
      let r := { r with sched := schedOwe (s.land l).mnt.flight s.tread r.sched }
      (((s.modRef l sub rank fun _ => r).openWindow l).modMnt l fun m => { m with winRef := true }).presentInstance l sub rank r false

/-- Present every part two that is due. -/
def State.presentPartsTwo (s : State) (l : Nat) : State :=
  if !s.mntServes l || !s.windowFree l then s
  else
    (s.land l).rankList.foldl (fun s e =>
      match (s.refOf l e.1 e.2).bind (·.partTwo) with
      | some t => if t ≤ s.tread then ((s.openWindow l).modMnt l fun m => { m with winRef := true }).presentPartTwo l e.1 e.2 t false else s
      | none => s) s

/-- Emergency claims that the sequencer holds already are placed at once (R181, R213). -/
def State.placeUrged (s : State) (l : Nat) (p : ClaimKind → Bool) : State :=
  ((s.land l).seq.claims.filter fun a => a.emergency && (match a.claimKind with
    | some k => p k
    | none => false)).foldl (fun s a => (s.breakStep l).placeEmergency l a) s

/-- The emergency of a rank at its debt cap (R213): part two first, then the oldest owed instance. -/
def State.refreshEmergency (s : State) (l sub rank : Nat) : State :=
  match s.refOf l sub rank with
  | none => s
  | some r =>
    let r := { r with sched := schedOwe (s.land l).mnt.flight s.tread r.sched }
    let s := s.modRef l sub rank fun _ => r
    if !s.mntServes l || (s.land l).seq.geom.ranks ≤ rank || r.sched.debt < 4 then s
    else
      let s := (s.urge l (ClaimKind.refreshes sub rank)).placeUrged l (ClaimKind.refreshes sub rank)
      let s := match r.partTwo with
        | some t => s.presentPartTwo l sub rank t true
        | none => s
      if r.presented then s else s.presentInstance l sub rank r true

/-! ## The way into self-refresh (R190, R214) -/

/-- The commands that a rank's refresh still needs: what is left of the instance that has started, its part two, and every instance
owed (R213, R214). -/
def State.owedCmds (s : State) (l : Nat) (e : Nat × Nat) : List Want × Nat :=
  let x := s.land l
  let one (i : Nat) : Want := { rankWant .refSb e with bank := i }
  let left := (x.seq.claims ++ x.arb.grantNext.toList ++ x.arb.staging).filterMap fun a =>
    if x.unstarted a then none
    else match a.op with
      | .claim (.refSb b r i) => if (b, r) = e then some (one i) else none
      | .claim (.refAb b r) => if (b, r) = e then some (rankWant .refAb e) else none
      | _ => none
  match s.refOf l e.1 e.2 with
  | none => (left, 0)
  | some r =>
    let two := if r.partTwo.isSome then [one 2, one 3] else []
    let whole := if x.mnt.sameBank then (List.range x.seq.geom.banks).map one else [rankWant .refAb e]
    let d := (schedOwe x.mnt.flight s.tread r.sched).debt
    (left ++ two ++ (List.replicate d whole).flatten, d)

/-- A rank goes into self-refresh: it leaves POWER_DOWN, its banks are closed, every refresh that it owes is issued, and then the
entry (R190, R214). -/
def State.enterSr (s : State) (l : Nat) (e : Nat × Nat) : State :=
  let (ws, d) := s.owedCmds l e
  let ideal := ((s.refOf l e.1 e.2).map fun r => r.sched.ideal).getD 0
  let f := (s.land l).mnt.flight
  let late := ((List.range d).filter fun i => decide (ideal + i * f < s.tread)).length
  let dec := fld (s.lv l 0x610) 29 20
  let s := if (s.land l).seq.pd.contains e then s.issueOwn l (rankWant .pdExit e) else s
  let s := ws.foldl (fun s w => (s.issueOwn l w).modMnt l fun m => m.relieve e.1 e.2 (if w.cmd.oneIndex then some w.bank else none) dec)
    (s.closeRank l e)
  let s := if d = 0 then s else s.bumpL l 0x680 d
  let s := if late = 0 then s else s.bumpL l 0x684 late
  s.issueOwn l (rankWant .srEnter e)

/-- No Landing of a Gallery needs the PLL: each is in self-refresh, halted or fenced, and none is being trained (R296). -/
def State.idlePll (s : State) (g : Nat) : Bool :=
  (List.range 4).all fun i =>
    let x := s.land (4 * g + i)
    x.seq.lstate == .fenced || x.seq.lstate == .halt || (x.seq.lstate == .sr && !x.sbd.waiting)

/-- Every owed refresh is issued, every bank closed and every rank in self-refresh (R214). -/
def State.intoSelfRefresh (s : State) (l : Nat) : State :=
  let s := (s.land l).rankList.foldl (fun s e => s.enterSr l e) s
  let s := s.modMnt l fun m =>
    { m with abo := none, ref := m.ref.map fun r => { r with sched := { r.sched with debt := 0, merged := 0 }, partTwo := none, presented := false } }
  let s := s.modArb l fun a => { a with staging := a.staging.filter (fun y => !y.isClaim), grantNext := a.grantNext.filter fun y => !y.isClaim }
  let s := s.modPhy l fun p =>
    { p with mode := .deep, strValid := false, measured := false, running := false, firstSpan := true, slew := false, newTable := false
             leaving := [] }
  let final : LState := if s.chip.halted then .halt else if s.landFenced l then .fenced else .sr
  let s := s.modSeq l fun q => { q with lstate := final, rows := [], pd := [], claims := [], past := [], quietTo := 0, stillTo := 0 }
  let s := s.modLand l fun x => { x with drainFrom := none }
  if final != .sr && s.idlePll (l / 4) then s.modGal (l / 4) fun x => { x with pllLock := false } else s

/-! ## Row protection (R228–R231) -/

/-- The claim of an owed RFM or DRFM of a bank. -/
def rfmClaim (sb : Bool) (k : Nat × Nat × Nat × Nat) : ClaimKind :=
  if sb then .rfmSb k.1 k.2.1 k.2.2.2 else .rfmAb k.1 k.2.1
def drfmClaim (sb : Bool) (k : Nat × Nat × Nat × Nat) : ClaimKind :=
  if sb then .drfmSb k.1 k.2.1 k.2.2.2 else .drfmAb k.1 k.2.1

/-- Present every owed RFM and DRFM that is not presented yet; their stamps are the times at which they were owed. -/
def State.presentRows (s : State) (l : Nat) : State :=
  let sb := (s.lv l 0x610).getLsbD 30
  let one (mk : Nat × Nat × Nat × Nat → ClaimKind) (s : State) (e : (Nat × Nat × Nat × Nat) × Nat) : State :=
    if s.bankFenced l e.1.1 e.1.2.1 e.1.2.2.1 e.1.2.2.2 || (s.land l).claimed (· == mk e.1) then s
    else (s.openWindow l).present l (mk e.1) (stampOf e.2) false
  if !s.mntServes l || !s.windowFree l then s
  else
    let s := (s.land l).mnt.owedRfm.foldl (one (rfmClaim sb)) s
    (s.land l).mnt.owedDrfm.foldl (one (drfmClaim sb)) s

/-! ## ZQ calibration (R240) -/

def ClaimKind.isZq (k : ClaimKind) : Bool :=
  match k with
  | .zqStart _ _ => true
  | .zqLatch _ _ => true
  | _ => false

/-- Present the ZQCal Start of every rank: one instance of the Landing (R240). -/
def State.presentZq (s : State) (l : Nat) : State :=
  let x := s.land l
  if !s.mntRuns l || !s.windowFree l || s.windowClaimed l || !x.mnt.zqWaiting || x.claimed ClaimKind.isZq || !x.mnt.zqOpen.isEmpty then s
  else
    x.rankList.foldl (fun s e => s.present l (.zqStart e.1 e.2) (stampOf (16 * x.mnt.zq.next)) false) (s.openWindow l)

/-- Present the latch of a rank once the tZQCAL under which its Start was placed has passed (R207, R240). -/
def State.presentLatch (s : State) (l sub rank : Nat) : State :=
  let x := s.land l
  match x.mnt.zqOpen.find? fun e => e.1 == sub && e.2.1 == rank with
  | some e =>
    if !s.mntRuns l || !s.windowFree l || s.windowClaimed l || s.chip.cycle < e.2.2 || x.claimed (· == .zqLatch sub rank) then s
    else (s.openWindow l).present l (.zqLatch sub rank) (stampOf (e.2.2 / 2)) false
  | none => s

/-! ## Patrol scrub (R236–R238) -/

/-- Lines of a granule. -/
def granuleLines : Nat := granuleBytes / 64

/-- The first line at or after `pos` in the granules `gs` (ascending), and whether the search wrapped. -/
def nextLine (gs : List Nat) (pos : Nat) : Option (Nat × Bool) :=
  match gs.find? fun g => decide (pos / granuleLines ≤ g) with
  | some g => some (if g = pos / granuleLines then (pos, false) else (g * granuleLines, false))
  | none => gs.head?.map fun g => (g * granuleLines, true)

/-- A line that scrub skips: in a fenced bank or rank. -/
def State.scrubSkips (s : State) (l line : Nat) : Bool :=
  let c := s.coord l (64 * line)
  s.bankFenced l c.sub c.rank c.bg c.bank

/-- Up to `want` lines from a position: the lines, the next position and the passes completed. The pass ends with its last line. -/
def State.scrubLines (s : State) (l : Nat) (gs : List Nat) : Nat → Nat → Nat → List Nat → Nat → List Nat × Nat × Nat
  | 0, _, pos, acc, passes => (acc.reverse, pos, passes)
  | fuel + 1, want, pos, acc, passes =>
    match nextLine gs pos with
    | none => (acc.reverse, pos, passes)
    | some (line, wrapped) =>
      let passes := if wrapped then passes + 1 else passes
      if want = 0 then (acc.reverse, if wrapped then line else pos, passes)
      else if s.scrubSkips l line then s.scrubLines l gs fuel want (line + 1) acc passes
      else s.scrubLines l gs fuel (want - 1) (line + 1) (line :: acc) passes

/-- The lines of one batch: the whole step, or in deadline mode `DL_BATCH` lines, and no more than the window has room for, at
4 CK a line (R175, R223, R238). -/
def State.batchLines (s : State) (l owed : Nat) : Nat :=
  if s.dlMode l then min owed (min (fld (s.lv l 0x61C) 23 16) (s.holdLeft l / 4)) else owed

/-- The first owed scrub step has been served by some lines. -/
def Mnt.scrubServed (m : Mnt) (n : Nat) : Mnt :=
  { m with scrubOwed := match m.scrubOwed with
      | (d, k) :: rest => if k ≤ n then rest else (d, k - n) :: rest
      | [] => [] }

/-- Present a batch of the oldest owed step's reads, under the step's due time (R26, R238): one batch to a window. -/
def State.presentScrub (s : State) (l : Nat) : State :=
  let m := (s.land l).mnt
  match m.scrubOwed with
  | [] => s
  | (due, owed) :: _ =>
    if !s.mntRuns l || !s.windowFree l || s.windowClaimed l || (s.dlMode l && m.lastWindow == some s.tread && m.winScrub) then s
    else
      let gs := s.scrubGranules l
      let want := s.batchLines l owed
      let (lines, pos, passes) := s.scrubLines l gs (gs.length * granuleLines + want + 1) want m.scrubPos [] 0
      let s := lines.foldl (fun s line =>
        let (id, s) := s.fresh
        s.stage l (access id .scrub 11 (stampOf (16 * due)) .read (64 * line))) (s.openWindow l)
      let s := if passes = 0 then s else s.bumpL l 0x6A4 passes
      (s.holdWindow l (4 * want)).modMnt l fun m =>
        { m.scrubServed (if lines.isEmpty then owed else want) with scrubPos := pos, winScrub := true }

/-- A scrub step has fallen due (R34, R237): merged instances are counted, and its lines are owed. A step with nothing to read
starts at once. -/
def State.scrubDue (s : State) (l : Nat) : State :=
  let w := s.lv l 0x63C
  let step := fld (s.lv l 0x61C) 15 0
  let m := (s.land l).mnt
  let (sc, k) := schedMerge (fld w 2 0 * s.blockFlight) 16 s.tread m.scrub
  let lines := if m.scrubWait then step * k else step * (sc.merged + 1)
  let s := s.modMnt l fun m =>
    { m with scrub := sc, scrubWait := true, scrubOwed := if lines = 0 then m.scrubOwed else addAt m.scrubOwed sc.next lines }
  let s := if k = 0 then s else (s.bumpL l 0x68C k).bumpL l 0x10003 k
  if step = 0 ∨ (s.scrubGranules l).isEmpty then
    (s.startScrub l).modMnt l fun m => { m with scrubOwed := m.scrubOwed.filter fun e => e.1 != sc.next }
  else s

/-! ## The Landing's calibration work in a window (R222 row 3, R224) -/

def ClaimKind.isCal (k : ClaimKind) : Bool := k == .retrain || k == .commit

/-- The window of this tread holds refresh of row 1, or refresh presented in an earlier one still waits (R224). -/
def State.withRefresh (s : State) (l : Nat) : Bool :=
  let x := s.land l
  (x.mnt.lastWindow == some s.tread && x.mnt.winRef) ||
    (x.arb.staging ++ x.arb.grantNext.toList ++ x.seq.claims).any fun a => a.row == 1

/-- A wake runs the calibration of R328 before the Landing serves, so its self-refresh and PHY mode are no obstacle. -/
def State.wakeRun (s : State) (l : Nat) : Bool :=
  (s.land l).cal.woke && (match s.pwr.trans with
    | some t => t.stage == .wake
    | none => false)

/-- The code of the first precondition not met, none when a run or a step may start. -/
def State.calBlock (s : State) (l : Nat) : Option Nat :=
  let x := s.land l
  let wake := s.wakeRun l
  if !wake && (x.seq.lstate == .drain || x.seq.lstate == .halt || x.seq.lstate == .retry) then some 7
  else if !wake && x.seq.lstate != .run then some 1
  else if s.landFenced l then some 2
  else if !s.chip.pwrGood || x.sbd.slots.toList.any (fun m => match m with
      | some y => y.pmicBad
      | none => false) then some 3
  else if !wake && (x.phy.mode != .active) || !(s.gal (l / 4)).pllLock || !x.phy.strValid then some 4
  else if s.windowClaimed l then some 6
  else none

/-- A retraining step of a run in progress, or the commit of staged values, which needs refresh in the same window. In deadline mode
a step takes all that rows 3 and 5 may hold of the window, and a commit its two treads (R223). A step starts when it is due, every
precondition holds and no lane slews (R329, R331, R332). -/
def State.presentCal (s : State) (l : Nat) : State :=
  let x := s.land l
  if !s.mntRuns l || !s.windowFree l || s.windowClaimed l || x.claimed ClaimKind.isCal then s
  else
    let full := (s.ckList l).getD 22 0
    let quiet := 2 * x.seq.geom.rate / 125
    match x.cal.staged, x.cal.run with
    | some g, _ =>
      if g.placed.isNone && s.withRefresh l && (!s.dlMode l || decide (quiet ≤ s.holdLeft l)) then
        ((s.openWindow l).holdWindow l quiet).present l .commit (stampOf g.due) false
      else s
    | none, some r =>
      if decide (s.now < r.due) || x.phy.slew || (s.calBlock l).isSome then s
      else if !s.dlMode l || s.holdLeft l = full then ((s.openWindow l).holdWindow l full).present l .retrain (stampOf r.due) false else s
    | none, none => s

/-- Work of a Landing is due and has not been presented. -/
def State.leftOver (s : State) (l : Nat) : Bool :=
  let x := s.land l
  x.rankList.any (fun e => match s.refOf l e.1 e.2 with
    | some r => s.refreshReady l e.1 e.2 r || (match r.partTwo with
      | some t => decide (t ≤ s.tread)
      | none => false)
    | none => false) ||
  x.mnt.zqWaiting && !x.claimed ClaimKind.isZq || !x.mnt.scrubOwed.isEmpty ||
  (x.cal.staged.isSome || x.cal.run.isSome) && !x.claimed ClaimKind.isCal

/-- A window that leaves work over is counted, once (R223). Outside deadline mode a window has no limit. -/
def State.noteLeft (s : State) (l : Nat) : State :=
  let m := (s.land l).mnt
  if s.dlMode l && m.lastWindow == some s.tread && !m.winFull && s.leftOver l then
    (s.modMnt l fun m => { m with winFull := true }).bumpL l 0x6A8 1
  else s

/-- Bank-level work that an earlier window left in the sequencer opens one of its own (R223). -/
def State.takeLeft (s : State) (l : Nat) : State :=
  if (s.land l).seq.claims.any fun a => s.nextWindow l (s.tread + 1) a then s.openWindow l else s

/-- A maintenance window (R222): due work of every row in order. -/
def State.maintenanceWindow (s : State) (l : Nat) : State :=
  if !s.mntServes l || !s.windowFree l then s
  else
    let s := (s.land l).rankList.foldl (fun s e => s.presentRefresh l e.1 e.2) ((s.takeLeft l).presentPartsTwo l)
    let s := (s.presentRows l).presentCal l
    let s := s.presentZq l
    let s := (s.land l).mnt.zqOpen.foldl (fun s e => s.presentLatch l e.1 e.2.1) s
    (s.presentScrub l).noteLeft l

/-! ## ECS (R241, R242) -/

/-- Mode-register reads of every rank, under the readout's due time in `BLK_TIME` (R26), and the sum, threshold and worst rows of the counts they return: (subchannel, rank,
device, count, row). -/
def State.ecsReadout (s : State) (l due : Nat) (counts : List (Fin 2 × Fin 8 × Fin 10 × Nat × Nat)) : State :=
  let s := (s.land l).rankList.foldl (fun s e => s.present l (.ecsRead e.1 e.2) (stampOf due) false) (s.openWindow l)
  let limit := fld (s.lv l 0x62C) 31 16
  let here := counts.filter fun c => decide (c.2.1.val < (s.land l).seq.geom.ranks)
  let s := s.bumpL l 0x6AC ((here.map fun c => c.2.2.2.1).foldl (· + ·) 0)
  here.foldl (fun s c =>
    if limit < c.2.2.2.1 then
      let at0 : Coord := { sub := c.1.val, rank := c.2.1.val, bg := 0, bank := 0, row := c.2.2.2.2, col := 0 }
      (s.post 0x14 2 [at_ 0 l, at_ 0 c.2.1.val ||| at_ 8 c.1.val, at_ 0 c.2.2.1.val, at_ 0 c.2.2.2.2]).raise (repS 5 3 l at0) none
    else s) s

/-- The devices of the Landing run ECS: any mode but 00b. -/
def State.ecsOn (s : State) (l : Nat) : Bool := fld (s.lv l 0x600) 7 6 != 0

/-! ## Heat decay (R395) -/

/-- A heat line of a Gallery lies in the run of some hall. -/
def State.heatUsed (s : State) (g h : Nat) : Bool :=
  s.halls.any fun e => match lookupN e.2.heat g with
    | some b => decide (b ≤ h ∧ h < b + e.2.heatRun)
    | none => false

/-- Heat lines of an index in one Gallery. -/
def State.heatSlice (s : State) (g index : Nat) : List Nat :=
  let top := s.halls.foldl (fun m e => match lookupN e.2.heat g with
    | some b => max m (b + e.2.heatRun)
    | none => m) 0
  ((List.range (cdiv top 16384)).map fun k => k * 16384 + index).filter fun h => s.heatUsed g h

/-- Halve one heat line: in the cache, or read, halved and written as best effort. -/
def State.halveLine (s : State) (g h : Nat) : State :=
  let lpa := (s.gal g).heatLpa g h
  let w := s.heatWidth g h
  match s.cached g .heat lpa with
  | some _ => s.halveCached g lpa w
  | none =>
    let (_, s) := s.needMeta g .heat lpa none (beStamp s.now) false 9
    let add (f : MetaFetch) : MetaFetch := { f with adds := f.adds ++ [(w, 0, none)] }
    s.modGal g fun x => { x with fetches := mapIf (fun f => f.kind == .heat && f.lpa == lpa) add x.fetches }

/-- A decay step with every step merged into it. -/
def State.heatDecay (s : State) : State :=
  let w := s.gv 0 0x5008
  let period := fld w 2 0 * s.blockFlight
  let (sc, k) := schedMerge period 64 s.tread s.misc.heat
  let n := sc.merged + 1
  let first := s.misc.heatIndex
  let s := s.modMisc fun m =>
    { m with heat := schedStart period (fld w 12 3) (fld w 22 13) s.tread sc, heatIndex := (first + n) % 16384 }
  let s := if k = 0 then s else eachBelow s.nGal (fun g s => s.bumpG g 0x100004 k) s
  (List.range n).foldl (fun s i =>
    eachBelow s.nGal (fun g s => (s.heatSlice g ((first + i) % 16384)).foldl (fun s h => s.halveLine g h) s) s) s

/-! ## The rows -/

/-- `REFRESH_DUE`: a rank's refresh instance falls due: a window opens with it, and takes whatever else is due (R212, R222). -/
def execRefreshDue (l : LandingId) (sub : Fin 2) (rank : Fin 8) (s : State) : Out :=
  match s.refOf l sub rank with
  | some r => if s.refreshReady l sub rank r then .next (s.maintenanceWindow l) else .next s
  | none => .next s

/-- `REFRESH_EMERGENCY`: the debt of a rank has reached 4 (R213). -/
def execRefreshEmergency (l : LandingId) (sub : Fin 2) (rank : Fin 8) (s : State) : Out := .next (s.refreshEmergency l sub rank)

/-- `REFRESH_PART_TWO`: part two of the Landing's same-bank instances is presented (R219), in a window (R222). -/
def execRefreshPartTwo (l : LandingId) (s : State) : Out :=
  if (s.land l).rankList.any fun e => match (s.refOf l e.1 e.2).bind (·.partTwo) with
      | some t => decide (t ≤ s.tread)
      | none => false
  then .next (s.maintenanceWindow l) else .next s

/-- `MAINTENANCE_WINDOW` (R222). -/
def execMaintenanceWindow (l : LandingId) (s : State) : Out := .next (s.maintenanceWindow l)

/-- `RFM_OWED`: a bank's RAA count has reached IMT; one RFM is owed and presented (R229). -/
def execRfmOwed (l : LandingId) (sub : Fin 2) (rank : Fin 8) (bg : Fin 8) (bank : Fin 4) (s : State) : Out :=
  let key := (sub.val, rank.val, bg.val, bank.val)
  let m := (s.land l).mnt
  let owes := decide (fld (s.lv l 0x610) 9 0 ≤ m.raaOf key)
  if (s.lv l 0x600).getLsbD 3 && (owes || m.owedRfm.any fun e => e.1 == key) then
    .next ((s.modMnt l fun m =>
      { m with owedRfm := if m.owedRfm.any (fun e => e.1 == key) then m.owedRfm else m.owedRfm ++ [(key, s.now)] }).maintenanceWindow l)
  else .next s

/-- `ZQ_DUE`: the ZQ instance of a Landing falls due (R34, R240). -/
def execZqDue (l : LandingId) (s : State) : Out :=
  let m := (s.land l).mnt
  if s.mntRuns l && decide (m.zq.next ≤ s.tread) then
    let (sc, k) := schedMerge (fld (s.lv l 0x628) 9 0 * s.blockFlight) 2 s.tread m.zq
    let s := s.modMnt l fun m => { m with zq := sc, zqWaiting := true }
    let s := if k = 0 then s else (s.bumpL l 0x68C k).bumpL l 0x10002 k
    .next (s.maintenanceWindow l)
  else .next s

/-- `ZQ_LATCH`: tZQCAL after a rank's ZQCal Start a window opens for its Latch (R240). -/
def execZqLatch (l : LandingId) (sub : Fin 2) (rank : Fin 8) (s : State) : Out :=
  match (s.land l).mnt.zqOpen.find? fun e => e.1 == sub.val && e.2.1 == rank.val with
  | some e => if e.2.2 ≤ s.chip.cycle then .next (s.maintenanceWindow l) else .next s
  | none => .next s

/-- `SCRUB_STEP_DUE` (R237). -/
def execScrubStepDue (l : LandingId) (s : State) : Out :=
  let m := (s.land l).mnt
  if m.scrubOn && s.mntRuns l && decide (m.scrub.next ≤ s.tread) then .next ((s.scrubDue l).maintenanceWindow l) else .next s

/-- `HEAT_DECAY_DUE` (R395). -/
def execHeatDecayDue (s : State) : Out :=
  if s.chip.variant.cmpTier && s.chip.coreOn && s.chip.phase == .out && !s.chip.halted && decide (s.misc.heat.next ≤ s.tread) then
    .next s.heatDecay
  else .next s

/-- `ECS_READOUT_DUE`: the readout of R242 is due; the counts are what the mode-register reads return. It is row-4 work: it waits for
a window, and while the window is claimed (R225). -/
def execEcsReadoutDue (l : LandingId) (counts : List (Fin 2 × Fin 8 × Fin 10 × Nat × Nat)) (s : State) : Out :=
  let due := (s.land l).mnt.ecsNext
  if s.mntRuns l && s.ecsOn l && decide (due ≤ s.chip.flight) && s.windowFree l && !s.windowClaimed l then
    let at_ := 16 * (s.chip.nextFlight - (s.chip.flight + 1 - due) * s.blockFlight)
    let s := s.modMnt l fun m => { m with ecsNext := s.chip.flight + 1024 * fld (s.lv l 0x62C) 15 8 }
    .next (s.ecsReadout l at_ counts)
  else .next s

/-- `ECC_LEAK`: every LEAK × 64 block flights each nonzero device count falls by 1 (R259). The first interval begins at flight 0, each
other one at the last fall (log entry 113, DESIGN CHOICE). -/
def execEccLeak (g : GalleryId) (s : State) : Out :=
  if s.chip.flight < (s.gal g).leakAt + 64 * fld (s.gv g 0x2000) 23 16 then .next s
  else .next (s.modGal g fun x =>
    { x with leakAt := s.chip.flight, devCounts := (x.devCounts.map fun e => (e.1, e.2 - 1)).filter fun e => e.2 ≠ 0 })

end Sys2Proof.Machine
end

