-- ==== Sys2Proof/Machine/Stringer.lean ====
section
/-! DEFINITION. The Stringer and the impedance of a PHY macro (R277–R285, R293–R295): measurements, their checks, the
linearisation table, tracking and the impedance search. -/

namespace Sys2Proof.Machine

/-! ## Readings -/

/-- The macro's delay lines and PLL run: outside DEEP and RETAIN, or being woken, with the Gallery PLL locked (R285,
R296). -/
def State.macroRuns (s : State) (l : Nat) : Bool :=
  (s.gal (l / 4)).pllLock && (s.chip.phyOn[l]?).getD false && s.chip.coreOn

/-- `PHY_CTL` bits. -/
def State.strEnabled (s : State) (l : Nat) : Bool := (s.lv l 0x1000).getLsbD 0
def State.tracks (s : State) (l : Nat) : Bool := (s.lv l 0x1000).getLsbD 1

/-! ## The table (R281, R282) -/

/-- The shape of a breakpoint from its raw code: to the nearest integer. -/
def shapeOf (code zer full : Nat) : Nat :=
  let n := 2 * 65536 * (code - zer) + (full - zer)
  if full ≤ zer then 0 else n / (2 * (full - zer))

/-- `PHY_LIN` from the newest `ZERO` and `FULL` and every latest shape. -/
def rebuildLin (zer full : Nat) (shape : List Nat) : List Nat :=
  shape.map fun h => zer + (h * (full - zer) + 32768) / 65536

/-- The raw code of a `FINE` value (R282). -/
def rawCode (lin : List Nat) (fine : Nat) : Nat :=
  let k := fine / 64
  let a := lin.getD k 0
  let b := lin.getD (k + 1) 0
  (((a : Int) + (((b : Int) - a) * (fine % 64 : Nat) + 32) / 64)).toNat

/-- The raw code that a lane has reached at CK edge `e` on its way toward its code in the table `lin`, at most one tap per CK from where
it was when that table began to apply (R282). -/
def laneCode (lin : List Nat) (fine : Nat) : List (List Nat × Nat) → Nat → Nat
  | [], _ => rawCode lin fine
  | (old, began) :: rest, e =>
    let at_ := laneCode old fine rest began
    let goal := rawCode lin fine
    if at_ ≤ goal then min goal (at_ + (e - began)) else max goal (at_ - (e - began))

/-- `PHY_STR_STAT.AGE`: block flights since the start of the last accepted instance, at most Fh. -/
def State.strAge (s : State) (l : Nat) : Nat :=
  match (s.land l).phy.accepted with
  | some t => min 15 ((s.tread - t) / max 1 s.blockFlight)
  | none => 15

/-- The macro is being brought up: its Landing is being trained, or a wake out of DEEP or RETAIN is under way (R285, R294). -/
def State.bringsUp (s : State) (l : Nat) : Bool :=
  (s.land l).phy.mode != .active && ((s.land l).sbd.waiting || s.pwr.trans.any fun t => t.stage == .wake)

/-- The checks of R283 on an instance. -/
def Phy.accepts (p : Phy) (zer full shape : Nat) : Bool :=
  let k := p.nextK
  let span := full - zer
  let was := p.full - p.zero
  let moved := if was ≤ span then span - was else was - span
  decide (16 ≤ zer) && decide (zer ≤ 700) && decide (zer < full) && decide (5120 ≤ span) && decide (span ≤ 10240) &&
    (p.firstSpan || decide (50 * moved ≤ was)) &&
    decide (shape ≤ 1024 * k + 1024) && decide (1024 * k ≤ shape + 1024) &&
    decide (p.shape.getD (k - 1) 0 < shape) && decide (shape < p.shape.getD (k + 1) 65536)

/-- An accepted instance (R280, R281, R285). -/
def State.strAccept (s : State) (l zer full shape : Nat) : State :=
  (s.modPhy l fun p =>
    let sh := p.shape.set p.nextK shape
    { p with zero := zer, full := full, shape := sh, lin := rebuildLin zer full sh, nextK := p.nextK % 63 + 1
             newTable := true, firstSpan := false, rejRun := 0, accepted := some p.began, strValid := p.measured
             running := false }).bumpL l 0x1020 1

/-- A rejected instance: the table stays, and the third in a row asks for a margin check (R283, R284). -/
def State.strReject (s : State) (l : Nat) : State :=
  let n := (s.land l).phy.rejRun
  let s := (s.modPhy l fun p => { p with rejRun := min 3 (n + 1), running := false }).bumpL l 0x1024 1
  let s := s.raise (repL 7 1 l 0) none
  if n = 2 then (s.raise (repL 7 2 l 0) none).askMargin l else s

/-! ## Impedance (R294, R295) -/

/-- A code in range. -/
def zqOk (v : Int) : Bool := decide (20 ≤ v) && decide (v ≤ 107)

/-- One step of an impedance code in the direction of a comparator decision. -/
def zqStep (old : Nat) (d : Int) : Int := (old : Int) + (if 0 < d then 1 else if d < 0 then -1 else 0)

/-- Write both codes, effective at once; out of range they are kept, with `OOR` and source 7/03h in class `cls`. -/
def State.setZq (s : State) (l : Nat) (pu pd : Int) (cls : Nat) : State :=
  if zqOk pu && zqOk pd then s.loadLand l 0x1010 (at_ 0 pu.toNat ||| at_ 8 pd.toNat)
  else (s.modPhy l fun p => { p with oor := true }).raise { repL 7 3 l 0 with cls := cls } none

/-- Tracking: one comparator decision for each code at every instance. -/
def State.trackZq (s : State) (l : Nat) (pu pd : Int) : State :=
  let w := s.lv l 0x1010
  if s.tracks l then s.setZq l (zqStep (fld w 6 0) pu) (zqStep (fld w 14 8) pd) 1 else s

/-! ## The rows -/

/-- `STRINGER_DUE`: a measurement falls due and starts (R280, R34). It does not start while the Calibration Unit holds the
Landing, in boot training too. Its pacing stays at the defaults of R34: the manual gives no register, command or limit by which firmware would change it
(log entry 106, DESIGN CHOICE). -/
def execStringerDue (l : LandingId) (s : State) : Out :=
  let x := s.land l
  let bf := s.blockFlight
  if s.macroRuns l && s.strEnabled l && x.phy.measured && !x.phy.running && x.cal.run.isNone && !x.sbd.waiting && !s.chip.halted && decide (x.phy.sched.next ≤ s.tread) then
    let (sc, k) := schedMerge bf 1 s.tread x.phy.sched
    let s := if k = 0 then s else s.bumpL l 0x10000 k
    .next (s.modPhy l fun p =>
      { p with running := true, began := s.tread, sched := schedStart bf (bf / 4) ((bf + 1) / 2) s.tread sc })
  else .next s

/-- `STRINGER_INSTANCE_DONE`: the three searches of an instance have ended (R280, R283, R294). -/
def execStringerInstanceDone (l : LandingId) (zer full code : Nat) (pu pd : Int) (s : State) : Out :=
  let p := (s.land l).phy
  if !p.running then .next s
  else
    let shape := shapeOf code zer full
    let s := if p.accepts zer full shape then s.strAccept l zer full shape else s.strReject l
    .next (s.trackZq l pu pd)

/-- `STR_SLEW_DONE`: every lane has reached its new code (R282). -/
def execStrSlewDone (l : LandingId) (s : State) : Out := .next (s.modPhy l fun p => { p with slew := false, leaving := [] })

/-- `STRINGER_AGE_EXPIRY`: the last accepted instance is more than four block flights old (R285). -/
def execStringerAgeExpiry (l : LandingId) (s : State) : Out :=
  if s.strAge l ≤ 4 then .next s else .next (s.modPhy l fun p => { p with strValid := false })

/-- `STRINGER_FULL_MEASUREMENT_DONE`: 65 searches have ended after boot or a wake (R285). The schedule restarts with
debt 0. -/
def execStringerFullMeasurementDone (l : LandingId) (zer full : Nat) (codes : List Nat) (s : State) : Out :=
  let p := (s.land l).phy
  if s.macroRuns l && s.bringsUp l && !p.measured then
    let shape := 0 :: (((List.range 63).map fun i => shapeOf (codes.getD i 0) zer full) ++ [65536])
    let next := s.tread + s.blockFlight
    .next (s.modPhy l fun p =>
      { p with zero := zer, full := full, shape := shape, lin := rebuildLin zer full shape, newTable := true, measured := true
               strValid := true, firstSpan := true, running := false, accepted := some s.tread
               sched := { Sched.zero with ideal := next, next := next } })
  else .next s

end Sys2Proof.Machine
end

