-- ==== Sys2Proof/Machine/Modules.lean ====
section
/-! DEFINITION. What discovery makes of the modules (R300–R311, R317): the checks and their codes, the data rate of each Gallery,
the geometry of a Landing, and the population of its timing registers (R201–R206, R227). -/

namespace Sys2Proof.Machine

/-! ## Bins and defaults (R201, R202) -/

/-- A speed bin: rate, RL and WL by default. -/
structure Bin where
  rate : Nat
  rl : Nat
  wl : Nat
  deriving DecidableEq, Repr

def rdimmBins : List Bin :=
  [⟨4800, 41, 39⟩, ⟨5600, 47, 45⟩, ⟨6400, 53, 51⟩, ⟨7200, 59, 57⟩, ⟨8000, 65, 63⟩, ⟨8800, 73, 71⟩]
def mrdimmBins : List Bin :=
  [⟨8800, 72, 68⟩, ⟨9600, 76, 72⟩, ⟨10400, 84, 80⟩, ⟨11200, 88, 84⟩, ⟨12000, 92, 88⟩, ⟨12800, 96, 92⟩]

def binsOf (mrd : Bool) : List Bin := if mrd then mrdimmBins else rdimmBins
/-- A rate is a bin of R201. -/
def isBin (rate : Nat) : Bool := (rdimmBins ++ mrdimmBins).any fun b => b.rate == rate

/-- Time defaults of the rules that depend on the module type and the density (R201, R202). -/
def ruleDefault (mrd : Bool) (density i : Nat) : Nat :=
  let big := decide (16 < density)
  if i = 0 ∨ i = 1 then (if mrd then 14000 else 16000)
  else if i = 2 then 32000
  else if i = 3 then (if mrd then 46000 else 48000)
  else if i = 21 ∨ i = 23 ∨ i = 25 then (if big then 410 else 295)
  else if i = 22 ∨ i = 24 ∨ i = 26 then (if big then 130 else 115)
  else if i = 30 then (if big then 420 else 305)
  else (ruleRows[i]?).elim 0 (·.v0)

/-- The population table of the CK-only turnaround registers (R203 step 4), rule indices 16 to 20. -/
def turnNck (mrd dpc2 : Bool) (i : Nat) : Nat :=
  let row := if mrd then (if dpc2 then [4, 4, 8, 4, 8] else [4, 4, 6, 4, 6])
    else (if dpc2 then [2, 2, 4, 2, 4] else [2, 2, 3, 2, 3])
  row.getD (i - 16) 0

/-! ## Checks of a module (R307) -/

def Module.mrd (m : Module) : Bool := m.spd.type == .mrdimm

/-- A module supports a data rate (R309). -/
def rateOk (d : Spd) (rate : Nat) : Bool :=
  (binsOf (d.type == .mrdimm)).any (fun b => b.rate == rate) && decide (rate * d.tckMinPs * 1000 ≤ 2006000000) &&
    decide (2000000000 ≤ rate * d.tckMaxPs * 1000) && d.cas.any fun c => decide (d.taaMinPs * rate ≤ c * 2000000)

/-- The refusal code of a module, 0 for none, in the order of the table. -/
def spdCode (d : Spd) : Nat :=
  if !d.crcOk then 2
  else if d.type = .other then 3
  else if !d.busOk || (d.ioWidth != 4 && d.ioWidth != 8) then 4
  else if !([16, 24, 32].contains d.densityGb) || 512 < d.capacityGib then 5
  else if d.bankGroups ≠ 8 ∨ (d.banksPerGroup ≠ 2 ∧ d.banksPerGroup ≠ 4) ∨ d.rowBits < 16 ∨ 18 < d.rowBits ∨ !d.columnsOk then 6
  else if !([1, 2, 4].contains d.ranks) then 6
  else if !((binsOf (d.type == .mrdimm)).any fun b => rateOk d b.rate) then 8
  else if !d.thermalSensor then 0xD
  else 0

/-- Rank numbers of a Landing with these modules (R153). -/
def rankCount (ms : List Spd) : Nat :=
  match ms with
  | [] => 0
  | d :: _ => d.ranks * (if d.type = .mrdimm then 2 else 1) * ms.length

/-- The code of a Landing before its rate is chosen (R308, R561): slots 0 and 1. -/
def pairCode (a b : Option Spd) : Nat :=
  match a, b with
  | none, none => 1
  | none, some _ => 0xC
  | some x, none =>
    if spdCode x ≠ 0 then spdCode x else if !([1, 2, 4, 8].contains (rankCount [x])) then 6 else 0
  | some x, some y =>
    if spdCode x ≠ 0 then spdCode x
    else if spdCode y ≠ 0 then spdCode y
    else if x.type ≠ y.type then 7
    else if x.ioWidth ≠ y.ioWidth ∨ x.densityGb ≠ y.densityGb ∨ x.bankGroups ≠ y.bankGroups ∨ x.banksPerGroup ≠ y.banksPerGroup ∨
        x.rowBits ≠ y.rowBits ∨ x.ranks ≠ y.ranks then 6
    else if !([1, 2, 4, 8].contains (rankCount [x, y])) then 6
    else 0

/-! ## Rates (R309–R311) -/

/-- A Landing supports a rate: each module does, and they share a CAS latency. -/
def landRate (ms : List Spd) (rate : Nat) : Bool :=
  ms.all (fun d => rateOk d rate) &&
    match ms with
    | [] => false
    | d :: rest => d.cas.any fun c => (d :: rest).all fun e => e.cas.contains c && decide (e.taaMinPs * rate ≤ c * 2000000)

/-- The smallest common CAS latency at a rate (R310). -/
def landCas (ms : List Spd) (rate : Nat) : Nat :=
  match ms with
  | [] => 0
  | d :: rest =>
    ((d.cas.filter fun c => (d :: rest).all fun e => e.cas.contains c && decide (e.taaMinPs * rate ≤ c * 2000000)).foldl
      (fun m c => match m with
        | none => some c
        | some x => some (min x c)) none).getD 0

/-- Cap of a population. -/
def popCap (mrd dpc2 : Bool) : Nat := if mrd then (if dpc2 then 11200 else 12800) else if dpc2 then 7200 else 8800

/-- Rates a Landing supports up to a cap, rising. -/
def ratesUpTo (ms : List Spd) (cap : Nat) : List Nat :=
  match ms with
  | [] => []
  | d :: _ => ((binsOf (d.type == .mrdimm)).map (·.rate)).filter fun r => decide (r ≤ cap) && landRate ms r

/-- Rates of a Landing under its population cap and the cap given to DISCOVER, 0 for none. -/
def landRates (ms : List Spd) (cap : Nat) : List Nat :=
  match ms with
  | [] => []
  | d :: _ =>
    let own := popCap (d.type == .mrdimm) (decide (ms.length = 2))
    ratesUpTo ms (if cap = 0 then own else min own cap)

/-- Highest element of a list; 0 for none. -/
def topOf (l : List Nat) : Nat := l.foldl max 0
def common (ls : List (List Nat)) : List Nat :=
  match ls with
  | [] => []
  | a :: rest => a.filter fun r => rest.all fun l => l.contains r

/-- The Landings kept and the rate of a Gallery: `cands` holds Landing, modules and allowed rates, by rising number. -/
def galleryRate (cands : List (Nat × List Spd × List Nat)) : List Nat × Nat :=
  let all := common (cands.map fun e => e.2.2)
  if !all.isEmpty then (cands.map (·.1), topOf all)
  else
    match cands with
    | [] => ([], 0)
    | first :: _ =>
      let kind (e : Nat × List Spd × List Nat) : Option ModuleType := (e.2.1.head?).map (·.type)
      let kept := cands.foldl (fun kept e =>
        if kind e = kind first ∧ !(common ((kept ++ [e]).map fun x => x.2.2)).isEmpty then kept ++ [e] else kept)
        ([] : List (Nat × List Spd × List Nat))
      (kept.map (·.1), topOf (common (kept.map fun x => x.2.2)))

/-! ## Geometry (R114, R155) -/

/-- The geometry of a Landing with these modules at a rate. -/
def geomOf (ms : List Spd) (rate : Nat) : Geom :=
  match ms with
  | [] => Geom.none
  | d :: _ =>
    { valid := true, mrd := d.type == .mrdimm, dpc2 := decide (ms.length = 2), rankBits := Nat.log2 (rankCount ms)
      x8 := d.ioWidth == 8, bank4 := d.banksPerGroup == 4, rowBits := d.rowBits - 16, rate := rate }

/-- Width of a Landing address. -/
def Geom.addrBits (g : Geom) : Nat :=
  11 + (if g.x8 then 5 else 6) + (if g.bank4 then 2 else 1) + g.rankBits + 16 + g.rowBits
/-- Granules of the Landing's DRAM. -/
def Geom.granules (g : Geom) : Nat := 2 ^ (g.addrBits - 28)

/-! ## Population (R203) -/

/-- The largest value that some function gives over the modules. -/
def largest (ms : List Spd) (f : Spd → Nat) : Nat := (ms.map f).foldl max 0

/-- A DRAM rule, whose clock counts double on MRDIMM (R198). -/
def dramRule (i : Nat) : Bool := !(decide (16 ≤ i) && decide (i ≤ 20)) && i != 34 && i != 35

/-- A defence that the modules require, or that all of them support (R227). -/
def defence (ms : List Spd) (req sup : Spd → Bool) : Bool := ms.any req || (!ms.isEmpty && ms.all sup)
def usesPrac (ms : List Spd) : Bool := defence ms (·.pracRequired) (·.prac)

/-- `VAL` of a rule. -/
def popVal (ms : List Spd) (i : Nat) : Nat :=
  let prac := usesPrac ms
  largest ms fun d =>
    let base := (lookupN d.timing i).getD 0
    let own := if prac && decide (1 ≤ i) && decide (i ≤ 3) then (match lookupN d.pracTiming i with
        | some v => if v = 0 then base else v
        | none => base) else base
    if own = 0 then ruleDefault (d.type == .mrdimm) d.densityGb i else own

/-- `NCK` of a rule. -/
def popNck (ms : List Spd) (g : Geom) (i : Nat) : Nat :=
  if 16 ≤ i ∧ i ≤ 20 then turnNck g.mrd g.dpc2 i
  else if i = 35 then largest ms fun d => d.parityLatencyCk
  else
    let n := max ((ruleRows[i]?).elim 0 (·.n0)) (largest ms fun d => (lookupN d.nck i).getD 0)
    if g.mrd && dramRule i then 2 * n else n

/-- The word of a rule as populated. -/
def popWord (ms : List Spd) (g : Geom) (i : Nat) : W32 :=
  match ruleRows[i]? with
  | some r => ruleWord r.unit (if r.vHi = 0 then 0 else popVal ms i) (if r.nHi = 0 then 0 else popNck ms g i)
  | none => 0

/-- RL and WL as populated (R201, R203 step 3). Of the 16 CK that R201 assumes for register clock driver and data buffer together, a
device that reports no delay is given what the other's report leaves (log entry 100, DESIGN CHOICE). -/
def popLatency (ms : List Spd) (g : Geom) : Nat × Nat :=
  let cl := landCas ms g.rate
  let rcd := largest ms fun d => d.rcdDelayCk.getD (if g.mrd then 16 - d.bufferDelayCk.getD 0 else 1)
  let buf := if g.mrd then largest ms fun d => d.bufferDelayCk.getD (16 - min 16 (d.rcdDelayCk.getD 16)) else 0
  let rl := (if g.mrd then 2 * cl else cl) + rcd + buf
  (rl, rl - (if g.mrd then 4 else 2))

/-- `SEQ_T_LAT` as populated. -/
def popLat (ms : List Spd) (g : Geom) : W32 := at_ 0 (popLatency ms g).1 ||| at_ 8 (popLatency ms g).2

/-- A latency lies in the ranges of R200, which firmware's writes obey too (R205). -/
def latencyOk (e : Nat × Nat) : Bool := decide (20 ≤ e.1) && decide (e.1 ≤ 255) && decide (16 ≤ e.2) && decide (e.2 < e.1)

/-- Step 6 of R203: some populated rule lies below its JEDEC minimum, or outside its range. -/
def popBelow (ms : List Spd) (g : Geom) : Bool :=
  !latencyOk (popLatency ms g) || (List.range 36).any fun i =>
      match ruleRows[i]? with
      | none => false
      | some r =>
        let w := popWord ms g i
        let ck := fld (convertRule w r.unit (tckOf g.rate)) 15 0
        !ruleOk r w || (r.nHi != 0 && decide (255 < popNck ms g i)) || (r.vHi != 0 && decide (65535 < popVal ms i)) || i != 27 && ms.any fun d => d.jedecMin.any fun e => e.1 == i && e.2.1 == g.rate && decide (ck < e.2.2)

/-! ## Effect on a Landing (R203–R206, R227) -/

/-- The modules of a Landing. -/
def Sbd.spds (b : Sbd) : List Spd := (b.slots.toList.filterMap id).map (·.spd)

/-- The modules require the defence of a bit of `MNT_CTL`: 2 PRAC, 3 RFM, 4 DRFM (R227). -/
def mustDefend (ms : List Spd) (bit : Nat) : Bool :=
  if bit = 2 then ms.any (·.pracRequired) else if bit = 3 then ms.any (·.rfmRequired) else ms.any (·.drfmRequired)

/-- The register writes of firmware at population: offset and word. -/
def popWords (ms : List Spd) (g : Geom) (ctl par rfm abo : W32) : Words :=
  let rules := (List.range 36).map fun i => (0x800 + 4 * i, popWord ms g i)
  let need := popNck ms g 35 + 16
  let par := if fld par 15 8 < need then mergeMask 0xFF00 par (at_ 8 (min 255 need)) else par
  let rfmOn := defence ms (·.rfmRequired) (·.rfm)
  let bits := at_ 2 (b2n (usesPrac ms)) ||| at_ 3 (b2n rfmOn) ||| at_ 4 (b2n (defence ms (·.drfmRequired) (·.drfm)))
  let least (f : Spd → Nat) : Nat := (ms.map f).foldl (fun m v => if m = 0 then v else min m v) 0
  let rw := at_ 0 (least (·.rfmImt)) ||| at_ 10 (least (·.rfmMmt)) ||| at_ 20 (largest ms (·.rfmDec)) |||
    at_ 30 (b2n (ms.all (·.rfmSameBank)))
  let n := largest ms (·.pracNrfm)
  let aw := mergeMask 0x30000 abo (at_ 16 (if n ≤ 1 then 0 else if n = 2 then 1 else 2))
  rules ++ [(0x8C0, popLat ms g), (0x40C, par), (0x600, mergeMask 0x1C ctl bits)] ++
    (if rfmOn then [(0x610, landResult 244 0x610 rfm rw)] else []) ++ (if usesPrac ms then [(0x618, aw)] else [])

/-- Firmware writes a register of a Landing; a timing word waits for its conversion at the next tread boundary (R205, R207), and
`SEQ_T_REFI`, one register for the block, comes into force there (R197). -/
def State.loadTimed (s : State) (l off : Nat) (w : W32) : State :=
  if off = offRefi then
    if s.lw l off = w then s else eachBelow s.nLand (fun k s => s.modLand k fun x => { x with refiPend := true }) (s.putLand l off w)
  else
    let s := s.loadLand l off w
    if isTiming off then s.modLand l fun x => { x with tchk := x.tchk ||| 4 } else s

/-- Populate a Landing at a data rate (R203). Step 6 waits for the conversion at the next tread boundary: no training ends, and the
Landing does not leave SR, before it (R204). -/
def State.populate (s : State) (l rate : Nat) : State :=
  let ms := (s.land l).sbd.spds
  let g := geomOf ms rate
  let ws := popWords ms g (s.lw l 0x600) (s.lw l 0x40C) (s.lw l 0x610) (s.lw l 0x618)
  let s := ws.foldl (fun s e => s.loadTimed l e.1 e.2) s
  let s := s.modSeq l fun q => { q with geom := g }
  s.modLand l fun x =>
    { x with populated := ws.filter (fun e => decide (0x800 ≤ e.1)), granules := g.granules, tchk := x.tchk ||| 4 }

end Sys2Proof.Machine
end

