-- ==== Sys2Proof/Machine/CalRecord.lean ====
section
/-! DEFINITION. Calibration records and training hints as bytes (R314, R316, R342–R344), the delay placements that the limits of
R335 judge, and the records held for a Landing. -/

namespace Sys2Proof.Machine

/-! ## Delay sets -/

/-- Delay sets in use: every rank, or the even ones on MRDIMM (R286). -/
def Geom.sets (g : Geom) : List Nat := (List.range g.ranks).filter fun r => !g.mrd || r % 2 == 0

/-- Ranks that use a set: pseudo-channel 0 first. -/
def Geom.ranksOf (g : Geom) (set : Nat) : List Nat := if g.mrd then [set, set + 1] else [set]

/-- Words of a set in record order: 40 DQ delays, 40 receive words, 10 strobe words and the transmit equaliser. -/
def setOffsets : List Nat :=
  (List.range 40).map (fun b => 4 * b) ++ (List.range 40).map (fun b => 0xA0 + 4 * b) ++
    (List.range 10).map (fun k => 0x140 + 4 * k) ++ [0x168]

/-- A placement in units of 0.05 ps times the data rate (R277): whole UI and steps of 0.15 ps. -/
def placement (rate code : Nat) : Nat := code / 4096 * 20000000 + code % 4096 * 3 * rate
/-- Units of `placement` in a thousandth of a UI. -/
def milliUi : Nat := 20000

def dist (a b : Nat) : Nat := if a ≤ b then b - a else a - b

/-- Largest spread of some placements. -/
def spread (l : List Nat) : Nat := l.foldl max 0 - l.foldl min (l.headD 0)

/-- A signed field of a word. -/
def sfld (w : W32) (hi lo : Nat) : Int :=
  let v := fld w hi lo
  if 2 ^ (hi - lo) ≤ v then (v : Int) - 2 ^ (hi + 1 - lo) else v

/-! ## The record (R342, R343) -/

def fitTo (n : Nat) (b : List Byte) : List Byte := (b ++ List.replicate n 0).take n

/-- Turnaround registers whose NCK a record carries. -/
def turnOffsets : List Nat := [0x840, 0x844, 0x848, 0x84C, 0x850]

/-- Set mask of a geometry. -/
def setMask (g : Geom) : Nat := (g.sets.map fun r => 2 ^ r).foldl (· + ·) 0

/-- Length of a record. -/
def recordLen (g : Geom) : Nat := 96 + (g.sets.map fun r => 364 + 80 * (g.ranksOf r).length).foldl (· + ·) 0 + 4

/-- Serial number of a slot, 0 when it is empty. -/
def Sbd.serial (b : Sbd) (slot : Nat) : W32 := (((b.slots[slot]?).getD none).map (·.spd.serial)).getD 0

/-- Header bytes 0 to 23 that R344 compares, for a Landing and subchannel. -/
def State.recordHead (s : State) (l sub : Nat) (tRef : Byte) : List Byte :=
  let x := s.land l
  let g := x.seq.geom
  [0x43, 0x41, 0x4C, 0x42, 1] ++ leBytes 1 l ++ leBytes 1 sub ++ leBytes 1 (setMask g) ++ leBytes 2 g.rate ++
    leBytes 1 (b2n g.mrd + 2 * b2n g.dpc2 + 4 * b2n g.x8) ++ [tRef] ++ leBytes 4 (x.sbd.serial 0).toNat ++
    leBytes 4 (x.sbd.serial 1).toNat ++ leBytes 1 (fld blkVersion 31 24) ++ leBytes 1 (fld blkVersion 23 16) ++
    leBytes 2 (recordLen g)

/-- The record of a subchannel's committed values. -/
def State.calRecord (s : State) (l sub : Nat) : List Byte :=
  let x := s.land l
  let g := x.seq.geom
  let w (off : Nat) : W32 := s.lv l off
  let rcd := fitTo 32 (x.cal.rcdWords.getD sub [])
  let dram := x.cal.dramParts.getD sub []
  let body := s.recordHead l sub (BitVec.ofNat 8 x.cal.tRef) ++ leBytes 8 x.cal.last ++
    leBytes 1 (fld (w 0x1010) 6 0) ++ leBytes 1 (fld (w 0x1010) 14 8) ++ leBytes 2 (fld (w 0x1380) 15 0) ++
    leBytes 2 (fld (w 0x1384) 15 0) ++
    (List.range 10).flatMap (fun i => leBytes 2 (fld (w (0x1300 + 0x40 * sub + 4 * i)) 15 0)) ++
    turnOffsets.flatMap (fun o => leBytes 1 (fld (w o) 23 16)) ++ [0] ++ rcd ++
    g.sets.flatMap (fun r => setOffsets.flatMap (fun o => wordBytes (w (setOff sub r o))) ++
      (g.ranksOf r).flatMap fun q => fitTo 80 (dram.drop (80 * q)))
  body ++ leBytes 4 (crc32c body).toNat

/-- Little-endian number in a record. -/
def numAt (b : List Byte) (at_ n : Nat) : Nat := leNat ((b.drop at_).take n)

/-- The PHY and timing words that a record carries, by Landing-page offset; NCK fields keep the rest of their register. -/
def State.recordWords (s : State) (l sub : Nat) (b : List Byte) : List (Nat × W32) :=
  let g := (s.land l).seq.geom
  let ca := (List.range 10).map fun i => (0x1300 + 0x40 * sub + 4 * i, BitVec.ofNat 32 (numAt b (38 + 2 * i) 2))
  let dck := [(0x1380, BitVec.ofNat 32 (numAt b 34 2)), (0x1384, BitVec.ofNat 32 (numAt b 36 2))]
  let turns := (List.range 5).map fun i =>
    let o := turnOffsets.getD i 0
    (o, mergeMask 0xFF0000 (s.lw l o) (at_ 16 (numAt b (58 + i) 1)))
  let (sets, _) := g.sets.foldl (fun (acc : List (Nat × W32) × Nat) r =>
    let ws := (List.range 91).map fun i => (setOff sub r (setOffsets.getD i 0), BitVec.ofNat 32 (numAt b (acc.2 + 4 * i) 4))
    (acc.1 ++ ws, acc.2 + 364 + 80 * (g.ranksOf r).length)) (([] : List (Nat × W32)), 96)
  ca ++ dck ++ turns ++ sets

/-- The DRAM parts of a record, by rank number. -/
def State.recordDram (s : State) (l : Nat) (b : List Byte) : List Byte :=
  let g := (s.land l).seq.geom
  (g.sets.foldl (fun (acc : List Byte × Nat) r =>
    let n := 80 * (g.ranksOf r).length
    (fitTo (80 * r) acc.1 ++ (b.drop (acc.2 + 364)).take n, acc.2 + 364 + n)) (([] : List Byte), 96)).1

/-- A word lies within the ranges of its register. -/
def wordOk (bf off : Nat) (old w : W32) : Bool :=
  let m := landMask off
  (w &&& ~~~(m ||| (if (ruleAt off).isSome then 0x3000000 else 0))) == 0 && landResult bf off old w == w

/-- A record that `CAL_RESTORE` accepts for a Landing and subchannel (R344). -/
def State.recordOk (s : State) (l sub : Nat) (b : List Byte) : Bool :=
  let x := s.land l
  let n := b.length
  x.seq.geom.valid && decide (n = recordLen x.seq.geom) && b.take 24 == s.recordHead l sub (b.getD 11 0) &&
    numAt b (n - 4) 4 == (crc32c (b.take (n - 4))).toNat &&
    zqRange (numAt b 32 1) && zqRange (numAt b 33 1) &&
    (s.recordWords l sub b).all fun e => wordOk s.flightWritten e.1 (s.lw l e.1) e.2
where
  zqRange (v : Nat) : Bool := decide (20 ≤ v) && decide (v ≤ 107)

/-- The newest snapshot of the Record Store that R344 accepts for a Landing and subchannel (R346). -/
def State.snapshotFor (s : State) (l sub : Nat) : Option (List Byte) :=
  s.store.items.foldl (fun m r => match r with
    | .snapshot b => if s.recordOk l sub b then some b else m
    | _ => m) none

/-- Two snapshots have the same key: Landing, subchannel and serial numbers. -/
def sameSnapshot (a b : List Byte) : Bool := (a.drop 5).take 2 == (b.drop 5).take 2 && (a.drop 12).take 8 == (b.drop 12).take 8

/-- Store the record of a subchannel as the snapshot of its key. -/
def State.storeSnapshot (s : State) (l sub : Nat) : State :=
  let b := s.calRecord l sub
  let others := s.store.items.filter fun r => match r with
    | .snapshot a => !sameSnapshot a b
    | _ => true
  { s with store := { s.store with items := others ++ [.snapshot b], changed := true } }

/-! ## Training hints (R314–R316) -/

/-- The median of a list: its lower middle element. -/
def median (l : List Nat) : Nat := (l.mergeSort (fun a b => decide (a ≤ b))).getD ((l.length - 1) / 2) 0

/-- The ranks of a slot, counted upward. -/
def Geom.slotRanks (g : Geom) (slot : Nat) : List Nat := (List.range g.ranks).filter fun r => g.slot r == slot

/-- Flags byte of a hint. -/
def hintFlags (g : Geom) (slot : Nat) : Nat := b2n g.dpc2 + 2 * b2n g.mrd + 4 * slot + 8 * b2n g.x8

/-- A block holds a record of a block like this one: magic and check are valid (R315). -/
def hintOurs (b : List Byte) : Bool := b.take 4 == [0x4E, 0x59, 0x54, 0x48] && numAt b 60 4 == (crc32c (b.take 60)).toNat

/-- It is one of this version too (R316). -/
def hintValid (b : List Byte) : Bool := hintOurs b && numAt b 4 1 == 1

/-- End-user block 15 of a hub. -/
def hintBlock (d : Spd) : List Byte := fitTo 64 (d.raw.drop 960)

/-- A stored record may centre the searches of a position (R316). -/
def hintMatches (g : Geom) (slot : Nat) (b : List Byte) : Bool :=
  hintValid b && numAt b 5 1 == hintFlags g slot && numAt b 6 2 == g.rate

/-- The entry of a rank (medians over both subchannels; log entry 50, DESIGN CHOICE). -/
def State.hintEntry (s : State) (l rank : Nat) : List Byte :=
  let x := s.land l
  let set := if x.seq.geom.mrd then rank / 2 * 2 else rank
  let strobes := (List.range 2).flatMap fun b => (List.range 10).map fun k => s.lv l (setOff b set (0x140 + 4 * k))
  let rx := (List.range 2).flatMap fun b => (List.range 40).map fun k => s.lv l (setOff b set (0xA0 + 4 * k))
  let ms := x.cal.margins.filter fun m => m.rank == set
  let tap := median (rx.map fun w => (sfld w 14 8 + 64).toNat)
  leBytes 1 (median (strobes.map fun w => fld w 31 28)) ++ leBytes 1 (median (strobes.map fun w => fld w 15 12)) ++
    leBytes 1 (median (rx.map fun w => fld w 7 0)) ++ leBytes 1 ((256 + tap - 64) % 256) ++
    leBytes 1 (min 255 (median (ms.map (·.rdPs)))) ++ leBytes 1 (min 255 (median (ms.map (·.wrPs)))) ++ [0, 0]

/-- The record to write for a module: its sequence follows the stored one. -/
def State.hintRecord (s : State) (l slot : Nat) (old : List Byte) : List Byte :=
  let g := (s.land l).seq.geom
  let seq := if hintOurs old then (numAt old 10 2 + 1) % 65536 else 0
  let ranks := (g.slotRanks slot).take 4
  let body := [0x4E, 0x59, 0x54, 0x48, 1] ++ leBytes 1 (hintFlags g slot) ++ leBytes 2 g.rate ++
    leBytes 1 (fld blkVersion 31 24) ++ leBytes 1 (fld blkVersion 23 16) ++ leBytes 2 seq ++
    fitTo 32 (ranks.flatMap fun r => s.hintEntry l r) ++ List.replicate 16 0
  body ++ leBytes 4 (crc32c body).toNat

/-- Two records differ in a byte other than the sequence and the check over it. -/
def hintDiffers (a b : List Byte) : Bool := a.take 10 != b.take 10 || (a.drop 12).take 48 != (b.drop 12).take 48

/-- The block may be written: blank, or a record of ours. -/
def hintWritable (b : List Byte) : Bool := b.all (· == 0) || b.all (· == 0xFF) || hintOurs b

/-! ## Sideband transactions (R304) -/

/-- The next transaction of a bus by priority starts when the bus is free and no transition pauses it. -/
def State.sbdStart (s : State) (bus : Nat) : State :=
  if s.misc.sbdBusy.any (fun j => j.bus == bus) || s.pwr.trans.isSome then s
  else
    let best := (s.misc.sbdQueue.filter fun j => j.bus == bus).foldl (fun (m : Option SbdJob) j => match m with
      | none => some j
      | some x => if j.prio < x.prio then some j else some x) none
    match best with
    | none => s
    | some j => s.modMisc fun m => { m with sbdBusy := m.sbdBusy ++ [j], sbdQueue := m.sbdQueue.erase j }

/-- Queue a transaction. -/
def State.sbdAsk (s : State) (j : SbdJob) : State :=
  (s.modMisc fun m => { m with sbdQueue := m.sbdQueue ++ [j] }).sbdStart j.bus

/-- Write the hint of each module after a boot commit (R315). -/
def State.writeHints (s : State) (l : Nat) : State :=
  eachBelow 2 (fun slot s =>
    match ((s.land l).sbd.slots[slot]?).getD none with
    | none => s
    | some m =>
      let old := hintBlock m.spd
      let new := s.hintRecord l slot old
      if m.spd.hintWriteProtected || !hintWritable old then s.modSbd l fun b => { b with slots := b.slots.setIfInBounds slot (some { m with hintWp := true }) }
      else if !hintDiffers old new then s
      else s.sbdAsk { bus := l / 2, prio := 3, landing := l, slot := slot, tries := 0, mailbox := none, page := 0, data := new }) s

end Sys2Proof.Machine
end

