-- ==== Sys2Proof/Machine/Training.lean ====
section
/-! DEFINITION. Discovery and boot training (R302–R311, R322–R327, R335, R345, R346, R560): the probe and its outcome, module
power, the start of a Landing's training, its judgement, the boot commit, and a failed attempt. -/

namespace Sys2Proof.Machine

/-! ## Discovery (R305, R561) -/

/-- The module found in a slot of a Landing. -/
def slotSpd (found : List FoundModule) (l t : Nat) : Option Spd :=
  (found.find? fun m => m.landing.val == l && m.slot.val == t).map (·.spd)

/-- A sideband bus runs I3C: every device that answers on it supports it (R302). -/
def busI3c (found : List FoundModule) (b : Nat) : Bool :=
  let here := found.filter fun m => m.landing.val / 2 == b
  !here.isEmpty && here.all fun m => m.spd.i3c

/-- A Gallery has a module. -/
def galleryUsed (found : List FoundModule) (g : Nat) : Bool := found.any fun m => m.landing.val / 4 == g

/-- The rails that a Gallery needs: its own, and those of the macro of its Landing 0, in which its PHY PLL lies (R58, R65; log entry
109, DEDUCED). -/
def Chip.galGood (c : Chip) (g : Nat) : Bool := (c.pgGal[g]?).getD false && (c.pgPhy[4 * g]?).getD false

/-- The outcome of a Landing before rates are chosen: Eh, 1h, the checks of R307 and R308, then Ah. -/
def State.probeCode (s : State) (found : List FoundModule) (l : Nat) : Nat :=
  let a := slotSpd found l 0
  let b := slotSpd found l 1
  if galleryUsed found (l / 4) && !s.chip.galGood (l / 4) then 0xE
  else if (a.isSome || b.isSome) && !(s.chip.pgPhy[l]?).getD false then 0xE
  else if pairCode a b ≠ 0 then pairCode a b
  else if !busI3c found (l / 2) && !s.chip.bringup then 0xA
  else 0

/-- A module as read. -/
def readModule (d : Spd) : Module := { spd := d, temp := 0, pmic := 0, pmicBad := false, hintUsed := false, hintWritten := false, hintWp := false, rcd := none, rails := none }

/-- The record of a Landing that discovery has reached. -/
def State.probeLanding (s : State) (found : List FoundModule) (l : Nat) : State :=
  let code := s.probeCode found l
  let ms := (slotSpd found l 0).toList ++ (slotSpd found l 1).toList
  if (s.land l).sbd.started then s else s.modSbd l fun _ =>
    { Sbd.reset with
      reason := code, reached := true, i3c := busI3c found (l / 2), waiting := code == 0
      maxRate := if code = 0 then topOf (landRates ms 0) else 0
      slots := #v[(slotSpd found l 0).map readModule, (slotSpd found l 1).map readModule] }

/-- Domains left off for a low power-good input are reported (R65). -/
def State.probeDomains (s : State) (found : List FoundModule) : State :=
  let s := eachBelow s.nGal (fun g s =>
    if galleryUsed found g && !(s.chip.pgGal[g]?).getD false then s.post 0x12 1 [at_ 0 0, at_ 0 g] else s) s
  eachBelow s.nLand (fun l s =>
    if (slotSpd found l 0).isSome || (slotSpd found l 1).isSome || (l % 4 == 0 && galleryUsed found (l / 4)) then
      if (s.chip.pgPhy[l]?).getD false then s else s.post 0x12 1 [at_ 0 1, at_ 0 l]
    else s) s

/-- Refuse a Landing with a code. -/
def State.refuseLanding (s : State) (l code : Nat) : State :=
  s.modSbd l fun b => { b with reason := code, waiting := false, hold := false }

/-- A Landing of the Gallery outside the list is out of SR, so the PLL's rate cannot change (R204, R275). -/
def State.rateFixed (s : State) (g : Nat) (ls : List Nat) : Bool :=
  (List.range 4).any fun i => !ls.contains (4 * g + i) && (s.land (4 * g + i)).seq.lstate != .sr

/-- Choose the rate of a Gallery under a cap (R310), and refuse what cannot run at it. -/
def State.chooseRate (s : State) (g cap : Nat) : State :=
  let mine := ((List.range 4).map fun i => 4 * g + i).filter fun l => (s.land l).sbd.waiting
  let rates (l : Nat) : List Nat := landRates (s.land l).sbd.spds cap
  let s := (mine.filter fun l => (rates l).isEmpty).foldl (fun s l => s.refuseLanding l 8) s
  let cands := (mine.filter fun l => !(rates l).isEmpty).map fun l => (l, (s.land l).sbd.spds, rates l)
  let set := (s.misc.discovery.rates[g]?).getD 0
  let (kept, rate) := if s.rateFixed g mine then ((cands.filter fun e => e.2.2.contains set).map (·.1), set) else galleryRate cands
  let s := (cands.filter fun e => !kept.contains e.1).foldl (fun s e => s.refuseLanding e.1 8) s
  let s := kept.foldl (fun s l =>
    let ms := (s.land l).sbd.spds
    if popBelow ms (geomOf ms rate) then s.refuseLanding l 9 else s) s
  let any := s.rateFixed g mine || kept.any fun l => (s.land l).sbd.waiting
  s.modMisc fun m => { m with discovery := { m.discovery with rates := m.discovery.rates.setIfInBounds g (if any then rate else 0) } }

/-- The module in the slot of a rank: with both slots filled each holds half of the ranks (R153). -/
def Sbd.ofRank (b : Sbd) (rank : Nat) : Option Module :=
  let n := b.spds.length
  (b.slots[if n = 2 then rank / max 1 (rankCount b.spds / 2) else 0]?).getD none

/-- The records of a slot whose module has another serial number now are cleared (R262, R306). -/
def State.clearOldRecords (s : State) : State :=
  let keep (r : Record) : Bool := match r with
    | .device serial l _ rank _ =>
      !(s.land l).sbd.reached || (match (s.land l).sbd.ofRank rank with
        | some x => x.spd.serial == serial
        | none => true)
    | _ => true
  if s.store.items.all keep then s
  else { s with store := { s.store with items := s.store.items.filter keep, changed := true } }

/-- Every PMIC present is programmed with the rail settings read from its module (R305 step 4, R307). -/
def State.programRails (s : State) : State :=
  eachBelow s.nLand (fun l s => s.modSbd l fun b => { b with slots := b.slots.map fun m => m.map fun m =>
    { m with rails := some ((m.spd.raw.drop 640).take 320) } }) s

/-- Steps 1 to 4 of R305: probe, read, check, choose the rates, and raise PWR_EN. -/
def State.probe (s : State) (found : List FoundModule) (cap : Nat) (hold : Bool) (m : Nat) : State :=
  let s := eachBelow s.nLand (fun l s => s.probeLanding found l) s
  let s := s.probeDomains found
  let s := eachBelow s.nGal (fun g s => s.chooseRate g cap) s
  let s := eachBelow s.nLand (fun l s =>
    let c := (s.land l).sbd.reason
    if 1 < c then s.post 0x11 1 [at_ 0 l, at_ 0 c] else s) s
  let s := s.clearOldRecords.programRails.modChip fun c => { c with pwrEn := true }
  s.modMisc fun x => { x with discovery := { x.discovery with
    waitPower := true, hold := hold, cap := cap, mailbox := some m, started := true, retrained := false } }

/-! ## Completion of DISCOVER and LANDING_START (R470, R560) -/

/-- Some module of the Landing satisfies a condition. -/
def Sbd.anyModule (b : Sbd) (f : Module → Bool) : Bool := b.slots.toList.any fun m => match m with
  | some x => f x
  | none => false

/-- `SBD_STAT` of a Landing (R317). -/
def Sbd.word (b : Sbd) : W32 :=
  if !b.reached then 0
  else at_ 0 b.reason ||| at_ 4 (b2n b.started) ||| at_ 5 (b2n b.i3c) ||| at_ 6 (b2n (b.anyModule (·.hintUsed))) |||
    at_ 7 (b2n (b.anyModule (·.hintWritten))) ||| at_ 8 (b2n (b.anyModule (·.hintWp))) ||| at_ 16 b.maxRate

/-- A Landing that holds hall granules and will not start is fenced by firmware. -/
def State.fenceUnstarted (s : State) : State :=
  eachBelow s.nLand (fun l s =>
    let b := (s.land l).sbd
    if b.reached && !b.started && !b.waiting && (s.halls.any fun e => e.2.members.contains l) && !s.landFenced l then
      let r := repL 14 4 l 0
      s.raise r (some (s.landFence [l] r))
    else s) s

/-- The Landings that a running start works on. -/
def State.starting (s : State) (l : Nat) : Bool :=
  match s.misc.discovery.mailbox with
  | some m => if (s.box m).opc = 0x0104 then ((s.box m).word 2).getLsbD l else true
  | none => true

/-- Complete `DISCOVER` or `LANDING_START` once every Landing it works on has started or been refused; `DISCOVER` with
`HOLD` completes once the Landings stand ready. -/
def State.endStarts (s : State) : State :=
  let d := s.misc.discovery
  let busy := (List.range s.nLand).any fun l => (s.land l).sbd.waiting && !(s.land l).sbd.hold && s.starting l
  match d.mailbox with
  | none => s
  | some m =>
    if d.waitPower || busy then s
    else
      let s := s.fenceUnstarted
      let s := s.modMisc fun x => { x with discovery := { x.discovery with mailbox := none, done := true } }
      if (s.box m).opc = 0x0104 then
        let got := (List.range s.nLand).filter fun l => ((s.box m).word 2).getLsbD l && (s.land l).sbd.started
        s.finish m .ok [got.foldl (fun w l => w ||| at_ l 1) 0] []
      else
        s.finish m .ok ((List.range 3).map fun g => at_ 0 ((d.rates[g]?).getD 0))
          ((List.range 12).flatMap fun l => wordBytes (s.land l).sbd.word)

/-! ## Power and hand-over to training (R305 steps 5 to 7, R346) -/

/-- A Landing that serves goes back into self-refresh, where alone its data rate changes (R204): its plans are given up, and its
queues stand. -/
def State.backToSr (s : State) (l : Nat) : State :=
  if (s.land l).seq.lstate == .sr then s
  else
    let q := (s.land l).seq
    let k := edgeOfCycle q.geom.rate s.chip.cycle
    ((s.unplaceAll l ((q.planNow.filter fun c => decide (k ≤ c.edge)) ++ q.planNext)).intoSelfRefresh l).modSeq l fun q =>
      { q with lstate := .sr, retry := none, planTread := 0 }

/-- Firmware programs the register clock driver of each module for its slot's ranks (R154, R305 step 6). -/
def State.programRcds (s : State) (l rate : Nat) : State :=
  let g := (s.land l).seq.geom
  let one (slot : Nat) (m : Module) : Module :=
    { m with rcd := some { cids := ((g.slotRanks slot).map (· / 2)).eraseDups, pulse := fld (s.lw l 0x40C) 7 0, rate := rate } }
  s.modSbd l fun b => { b with slots := b.slots.mapIdx fun t m => m.map (one t) }

/-- Put a Landing at the start of its training: fresh Stringer and data buffers, SR, registers populated at the rate. Commands of the
former clock bind no more. -/
def State.readyLanding (s : State) (l rate : Nat) : State :=
  let s := (s.backToSr l).modSeq l fun q =>
    { q with hist := [], rows := [], pd := [], past := [], planNow := [], planNext := [], quietTo := 0, stillTo := 0 }
  let s := s.modPhy l fun p => { p with strValid := false, measured := false, running := false, mode := .deep }
  let s := s.modCal l fun c => { c with dbDone := [], dbFail := [], state := 0, run := none, staged := none, pending := false }
  let s := s.modSbd l fun b => { b with started := false, waiting := true }
  ((s.modChip fun c => { c with drstN := c.drstN.setIfInBounds l true, phyOn := c.phyOn.setIfInBounds l true }).populate l rate).programRcds l rate

/-- Set the PLL of a Gallery to a rate; it has to lock again. -/
def State.setPll (s : State) (g rate : Nat) : State :=
  (s.loadLand (4 * g) 0x1008 (at_ 0 (rate / 200))).modGal g fun x => { x with pllLock := false }

/-- Both records are held and still match: the restore path is open (R345). -/
def State.restorable (s : State) (l : Nat) : Bool :=
  (List.range 2).all fun b => match ((s.land l).cal.held[b]?).getD none with
    | some r => s.recordOk l b r
    | none => false

/-- The training of a Landing begins: the restore path, or boot training with its seeds (R316, R325). -/
def State.beginTraining (s : State) (l : Nat) : State :=
  let full := s.restorable l
  let g := (s.land l).seq.geom
  let use (t : Nat) (m : Module) : Module := { m with hintUsed := m.hintUsed || (!full && hintMatches g t (hintBlock m.spd)) }
  let s := s.modSbd l fun b => { b with hold := false, slots := b.slots.mapIdx fun t m => m.map (use t) }
  (s.modCal l fun c => { c with state := if full then 5 else 1, tryStep := 0, tries := 0 }).status1Hold 3

/-- Snapshots that apply are held for the restore path (R346); they are the ones used last, so they are replaced last (R454). -/
def State.offerSnapshots (s : State) (l : Nat) : State :=
  let a := s.snapshotFor l 0
  let b := s.snapshotFor l 1
  let used := (a.toList ++ b.toList).map Record.snapshot
  let s : State := { s with store := { s.store with items := s.store.items.filter (fun r => !used.contains r) ++ used } }
  s.modCal l fun c => { c with held := #v[a, b] }

/-- A Landing whose rails have failed since the probe is left off, refused with code Eh and reported (R65). -/
def State.checkRails (s : State) : State :=
  eachBelow s.nLand (fun l s =>
    if !(s.land l).sbd.waiting || (s.chip.galGood (l / 4) && (s.chip.pgPhy[l]?).getD false) then s
    else
      let gal := !(s.chip.pgGal[l / 4]?).getD false
      let phy := if (s.chip.pgPhy[l]?).getD false then l / 4 * 4 else l
      (s.refuseLanding l 0xE).post 0x12 1 [at_ 0 (if gal then 0 else 1), at_ 0 (if gal then l / 4 else phy)]) s

/-- Module power is good, or all that can be: the domains whose PG inputs are high are switched on and every Landing not refused is
handed over (R65). -/
def State.powerUp (s : State) : State :=
  let s := s.checkRails
  let d := s.misc.discovery
  let mine := (List.range s.nLand).filter fun l => (s.land l).sbd.waiting
  let s := s.modMisc fun x => { x with discovery := { x.discovery with waitPower := false } }
  let s := eachBelow s.nGal (fun g s =>
    if mine.any fun l => l / 4 == g then
      let s := s.modChip fun c => { c with galOn := c.galOn.setIfInBounds g true, phyOn := c.phyOn.setIfInBounds (4 * g) true }
      if s.rateFixed g [] then s else s.setPll g ((d.rates[g]?).getD 0)
    else if s.rateFixed g [] then s
    else s.modMisc fun x => { x with discovery := { x.discovery with rates := x.discovery.rates.setIfInBounds g 0 } }) s
  let s := mine.foldl (fun s l =>
    let s := (s.readyLanding l ((d.rates[l / 4]?).getD 0)).offerSnapshots l
    let s := if (s.land l).sbd.i3c then s else s.modMnt l fun m => { m with hotNext := true }
    if d.hold then s.modSbd l fun b => { b with hold := true } else s.beginTraining l) s
  s.endStarts

/-! ## Judging a result (R335) -/

/-- A word of a result, or the one that stands. -/
def State.newWord (s : State) (l : Nat) (ws : List (Nat × W32)) (off : Nat) : W32 := (lookupN ws off).getD (s.lv l off)

/-- The delay sets of both subchannels. -/
def Geom.allSets (g : Geom) : List (Nat × Nat) := (List.range 2).flatMap fun b => g.sets.map fun r => (b, r)

/-- Spread of a delay within any nibble of a set above half a UI; `hi` and `lo` are the field. -/
def State.spreadBad (s : State) (l : Nat) (ws : List (Nat × W32)) (e : Nat × Nat) (hi lo : Nat) : Bool :=
  let rate := (s.land l).seq.geom.rate
  (List.range 10).any fun k =>
    decide (500 * milliUi < spread ((List.range 4).map fun i =>
      placement rate (fld (s.newWord l ws (setOff e.1 e.2 (4 * (4 * k + i)))) hi lo)))

/-- A reference outside 20 to 180. -/
def State.vrefBad (s : State) (l : Nat) (ws : List (Nat × W32)) (e : Nat × Nat) : Bool :=
  (List.range 40).any fun b =>
    let v := fld (s.newWord l ws (setOff e.1 e.2 (0xA0 + 4 * b))) 7 0
    decide (v < 20) || decide (180 < v)

/-- A DFE tap outside its limit. -/
def State.tapsBad (s : State) (l : Nat) (ws : List (Nat × W32)) (e : Nat × Nat) : Bool :=
  (List.range 40).any fun b =>
    let w := s.newWord l ws (setOff e.1 e.2 (0xA0 + 4 * b))
    let off (t : Int) (m : Nat) : Bool := decide (m < t.natAbs)
    off (sfld w 14 8) 50 || off (sfld w 19 15) 12 || off (sfld w 24 20) 12 || off (sfld w 29 25) 12

/-- The largest read-gate difference of any strobe between two ranks of one subchannel that `p` selects, in units of `placement`
(R322 step 10, R335). -/
def State.gateDiff (s : State) (l : Nat) (ws : List (Nat × W32)) (p : Nat → Nat → Bool) : Nat :=
  let g := (s.land l).seq.geom
  let at_ (b r k : Nat) : Nat :=
    placement g.rate (fld (s.newWord l ws (setOff b (if g.mrd then r / 2 * 2 else r) (0x140 + 4 * k))) 31 16)
  let ranks := List.range g.ranks
  let diffs := (List.range 2).flatMap fun b => ((List.range 10).filter fun k => (s.land l).strobeOn k).flatMap fun k =>
    ranks.flatMap fun x => (ranks.filter fun y => decide (x < y) && p x y).map fun y => dist (at_ b x k) (at_ b y k)
  diffs.foldl max 0

/-- A margin below the guard (R338). -/
def State.marginBad (s : State) (l : Nat) (m : RankMargin) : Bool :=
  let g := s.lv l 0x380C
  decide (m.rdPs < fld g 7 0) || decide (m.wrPs < fld g 7 0) || decide (m.rdMv < fld g 15 8)

/-- The step of R322 at which a boot result first fails a limit, 0 for none. -/
def State.bootFault (s : State) (l : Nat) (r : TrainResult) : Nat :=
  let m := r.measure
  let sets := (s.land l).seq.geom.allSets
  match r.failedStep with
  | some k => min 11 (k.val + 1)
  | none =>
    if m.caWindow < 300 then 3
    else if 2000 < m.levelEdge then 5
    else if 2000 < m.gateDeviation then 6
    else if sets.any (fun e => s.spreadBad l m.words e 31 16) then 7
    else if sets.any (fun e => s.spreadBad l m.words e 15 0) then 8
    else if m.eyeWidth < 250 ∨ m.eyeHeight < 40 then 9
    else if sets.any (fun e => s.vrefBad l m.words e || s.tapsBad l m.words e) then 9
    else if s.gateDiff l m.words (fun _ _ => true) > 4000 * milliUi then 10
    else if r.margins.any (s.marginBad l) then 11
    else 0

/-- The words of a step with the fields that a periodic run leaves alone put back. -/
def State.periodicWords (s : State) (l : Nat) (ws : List (Nat × W32)) : List (Nat × W32) :=
  (ws.filter fun e => periodicWord e.1).map fun e => (e.1, periodicMerge e.1 (s.lv l e.1) e.2)

/-- The change of a delay of some set against the committed value is above `limit` thousandths of a UI. -/
def State.changeBad (s : State) (l : Nat) (ws : List (Nat × W32)) (limit hi lo off : Nat) : Bool :=
  let rate := (s.land l).seq.geom.rate
  decide (limit * milliUi < dist (placement rate (fld (s.newWord l ws off) hi lo)) (placement rate (fld (s.lv l off) hi lo)))

/-- The step of R331 at which the values found for a set first fail a limit of a periodic run, 0 for none. -/
def State.periodicFault (s : State) (l : Nat) (m : TrainMeasure) (ws : List (Nat × W32)) (e : Nat × Nat) : Nat :=
  let dq (hi lo : Nat) : Bool := (List.range 40).any fun b => s.changeBad l ws 125 hi lo (setOff e.1 e.2 (4 * b))
  let gate := (List.range 10).any fun k =>
    (s.land l).strobeOn k && s.changeBad l ws 250 31 16 (setOff e.1 e.2 (0x140 + 4 * k))
  let vref := (List.range 40).any fun b =>
    let off := setOff e.1 e.2 (0xA0 + 4 * b)
    decide (8 < dist (fld (s.newWord l ws off) 7 0) (fld (s.lv l off) 7 0))
  if 2000 < m.gateDeviation ∨ gate then 1
  else if dq 31 16 || s.spreadBad l ws e 31 16 then 3
  else if vref || s.vrefBad l ws e then 7
  else if dq 15 0 || s.spreadBad l ws e 15 0 then 9
  else if m.eyeWidth < 250 ∨ m.eyeHeight < 40 then 12
  else 0

/-! ## The boot commit (R327, R339) -/

/-- A margin as kept. -/
def keptMargin (m : RankMargin) : Margin := { sub := m.sub.val, rank := m.rank.val, rdPs := m.rdPs, wrPs := m.wrPs, rdMv := m.rdMv }

/-- Margins measured on ranks the geometry has; on MRDIMM only of even ranks (R347). -/
def Landing.marginsOf (x : Landing) (ms : List RankMargin) : List Margin :=
  (ms.filter fun m => x.seq.geom.sets.contains m.rank.val).map keptMargin

/-- The ranks that a turnaround register separates, by its place among the five: read to write any, then ranks of one slot, or of
different slots. -/
def Geom.separates (g : Geom) (i a b : Nat) : Bool := i = 0 || (g.slot a == g.slot b) == (i % 2 == 1)

/-- Each turnaround gap is raised by the largest read-gate difference between the ranks it separates, in whole CK, a part of one
counted whole (R322 step 10; log entry 117, DESIGN CHOICE). -/
def State.raiseTurns (s : State) (l : Nat) (ws : List (Nat × W32)) : State :=
  let g := (s.land l).seq.geom
  turnOffsets.zipIdx.foldl (fun s e =>
    let ck := cdiv (s.gateDiff l ws (g.separates e.2)) (2000 * milliUi)
    let w := s.lw l e.1
    s.loadTimed l e.1 (mergeMask 0xFF0000 w (at_ 16 (min 15 (fld w 23 16 + ck))))) s

/-- Recorded devices of the Landing's modules are declared again, and soft repairs are made hard (R262, R266, R457). -/
def State.applyRecords (s : State) (l : Nat) (hardened : Bool) : State :=
  let s := s.store.items.foldl (fun s r => match r with
    | .device serial n sub rank d => if n = l ∧ serial = s.rankSerial l rank ∧ rank < (s.land l).seq.geom.ranks then s.declareOn l sub rank d else s
    | _ => s) s
  let soft (r : Record) : Bool := match r with
    | .repair serial c n _ hard => n == l && serial == s.rankSerial l c.rank && !hard
    | _ => false
  if hardened && s.store.items.any soft then
    let harden (r : Record) : Record := match r with
      | .repair a c n d _ => .repair a c n d true
      | r => r
    { s with store := { s.store with changed := true, items := mapIf soft harden s.store.items } }
  else s

/-- Every value of a boot training goes live and the Landing starts (R322 step 12, R327). A Landing that trains again in a wake
serves when the wake completes. The grids of ZQ calibration and of the calibration check have their first due time one period after
the commit (log entry 103, DESIGN CHOICE: R33 counts a grid from its first due time after reset and gives none). -/
def State.bootCommit (s : State) (l : Nat) (hardened : Bool) (margins : List Margin) : State :=
  let waking := (s.land l).sbd.started
  let t := s.tread
  let zq := t + fld (s.lv l 0x628) 9 0 * s.blockFlight
  let chk := t + 16 * s.blockFlight
  let s := (s.modCal l fun c =>
    { c with margins := mergeMargins c.margins margins, tRef := (s.land l).mnt.temp, last := s.now, state := 0, bootFail := false
             marginLow := false, rankFail := 0, rejRun := 0, aborts := 0, pending := false, asked := false
             sched := { Sched.zero with ideal := chk, next := chk } }).bumpL l 0x3820 1
  let s := s.modMnt l fun m => { m with zq := { Sched.zero with ideal := zq, next := zq }, zqWaiting := false, zqOpen := [] }
  let s := s.modSbd l fun b => { b with started := true, waiting := false, reason := 0, failed := false }
  let s := s.applyRecords l hardened
  let s := ((s.storeSnapshot l 0).storeSnapshot l 1).writeHints l
  if waking then s else s.leaveSr l

/-- The values of full boot training. -/
def State.fullCommit (s : State) (l : Nat) (r : TrainResult) : State :=
  let s := (r.measure.words.filter fun e => (ruleAt e.1).isNone && decide (0x1300 ≤ e.1)).foldl
    (fun s e => s.loadLand l e.1 (e.2 &&& landMask e.1)) s
  let s := (s.raiseTurns l r.measure.words).modCal l fun c => { c with rcdWords := r.rcdWords, dramParts := r.dramParts }
  s.bootCommit l r.hardened ((s.land l).marginsOf r.margins)

/-- The values of the records (R345 step 2). -/
def State.loadRecords (s : State) (l : Nat) : State :=
  (List.range 2).foldl (fun s b => match ((s.land l).cal.held[b]?).getD none with
    | some kept =>
      let s := (s.recordWords l b kept).foldl (fun s e => s.loadTimed l e.1 e.2) s
      let rcd := (kept.drop 64).take 32
      let dram := s.recordDram l kept
      let two (old : List (List Byte)) (v : List Byte) : List (List Byte) := ((old ++ [[], []]).set b v).take 2
      s.modCal l fun c => { c with rcdWords := two c.rcdWords rcd, dramParts := two c.dramParts dram }
    | none => s) s

/-! ## A failed attempt (R311, R326) -/

/-- The Landings of a Gallery that a failure makes train again: those of the running start. -/
def State.trainees (s : State) (g : Nat) : List Nat :=
  ((List.range 4).map fun i => 4 * g + i).filter fun l =>
    s.starting l && ((s.land l).sbd.waiting || (s.land l).sbd.started)

/-- Train the named Landings of a Gallery again at a rate; Landings still held follow the shared PLL (R275). -/
def State.retrainAt (s : State) (g rate : Nat) (ls : List Nat) : State :=
  let held := ((List.range 4).map fun i => 4 * g + i).filter fun l => (s.land l).sbd.hold && !ls.contains l
  let s := s.modMisc fun x => { x with discovery := { x.discovery with rates := x.discovery.rates.setIfInBounds g rate } }
  let s := s.setPll g rate
  let s := ls.foldl (fun s l => (s.readyLanding l rate).beginTraining l) s
  held.foldl (fun s l => s.readyLanding l rate) s

/-- The Landing does not start at all: it stays in SR with DRST_N low, and is reported. -/
def State.bootFailed (s : State) (l : Nat) : State :=
  let s := s.modCal l fun c => { c with bootFail := true, state := 0 }
  let s := s.modSbd l fun b => { b with waiting := false, failed := true, started := false, hold := false }
  let s := s.modChip fun c => { c with drstN := c.drstN.setIfInBounds l false }
  (s.raise (repL 8 4 l 0) none).post 0x11 1 [at_ 0 l, at_ 0 0xF]

/-- An attempt has failed at a step (0: the 50 ms limit): the next lower common bin, or the end of the Landing's start, after
which the others train once more at the rate that R310 gives without it. -/
def State.trainFail (s : State) (l step : Nat) : State :=
  let g := l / 4
  let cap := s.misc.discovery.cap
  let s := if step = 0 then s else s.modCal l fun c => { c with failStep := step }
  let ls := s.trainees g
  let rate := (s.land l).seq.geom.rate
  let rates (k : Nat) : List Nat := landRates (s.land k).sbd.spds cap
  let heldToo := ((List.range 4).map fun i => 4 * g + i).filter fun k => (s.land k).sbd.hold && !ls.contains k
  let lower := topOf ((common ((ls ++ heldToo).map rates)).filter fun r => decide (r < rate))
  if lower ≠ 0 ∧ !s.rateFixed g ls then s.retrainAt g lower ls
  else
    let s := s.bootFailed l
    let others := (ls.filter (· ≠ l)).filter fun k => !(s.land k).sbd.failed
    let s :=
      if s.misc.discovery.retrained || others.isEmpty || s.rateFixed g ls then s
      else
        let s := s.modMisc fun x => { x with discovery := { x.discovery with retrained := true } }
        let (kept, r) := galleryRate (others.map fun k => (k, (s.land k).sbd.spds, rates k))
        if r = 0 then s else s.retrainAt g r kept
    s.endStarts

/-! ## The rows -/

/-- The Landing trains: discovered, not held back, its PLL locked and its tables valid (R322), its timing rules converted (R204). -/
def State.trains (s : State) (l : Nat) : Bool :=
  (s.land l).sbd.waiting && !(s.land l).sbd.hold && s.macroRuns l && (s.land l).phy.strValid && (s.land l).seq.geom.valid &&
    (s.land l).seq.lstate == .sr && !s.misc.discovery.waitPower && !(s.land l).tchk.getLsbD 2

/-- Every data buffer of an MRDIMM Landing has reported (R324). -/
def Landing.buffersDone (x : Landing) : Bool :=
  !x.seq.geom.mrd || x.seq.geom.sets.all fun r => x.cal.dbDone.contains r || x.cal.dbFail.contains r

/-- The temperature has moved since the one of the record held (R345 step 5). -/
def State.recordMoved (s : State) (l : Nat) : Bool :=
  (s.land l).cal.held.toList.any fun h => match h with
    | some b => decide (fld (s.lv l 0x3808) 7 0 < dist (numAt b 11 1) (s.land l).mnt.temp)
    | none => false

/-- A step has failed: it is repeated up to `CAL_CTL.RETRY` times, and then the attempt has failed (R326). A failed data buffer is
trained again. -/
def State.stepFail (s : State) (l step : Nat) : State :=
  let c := (s.land l).cal
  let n := if c.tryStep = step then c.tries else 0
  if n < fld (s.lv l 0x3800) 3 2 then
    s.modCal l fun c => { c with tryStep := step, tries := n + 1, state := 1, dbFail := if step = 4 then [] else c.dbFail }
  else s.trainFail l step

/-- The result of one attempt. A restore path that fails is abandoned; its records are only seeds from then on (R345). -/
def State.judgeBoot (s : State) (l : Nat) (r : TrainResult) : State :=
  if !zqOk r.pu || !zqOk r.pd then
    let s := s.setZq l r.pu r.pd 2
    let s := s.modSbd l fun b => { b with waiting := false, failed := true, started := false, hold := false }
    let s := s.modCal l fun c => { c with state := 0, failStep := 1 }
    ((s.modChip fun c => { c with drstN := c.drstN.setIfInBounds l false }).post 0x11 1 [at_ 0 l, at_ 0 0xF]).endStarts
  else
    let s := s.setZq l r.pu r.pd 2
    if !(s.land l).cal.dbFail.isEmpty then s.stepFail l 4
    else
      let t := s.loadRecords l
      let moved := s.recordMoved l
      let per := t.periodicWords l r.periodic.words
      let bad := r.margins.any (s.marginBad l) ||
        (moved && (s.land l).seq.geom.allSets.any fun e => t.periodicFault l r.periodic per e != 0)
      if s.restorable l && !bad then
        let t : State := if moved then per.foldl (fun t e => t.loadLand l e.1 e.2) t else t
        (t.bootCommit l r.hardened ((s.land l).marginsOf r.margins)).endStarts
      else
        let s := if s.restorable l then s.modCal l fun c => { c with held := Vector.replicate 2 none, state := 1 } else s
        let step := s.bootFault l r
        if step = 0 then (s.fullCommit l r).endStarts else s.stepFail l step

/-- `BOOT_TRAINING`: the searches of a Landing's boot training, or its restore path, have ended with a result. -/
def execBootTraining (l : LandingId) (r : TrainResult) (s : State) : Out :=
  if s.trains l && (s.land l).buffersDone then .next ((s.judgeBoot l r).pump) else .next s

/-- `BOOT_TRAINING_TIMEOUT`: 50 ms have passed (R326). -/
def execBootTrainingTimeout (l : LandingId) (s : State) : Out :=
  if (s.land l).sbd.waiting && !(s.land l).sbd.hold && !s.misc.discovery.waitPower then .next (s.trainFail l 0) else .next s

/-- `DB_TRAINING_DONE`: a data buffer reports (R324). -/
def execDbTrainingDone (l : LandingId) (rank : Fin 8) (ok : Bool) (s : State) : Out :=
  let set := rank.val / 2 * 2
  if (s.land l).sbd.waiting && (s.land l).seq.geom.mrd then
    .next (s.modCal l fun c => if ok then { c with dbDone := c.dbDone.filter (· ≠ set) ++ [set] }
      else { c with dbFail := c.dbFail.filter (· ≠ set) ++ [set] })
  else .next s

/-- `DB_TRAINING_TIMEOUT`: a buffer that has not reported within 2 ms fails (R324). -/
def execDbTrainingTimeout (l : LandingId) (rank : Fin 8) (s : State) : Out :=
  let set := rank.val / 2 * 2
  let c := (s.land l).cal
  if (s.land l).sbd.waiting && (s.land l).seq.geom.mrd && !c.dbDone.contains set && !c.dbFail.contains set then
    .next (s.modCal l fun c => { c with dbFail := c.dbFail ++ [set] })
  else .next s

/-- `IMPEDANCE_SEARCH_DONE`: the search of both codes has ended at boot or at a wake out of DEEP or RETAIN (R294, R295). Out of
range at boot, the Landing is not started. -/
def execImpedanceSearchDone (l : LandingId) (pu pd : Nat) (s : State) : Out :=
  if !(s.macroRuns l && s.bringsUp l) then .next s
  else
    let boot := (s.land l).sbd.waiting && !(s.land l).sbd.started
    let good := zqOk pu && zqOk pd
    let s := s.setZq l pu pd (if boot then 2 else 1)
    if boot && !good then
      let s := s.modSbd l fun b => { b with waiting := false, failed := true, hold := false }
      let s := s.modCal l fun c => { c with state := 0, failStep := 1 }
      .next (((s.modChip fun c => { c with drstN := c.drstN.setIfInBounds l false }).post 0x11 1 [at_ 0 l, at_ 0 0xF]).endStarts)
    else .next s

/-- `PWR_GOOD_RISE`: module power is good; discovery goes on (R305). -/
def execPwrGoodRise (s : State) : Out :=
  if s.awake && s.chip.pwrEn && !s.chip.pwrGood then
    let s := (s.modChip fun c => { c with pwrGood := true }).levelOff 15 5 0
    if s.misc.discovery.waitPower then .next s.powerUp else .next s
  else .next s

/-- `PWR_GOOD_TIMEOUT`: 50 ms have passed without PWR_GOOD; Landings with a faulty PMIC, or all of them, are refused with code Bh
(R305 step 5). -/
def execPwrGoodTimeout (pmicFaults : List LandingId) (s : State) : Out :=
  if !s.misc.discovery.waitPower || s.chip.pwrGood then .next s
  else
    let bad (l : Nat) : Bool := pmicFaults.isEmpty || pmicFaults.any fun f => f.val == l
    let s := eachBelow s.nLand (fun l s =>
      if (s.land l).sbd.waiting && bad l then (s.refuseLanding l 0xB).post 0x11 1 [at_ 0 l, at_ 0 0xB] else s) s
    .next s.powerUp

end Sys2Proof.Machine
end

