-- ==== Sys2Proof/Machine/Calib.lean ====
section
/-! DEFINITION. Periodic calibration (R328–R341): requests, preconditions, runs and their steps, margin checks and the commit. -/

namespace Sys2Proof.Machine

/-! ## Sets trained (R331, R334) -/

/-- A delay set of a subchannel has a fenced rank. -/
def State.setFenced (s : State) (l sub set : Nat) : Bool :=
  ((s.land l).seq.geom.ranksOf set).any fun r => s.flt.fences.any fun f =>
    f.active && f.grain == .rank && f.landing == l && f.coord.sub == sub && f.coord.rank == r

/-- The set at a position of the run, twelve steps to a set. -/
def State.setAt (s : State) (l step : Nat) : Option Nat := (s.land l).seq.geom.sets[step / 12]?

/-- The first step at or after `step` whose set is not fenced on both subchannels. -/
def State.skipFenced (s : State) (l : Nat) : Nat → Nat → Nat
  | 0, step => step
  | fuel + 1, step => match s.setAt l step with
    | some r => if s.setFenced l 0 r && s.setFenced l 1 r then s.skipFenced l fuel ((step / 12 + 1) * 12) else step
    | none => step

/-! ## Runs -/

/-- A run or a margin check starts. -/
def State.startRun (s : State) (l : Nat) (margin : Bool) : State :=
  (s.modCal l fun c =>
    { c with state := if margin then 4 else 2, marginWant := c.marginWant && !margin
             run := some { margin := margin, step := s.skipFenced l 8 0, startTemp := (s.land l).mnt.temp, words := [], fails := [], due := s.now, placed := false } }).status1Hold 3

/-- A run is requested (R328, R330): it starts, or is deferred with the code of what stands in its way. -/
def State.requestRun (s : State) (l : Nat) : State :=
  let c := (s.land l).cal
  if c.run.isSome || c.staged.isSome then s
  else match s.calBlock l with
    | none => s.startRun l false
    | some code => (s.modCal l fun c => { c with pending := true, cause := code }).bumpL l 0x382C 1

/-- A pending run may start by itself: someone asked for it, or temperature runs are enabled. -/
def State.mayRun (s : State) (l : Nat) : Bool :=
  let c := (s.land l).cal
  c.pending && (c.asked || ((s.lv l 0x3800).getLsbD 0 && !s.chip.bringup))

/-- What waits starts: a margin check first. -/
def State.startWaiting (s : State) (l : Nat) : State :=
  let c := (s.land l).cal
  if c.run.isSome || c.staged.isSome || (s.calBlock l).isSome then s
  else if c.marginWant then s.startRun l true
  else if s.mayRun l then s.startRun l false
  else s

/-- The bits of some ranks. -/
def rankBits (l : List Nat) : BitVec 8 := l.foldl (fun m r => m ||| BitVec.ofNat 8 (2 ^ r)) 0

/-- A rejected run (R336, R337). -/
def State.rejectRun (s : State) (l : Nat) (fails : List (Nat × Nat)) : State :=
  let n := min 3 ((s.land l).cal.rejRun + 1)
  let s := (s.modCal l fun c =>
    { c with run := none, state := 0, pending := false, asked := false, woke := c.woke, rejRun := n, aborts := 0
             failStep := (fails.head?.map (·.1)).getD 0, rankFail := rankBits (fails.map (·.2)) }).bumpL l 0x3824 1
  let s := s.calOutcome l 1
  let s := s.raise (repL 8 1 l 0) none
  if n = 3 then
    let s := s.raise (repL 8 2 l 0) none
    s.modCal l fun c => { c with marginWant := true, marginFence := true }
  else s

/-- The last step of a run has ended: every result is staged, or all are rejected. -/
def State.endRun (s : State) (l : Nat) (r : CalRun) (margins : List RankMargin) : State :=
  let low := (margins.filter fun m => s.marginBad l m && (s.land l).seq.geom.sets.contains m.rank.val &&
    !s.setFenced l m.sub.val m.rank.val).map fun m => (12, m.rank.val)
  let fails := r.fails ++ low
  if fails.isEmpty then
    let ws := r.words.filter fun e => match setReg e.1 with
      | some (b, k, _) => !s.setFenced l b k
      | none => false
    s.modCal l fun c =>
      { c with run := none, state := 3
               staged := some { words := ws, temp := r.startTemp, placed := none, margins := (s.land l).marginsOf margins, due := s.now } }
  else s.rejectRun l fails

/-- When the next step falls due after one that ends now: at once in deadline mode, where the windows pace the steps, else `PACE`
treads later (R331). -/
def State.nextStepAt (s : State) (l : Nat) : Nat := if s.dlMode l then s.now else s.now + 16 * fld (s.lv l 0x3800) 15 8

/-- One retraining step: the values of its kind join the run's; the last step of a set judges the set (R331, R335). -/
def State.retrainStep (s : State) (l : Nat) (r : CalRun) (m : TrainMeasure) (margins : List RankMargin) : State :=
  match s.setAt l r.step with
  | none => s.endRun l r margins
  | some set =>
    let fresh := (s.periodicWords l m.words).filter fun e => stepMask (r.step % 12) e.1 != 0 && match setReg e.1 with
      | some (_, k, _) => k == set
      | none => false
    let ws := fresh.foldl (fun ws e => putN ws e.1 (mergeMask (stepMask (r.step % 12) e.1) (s.newWord l ws e.1) e.2)) r.words
    let fails := if r.step % 12 ≠ 11 then r.fails
      else (List.range 2).foldl (fun fs b =>
        let k := s.periodicFault l m ws (b, set)
        if s.setFenced l b set || k = 0 then fs else fs ++ [(k, set)]) r.fails
    let next := s.skipFenced l 8 (r.step + 1)
    let r : CalRun := { r with step := next, words := ws, fails := fails, due := s.nextStepAt l, placed := false }
    if (s.setAt l next).isNone then s.endRun l r margins else s.modCal l fun c => { c with run := some r }

/-- A margin check has measured every rank (R338). `RANK_FAIL` keeps what the last rejected run wrote when no rank is below the guard
(log entry 116, DESIGN CHOICE). -/
def State.marginDone (s : State) (l : Nat) (ms : List RankMargin) : State :=
  let here := ms.filter fun m => (s.land l).seq.geom.sets.contains m.rank.val && !s.setFenced l m.sub.val m.rank.val
  let low := here.filter fun m => s.marginBad l m
  let fence := (s.land l).cal.marginFence
  let s := s.modCal l fun c =>
    { c with run := none, state := 0, margins := mergeMargins c.margins (here.map keptMargin), marginLow := !low.isEmpty, marginFence := false
             rankFail := if low.isEmpty then c.rankFail else rankBits (low.map fun m => m.rank.val) }
  let s := s.checkOutcome l (if low.isEmpty then 4 else 5)
  if fence && !low.isEmpty then s.startFence (s.landFence [l] (repL 8 2 l 0)) else s

/-- The commit of staged values: placed in a window that also holds refresh, it loads at the boundary that ends the quiet
interval (R339). In a wake no bus carries traffic and the values load at once. -/
def State.placeCommit (s : State) (l : Nat) : State :=
  let x := s.land l
  match x.cal.staged with
  | none => s
  | some g =>
    let isRef (k : ClaimKind) : Bool := match k with
      | .refAb _ _ => true
      | .refSb _ _ _ => true
      | _ => false
    let refreshed := x.claimed isRef || (x.seq.planNow ++ x.seq.planNext).any fun c => match c.claim with
      | some a => (match a.claimKind with
        | some k => isRef k
        | none => false)
      | none => false
    let stamp (t : Nat) (s : State) : State := s.modCal l fun c => { c with staged := c.staged.map fun g => { g with placed := some t } }
    match g.placed with
    | some t => if t ≤ s.tread then s.loadStaged l else s
    | none =>
      if s.wakeRun l then (stamp s.tread s).loadStaged l
      else if refreshed && x.seq.lstate == .run && !s.windowClaimed l then
        s.quietUntil l (s.tread + if x.seq.planTread = s.tread + 1 then 3 else 2)
      else s

/-! ## The rows -/

/-- `CAL_CHECK`: a calibration check of R34 is due: every 16 block flights (R328), its pacing at the defaults (log entry 106, DESIGN
CHOICE). A run that is pending already starts now if it can, and is no new request (R330). -/
def execCalCheck (l : LandingId) (s : State) : Out :=
  let c := (s.land l).cal
  let bf := s.blockFlight
  if !(s.land l).sbd.started || !s.chip.coreOn || s.chip.phase != .out || s.tread < c.sched.next then .next s
  else
    let (sc, k) := schedMerge (16 * bf) 1 s.tread c.sched
    let s := if k = 0 then s else s.bumpL l 0x10001 k
    let s := s.modCal l fun c => { c with sched := schedStart (16 * bf) (4 * bf) (8 * bf) s.tread sc }
    if c.run.isSome || c.staged.isSome then .next s
    else if s.moved l && !c.pending then
      if (s.lv l 0x3800).getLsbD 0 && !s.chip.bringup then .next (s.requestRun l)
      else .next ((s.modCal l fun c => { c with pending := true }).startWaiting l)
    else .next (s.startWaiting l)

/-- `CAL_RUN_START`: a pending run, or a margin check that is wanted, starts at the first window after its blocking condition
ends (R330). -/
def execCalRunStart (l : LandingId) (s : State) : Out :=
  if (s.land l).sbd.started && (s.wakeRun l || s.windowFree l) then .next (s.startWaiting l) else .next s

/-- `CAL_RETRAIN_STEP`: a step of a periodic run that holds the Landing has ended; a failing precondition aborts the run (R331,
R333). -/
def execCalRetrainStep (l : LandingId) (m : TrainMeasure) (margins : List RankMargin) (s : State) : Out :=
  match (s.land l).cal.run with
  | none => .next s
  | some r =>
    if r.margin || !(r.placed || s.wakeRun l) then .next s
    else match s.calBlock l with
      | some code => .next (s.abortCal l code)
      | none => .next ((s.retrainStep l r m margins).pump)

/-- `CALIBRATION_COMMIT` (R339). -/
def execCalibrationCommit (l : LandingId) (s : State) : Out := .next (s.placeCommit l)

/-- `MARGIN_CHECK_DONE`: the steps of a margin check have ended (R337, R338). -/
def execMarginCheckDone (l : LandingId) (margins : List RankMargin) (s : State) : Out :=
  match (s.land l).cal.run with
  | none => .next s
  | some r =>
    if !r.margin || !(r.placed || s.wakeRun l) then .next s
    else match s.calBlock l with
      | some code => .next (s.abortCal l code)
      | none => .next ((s.marginDone l margins).pump)

/-- `CAL_RUN_TIME_LIMIT`: the limit of a CAL_RUN has passed; open Landings are reported with 2h (R471). -/
def execCalRunTimeLimit (m : MailboxId) (s : State) : Out :=
  let b := s.box m
  if b.state = .busy ∧ b.started ∧ b.opc = 0x0301 then
    .next (s.finish m .ok [s.calWord (b.word 2) 0 2, s.calWord (b.word 2) 1 2] [])
  else .next s

end Sys2Proof.Machine
end

