-- ==== Sys2Proof/Machine/Alert.lean ====
section
/-! DEFINITION. ALERT_N (R187–R189, R232–R235): its classification, the CA parity retry and the Alert Back-Off; and the sequencer's
own events: power-down entry (R163), page timeout (R162) and dropped hints (R184). -/

namespace Sys2Proof.Machine

/-! ## The fall of ALERT_N (R187) -/

/-- Fields of `SEQ_PAR`. -/
def State.parPulse (s : State) (l : Nat) : Nat := fld (s.lv l 0x40C) 7 0
def State.parMax (s : State) (l : Nat) : Nat := fld (s.lv l 0x40C) 19 16

/-- The replay window in CK; with `LB_SHORT` it is SEQ_T_PAR_LAT + 16 (R206). -/
def State.lookback (s : State) (l : Nat) : Nat := max (fld (s.lv l 0x40C) 15 8) ((s.ckList l).getD 35 0 + 16)

/-- A command of a replay: it serves the window, so taking it back returns nothing to a queue. -/
def PlanCmd.bare (c : PlanCmd) : PlanCmd := { c with acc := none, claim := none, hint := none }

/-- The plans of the present and the next tread are discarded from edge `k` on, latest command first; what they held returns
to its queue. Commands of a replay are made again from its window. -/
def State.discardPlans (s : State) (l k : Nat) : State :=
  let q := (s.land l).seq
  let gone := (q.planNow.filter fun c => decide (k ≤ c.edge)) ++ q.planNext
  (s.unplaceAll l (if q.retry.isSome then gone.map PlanCmd.bare else gone)).modSeq l fun q => { q with planTread := 0 }

/-- The back-off's RFMs that a retry placed and an alert then stopped are owed again. -/
def State.rearmAbo (s : State) (l : Nat) (gone : List PlanCmd) : State :=
  if gone.any fun c => c.cmd == .rfmAb && c.claim.isNone then
    s.modMnt l fun m => { m with abo := m.abo.map fun a => { a with presented := false } }
  else s

/-- The window of a retry extended by what has been issued since it began (R189): commands that are no repetition of the window's and
no precharge or fresh ACT, which step 4 makes anew. -/
def Retry.extended (r : Retry) (since : List PlanCmd) : List PlanCmd :=
  r.window ++ since.filter fun c => c.cmd.busyRule.isSome &&
    !(r.window.any fun d => d.cmd == c.cmd && d.sub == c.sub && d.rank == c.rank && d.bank == c.bank && d.claim.map (·.id) == c.claim.map (·.id))

/-- ALERT_N falls on a Landing in RUN, DRAIN or RETRY. -/
def State.alertFall (s : State) (l : Nat) : State :=
  let q := (s.land l).seq
  let k := edgeOfCycle q.geom.rate s.chip.cycle
  let lb := s.lookback l
  let issued := (q.past ++ q.planNow).filter fun c => decide (c.edge < k)
  let window := issued.filter fun c => decide (k ≤ c.edge + lb)
  let gone := (q.planNow.filter fun c => decide (k ≤ c.edge)) ++ q.planNext
  let s := (s.discardPlans l k).modSeq l fun q =>
    let r : Retry := match q.retry with
      | some r =>
        { r with fall := s.chip.cycle, rising := none, done := none
                 window := if r.parity then r.extended (issued.filter fun c => decide (edgeOfCycle q.geom.rate r.fall ≤ c.edge)) else r.window }
      | none => { fall := s.chip.cycle, window := window, tries := 0, rising := none, done := none, back := q.lstate, parity := false }
    { q with lstate := .retry, retry := some r }
  if q.retry.isSome then s.rearmAbo l gone else s

/-- The length of the alert so far is that of a parity alert: at most `PULSE` + 8 CK. -/
def State.parityLength (s : State) (l fall : Nat) : Bool :=
  decide ((s.chip.cycle - fall) * (s.land l).seq.geom.rate ≤ (s.parPulse l + 8) * 4000)

/-- The retraining step in progress is given up with a cause. -/
def State.dropStep (s : State) (l cause : Nat) : State :=
  let x := s.land l
  if x.cal.run.isSome && decide (edgeOfCycle x.seq.geom.rate s.chip.cycle < x.seq.quietTo) then
    (s.modSeq l fun q => { q with quietTo := 0 }).abortCal l cause
  else s

/-- The alert is an Alert Back-Off: the Landing returns, and the Maintenance Unit takes the alert (R187, R232). A parity retry that
the alert broke off, or that was still to be made, is made again (R233). -/
def State.takeAbo (s : State) (l : Nat) (r : Retry) (risen : Bool) : State :=
  let s := (s.modMnt l fun m =>
    { m with abo := some { fall := r.fall, presented := false, actStopped := false, risen := risen }, aboFlight := m.aboFlight + 1 }).bumpL l 0x698 1
  let s := s.modSeq l fun q =>
    if r.parity then { q with retry := some { r with rising := some s.chip.cycle } } else { q with retry := none, lstate := r.back }
  s.dropStep l 5

/-! ## The retry (R188, R189) -/

/-- Issue one command of a replay, at the earliest edge from `lo` on. Its ACT is counted, its burst faces the bus, and its refresh
or RFM relieves its banks like any other (R170, R228). -/
def State.replayAt (s : State) (l lo : Nat) (w : Want) (v : Served) : State :=
  let q := (s.land l).seq
  let k := max lo (earliest q.geom q.hist w)
  let s := if w.cmd.isCas && w.cmd != .mrr then s.faceBus l w.sub w.cmd.isWrite else s
  let s := s.recordAct l k (treadOfEdge q.geom.rate k) w v
  let rfm := s.lv l 0x610
  let bank := if w.cmd.oneIndex then some w.bank else none
  match w.cmd with
  | .refAb => s.modMnt l fun m => m.relieve w.sub w.rank bank (fld rfm 29 20)
  | .refSb => s.modMnt l fun m => m.relieve w.sub w.rank bank (fld rfm 29 20)
  | .rfmAb => s.modMnt l fun m => m.rfmDone w.sub w.rank bank (fld rfm 9 0)
  | .rfmSb => s.modMnt l fun m => m.rfmDone w.sub w.rank bank (fld rfm 9 0)
  | _ => s

/-- The precharge that a command needs before it: the window can hold commands to several rows of a bank, whose own precharges are
not repeated, and an ACT, refresh or RFM goes to IDLE banks only (R156, R188; log entry 99, DEDUCED). -/
def Seq.closeFor (q : Seq) (w : Want) : Option Want :=
  let any (p : OpenRow → Bool) : Bool := q.rows.any fun o => o.sub == w.sub && o.rank == w.rank && p o
  if w.cmd.allBanks && w.cmd != .pdExit && w.cmd != .zqLatch then (if any fun _ => true then some { w with cmd := .preAb } else none)
  else if w.cmd.oneIndex then (if any fun o => o.bank == w.bank then some { w with cmd := .preSb } else none)
  else match q.rowAt w.sub w.rank w.bg w.bank with
    | some o => if (w.cmd == .act || w.cmd.isCas) && o.row != w.row && w.cmd != .mrr then some { w with cmd := .pre, row := o.row } else none
    | none => none

/-- Issue one command of the window again: a fresh ACT before each burst, where its row is not open already. -/
def State.replayOne (s : State) (l lo : Nat) (c : PlanCmd) : State :=
  let w := c.want
  let v : Served := { Served.own with acc := c.acc, emergency := c.emergency, line := c.line, claim := c.claim }
  let s := match (s.land l).seq.closeFor w with
    | some p => s.replayAt l lo p Served.own
    | none => s
  let isOpen := ((s.land l).seq.rowAt w.sub w.rank w.bg w.bank).isSome
  if w.cmd = .act then (if isOpen then s else s.replayAt l lo w v)
  else if w.cmd.isCas && w.cmd != .mrr then
    (if isOpen then s else s.replayAt l lo { w with cmd := .act, col := 0 } Served.own).replayAt l lo w v
  else s.replayAt l lo w v

/-- RFMab that one back-off asks of each rank (`MNT_ABO.NRFM`). -/
def State.aboCount (s : State) (l : Nat) : Nat := 2 ^ fld (s.lv l 0x618) 17 16

/-- A waiting RFMab of the back-off. -/
def Access.forAbo (a : Access) : Bool :=
  match a.claimKind with
  | some k => k.isAbo
  | none => false

/-- The back-off's RFMs of a retry: all of them when it has not been presented, else those still waiting (R233). -/
def State.replayAbo (s : State) (l lo : Nat) : State :=
  let x := s.land l
  match x.mnt.abo with
  | none => s
  | some a =>
    let waiting := (x.seq.claims ++ x.arb.grantNext.toList ++ x.arb.staging).filter Access.forAbo
    let ranks := if a.presented then waiting.filterMap fun y => match y.claimKind with
        | some (.aboRfm b r) => some (b, r)
        | _ => none
      else (List.range (s.aboCount l)).flatMap fun _ => x.rankList
    let stays (y : Access) : Bool := !y.forAbo
    let s := s.modArb l fun y => { y with staging := y.staging.filter stays, grantNext := y.grantNext.filter stays }
    let s := s.modSeq l fun q => { q with claims := q.claims.filter stays }
    let s := ranks.foldl (fun s e => s.replayAt l lo (rankWant .rfmAb e) Served.own) s
    s.modMnt l fun m => { m with abo := m.abo.map fun a => { a with presented := true } }

/-- Steps 2 to 4 of the retry: tPAR_RECOVERY after the rise (rule index 34) every bank is closed; an Alert Back-Off not yet served
has its RFMs before the replay (R233). -/
def State.parityRetry (s : State) (l : Nat) (r : Retry) (rise : Nat) : State :=
  let rate := (s.land l).seq.geom.rate
  let lo := max (edgeOfCycle rate s.chip.cycle) (edgeOfCycle rate rise + (s.ckList l).getD 34 0)
  let s := (s.land l).seq.pd.foldl (fun s e => s.replayAt l lo (rankWant .pdExit e) Served.own) s
  let s := (s.land l).rankList.foldl (fun s e => s.replayAt l lo (rankWant .preAb e) Served.own) s
  let s := s.replayAbo l lo
  let s := (r.window.filter fun c => !c.cmd.isPre).foldl (fun s c => s.replayOne l lo c) s
  let last := ((s.land l).seq.planNext.map (·.edge)).foldl max lo
  let rl := (s.ckList l).getD 36 0
  (s.modSeq l fun q => { q with retry := some { r with tries := r.tries + 1, done := some (last + rl + 8) } }).bumpL l 0x438 1

/-! ## The rows -/

/-- `ALERT_N_FALL`: on a Landing in self-refresh, FENCED or HALT the alert is ignored and counted (R233). -/
def execAlertNFall (l : LandingId) (s : State) : Out :=
  let x := s.land l
  let low := match x.seq.retry, x.mnt.abo with
    | some r, _ => r.rising.isNone
    | none, some a => !a.risen
    | none, none => false
  if !x.sbd.started || !s.chip.coreOn || low then .next s
  else match x.seq.lstate with
    | .sr => .next (s.bumpL l 0x698 1)
    | .fenced => .next (s.bumpL l 0x698 1)
    | .halt => .next (s.bumpL l 0x698 1)
    | _ => .next (s.alertFall l)

/-- `ALERT_N_RISE`: within `PULSE` + 8 CK of the fall the alert was a parity error, and the retry goes on, or the Landing is
fenced when `SEQ_PAR.MAX` retries have failed (R189). -/
def execAlertNRise (l : LandingId) (s : State) : Out :=
  match (s.land l).seq.retry, (s.land l).mnt.abo with
  | some r, _ =>
    if r.rising.isSome then .next s
    else if !s.parityLength l r.fall then .next (s.takeAbo l r true)
    else
      let s := s.dropStep l 7
      let r : Retry := { r with parity := true }
      if s.parMax l ≤ r.tries then
        let rp := repL 4 2 l 0
        .next ((s.modSeq l fun q => { q with retry := some { r with rising := some s.chip.cycle, done := none } }).raise rp (some (s.landFence [l] rp)))
      else .next (s.modSeq l fun q => { q with retry := some { r with rising := some s.chip.cycle } })
  | none, some a => .next ((s.modMnt l fun m => { m with abo := some { a with risen := true } }).levelOff 5 2 l)
  | none, none => .next s

/-- `ALERT_CLASSIFY_TIMEOUT`: ALERT_N is still low `PULSE` + 8 CK after its fall (R187). -/
def execAlertClassifyTimeout (l : LandingId) (s : State) : Out :=
  match (s.land l).seq.retry with
  | some r => if r.rising.isNone then .next (s.takeAbo l r false) else .next s
  | none => .next s

/-- `PARITY_RETRY`: after the rise of a parity alert the window is issued again, from tPAR_RECOVERY on (R188). -/
def execParityRetry (l : LandingId) (s : State) : Out :=
  match (s.land l).seq.retry with
  | some r =>
    (match r.rising with
     | some rise =>
       if r.parity && r.done.isNone && (s.land l).seq.lstate == .retry && decide (r.tries < s.parMax l) then .next (s.parityRetry l r rise)
       else .next s
     | none => .next s)
  | none => .next s

/-- Nanoseconds have passed since a cycle. -/
def State.pastNs (s : State) (from_ ns : Nat) : Bool := decide (from_ + 2 * ns ≤ s.chip.cycle)

/-- `ABO_PRESENT`: from `MNT_ABO.DEFER` after the fall the back-off is an emergency: its RFMs to every rank (R232). -/
def execAboPresent (l : LandingId) (s : State) : Out :=
  match (s.land l).mnt.abo with
  | some a =>
    if a.presented || !s.mntServes l || !s.pastNs a.fall (fld (s.lv l 0x618) 15 8) then .next s
    else
      let s := s.modMnt l fun m => { m with abo := some { a with presented := true } }
      .next ((List.range (s.aboCount l)).foldl (fun s _ =>
        (s.land l).rankList.foldl (fun s e => s.present l (.aboRfm e.1 e.2) (stampOf (a.fall / 2)) true) s) s)
  | none => .next s

/-- `ABO_ACT_WINDOW_END`: no ACT from `ACT_WIN` after the fall until the RFMs are placed (R232). -/
def execAboActWindowEnd (l : LandingId) (s : State) : Out :=
  let stop (a : Abo) : Abo := if s.pastNs a.fall (fld (s.lv l 0x618) 7 0) then { a with actStopped := true } else a
  .next (s.modMnt l fun m => { m with abo := m.abo.map stop })

/-- Every RFMab that a Landing has placed has ended: its rank is busy no longer. -/
def State.rfmsOver (s : State) (l : Nat) : Bool :=
  let q := (s.land l).seq
  !(q.hist.any fun e => e.cmd == .rfmAb && decide (s.chip.cycle * q.geom.rate < e.idleFrom * 4000))

/-- `ABO_END`: ALERT_N has risen and the last RFMab's busy time has ended (R232). -/
def execAboEnd (l : LandingId) (s : State) : Out :=
  match (s.land l).mnt.abo with
  | some a =>
    if a.presented && a.risen && !(s.land l).claimed ClaimKind.isAbo && s.rfmsOver l then
      .next ((s.modMnt l fun m => { m with abo := none }).levelOff 5 2 l)
    else .next s
  | none => .next s

/-- The last RFMab was placed 1 µs ago or more. -/
def State.rfmsOld (s : State) (l : Nat) : Bool :=
  let q := (s.land l).seq
  !(q.hist.any fun e => e.cmd == .rfmAb && !s.pastNs (cycleOfEdge q.geom.rate e.edge) 1000)

/-- `ALERT_STUCK`: ALERT_N is still low 1 µs after the RFMs of a back-off (R234). -/
def execAlertStuck (l : LandingId) (s : State) : Out :=
  match (s.land l).mnt.abo with
  | some a =>
    if a.presented && !a.risen && !(s.land l).claimed ClaimKind.isAbo && s.rfmsOld l && !s.levelHolds 5 2 l then
      let r := repL 5 2 l 0
      .next (s.levelReport r (some (s.landFence [l] r)))
    else .next s
  | none => .next s

/-! ## Power-down, pages and hints -/

/-- Treads for which a rank has been idle. -/
def Seq.idleOf (q : Seq) (sub rank : Nat) : Nat :=
  match q.idle.find? fun i => i.1 == sub && i.2.1 == rank with
  | some i => i.2.2
  | none => 0

/-- A free edge of the next tread for a command of the sequencer's own: it is legal after everything before it, and disturbs
nothing planned after it. A retraining step holds every edge (R186). -/
def State.ownEdge (s : State) (l : Nat) (w : Want) : Option Nat :=
  let q := (s.land l).seq
  let lo := firstEdge q.geom.rate (s.tread + 1)
  let hi := firstEdge q.geom.rate (s.tread + 2)
  let mine := q.planNext.filter fun c => c.sub == w.sub
  if 48 ≤ mine.length then none
  else
    ((List.range (hi - lo)).map fun i => lo + i).find? fun k =>
      w.fits k hi && decide (q.quietTo ≤ k) && decide (earliest q.geom (q.hist.filter fun e => e.sub != w.sub || decide (e.edge ≤ k)) w ≤ k) &&
        !mine.any fun c => decide (k ≤ c.edge) && (decide (c.edge < k + w.cmd.edges) || (c.rank == w.rank && meets w.cmd c.cmd w.bg w.bank c.bg c.bank))

/-- Place a command of the sequencer's own in the next plan, if an edge is free for it. -/
def State.placeOwn (s : State) (l : Nat) (w : Want) : Option State :=
  (s.ownEdge l w).map fun k => s.record l k (s.tread + 1) w Served.own

/-- A rank may enter POWER_DOWN: idle for `PD_IDLE` treads with `PD_EN` set outside deadline mode, or in P1 as soon as it is idle
(R163, R215). -/
def State.mayPowerDown (s : State) (l sub rank : Nat) : Bool :=
  let q := (s.land l).seq
  let ctl := s.lv l 0x400
  let idle := q.banksIdle sub rank (firstEdge q.geom.rate (s.tread + 1)) && !q.hasWork sub rank
  q.lstate == .run && q.geom.valid && decide (rank < q.geom.ranks) && !q.pd.contains (sub, rank) && idle &&
    (s.pwr.state == .p1 || (ctl.getLsbD 3 && !s.dlMode l && decide (fld ctl 7 4 ≤ q.idleOf sub rank)))

/-- `POWER_DOWN_ENTRY`: a rank enters POWER_DOWN (R163). -/
def execPowerDownEntry (l : LandingId) (sub : Fin 2) (rank : Fin 8) (s : State) : Out :=
  if s.mayPowerDown l sub rank then
    match s.placeOwn l (rankWant .pdEnter (sub.val, rank.val)) with
    | some s => .next (s.modSeq l fun q => { q with pd := q.pd ++ [(sub.val, rank.val)] })
    | none => .next s
  else .next s

/-- `PAGE_TIMEOUT`: a row without access for `PAGE_TO` treads is precharged under the adaptive policy, in the next plan that has a
free edge for it (R162). -/
def execPageTimeout (l : LandingId) (sub : Fin 2) (rank : Fin 8) (bg : Fin 8) (bank : Fin 4) (s : State) : Out :=
  let q := (s.land l).seq
  let ctl := s.lv l 0x400
  match q.rowAt sub rank bg bank with
  | some o =>
    if fld ctl 1 0 = 2 ∧ q.lstate = .run ∧ o.used + fld ctl 15 8 ≤ s.tread then
      .next ((s.placeOwn l { cmd := .pre, sub := sub.val, rank := rank.val, bg := bg.val, bank := bank.val, row := o.row, col := 0 }).getD s)
    else .next s
  | none => .next s

/-- `HINT_DROP`: a hint that found no free edge in two plans, or whose bank is not IDLE, is dropped (R184). -/
def execHintDrop (l : LandingId) (access : Nat) (s : State) : Out :=
  let q := (s.land l).seq
  match q.hints.find? fun a => a.id == access with
  | none => .next s
  | some a =>
    if decide (2 ≤ q.hintPlans access) || !s.hintStands l a then
      .next ((s.modSeq l fun q =>
        { q with hints := q.hints.filter (fun e => e.id != access), hintAge := q.hintAge.filter fun e => e.1 != access }).bumpL l 0x434 1)
    else .next s

end Sys2Proof.Machine
end

