-- ==== Sys2Proof/Machine/Sideband.lean ====
section
/-! DEFINITION. The module sideband (R304, R312, R315, R220): sensor and PMIC reads, transactions and their failures; the Gallery
PLLs (R275, R276); and the end of a Landing's drain (R190, R191, R214). -/

namespace Sys2Proof.Machine

/-! ## Sensors and PMICs -/

/-- Sideband reads of a bus pause while all its Landings are in self-refresh, but for discovery and a wake (R312). -/
def State.busPaused (s : State) (l : Nat) : Bool :=
  let b := l / 2 * 2
  [b, b + 1].all (fun k => (s.land k).seq.lstate == .sr && !(s.land k).sbd.waiting) &&
    !(match s.pwr.trans with
      | some t => t.stage == .wake
      | none => false)

/-- A module of a slot. -/
def Sbd.moduleAt (b : Sbd) (slot : Nat) : Option Module := (b.slots[slot]?).getD none
def Sbd.setModule (b : Sbd) (slot : Nat) (m : Module) : Sbd := { b with slots := b.slots.setIfInBounds slot (some m) }

/-- One exact level condition ends. -/
def State.levelEnd (s : State) (r : Rep) : State :=
  if s.flt.levels.contains r then
    s.modFlt fun f => { f with levels := f.levels.filter (fun e => e != r), lastReport := f.lastReport.setIfInBounds (r.cls - 1) s.now }
  else s

/-- The source of a module whose sensor cannot be read, and of a PMIC's warning; the detail word names the slot. -/
def sensorRep (l slot : Nat) : Rep := repL 5 1 l (at_ 0 slot)
def pmicRep (l slot : Nat) : Rep := repL 9 2 l (at_ 0 slot)

/-- The hottest reading of a Landing's modules, and the refresh flight it asks for (R32, R220). An I2C bus, or an unread module,
holds the halved flight. -/
def State.judgeHeat (s : State) (l : Nat) : State :=
  let b := (s.land l).sbd
  let here := (List.range 2).filter fun t => (b.moduleAt t).isSome
  let top : Nat := (here.map fun t => ((b.moduleAt t).map (·.temp)).getD 0).foldl max 0
  s.modMnt l fun m =>
    let bad := here.any fun t => decide (2 ≤ (m.fails[t]?).getD 0)
    let clear := here.all fun t => (m.fails[t]?).getD 0 == 0
    let fail := bad || (m.fail && !clear)
    let hot := fail || !b.i3c || decide (85 < top) || (m.hotNext && decide (83 < top))
    { m with temp := top, fail := fail, hotNext := hot }

/-- `THERMAL_READ`: a module's sensor has been read, or the read failed (R220, R312). -/
def execThermalRead (l : LandingId) (slot : Fin 2) (reading : Option Nat) (s : State) : Out :=
  match (s.land l).sbd.moduleAt slot with
  | none => .next s
  | some m =>
    if s.busPaused l || !s.chip.coreOn then .next s
    else match reading with
      | some t =>
        let s := s.modSbd l fun b => b.setModule slot { m with temp := t }
        let s := (s.modMnt l fun x => { x with fails := x.fails.setIfInBounds slot 0 }).judgeHeat l
        .next (if (s.land l).mnt.fail then s else (s.levelEnd (sensorRep l 0)).levelEnd (sensorRep l 1))
      | none =>
        let n := ((s.land l).mnt.fails[slot.val]?).getD 0 + 1
        let s := (s.modMnt l fun x => { x with fails := x.fails.setIfInBounds slot n }).judgeHeat l
        .next (if n = 2 then s.levelReport (sensorRep l slot) none else s)

/-- `PMIC_STATUS_READ`: a PMIC's status; a warning is reported and posted, and its end ends the condition (R312). -/
def execPmicStatusRead (l : LandingId) (slot : Fin 2) (status : W32) (warning fault : Bool) (s : State) : Out :=
  match (s.land l).sbd.moduleAt slot with
  | none => .next s
  | some m =>
    if s.busPaused l || !s.chip.coreOn then .next s
    else
      let s := s.modSbd l fun b => b.setModule slot { m with pmic := status, pmicBad := warning || fault }
      let r := pmicRep l slot
      if !warning then .next (s.levelEnd r)
      else if s.flt.levels.contains r then .next s
      else .next ((s.levelReport r none).post 0x15 2 [at_ 0 l.val, at_ 0 slot.val, status])

/-! ## Transactions (R304, R313, R315) -/

/-- The HID of a job's device. -/
def SbdJob.hid (j : SbdJob) : Nat := if j.prio = 3 then 2 * (j.landing % 2) + j.slot else j.slot

/-- The running transaction of a bus. -/
def State.sbdRunning (s : State) (bus : Nat) : Option SbdJob := s.misc.sbdBusy.find? fun j => j.bus == bus

/-- A bus is free again. -/
def State.sbdFree (s : State) (bus : Nat) : State :=
  s.modMisc fun m => { m with sbdBusy := m.sbdBusy.filter fun j => j.bus != bus }

/-- The read-back of a hint record: the module's content as last read follows it (R315). -/
def State.hintReadBack (s : State) (j : SbdJob) (data : List Byte) : State :=
  let s := s.modSbd j.landing fun b => match b.moduleAt j.slot with
    | some m =>
      let raw := fitTo 960 m.spd.raw ++ fitTo 64 data
      b.setModule j.slot { m with spd := { m.spd with raw := raw } }
    | none => b
  if fitTo 64 data = j.data then s.modSbd j.landing fun b => match b.moduleAt j.slot with
      | some m => b.setModule j.slot { m with hintWritten := true }
      | none => b
  else s.raise { rep 9 3 j.bus (at_ 0 j.hid) with land := some j.landing } none

/-- `SIDEBAND_TRANSACTION_DONE`: the running transaction of a bus has ended; the next one by priority starts. -/
def execSidebandTransactionDone (bus : Fin 6) (data : List Byte) (s : State) : Out :=
  match s.sbdRunning bus with
  | none => .next s
  | some j =>
    let s := s.sbdFree bus
    let s : State := match j.mailbox with
      | some m =>
        if (s.box m).state = MbState.busy ∧ (s.box m).opc = 0x0107 then
          s.finish m .ok [] (if ((s.box m).word 2).getLsbD 16 then fitTo (fld ((s.box m).word 3) 10 0) data else [])
        else s
      | none =>
        if j.prio ≠ 3 then s
        else if j.page < 4 then s.modMisc fun x => { x with sbdQueue := x.sbdQueue ++ [{ j with page := j.page + 1, tries := 0 }] }
        else s.hintReadBack j data
    .next (s.sbdStart bus)

/-- `SIDEBAND_TIMEOUT`: no acknowledgement, or 200 µs have passed: two retries, then the transaction has failed (R304). -/
def execSidebandTimeout (bus : Fin 6) (s : State) : Out :=
  match s.sbdRunning bus with
  | none => .next s
  | some j =>
    if j.tries < 2 then
      .next (s.modMisc fun m => { m with sbdBusy := mapIf (fun e => e.bus = bus.val) (fun e => { e with tries := e.tries + 1 }) m.sbdBusy })
    else
      let s := (s.sbdFree bus).raise { rep 9 1 bus.val (at_ 0 j.hid) with land := if j.prio = 3 then some j.landing else none } none
      let s : State := match j.mailbox with
        | some m => if (s.box m).state = MbState.busy ∧ (s.box m).opc = 0x0107 then s.finishS m .failed else s
        | none => s
      .next (s.sbdStart bus)

/-! ## PLLs (R275, R276) -/

/-- `PLL_LOCK`: the PLL of a Gallery whose domain is on has locked. -/
def execPllLock (g : GalleryId) (s : State) : Out :=
  if (s.chip.galOn[g.val]?).getD false && s.chip.coreOn && s.chip.phase != .cold then
    .next ((s.modGal g fun x => { x with pllLock := true }).levelOff 7 4 g)
  else .next s

/-- `PLL_LOCK_LOSS`: with any Landing outside SR its Gallery's four Landings are fenced without a drain (R276). -/
def execPllLockLoss (g : GalleryId) (s : State) : Out :=
  if !(s.gal g).pllLock then .next s
  else
    let s := s.modGal g fun x => { x with pllLock := false }
    if (List.range 4).any fun i => (s.land (4 * g.val + i)).seq.lstate != .sr then
      let r := rep 7 4 g.val 0
      .next (s.levelReport r (some { s.landFence ((List.range 4).map fun i => 4 * g.val + i) r with noDrain := true }))
    else .next s

/-! ## The end of a drain -/

/-- Nothing of a draining Landing waits for the bus: its writes are in DRAM and its reads have returned. -/
def Seq.drained (q : Seq) : Bool :=
  q.acked.isEmpty && q.planNow.isEmpty && q.planNext.isEmpty && q.wrote.isEmpty && q.inflight.isEmpty && q.checking.isEmpty

/-- `LANDING_DRAIN_COMPLETE`: a Landing in DRAIN places its ranks in self-refresh. Under R276 that waits for the PLL. -/
def execLandingDrainComplete (l : LandingId) (s : State) : Out :=
  let q := (s.land l).seq
  if q.lstate == .drain && q.drained && (s.gal (l / 4)).pllLock then .next (s.intoSelfRefresh l).pump else .next s

end Sys2Proof.Machine
end

