-- ==== Sys2Proof/Machine/Flags.lean ====
section
/-! DEFINITION. The status words, flags, counts and interrupt levels that software reads (R150, R192, R194, R200, R244, R270, R299,
R317, R347, R371, R391, R409, R430, R437–R453, R497, R516, R524–R529, R537, R538): every read-only word of the map is
computed here from the state it reports. -/

namespace Sys2Proof.Machine

/-! ## Interrupt levels (R430, R441, R446, R516, R538) -/

/-- The line of a mailbox. -/
def Mailbox.irq (b : Mailbox) : Bool := b.state == .done && b.ie
/-- The Event Queue's line. -/
def EvQueue.irq (q : EvQueue) : Bool := (List.range 4).any fun p => q.mask.getLsbD p && !((q.items[p]?).getD []).isEmpty
/-- The Fault Collector's line. -/
def Flt.line (f : Flt) : Bool := f.irq &&& f.en != 0
/-- A DMA channel raises the DMA line. A write of `DMA_CH_CTL` takes effect at the next descriptor start, its interrupt enables too
(R429). -/
def Dma.line (x : Dma) : Bool :=
  x.state == .halted || (x.irq.getLsbD 0 && x.inForce.getLsbD 1) || ((x.irq.getLsbD 1 || x.irq.getLsbD 2) && x.inForce.getLsbD 2) ||
    (x.irq.getLsbD 3 && x.inForce.getLsbD 3)

/-- `BLK_IRQ`, the levels of IRQ[11:0]. -/
def State.irqWord (s : State) : W32 :=
  if !s.chip.coreOn then 0
  else
    let boxes := (List.range 9).foldl (fun w m => w ||| at_ m (b2n (s.box m).irq)) (0 : W32)
    boxes ||| at_ 9 (b2n s.eq.irq) ||| at_ 10 (b2n s.flt.line) |||
      at_ 11 (b2n ((List.range s.chip.variant.dmaCh).any fun n => (s.ch n).line))

/-! ## Identity page (R537) -/

/-- `BLK_ID`. -/
def State.idWord (s : State) : W32 := at_ 0 s.chip.variant.code ||| 0x484A0000
/-- `BLK_STATUS`. -/
def State.statusWord (s : State) : W32 :=
  let c := s.chip
  at_ 0 (b2n c.fwReady) ||| at_ 1 c.bootErr.toNat ||| at_ 4 (b2n c.bootsel) ||| at_ 5 (b2n c.halted) ||| at_ 6 (b2n c.bringup) |||
    at_ 7 (b2n c.warm)

def State.idPage (s : State) (a : Nat) : W32 :=
  if a = 0x0 then s.idWord else if a = 0x4 then blkVersion else if a = 0x8 then s.caps else if a = 0xC then at_ 0 (b2n s.chip.descMid)
  else if a = 0x18 then s.statusWord else if a = 0x1C then s.irqWord else if a = 0xF00 then at_ 0 s.misc.cntUserEn.toNat
  else if a = 0xF04 then s.misc.aheadWm.word else 0

/-! ## Power Manager (R497) -/

/-- `PWR_STAT`. -/
def Pwr.stat (p : Pwr) : W32 :=
  let t : W32 := match p.trans with
    | some t => at_ 3 1 ||| at_ 4 t.target.num ||| at_ 11 (b2n (t.stage == .held))
    | none => 0
  let q : W32 := match p.pend with
    | some x => at_ 7 1 ||| at_ 8 x.num
    | none => 0
  at_ 0 p.state.num ||| t ||| q ||| at_ 12 p.lastWake
/-- `PWR_RES`. -/
def Pwr.res (p : Pwr) : W32 := at_ 0 p.resCode ||| at_ 3 p.resTarget ||| at_ 6 p.resUnit ||| at_ 16 p.resSeq.toNat
/-- `PWR_CTL`. -/
def Pwr.ctl (p : Pwr) : W32 := at_ 0 (b2n p.legacy) ||| at_ 8 p.wakeEn.toNat

def Pwr.word (p : Pwr) (o : Nat) : W32 :=
  if o = 0x04 then p.stat else if o = 0x08 then p.res else if o = 0x0C then p.ctl else if o = 0x10 then p.timer
  else if o = 0x14 then p.leg else if o = 0x18 then p.time else 0

/-! ## Fault Collector (R516) -/

/-- Bits 0 to 2 from a vector of flags. -/
def bits3 (v : Vector Bool 3) : Nat := b2n v[0] + 2 * b2n v[1] + 4 * b2n v[2]
/-- `FLT_STAT`. -/
def Flt.stat (f : Flt) (cycle : Nat) : W32 :=
  at_ 0 (bits3 f.active) ||| at_ 3 (bits3 (f.first.map Option.isSome)) ||| at_ 6 (b2n f.service) |||
    at_ 7 (b2n (f.fences.any fun x => x.shadowed cycle))
/-- `FLT_FENCED`: a port's bit stands from the start of its fence. -/
def State.fencedWord (s : State) : W32 :=
  let land := (List.range 12).foldl (fun w l => w ||| at_ l (b2n (s.landFenced l))) (0 : W32)
  let cmp := (List.range 3).foldl (fun w g => w ||| at_ (12 + g) (b2n (s.gal g).cmpFenced)) (0 : W32)
  let port := (List.range 8).foldl (fun w p => w ||| at_ (16 + p) (b2n (s.flt.fences.any fun f => f.grain == .port && f.port == p)))
    (0 : W32)
  land ||| cmp ||| at_ 15 (b2n s.misc.tierFenced) ||| port

def State.fltPage (s : State) (o : Nat) : W32 :=
  let f := s.flt
  let v := s.shot.flt
  if o = 0x00 then f.stat s.chip.cycle else if o = 0x04 then at_ 0 (bits3 f.ovf)
  else if o = 0x08 then at_ 0 f.irq.toNat ||| at_ 8 f.en.toNat else if o = 0x0C then at_ 0 f.quietMs else if o = 0x10 then at_ 0 f.aliveUs
  else if o = 0x14 then s.fencedWord
  else if 0x20 ≤ o ∧ o < 0x50 ∧ o % 16 = 0 then (((f.first[o / 16 - 2]?).getD none).map (·.src)).getD 0
  else if 0x20 ≤ o ∧ o < 0x50 ∧ o % 16 = 4 then (((f.first[o / 16 - 2]?).getD none).map (·.detail)).getD 0
  else if 0x60 ≤ o ∧ o < 0x6C then (v.count[(o - 0x60) / 4]?).getD 0
  else if o = 0x6C then v.conseq else if o = 0x70 then v.recoveries else if o = 0x74 then v.fencesStarted else 0

/-! ## Mailboxes, Event Queue, Arcade (R437, R441, R453) -/

def MbState.code : MbState → Nat
  | .idle => 0
  | .pending => 1
  | .busy => 2
  | .done => 3

def Mailbox.page (b : Mailbox) (o : Nat) : W32 :=
  if o < 0x100 then getW 0 b.cmd (o / 4) else if o < 0x200 then getW 0 b.rsp ((o - 0x100) / 4)
  else if o = 0x204 then at_ 0 b.state.code ||| at_ 2 (b2n b.overrun) else if o = 0x208 then at_ 0 (b2n b.ie) ||| at_ 1 (b2n b.pwin)
  else if 0x800 ≤ o then readWord b.pay (2048 * b2n b.pwin + (o - 0x800)) else 0

/-- Four 8-bit fields, each saturated. -/
def bytes4 (f : Nat → Nat) : W32 := (List.range 4).foldl (fun w p => w ||| at_ (8 * p) (min 255 (f p))) 0

/-- `LBY_AR_STAT`. A packet enters the ring whole, at its close, so none is ever open between two commands (log entry 122, DESIGN
CHOICE). -/
def Arcade.stat (a : Arcade) : W32 := at_ 0 (min 8192 a.fill) ||| at_ 14 (b2n a.overrun) ||| at_ 15 (b2n a.markLost)

def State.lbyPage (s : State) (o : Nat) : W32 :=
  if 0x4 ≤ o ∧ o < 0x20 then s.eq.latch.getD (o / 4 - 1) 0
  else if o = 0x20 then at_ 0 s.eq.mask.toNat else if o = 0x24 then bytes4 fun p => ((s.eq.items[p]?).getD []).length
  else if o = 0x28 then bytes4 fun p => (s.eq.lost[p]?).getD 0 else if o = 0x2C then at_ 0 s.eq.stall.toNat
  else if 0x104 ≤ o ∧ o < 0x124 then s.arcade.latch.getD ((o - 0x104) / 4) 0
  else if o = 0x140 then s.arcade.stat else if o = 0x148 then s.arcade.drop else 0

/-! ## DMA channels (R430) -/

def DmaState.code : DmaState → Nat
  | .idle => 0
  | .running => 1
  | .parked => 2
  | .stopping => 3
  | .stopped => 4
  | .error => 5
  | .halted => 6
  | .resetting => 7

def Dma.page (x : Dma) (o : Nat) : W32 :=
  if o = 0x00 then x.ctl
  else if o = 0x04 then (match x.bind with
    | some (p, d) => at_ 0 p ||| at_ 3 d ||| at_ 7 1
    | none => 0)
  else if o = 0x08 then at_ 0 x.head else if o = 0x10 then at_ 0 x.state.code ||| at_ 3 (b2n x.dbPend) ||| at_ 4 x.cur
  else if o = 0x14 then at_ 0 x.irq.toNat else if o = 0x18 then at_ 0 x.doneBytes else if o = 0x1C then x.doneShown
  else if o = 0x20 then x.errInfo else if o = 0x2C then x.skipShown else 0

/-! ## User pages (R524) -/

def State.userPage (s : State) (n o : Nat) : W32 :=
  if s.misc.cntUserEn.getLsbD n then getW 0 s.blk.cnt (0x20000 + 0x1000 * n + o) else 0

/-! ## Gallery common page (R539) -/

/-- `ECC_ERASE` of a Landing and subchannel: Fh in every rank without a declared device. -/
def Gallery.eraseWord (x : Gallery) (l sub : Nat) : W32 :=
  (List.range 8).foldl (fun w r => w ||| at_ (4 * r) (((x.erase.find? fun e => e.1 == (l, sub, r)).map (·.2)).getD 15)) 0

/-- A read-write word of a Gallery's common page as a read shows it. -/
def State.galWord (s : State) (g o : Nat) : W32 := s.gw g o &&& galMask o

def State.galPage (s : State) (g o : Nat) : W32 :=
  let x := s.gal g
  let v := s.chip.variant
  if o < 0x3000 then
    (if o = 0x2004 then at_ 0 x.eccNext ||| at_ 4 (b2n x.eccWrap)
     else if 0x2010 ≤ o ∧ o < 0x2040 then getW 0 x.page.cnt o
     else if 0x2040 ≤ o ∧ o < 0x2050 then ((x.ceWm[(o - 0x2040) / 4]?).getD Wm.zero).word ||| s.galWord g o
     else if 0x2080 ≤ o ∧ o < 0x20A0 then x.eraseWord ((o - 0x2080) / 8) ((o - 0x2080) / 4 % 2)
     else if 0x2100 ≤ o ∧ o < 0x2200 then getW 0 x.eccLog o
     else s.galWord g o)
  else if o < 0x4000 then
    (if !v.cipher then 0
     else if o = 0x3000 then at_ 0 (b2n s.misc.kek.isSome) ||| at_ 1 (b2n s.misc.kekLock) ||| at_ 2 (b2n x.haltSrc)
     else if o = 0x3004 then at_ 0 x.tagLines else if 0x3010 ≤ o ∧ o < 0x3028 then getW 0 x.page.cnt o
     else if o = 0x3040 then x.haltInfo else 0)
  else if o < 0x5000 then
    (if !v.cmpTier then 0
     else if o = 0x4004 then at_ 0 (b2n x.cmpFenced) ||| at_ 1 (min 3 x.errFlight) else if o = 0x4008 then x.errInfo
     else if 0x4020 ≤ o ∧ o < 0x4040 then getW 0 x.page.cnt o else s.galWord g o)
  else if o < 0x6000 then
    (if !v.cmpTier then 0
     else if o = 0x500C then at_ 0 x.zone ||| at_ 2 (b2n s.misc.tierFenced) else if o = 0x5010 then at_ 0 x.freeFrames
     else if o = 0x5014 then at_ 0 x.resv else if o = 0x5018 then at_ 0 x.frames else if o = 0x5024 then x.wmLow.word
     else if o = 0x5028 then x.wmCrit.word else if 0x5040 ≤ o ∧ o < 0x505C then getW 0 x.page.cnt o else s.galWord g o)
  else if 0x6050 ≤ o ∧ o < 0x6070 then ((x.prog[(o - 0x6050) / 4]?).getD (0, 0)).1
  else if o = 0x6070 then at_ 0 x.ovf.toNat else 0

/-! ## Landing page (R540) -/

/-- `ARB_STAT`. -/
def Arb.stat (a : Arb) : W32 :=
  at_ 0 a.tiePtr ||| (match a.lock with
    | some k => at_ 4 1 ||| at_ 5 (b2n k.suspended) ||| at_ 6 k.owner
    | none => 0)

def State.arbPage (s : State) (l o : Nat) : W32 :=
  let x := s.land l
  if o = 0x004 then x.arb.stat else if o = 0x008 then x.arb.rsv.word ||| at_ 16 x.arb.rsvLimit
  else if 0x040 ≤ o ∧ o < 0x04C then getW 0 x.page.cnt o
  else if 0x100 ≤ o ∧ o < 0x1CC then
    (if o % 16 < 8 then getW 0 x.page.cnt o else if o % 16 = 8 then at_ 0 ((x.arb.longest[(o - 0x100) / 16]?).getD 0) else 0)
  else s.lw l o &&& landMask o

def LState.code : LState → Nat
  | .run => 0
  | .drain => 1
  | .sr => 2
  | .halt => 3
  | .fenced => 4
  | .retry => 5

/-- `SEQ_STAT`. -/
def Seq.stat (q : Seq) (dl : Bool) : W32 :=
  at_ 0 q.lstate.code ||| at_ 3 (b2n q.dirA) ||| at_ 4 (b2n q.dirB) ||| at_ 5 (min 64 q.rqUsed) ||| at_ 12 (min 64 q.wqUsed) ||| at_ 19 (b2n dl)
/-- `SEQ_GEOM`. -/
def Geom.word (g : Geom) : W32 :=
  at_ 0 (b2n g.mrd) ||| at_ 1 (b2n g.dpc2) ||| at_ 2 g.rankBits ||| at_ 4 (b2n g.x8) ||| at_ 5 (b2n g.bank4) ||| at_ 6 g.rowBits |||
    at_ 8 (b2n g.valid) ||| at_ 16 g.rate

def State.seqPage (s : State) (l o : Nat) : W32 :=
  let x := s.land l
  if o = 0x408 then x.seq.stat ((s.lw l 0).getLsbD 0) else if o = 0x410 then x.seq.geom.word
  else if 0x420 ≤ o ∧ o < 0x440 then getW 0 x.page.cnt o else s.lw l o &&& landMask o

/-- A maintenance window is open: one began in this tread, or work of it is still presented. -/
def State.windowOpen (s : State) (l : Nat) : Bool :=
  let x := s.land l
  x.mnt.lastWindow == some s.tread || (x.arb.staging ++ x.arb.grantNext.toList ++ x.seq.claims).any fun a => a.isClaim && !a.emergency
/-- Refresh debt of a rank as software reads it. -/
def Mnt.debt (m : Mnt) (i : Nat) : Nat := match m.ref[i]? with
  | some r => min 4 r.sched.debt
  | none => 0
/-- `MNT_STAT`. -/
def State.mntStat (s : State) (l : Nat) : W32 :=
  let m := (s.land l).mnt
  at_ 0 (b2n m.hot) ||| at_ 1 (b2n (s.windowOpen l)) ||| at_ 2 (b2n (s.windowClaimed l)) ||| at_ 3 (b2n m.abo.isSome) |||
    at_ 4 ((List.range 16).foldl (fun n i => max n (m.debt i)) 0)
/-- `MNT_DEBT_A` or `MNT_DEBT_B`. -/
def Mnt.debtWord (m : Mnt) (sub : Nat) : W32 := (List.range 8).foldl (fun w k => w ||| at_ (3 * k) (m.debt (8 * sub + k))) 0

def State.mntPage (s : State) (l o : Nat) : W32 :=
  let x := s.land l
  if o = 0x604 then s.mntStat l else if o = 0x608 then x.mnt.debtWord 0 else if o = 0x60C then x.mnt.debtWord 1
  else if o = 0x630 then at_ 0 x.mnt.temp ||| at_ 8 (b2n x.mnt.fail) else if o = 0x634 then x.mnt.debtWm.word
  else if o = 0x638 then x.mnt.aboWm.word ||| (s.lw l o &&& landMask o)
  else if 0x680 ≤ o ∧ o < 0x6B0 then getW 0 x.page.cnt o else s.lw l o &&& landMask o

/-- A rule register with its read-only `UNIT` (R193). -/
def State.ruleRead (s : State) (l o : Nat) (r : RuleRow) : W32 := (s.lw l o &&& ruleMask r) ||| at_ 24 r.unit
/-- `LB_SHORT` (R206): `LOOKBACK` is below `SEQ_T_PAR_LAT` + 16 CK. -/
def State.lbShort (s : State) (l : Nat) : Bool := decide (fld (s.lv l 0x40C) 15 8 < ((s.ckList l).getD 35 0) + 16)
/-- A converted register (R194, R197). -/
def State.convRead (s : State) (l o : Nat) : W32 :=
  if o = offRefi + 0x100 then at_ 0 s.blockFlight else getW 0 (s.land l).conv o

def State.rulePage (s : State) (l o : Nat) : W32 :=
  let x := s.land l
  match ruleAt o with
  | some r => s.ruleRead l o r
  | none =>
    if o = 0x8C0 then s.lw l o &&& landMask o else if o = 0x8C4 then at_ 0 (if x.seq.geom.valid then tckOf x.seq.geom.rate else 0)
    else if 0x900 ≤ o ∧ o < 0x990 then s.convRead l o else if o = 0x9F8 then x.tchk ||| at_ 2 (b2n x.refiPend) ||| at_ 3 (b2n (s.lbShort l)) else 0

/-- Base-2 logarithm of a small count. -/
def log2 (n : Nat) : Nat := if n < 2 then 0 else if n < 4 then 1 else if n < 8 then 2 else 3
/-- `SBD_SLOTt` (R317). -/
def slotWord (m : Option Module) : W32 :=
  match m with
  | none => 0
  | some m =>
    let d := m.spd
    at_ 0 1 ||| at_ 1 (b2n (d.type == .mrdimm)) ||| at_ 2 (b2n (d.ioWidth == 8)) |||
      at_ 3 (if d.densityGb = 24 then 1 else if d.densityGb = 32 then 2 else 0) ||| at_ 5 (log2 d.ranks) ||| at_ 16 (d.capacityGib % 1024)

def State.sbdPage (s : State) (l o : Nat) : W32 :=
  let b := (s.land l).sbd
  if !b.reached then 0
  else if o = 0xA00 then b.word else if o = 0xA04 then slotWord (b.moduleAt 0) else if o = 0xA08 then slotWord (b.moduleAt 1)
  else if o = 0xA0C then ((b.moduleAt 0).map (·.spd.serial)).getD 0 else if o = 0xA10 then ((b.moduleAt 1).map (·.spd.serial)).getD 0 else 0

def PhyMode.code : PhyMode → Nat
  | .active => 0
  | .gated => 1
  | .deep => 2
  | .retain => 0

/-- `PHY_STAT`. -/
def State.phyStat (s : State) (l : Nat) : W32 :=
  let p := (s.land l).phy
  at_ 0 p.mode.code ||| at_ 2 (b2n (s.gal (l / 4)).pllLock) ||| at_ 3 p.setA ||| at_ 6 p.setB ||| at_ 9 (b2n p.strValid) |||
    at_ 10 (b2n p.slew)
/-- `PHY_LIN` k. -/
def Phy.linWord (p : Phy) (k : Nat) : W32 :=
  at_ 0 (p.lin.getD k 0) ||| at_ 15 (if k = 0 then 0 else if k = 64 then 0x10000 else p.shape.getD k 0)

def State.phyPage (s : State) (l o : Nat) : W32 :=
  let x := s.land l
  let rw := s.lw l o &&& landMask o
  if o = 0x1004 then s.phyStat l else if o = 0x1008 then rw ||| at_ 8 (b2n (s.gal (l / 4)).pllLock)
  else if o = 0x1010 then rw ||| at_ 16 (b2n x.phy.oor)
  else if o = 0x1018 then at_ 0 x.phy.nextK ||| at_ 8 (s.strAge l) ||| at_ 12 (min 3 x.phy.rejRun)
  else if o = 0x101C then at_ 0 x.phy.zero ||| at_ 16 x.phy.full
  else if o = 0x1020 ∨ o = 0x1024 then getW 0 x.page.cnt o
  else if 0x1100 ≤ o ∧ o < 0x1204 then x.phy.linWord ((o - 0x1100) / 4) else rw

/-- `CAL_STAT`. -/
def Cal.stat (c : Cal) : W32 :=
  at_ 0 c.state ||| at_ 3 (b2n c.pending) ||| at_ 4 c.cause ||| at_ 7 (min 3 c.rejRun) ||| at_ 9 (b2n c.bootFail) ||| at_ 10 c.failStep |||
    at_ 14 (b2n c.marginLow) ||| at_ 16 c.rankFail.toNat
/-- `CAL_MARGIN` of a rank. -/
def Cal.marginWord (c : Cal) (sub rank : Nat) : W32 :=
  match c.margins.find? fun m => m.sub == sub && m.rank == rank with
  | some m => at_ 0 (min 255 m.rdPs) ||| at_ 8 (min 255 m.wrPs) ||| at_ 16 (min 255 m.rdMv) ||| at_ 24 1
  | none => 0

def State.calPage (s : State) (l o : Nat) : W32 :=
  let x := s.land l
  if o = 0x3804 then x.cal.stat else if o = 0x3808 then (s.lw l o &&& landMask o) ||| at_ 8 x.cal.tRef
  else if 0x3820 ≤ o ∧ o < 0x3830 then getW 0 x.page.cnt o
  else if 0x3840 ≤ o ∧ o < 0x3880 then x.cal.marginWord ((o - 0x3840) / 32) ((o - 0x3840) / 4 % 8) else s.lw l o &&& landMask o

def State.landPage (s : State) (l o : Nat) : W32 :=
  if o < 0x400 then s.arbPage l o else if o < 0x600 then s.seqPage l o else if o < 0x800 then s.mntPage l o
  else if o < 0xA00 then s.rulePage l o else if o < 0x1000 then s.sbdPage l o else if o < 0x3800 then s.phyPage l o else s.calPage l o

/-! ## 64-bit registers (R12, R535) -/

/-- The value of the 64-bit register whose low word stands at an address of a page. -/
def Gallery.wide (x : Gallery) (v : Variant) (o : Nat) : Option Nat :=
  if o = 0x3044 then some (if v.cipher then x.haltLpa else 0) else if o = 0x304C then some (if v.cipher then x.haltTime else 0)
  else if o = 0x400C then some (if v.cmpTier then x.errPage else 0) else if o = 0x6000 then some x.cntFix
  else if 0x6010 ≤ o ∧ o < 0x6050 ∧ o % 8 = 0 then some ((x.prog[(o - 0x6010) / 8]?).getD (0, 0)).2 else none

def Landing.wide (x : Landing) (o : Nat) : Option Nat :=
  if o = 0x620 then some x.mnt.scrubPos else if o = 0x3810 then some x.cal.last else none

/-- The 64-bit register at a CFG address. -/
def State.wide (s : State) (a : Nat) : Option Nat :=
  match sliceOf a with
  | some (g, o) => (match pageOf o with
    | some (l, off) => (s.land (4 * g + l)).wide off
    | none => (s.gal g).wide s.chip.variant o)
  | none =>
    if a = 0x10 then some s.now
    else if 0x2028 ≤ a ∧ a < 0x2058 ∧ a % 16 = 8 then some ((((s.flt.first[(a - 0x2028) / 16]?).getD none).map (·.time)).getD 0)
    else if 0x10000 ≤ a ∧ a < 0x18000 ∧ a % 0x1000 = 0x24 then some (s.ch ((a - 0x10000) / 0x1000)).errAddr
    else if 0x20000 ≤ a ∧ a < 0x28000 ∧ a % 0x1000 = 0 ∧ !s.chip.descMid then
      some (if s.misc.cntUserEn.getLsbD ((a - 0x20000) / 0x1000) then 16 * s.tread else 0)
    else none

/-! ## One word of the map (R530) -/

/-- The word that a CFG address outside the 64-bit registers shows. Descriptors stand in the descriptor ranges (R413, R531);
the pops of the Event Queue and the Arcade have rows of their own. -/
def State.wordAt (s : State) (a : Nat) : W32 :=
  match sliceOf a with
  | some (g, o) => (match pageOf o with
    | some (l, off) => s.landPage (4 * g + l) off
    | none => if o < 0x10000 then s.galPage g o else 0)
  | none =>
    if a < 0x1000 then s.idPage a else if a < 0x2000 then s.pwr.word (a - 0x1000) else if a < 0x3000 then s.fltPage (a - 0x2000)
    else if a < 0xC000 then (s.box (if a < 0x4000 then 8 else (a - 0x4000) / 0x1000)).page (a % 0x1000)
    else if a < 0xD000 then s.lbyPage (a - 0xC000) else if a < 0x10000 then 0
    else if a < 0x18000 then (s.ch ((a - 0x10000) / 0x1000)).page (a % 0x1000)
    else if 0x20000 ≤ a ∧ a < 0x28000 ∧ !s.chip.descMid then
      (if 0x10 ≤ a % 0x1000 ∧ a % 0x1000 < 0x28 then s.userPage ((a - 0x20000) / 0x1000) (a % 0x1000) else 0)
    else if a < 0x38000 then readWord s.desc (a - 0x18000) else 0

/-- Read the word at an address: the low word of a 64-bit register loads its latch, the high word answers the latch (R12, R535). -/
def State.readWordAt (s : State) (a : Nat) : W32 × State :=
  match s.wide a with
  | some v =>
    (BitVec.ofNat 32 v, { s with cfg := { s.cfg with latches := setW 0 s.cfg.latches a (BitVec.ofNat 32 (v / 2 ^ 32)) } })
  | none =>
    match s.wide (a - 4) with
    | some _ =>
      let hidden := decide (0x20000 ≤ a ∧ a < 0x28000) && !s.misc.cntUserEn.getLsbD ((a - 0x20000) / 0x1000)
      (if hidden then 0 else if 4 ≤ a then getW 0 s.cfg.latches (a - 4) else s.wordAt a, s)
    | none => (s.wordAt a, s)

end Sys2Proof.Machine
end

