-- ==== Sys2Proof/Machine/Report.lean ====
section
/-! DEFINITION. Reports of detectors outside the other rows and their reactions (R39, R515), the settling of fences and
the ends of their shadows (R505–R509), and the quiet period (R511); with their rows. -/

namespace Sys2Proof.Machine

/-! ## Reactions to SRAM words (R39, R515) -/

/-- The coordinates that a detail word names (R501). -/
def coordOfDetail (w : W32) : Coord :=
  { sub := fld w 23 23, rank := fld w 26 24, bg := fld w 2 0, bank := fld w 4 3, row := fld w 22 5, col := 0 }

/-- A Vestibule buffer word of transaction `id`: its DAT carries poison, or its write is stored with the poison
encoding. -/
def State.poisonTxn (s : State) (p id : Nat) : State :=
  let mine (a : Access) : Bool := a.client == .host p id
  let mark (a : Access) : Access := if mine a && a.op != .read then { a with poison := true, op := .write } else a
  let s := s.modTxn p id fun t =>
    { t with poison := t.poison || t.opc.write
             resp := t.resp.map fun r => if r.dat then { r with poison := true, data := 0 } else r }
  eachBelow 12 (fun l s => s.modArb l fun x => { x with staging := x.staging.map mark, grantNext := x.grantNext.map mark }) s

/-- A word of a cached metadata line: a clean copy is dropped and fetched again; a dirty one is lost. -/
def State.loseCached (s : State) (g : Nat) (k : MetaKind) (lpa : Nat) (r : Rep) : State :=
  match s.cached g k lpa with
  | none => s.raise r none
  | some c =>
    let s := s.modGal g fun x => { x with cache := x.cache.filter fun e => !(e.kind == k && e.lpa == lpa) }
    if !c.dirty then s.raise { r with cls := 1 } none
    else
      match k, s.ownerOf (lpaLanding lpa) (lpaAddr lpa) with
      | .tag, _ => (s.raise r none).poisonCovered lpa (beStamp s.now)
      | .pageMap, .pages n i => s.losePageMap lpa n i (beStamp s.now)
      | .heat, .heat h => s.resetHeat lpa h (beStamp s.now)
      | .poolMap, .pool j => s.losePoolMap lpa j
      | _, _ => s

/-- A descriptor or bounce word of a channel: place 0 is the descriptor, which fails with code 1h; place i + 1 is
destination line i: where it has not been issued it is written with poison, and the descriptor fails with 4h (R515). -/
def State.dmaWord (s : State) (ch place : Nat) : State :=
  if place = 0 then
    let w := Config.dmaCheckPlace s.chip.free
    let s := s.modChip fun c => { c with free := c.free + 1 }
    s.modCh ch fun x => { x with run := x.run.map fun r => r.failCheck 1 w }
  else
    s.modCh ch fun x =>
      { x with run := x.run.map fun r =>
          { r.fail 4 true r.dstHall (((r.dsts[place - 1]?).map fun d => d.off + d.lo).getD 0) with
            dsts := modAt r.dsts (place - 1) fun d => { d with poison := !d.issued } } }

/-- Remove wide word `i` of the ring, counted from the read pointer. -/
def Arcade.discard (a : Arcade) (i : Nat) : Arcade :=
  let pos := (a.rptr / 8 + i) * 8
  if a.fill ≤ i then a
  else if i = 0 then a.advance
  else
    let back (q : Nat) : Nat := if pos + 8 ≤ q then q - 8 else q
    { a with words := a.words.take (pos - a.base) ++ a.words.drop (pos + 8 - a.base)
             packets := (a.packets.filter fun p => !(decide (p.first < pos + 8) && decide (pos < p.first + p.len))).map fun p =>
               { p with first := back p.first }
             pads := (a.pads.filter fun p => p.1 != pos / 8).map fun p => (back (p.1 * 8) / 8, p.2)
             mark := a.mark.map back }

/-- An Event Queue word (place below 2,048: 512 per priority) or an Arcade wide word is discarded. -/
def State.dropItem (s : State) (place : Nat) : State :=
  if place < 2048 then
    { s with eq := { s.eq with items := s.eq.items.setIfInBounds (place / 512) (((s.eq.items[place / 512]?).getD []).eraseIdx (place % 512)) } }
  else { s with arcade := s.arcade.discard (place - 2048) }

/-- A counter or fault-log word, by its CFG address, is set to 0. -/
def State.zeroCount (s : State) (a : Nat) : State :=
  let clr (r : RegFile) (off : Nat) : RegFile := { r with cnt := setW 0 r.cnt off 0 }
  match sliceOf a with
  | some (g, o) =>
    (match pageOf o with
     | some (l, off) => s.modLand (4 * g + l) fun x => { x with page := clr x.page off }
     | none =>
       if 0x2100 ≤ o ∧ o < 0x2200 then s.modGal g fun x => { x with eccLog := setW 0 x.eccLog o 0 }
       else s.modGal g fun x => { x with page := clr x.page o })
  | none =>
    let s := { s with blk := clr s.blk a }
    let zero (f : Flt) : Flt :=
      if 0x2060 ≤ a ∧ a < 0x206C then { f with count := f.count.setIfInBounds ((a - 0x2060) / 4) 0 }
      else if a = 0x206C then { f with conseq := 0 }
      else if a = 0x2070 then { f with recoveries := 0 }
      else if a = 0x2074 then { f with fencesStarted := 0 }
      else f
    let s : State := { s.modFlt zero with shot := { s.shot with flt := zero s.shot.flt } }
    if 0x10000 ≤ a ∧ a < 0x18000 then
      s.modCh ((a - 0x10000) / 0x1000) fun x =>
        if a % 0x1000 = 0x1C then { x with descDone := 0, doneShown := 0 }
        else if a % 0x1000 = 0x2C then { x with skipped := 0, skipShown := 0 }
        else x
    else s

/-! ## A report from outside (R515) -/

/-- The fence that a source starts, by its table row. -/
def State.fenceFor (s : State) (r : Rep) : Option Fence :=
  let k := (r.subsys, r.code)
  if k = (4, 2) ∨ k = (5, 2) ∨ k = (15, 2) ∨ k = (14, 4) then some (s.landFence [r.inst] r)
  else if k = (7, 4) ∨ k = (15, 3) then
    some { (s.landFence ((List.range 4).map fun i => 4 * r.inst + i) r) with noDrain := decide (r.subsys = 7) }
  else if k = (12, 0xF1) then some { s.newFence .tier 0 r with group := [] }
  else none

/-- The report of a detector, with its Landing and storage where the source names them. -/
def reportRep (w : ReportWord) : Rep :=
  let r := rep w.subsys w.code w.inst w.detail
  let r : Rep := { r with land := (srcLanding w.subsys w.code w.inst).or r.land }
  if w.subsys = 6 ∧ 2 ≤ w.code ∧ w.code ≤ 7 ∨ w.subsys = 5 ∧ w.code = 3 then { r with coord := some (coordOfDetail w.detail) } else r

/-- What else a source does (R515). -/
def State.react (s : State) (w : ReportWord) : State :=
  let r := reportRep w
  let k := (w.subsys, w.code)
  let s := if srcLevel w.subsys w.code then s.levelOn r else s
  if w.code = 0xF0 then s.raise r none
  else if k = (1, 1) ∨ k = (1, 2) then s.portFault w.inst w.code
  else if k = (1, 0xF1) then (s.raise r none).poisonTxn w.inst w.place
  else if k = (6, 2) then s.raiseUE w.inst (coordOfDetail w.detail)
  else if k = (7, 2) ∨ k = (8, 2) then (s.raise r none).askMargin w.inst
  else if k = (10, 0xF1) then s.loseCached (metaGal w.place) .tag w.place r
  else if k = (11, 2) then s.loseCached (metaGal w.place) .pageMap w.place r
  else if k = (12, 1) then s.loseCached (metaGal w.place) .heat w.place r
  else if k = (12, 2) then s.loseCached (metaGal w.place) .poolMap w.place r
  else if k = (11, 0xF1) then
    let s := s.raise r none
    match s.segOf w.inst w.place with
    | some f => s.segFails w.inst f (some 7)
    | none => s.modGal w.inst fun x => { x with dbuf := x.dbuf.eraseIdx w.place }
  else if k = (13, 0xF1) then (s.raise r none).dmaWord w.inst w.place
  else if k = (14, 1) ∨ k = (14, 2) then (s.raise r none).cpReset
  else if k = (14, 0xF1) then (s.raise r none).dropItem w.place
  else if k = (15, 1) then
    let s := s.raise r none
    if s.pwr.image && s.chip.coreOn then s.dropImage else s
  else if k = (16, 0xF1) then (s.raise r none).zeroCount w.place
  else s.raise r (s.fenceFor r)

/-! ## Fences: settling and shadows (R505, R506, R508, R509) -/

/-- No queue entry for the storage of a bank or rank fence remains. -/
def State.storageIdle (s : State) (f : Fence) : Bool :=
  let q := (s.land f.landing).seq
  !((q.rq ++ q.wq ++ q.inflight ++ q.checking.map (·.1) ++ q.wrote.map (·.2)).any fun a => f.covers f.landing (s.coord f.landing a.addr))

/-- The condition under which a fence has settled. -/
def State.fenceQuiet (s : State) (f : Fence) : Bool :=
  f.active &&
    match f.grain with
    | .row => true
    | .bank => s.storageIdle f
    | .rank => s.storageIdle f
    | .landing => f.group.all fun l => (s.land l).seq.lstate == .fenced
    | .cmp => (s.gal f.gallery).cmpFenced && (s.gal f.gallery).segs.isEmpty
    | .tier => (List.range 3).all fun g => (s.gal g).moves.isEmpty
    | .port => (s.port f.port).txns.isEmpty && (s.port f.port).state == .closed

def State.modFence (s : State) (id : Nat) (f : Fence → Fence) : State :=
  s.modFlt fun x => { x with fences := mapIf (fun e => e.id = id) f x.fences }

/-- Levels that the shadow had silenced and that still hold report again (R509). -/
def State.repeatLevels (s : State) (f : Fence) : State :=
  s.raiseAll ((s.flt.levels.filter fun r => f.echo r).map fun r => (r, none))

/-- The shadow of a fence ends. -/
def State.endShadow (s : State) (f : Fence) : State := (s.modFence f.id fun e => { e with shadow := false }).repeatLevels f

/-- The fence with a number. -/
def State.fenceOf (s : State) (id : Nat) : Option Fence := s.flt.fences.find? fun f => f.id == id

/-! ## The rows -/

/-- `FAULT_REPORT` (R502, R515). A source that R515 does not list cannot report. -/
def execFaultReport (w : ReportWord) (s : State) : Out :=
  if srcExists w.subsys w.code && s.chip.phase != .cold && s.pwr.state != .p4 then .next ((s.react w).pump) else .next s

/-- `FENCE_SETTLED` (R505). -/
def execFenceSettled (i : Nat) (s : State) : Out :=
  match s.fenceOf i with
  | some f =>
    if !f.settled && s.fenceQuiet f then
      .next (s.modFence i fun e => { e with settled := true, settledAt := s.chip.cycle })
    else .next s
  | none => .next s

/-- `FENCE_SETTLE_TIMEOUT`: a fence not settled within 1 ms of its start ends its shadow, and 16/01h names the grain
(R506). -/
def execFenceSettleTimeout (i : Nat) (s : State) : Out :=
  match s.fenceOf i with
  | some f =>
    if !f.settled && f.shadow && decide (f.time + 2000000 ≤ s.chip.cycle) then .next ((s.endShadow f).raise (rep 16 1 0 (at_ 0 (grainCode f.grain))) none) else .next s
  | none => .next s

/-- `SHADOW_END`: two treads after the fence has settled (R508). -/
def execShadowEnd (i : Nat) (s : State) : Out :=
  match s.fenceOf i with
  | some f => if f.settled && f.shadow && decide (f.settledAt + 64 ≤ s.chip.cycle) then .next (s.endShadow f) else .next s
  | none => .next s

/-- The index of a class. -/
def classIndex (k : FaultClass) : Nat :=
  match k with
  | .c => 0
  | .u => 1
  | .f => 2

/-- The quiet period of a class has run since its last report, the end of its last level condition, and the switch to Service mode
(R511, R512). -/
def Flt.quiet (f : Flt) (k now : Nat) : Bool := decide (max ((f.lastReport[k]?).getD 0) f.switched + 1000000 * f.quietMs ≤ now)

/-- `QUIET_PERIOD_END`: in Service mode the state of class C or U ends (R511). -/
def execQuietPeriodEnd (cls : FaultClass) (s : State) : Out :=
  let k := classIndex cls
  if s.flt.service && k != 2 && (s.flt.active[k]?).getD false && !s.flt.levels.any (fun r => r.cls == k + 1) && s.flt.quiet k s.now then
    .next (((s.endClass k).modFlt fun f => { f with recoveries := satInc f.recoveries }).bumpB 0x2070 1)
  else .next s

end Sys2Proof.Machine
end

