-- ==== Sys2Proof/Machine/Dma.lean ====
section
/-! DEFINITION. The host DMA channels (R410–R430): the doorbell, STOP and RESET by state, the start of a descriptor with its
checks, its lines, and its completion. -/

namespace Sys2Proof.Machine

/-! ## Descriptors (R413, R414) -/

/-- Word k of descriptor i. -/
def State.descWord (s : State) (i k : Nat) : W32 := readWord s.desc (32 * i + 4 * k)
/-- Write word k of descriptor i. -/
def State.putDesc (s : State) (i k : Nat) (w : W32) : State := { s with desc := writeBytes s.desc (32 * i + 4 * k) (wordBytes w) }

/-- Length in bytes: 0 means 16 MiB. -/
def descLen (ws : List W32) : Nat := if fld (ws.getD 1 0) 23 0 = 0 then 2 ^ 24 else fld (ws.getD 1 0) 23 0
def descSrcOff (ws : List W32) : Nat := (ws.getD 3 0).toNat + fld (ws.getD 4 0) 15 0 * 2 ^ 32
def descDstOff (ws : List W32) : Nat := (ws.getD 5 0).toNat + fld (ws.getD 4 0) 31 16 * 2 ^ 32
def descOp (ws : List W32) : Nat := fld (ws.getD 0 0) 15 14
def descSwap (ws : List W32) : Nat := fld (ws.getD 0 0) 17 16

/-- The lines of a byte range, rounded outward (R417). -/
def dmaLines (off len : Nat) : List DmaLine :=
  let first := off / 64 * 64
  (List.range ((off + len + 63) / 64 - off / 64)).map fun i =>
    let o := first + 64 * i
    { off := o, lo := max off o - o, hi := min (off + len) (o + 64) - o, issued := false, done := false, data := 0, failed := false
      poison := false, ahead := false, resolved := none }

/-- What is wrong with the shape of a descriptor: code 1h (R415). -/
def descBad (ws : List W32) : Bool :=
  let src := descSrcOff ws
  let dst := descDstOff ws
  let len := descLen ws
  let copy := descOp ws == 0
  decide (2 ≤ descOp ws) || descSwap ws == 3 ||
    (descSwap ws != 0 && ((copy && src % 4 != 0) || dst % 4 != 0 || len % 4 != 0)) ||
    (copy && fld (ws.getD 2 0) 9 0 == fld (ws.getD 2 0) 25 16 && decide (src < dst + len) && decide (dst < src + len))

/-- A range does not lie in a hall that exists (code 2h). -/
def State.rangeBad (s : State) (n off len : Nat) : Bool :=
  match s.hall n with
  | none => true
  | some h => h.phase == .creating || h.phase == .releasing || decide (h.reach < off + len)

/-- The run of a descriptor as fetched, with the error its checks find. -/
def State.dmaRunOf (s : State) (ch : Nat) (ws : List W32) : DmaRun :=
  let x := s.ch ch
  let len := descLen ws
  let copy := descOp ws == 0
  let r : DmaRun :=
    { words := ws, due := BitVec.ofNat 12 (fld x.ctl 15 4), skip := x.ctl.getLsbD 0
      srcs := if copy then dmaLines (descSrcOff ws) len else [], dsts := dmaLines (descDstOff ws) len, err := none }
  let w := Config.dmaCheckPlace s.chip.free
  let none_ (r : DmaRun) : DmaRun := { r with srcs := [], dsts := [] }
  if x.bind.isNone then none_ (r.failCheck 9 w)
  else if descBad ws then none_ (r.failCheck 1 w)
  else if (copy && s.rangeBad r.srcHall (descSrcOff ws) len) || s.rangeBad r.dstHall (descDstOff ws) len then none_ (r.failCheck 2 w)
  else r

/-! ## Doorbell, STOP, RESET (R424–R429) -/

/-- Start a descriptor: the channel runs, and `DESCRIPTOR_START` fetches it. -/
def Dma.begin (x : Dma) (i : Nat) : Dma := { x with state := .running, cur := i, toStart := true, tailDone := false, run := none }

/-- A doorbell at a parked tail: word +00h of `cur` is read again. -/
def State.rereadTail (s : State) (x : Dma) : Dma :=
  let w := s.descWord x.cur 0
  let x := { x with dbPend := false }
  if w.getLsbD 12 then x else x.begin (fld w 11 0)

/-- The doorbell. -/
def State.dmaRing (s : State) (n : Nat) : State :=
  s.modCh n fun x =>
    match x.state with
    | .idle => x.begin x.head
    | .running => { x with dbPend := true }
    | .stopping => { x with dbPend := true }
    | .parked => s.rereadTail x
    | .stopped => if x.tailDone then s.rereadTail x else x.begin x.cur
    | .error => x
    | .halted => x
    | .resetting => x

/-- Enter STOPPED at a descriptor. -/
def Dma.stopAt (x : Dma) (i : Nat) (tail : Bool) : Dma :=
  { x with state := .stopped, cur := i, tailDone := tail, toStart := false, irq := x.irq ||| 8 }

/-- STOP. -/
def State.dmaStop (s : State) (n : Nat) : State :=
  s.modCh n fun x =>
    match x.state with
    | .idle => x.stopAt x.head false
    | .running => { x with state := .stopping }
    | .parked => x.stopAt x.cur true
    | _ => x

/-- Partial writes of a channel lose their locks (R142). -/
def State.breakDma (s : State) (n : Nat) : State :=
  let mine (a : Access) : Bool := match a.client with
    | .dma c _ => c == n && a.op == .rmw
    | _ => false
  eachBelow 12 (fun l s =>
    (((s.land l).seq.rq ++ (s.land l).seq.inflight ++ (s.land l).seq.checking.map (·.1)).filter mine).foldl
      (fun s a => s.refuseOne l a .lockBroken) s) s

/-- RESET. -/
def State.dmaReset (s : State) (n : Nat) : State :=
  let st := (s.ch n).state
  if st = .running ∨ st = .stopping then
    (s.modCh n fun x => { x with state := .resetting, toStart := false }).breakDma n
  else if st = .parked ∨ st = .stopped ∨ st = .error then s.modCh n fun x => { x with state := .idle, tailDone := false }
  else s

/-- A write of `DMA_CH_CMD`: RESET before STOP before the doorbell (R430). -/
def State.dmaCmd (s : State) (n : Nat) (w : W32) : State :=
  if w.getLsbD 2 then s.dmaReset n else if w.getLsbD 1 then s.dmaStop n else if w.getLsbD 0 then s.dmaRing n else s

/-- Every request that a run has issued has its response. -/
def DmaRun.answered (r : DmaRun) : Bool := (r.srcs ++ r.dsts).all fun l => !l.issued || l.done

/-- `DMA_CH_HEAD` (R429). -/
def State.dmaHead (s : State) (n : Nat) (w : W32) : State :=
  s.modCh n fun x =>
    if x.state = .idle ∨ x.state = .parked ∨ x.state = .stopped ∨ x.state = .error then
      { x with head := fld w 11 0, state := .idle, errSince := false, tailDone := false }
    else x

/-! ## Completion (R414, R420, R422) -/

/-- The word +1Ch of a descriptor that ended. -/
def endWord (err : Option (Nat × Bool × Nat × Nat)) : W32 :=
  match err with
  | none => 1
  | some e => at_ 1 1 ||| at_ 2 e.1

/-- Every request of the descriptor has its response, and every line has been issued unless an error stopped it. -/
def DmaRun.over_ (r : DmaRun) : Bool :=
  if r.err.isSome then r.answered && r.dsts.all (fun l => !l.poison || l.issued) else (r.srcs ++ r.dsts).all fun l => l.done

/-- What follows a descriptor: continue, park or stop, by word +00h read again. -/
def State.dmaNext (s : State) (n : Nat) : State :=
  s.modCh n fun x =>
    let w := s.descWord x.cur 0
    let tail := w.getLsbD 12
    let x : Dma := { x with dbPend := false, run := none }
    if x.state = .stopping then x.stopAt (if tail then x.cur else fld w 11 0) tail
    else if tail then { x with state := .parked, tailDone := true } else x.begin (fld w 11 0)

/-- Latch an error in the channel's registers. -/
def Dma.latchErr (x : Dma) (e : Nat × Bool × Nat × Nat) : Dma :=
  { x with errInfo := at_ 0 e.1 ||| at_ 4 (b2n e.2.1) ||| at_ 5 (e.2.2.1 % 1024) ||| at_ 15 x.cur, errAddr := e.2.2.2 % 2 ^ 48
           errSince := true }

/-- A descriptor ends. -/
def State.dmaComplete (s : State) (n : Nat) (r : DmaRun) : State :=
  let x := s.ch n
  let s := s.putDesc x.cur 7 (endWord r.err)
  match r.err with
  | none =>
    let s := (s.modCh n fun x => { x with descDone := x.descDone + 1, irq := if (r.words.getD 0 0).getLsbD 13 then x.irq ||| 1 else x.irq }).bumpB
      (0x1001C + 0x1000 * n) 1
    s.dmaNext n
  | some e =>
    if r.skip then
      let s := (s.modCh n fun x =>
        let x := if x.errSince then x else x.latchErr e
        { x with skipped := x.skipped + 1, irq := x.irq ||| 4 }).bumpB (0x1002C + 0x1000 * n) 1
      s.dmaNext n
    else s.modCh n fun x => { x.latchErr e with state := .error, irq := x.irq ||| 2, run := none }

/-! ## The rows -/

/-- CFG page of a channel. -/
def chBase (n : Nat) : Nat := 0x10000 + 0x1000 * n

/-- `DMA_RING`. -/
def execDmaRing (n : ChannelId) (strb : BitVec 4) (s : State) : Out := .next (s.cfgWrite (chBase n + 0xC) ⟨strb, 1⟩ fun s => (s.dmaCmd n 1).pump)
/-- `DMA_STOP`. -/
def execDmaStop (n : ChannelId) (strb : BitVec 4) (s : State) : Out := .next (s.cfgWrite (chBase n + 0xC) ⟨strb, 2⟩ fun s => (s.dmaCmd n 2).pump)
/-- `DMA_RESET`. -/
def execDmaReset (n : ChannelId) (strb : BitVec 4) (s : State) : Out := .next (s.cfgWrite (chBase n + 0xC) ⟨strb, 4⟩ fun s => (s.dmaCmd n 4).pump)

/-- `DMA_RESET_DONE`: the last outstanding response has come; the channel is IDLE (R428). -/
def execDmaResetDone (n : ChannelId) (s : State) : Out :=
  let x := s.ch n
  let quiet := match x.run with
    | some r => r.answered
    | none => true
  if x.state == .resetting && quiet then .next (s.modCh n fun x => { x with state := .idle, run := none, tailDone := false })
  else .next s

/-- `DMA_CH_HEAD_WRITE`. -/
def execDmaChHeadWrite (n : ChannelId) (w : CfgWord) (s : State) : Out := .next (s.cfgWrite (chBase n + 8) w fun s => s.dmaHead n w.data)

/-- Descriptors start in P0, and during an entry until the channels are asked to stop (R485, R493). -/
def State.dmaStarts (s : State) : Bool :=
  s.pwr.state == .p0 && !s.chip.halted && (match s.pwr.trans with
    | none => true
    | some t => t.stage == .held || t.stage == .ask 1)

/-- `DESCRIPTOR_START` (R414, R415): the descriptor is fetched and checked, and its first requests issue. A channel asked to
stop before the fetch stands at a descriptor boundary and stops there (R427). -/
def execDescriptorStart (n : ChannelId) (s : State) : Out :=
  let x := s.ch n
  if !x.toStart then .next s
  else if x.state = .stopping then .next ((s.modCh n fun x => x.stopAt x.cur false).pump)
  else if x.state != .running || !s.dmaStarts || !s.chip.coreOn || s.chip.phase != .out then .next s
  else
    let ws := (List.range 8).map (s.descWord x.cur)
    let r := s.dmaRunOf n ws
    let s := s.modChip fun c => { c with free := c.free + 1 }
    .next (s.modCh n fun x => { x with run := some r, toStart := false, doneBytes := 0, inForce := x.ctl }).pump

/-- `DESCRIPTOR_COMPLETE` (R420). -/
def execDescriptorComplete (n : ChannelId) (s : State) : Out :=
  let x := s.ch n
  match x.run with
  | some r => if (x.state == .running || x.state == .stopping) && r.over_ then .next (s.dmaComplete n r).pump else .next s
  | none => .next s

end Sys2Proof.Machine
end

