-- ==== Sys2Proof/Machine/Lobby.lean ====
section
/-! DEFINITION. The Lobby (R437–R453, R458–R464): doorbells, taking a command and its first checks, the objects commands hold, the
pops of the Event Queue and the Arcade with their stall, the Arcade's commands, and packets. -/

namespace Sys2Proof.Machine

/-! ## Addresses -/

/-- CFG page of a mailbox: LBA at 00_3000h, LBn at 00_4000h + n·1000h. -/
def boxBase (m : Nat) : Nat := if m = 8 then 0x3000 else 0x4000 + 0x1000 * m
def addrEqPop : Nat := 0xC000
def addrArPop : Nat := 0xC100
def addrArCmd : Nat := 0xC144

/-! ## Mailboxes (R439) -/

/-- A doorbell: IDLE and DONE go to PENDING, otherwise `OVERRUN`. Until an image has started with BOOTSEL high, LB0 to LB7 only
set `OVERRUN` (R436). -/
def State.ring (s : State) (m : Nat) : State :=
  let deaf := s.chip.bootsel && !s.chip.fwReady && decide (m < 8)
  s.modBox m fun b =>
    if deaf || b.state == .pending || b.state == .busy then { b with overrun := true } else { b with state := .pending, started := false }

/-- An acknowledgement returns DONE to IDLE. -/
def State.ackBox (s : State) (m : Nat) : State := s.modBox m fun b => if b.state = .done then { b with state := .idle } else b

/-! ## Commands: who may issue them and what they hold (R459–R463) -/

/-- Issuer classes of R460. -/
inductive Issuer
  | a
  | o
  | anyone
  deriving DecidableEq, Repr

/-- Opcode, issuer class, and whether the command works in Halt (R468–R477). -/
def opcodes : List (Nat × Issuer × Bool) :=
  [ (0x0001, .anyone, true), (0x0002, .a, false), (0x0003, .anyone, true), (0x0004, .anyone, true), (0x0101, .a, false)
  , (0x0102, .o, true), (0x0103, .a, false), (0x0104, .a, false), (0x0105, .anyone, true), (0x0106, .anyone, true)
  , (0x0107, .a, false), (0x0108, .a, false), (0x0109, .a, false), (0x0201, .a, false), (0x0202, .a, false)
  , (0x0203, .a, false), (0x0204, .a, false), (0x0205, .a, false), (0x0206, .a, false), (0x0207, .a, false)
  , (0x0208, .a, false), (0x0301, .a, false), (0x0302, .a, true), (0x0303, .a, false) ] ++
  [ (0x0401, .a, false), (0x0402, .a, false), (0x0403, .a, false), (0x0404, .a, false), (0x0405, .o, true)
  , (0x0406, .a, false), (0x0407, .a, false), (0x0408, .a, false), (0x0501, .a, false), (0x0601, .a, false)
  , (0x0602, .a, false), (0x0603, .a, false), (0x0701, .a, true), (0x0801, .anyone, true), (0x0802, .a, false)
  , (0x0803, .a, true), (0x0901, .a, true), (0x0902, .a, true), (0x0A01, .anyone, true), (0x0A02, .a, true)
  , (0x0A03, .a, false) ]

/-- The row of an opcode. -/
def opcodeRow (opc : Nat) : Option (Issuer × Bool) := (opcodes.find? fun e => e.1 == opc).map (·.2)

/-- An event code names an absent unit or channel (R523). -/
def State.absentEvent (s : State) (code : Nat) : Bool :=
  let unit := code / 4096
  let inst := code / 256 % 16
  let v := s.chip.variant
  if unit = 7 then !v.cipher || decide (s.nGal ≤ inst)
  else if unit = 8 ∨ unit = 9 ∨ unit = 14 then !v.cmpTier && unit != 14 || (unit != 14 && decide (s.nGal ≤ inst))
  else if unit = 10 then decide (v.dmaCh ≤ inst ∧ inst < 8)
  else if unit = 13 then (if code % 256 = 4 then !v.cmpTier else decide (s.nLand ≤ inst ∧ inst < 12))
  else if 1 ≤ unit ∧ unit ≤ 6 then decide (s.nLand ≤ inst ∧ inst < 12)
  else false

/-- A command needs an absent unit (R7, R459). -/
def State.absentUnit (s : State) (b : Mailbox) : Bool :=
  let v := s.chip.variant
  let opc := b.opc
  if opc = 0x0207 ∨ opc = 0x0208 ∨ opc = 0x0501 then !v.cmpTier
  else if opc = 0x0108 then decide (v.dmaCh ≤ fld (b.word 2) 2 0)
  else if opc = 0x0401 then !v.cipher
  else if opc = 0x0402 then (!v.cipher && fld (b.word 5) 1 0 != 0) || (!v.cmpTier && fld (b.word 5) 3 2 != 0)
  else if opc = 0x0901 then s.absentEvent (fld (b.word 2) 31 16)
  else false

/-- The issuing mailbox may issue the command for its object. -/
def State.mayIssue (s : State) (m : Nat) (b : Mailbox) : Bool :=
  match opcodeRow b.opc with
  | some (.anyone, _) => true
  | some (.a, _) => m == 8
  | some (.o, _) =>
    m == 8 ||
      (if b.opc = 0x0102 then fld (b.word 2) 2 0 == m
       else s.windows.any fun w => w.active && w.port == m && w.hall == fld (b.word 2) 9 0)
  | none => false

/-- What a command is refused with at its taking: length, unknown or absent, issuer. -/
def State.takeRefusal (s : State) (m : Nat) (b : Mailbox) : Option AStatus :=
  if 4096 < b.plen then some .badLength
  else if (opcodeRow b.opc).isNone || s.absentUnit b then some .unsupported
  else if !s.mayIssue m b then some .denied
  else none

/-- Objects of R462. -/
inductive Obj
  | block
  | gal (g : Nat)
  | land (l : Nat)
  | hall (h : Nat)
  | port (p : Nat)
  | dma (n : Nat)
  deriving DecidableEq, Repr

/-- Landings of a mask as objects. -/
def landObjs (w : W32) : List Obj := ((List.range 12).filter fun l => w.getLsbD l).map .land

/-- The objects of a command. -/
def State.objects (s : State) (b : Mailbox) : List Obj :=
  let w := b.word 2
  let opc := b.opc
  let hallSet (h : Nat) : List Obj := .hall h :: (((s.hall h).map Hall.members).getD []).map .land
  if opc = 0x0002 ∨ opc = 0x0103 ∨ opc = 0x0401 ∨ opc = 0x0701 then [.block]
  else if opc = 0x0101 ∨ opc = 0x0102 then [.port (fld w 2 0)]
  else if opc = 0x0104 ∨ opc = 0x0301 ∨ opc = 0x0603 then landObjs w
  else if opc = 0x0108 then [.dma (fld w 2 0)]
  else if opc = 0x0201 ∨ opc = 0x0202 ∨ opc = 0x0203 ∨ opc = 0x0204 ∨ opc = 0x0206 then landObjs w
  else if opc = 0x0205 ∨ opc = 0x0207 ∨ opc = 0x0208 then ((List.range 3).filter fun g => w.getLsbD g).map .gal
  else if opc = 0x0302 ∨ opc = 0x0601 ∨ opc = 0x0602 then [.land (fld w 3 0)]
  else if opc = 0x0303 then [.land (readByte b.pay 5).toNat]
  else if opc = 0x0402 then .hall (fld w 9 0) :: landObjs (b.word 3)
  else if opc = 0x0403 ∨ opc = 0x0404 then hallSet (fld w 9 0)
  else if opc = 0x0406 ∨ opc = 0x0407 then [.hall (fld w 9 0)]
  else if opc = 0x0408 then (match s.windows.find? fun x => x.num == fld w 11 0 with
    | some x => [.hall x.hall]
    | none => [])
  else if opc = 0x0501 ∨ opc = 0x0901 then [.gal (fld w 1 0)]
  else []

/-- Two commands ask for a common object; the block excludes every other holder. -/
def objClash (a b : List Obj) : Bool :=
  !a.isEmpty && !b.isEmpty && (a.contains .block || b.contains .block || a.any fun o => b.contains o)

/-- The mailbox whose command of an opcode runs for a hall. -/
def State.runner (s : State) (opc n : Nat) : Option Nat :=
  (List.range 9).find? fun m => let b := s.box m; b.state == .busy && b.started && b.opc == opc && fld (b.word 2) 9 0 == n

/-- A `HALL_CREATE` for a hall number whose release runs does not wait for it: it ends with `RESOURCE_BUSY` (R118, R472). -/
def State.createMeetsRelease (s : State) (b : Mailbox) : Bool :=
  b.opc == 0x0402 && (s.runner 0x0404 (fld (b.word 2) 9 0)).isSome

/-- A taken command may begin: no running command, and none taken before it, holds one of its objects. -/
def State.mayStart (s : State) (m : Nat) : Bool :=
  let b := s.box m
  let mine := s.objects b
  s.createMeetsRelease b || (List.range 9).all fun k =>
    let o := s.box k
    k == m || o.state != .busy || !(o.started || decide (o.taken < b.taken)) || !objClash mine (s.objects o)

/-- A command begins: in Halt only if it works there, and with DRAM work only in P0 with no transition (R459, R463), which is tested before
the command's own statuses, since outside P0 it cannot start (log entry 124, DEDUCED). `f` is its effect. Otherwise it waits in BUSY. -/
def State.amiom (s : State) (m opc : Nat) (f : State → State) : Out :=
  let b := s.box m
  if b.state == .busy && !b.started && b.opc == opc && s.chip.fwReady && s.mayStart m then
    if s.chip.halted && !((opcodeRow opc).map (·.2)).getD false then .next (s.finishS m .halted)
    else if needsDram opc && (!s.inP0 || s.pwr.pend.isSome) then .next (s.finishS m .badState)
    else .next (f s).pump
  else .next s

/-- The command goes on waiting for hardware. -/
def State.goesOn (s : State) (m : Nat) : State := s.modBox m fun b => { b with started := true }

/-! ## Taking a command (R440) -/

/-- The mailbox that firmware takes next: LBA, then LB0 to LB7 in rotation after the one it took last. -/
def State.nextBox (s : State) : Option Nat :=
  if (s.box 8).state = .pending then some 8
  else ((List.range 8).map fun i => (s.misc.lastTaken + 1 + i) % 8).find? fun m => (s.box m).state == .pending

/-- What the taking itself does: a query keeps the state captured last (R462), and `PORT_CLOSE` stops its port (R96). -/
def State.takeActs (s : State) (m : Nat) : State :=
  let b := s.box m
  if isQuery b.opc then { s with shots := putN s.shots m s.shot }
  else if b.opc = 0x0102 then s.closePort (fld (b.word 2) 2 0)
  else s

/-- `COMMAND_TAKE`. -/
def execCommandTake (s : State) : Out :=
  if !s.chip.fwReady || s.chip.phase != .out || !s.chip.coreOn then .next s
  else match s.nextBox with
    | none => .next s
    | some m =>
      let n := s.misc.takeCount + 1
      let s := s.modMisc fun x => { x with takeCount := n, lastTaken := if m < 8 then m else x.lastTaken }
      let s := s.modBox m fun b => { b with state := .busy, started := false, taken := n }
      match s.takeRefusal m (s.box m) with
      | some st => .next (s.finishS m st)
      | none => .next (s.takeActs m)

/-- `LBY_DB_RING` (R439). -/
def execLbyDbRing (m : MailboxId) (strb : BitVec 4) (s : State) : Out :=
  .next (s.cfgWrite (boxBase m + 0x200) ⟨strb, 1⟩ fun s => s.ring m)

/-- `LBY_STS_ACK` (R439). -/
def execLbyStsAck (m : MailboxId) (strb : BitVec 4) (s : State) : Out :=
  .next (s.cfgWrite (boxBase m + 0x204) ⟨strb, 8⟩ fun s => s.ackBox m)

/-! ## Pops (R443, R445, R448) -/

/-- A pop that finds nothing stalls, or answers EMPTY at once under a limit of 0. -/
def State.stallOr (s : State) (arcade empty : Bool) (r : W32 × State) (strb : BitVec 4) : State :=
  if empty && s.eq.stall != 0 then
    { s with cfg := { s.cfg with stalled := some { arcade := arcade, began := s.chip.cycle, partialStrb := decide (strb ≠ 0xF) } } }
  else r.2.cfgReply r.1 (decide (strb ≠ 0xF))

/-- Read a pop register, past the port. -/
def State.pop (s : State) (a : Nat) (strb : BitVec 4) (arcade : Bool) : State :=
  if s.domainDown a then s.cfgReply 0 true
  else if arcade then s.stallOr true s.arcade.next.isNone s.popWide strb
  else s.stallOr false s.eq.urgent.isNone s.popEvent strb

/-- `LBY_EQ_POP`. -/
def execLbyEqPop (strb : BitVec 4) (s : State) : Out := 
  .next (s.cfgRead addrEqPop strb fun s => s.pop addrEqPop strb false)

/-- `LBY_AR_POP`. -/
def execLbyArPop (strb : BitVec 4) (s : State) : Out := 
  .next (s.cfgRead addrArPop strb fun s => s.pop addrArPop strb true)

/-! ## The Arcade (R447–R452) -/

/-- A write of `LBY_AR_CMD`: the commands act in bit order. -/
def State.arCommand (s : State) (w : W32) : State :=
  let s := if w.getLsbD 0 then s.modArcade Arcade.flush else s
  let s := if w.getLsbD 1 then s.modArcade Arcade.setMark else s
  let s := if w.getLsbD 2 then s.modArcade Arcade.rewind else s
  if w.getLsbD 3 then s.modArcade Arcade.clear else s

/-- `FLUSH`. -/
def execFlush (strb : BitVec 4) (s : State) : Out := .next (s.cfgWrite addrArCmd ⟨strb, 1⟩ fun s => s.arCommand 1)
/-- `MARK`. -/
def execMark (strb : BitVec 4) (s : State) : Out := .next (s.cfgWrite addrArCmd ⟨strb, 2⟩ fun s => s.arCommand 2)
/-- `REWIND`. -/
def execRewind (strb : BitVec 4) (s : State) : Out := .next (s.cfgWrite addrArCmd ⟨strb, 4⟩ fun s => s.arCommand 4)
/-- `CLEAR`. -/
def execClear (strb : BitVec 4) (s : State) : Out := .next (s.cfgWrite addrArCmd ⟨strb, 8⟩ fun s => s.arCommand 8)

/-- Words of a source not yet read. -/
def Arcade.unread (a : Arcade) (src : Nat) : Nat :=
  ((a.packets.filter fun p => p.src == src).map fun p => p.first + p.len - max p.first a.rptr).foldl (· + ·) 0

/-- A trace packet of a source with a share of `units` × 16 KiB: what does not fit is dropped and counted, and the packet is
marked `TRUNC` (R449, R478). -/
def Arcade.trace (a : Arcade) (src units : Nat) (body : List W32) : Arcade :=
  let room := units * 4096 - a.unread src
  let drop (a : Arcade) (n : Nat) : Arcade := { a with drop := a.drop + BitVec.ofNat 32 n }
  if room = 0 then drop a (body.length + 1)
  else
    let kept := body.take (min 65534 (room - 1))
    let lost := body.length - kept.length
    let w := lengthWord (kept.length + 1) src (decide (0 < lost)) false
    drop (Arcade.trim { a with words := a.words ++ w :: kept
                               packets := a.packets ++ [{ first := a.wptr, len := kept.length + 1, src := src }] })
      (if 65534 < body.length ∧ kept.length = 65534 then 0 else lost)

/-- `ARCADE_PACKET_CLOSE`: a unit closes a trace packet; a source without a claim writes nothing (R478). -/
def execArcadePacketClose (src : BitVec 8) (body : List W32) (s : State) : Out :=
  match s.claimOf 2 src.toNat with
  | some c => if s.chip.coreOn && s.chip.phase == .out then .next (s.modArcade fun a => a.trace src.toNat c.param body) else .next s
  | none => .next s

end Sys2Proof.Machine
end

