-- ==== Sys2Proof/Machine/Cfg.lean ====
section
/-! DEFINITION. Software's writes and reads over the CFG map (ch. 22; R10, R144, R197, R205–R208, R244, R275, R298, R439, R465,
R533–R535), by address, each under its register's own rules; with the rows of the registers that have one. -/

namespace Sys2Proof.Machine

/-! ## Read-write-in-Bring-up words (R10, R541) -/

/-- CFG address of a Landing-page word. -/
def landAddr (l off : Nat) : Nat := 0x110000 + l / 4 * 0x40000 + l % 4 * 0x4000 + off

/-- Mark a timing write in `SEQ_TCHK`: accepted or rejected; a write of SEQ_T_REFI in every present Landing (R197, R205, R207). -/
def State.timingMark (s : State) (l off : Nat) (ok : Bool) : State :=
  let mark (x : Landing) : Landing :=
    { x with tchk := if ok then x.tchk ||| 4 else mergeMask 0xFF01 x.tchk (at_ 0 1 ||| at_ 8 ((off - 0x800) / 4)) }
  if off = offRefi then
    eachBelow s.nLand (fun k s => if ok then s.modLand k fun x => { x with refiPend := true } else s.modLand k mark) s
  else s.modLand l mark

/-- What a write of `w` leaves in a Landing-page word: none where the ranges refuse it. -/
def State.landTry (s : State) (l off : Nat) (w : W32) : Option W32 :=
  let old := s.lw l off
  let new := mergeMask (landMask off) old w
  let res := landResult s.flightWritten off old new
  if res = new then some new else none

/-- The PLL of a Gallery may change: every Landing is in SR or empty (R275). -/
def State.pllFree (s : State) (g : Nat) : Bool :=
  (List.range 4).all fun i =>
    let x := s.land (4 * g + i)
    x.seq.lstate == .sr || x.sbd.slots.toList.all Option.isNone

/-- Write the RWL fields of a Landing-page word, in Bring-up mode only. -/
def State.rwlLand (s : State) (l off : Nat) (w : W32) : State :=
  if !s.rwl || landMask off = 0 then s
  else if off = 0x1008 && !s.pllFree (l / 4) then s
  else
    let old := s.lw l off
    let res := landResult s.flightWritten off old (mergeMask (landMask off) old w)
    let s := s.putLand l off res
    let s := if isTiming off then s.timingMark l off (s.landTry l off w).isSome else s
    if off = 0x1008 && res != old then s.modGal (l / 4) fun x => { x with pllLock := false } else s

/-- Write the RWL fields of a Gallery-page word, in Bring-up mode only. -/
def State.rwlGal (s : State) (g off : Nat) (w : W32) : State :=
  if !s.rwl || galMask off = 0 then s
  else
    let old := s.gw g off
    s.putGal g off (galResult s.flightWritten (s.gw g 0x501C) (s.gw g 0x5020) off old (mergeMask (galMask off) old w))

/-! ## Landing pages -/

/-- A write of `MNT_ECS.READ` (R242): a readout, whatever the other fields of the write. -/
def State.ecsRead (s : State) (l : Nat) (w : W32) (counts : List (Fin 2 × Fin 8 × Fin 10 × Nat × Nat)) : State :=
  let s := s.rwlLand l 0x62C w
  if w.getLsbD 0 && s.ecsOn l && s.mntRuns l then
    (if s.windowClaimed l then s.modMnt l fun m => { m with ecsNext := s.chip.flight } else s.ecsReadout l s.now counts)
  else s

def State.writeLand (s : State) (l off : Nat) (w : W32) : State :=
  if off = 0x008 then (if w.getLsbD 1 then s.modArb l fun a => { a with rsv := a.rsv.clear } else s)
  else if off = 0x00C then (if w.getLsbD 0 then s.clrLongest l else s)
  else if off = 0x62C then s.ecsRead l w []
  else if off = 0x634 then (if w.getLsbD 1 then s.modMnt l fun m => { m with debtWm := m.debtWm.clear } else s)
  else if off = 0x638 then
    (if w.getLsbD 1 then s.modMnt l fun m => { m with aboWm := m.aboWm.clear } else s).rwlLand l off w
  else if off = 0x9F8 then (if w.getLsbD 0 then s.modLand l fun x => { x with tchk := x.tchk &&& ~~~1 } else s)
  else if off = 0x1010 then (if w.getLsbD 16 then s.modPhy l fun p => { p with oor := false } else s).rwlLand l off w
  else s.rwlLand l off w

/-! ## Gallery common pages -/

def State.writeGal (s : State) (g off : Nat) (w : W32) : State :=
  let v := s.chip.variant
  if (0x3000 ≤ off ∧ off < 0x4000 ∧ !v.cipher) ∨ (0x4000 ≤ off ∧ off < 0x6000 ∧ !v.cmpTier) then s
  else if off = 0x2004 then (if w.getLsbD 4 then s.modGal g fun x => { x with eccWrap := false } else s)
  else if 0x2040 ≤ off ∧ off < 0x2050 then
    (if w.getLsbD 1 then s.modGal g fun x =>
      { x with ceWm := x.ceWm.setIfInBounds ((off - 0x2040) / 4) (((x.ceWm[(off - 0x2040) / 4]?).getD Wm.zero).clear) }
    else s).rwlGal g off w
  else if off = 0x5024 then (if w.getLsbD 1 then s.modGal g fun x => { x with wmLow := x.wmLow.clear } else s)
  else if off = 0x5028 then (if w.getLsbD 1 then s.modGal g fun x => { x with wmCrit := x.wmCrit.clear } else s)
  else if off = 0x6070 then s.modGal g fun x => { x with ovf := x.ovf &&& ~~~(w.extractLsb' 0 8) }
  else s.rwlGal g off w

/-! ## Block pages -/

/-- A mailbox page (R439). -/
def State.writeBox (s : State) (m o : Nat) (w : W32) : State :=
  let open_ := (s.box m).state == .idle || (s.box m).state == .done
  if o < 0x100 then
    s.modBox m fun b => if open_ then { b with cmd := setW 0 b.cmd (o / 4) w } else { b with overrun := true }
  else if o = 0x200 then (if w.getLsbD 0 then s.ring m else s)
  else if o = 0x204 then
    let s := if w.getLsbD 2 then s.modBox m fun b => { b with overrun := false } else s
    if w.getLsbD 3 then s.ackBox m else s
  else if o = 0x208 then s.modBox m fun b => { b with ie := w.getLsbD 0, pwin := w.getLsbD 1 }
  else if 0x800 ≤ o then
    s.modBox m fun b =>
      if open_ then { b with pay := writeBytes b.pay (2048 * b2n b.pwin + (o - 0x800)) (wordBytes w) } else { b with overrun := true }
  else s

/-- The Event Queue and Arcade page (R453). -/
def State.writeLby (s : State) (o : Nat) (w : W32) : State :=
  if o = 0x20 then { s with eq := { s.eq with mask := w.extractLsb' 0 4 } }
  else if o = 0x28 then { s with eq := { s.eq with lost := Vector.replicate 4 0 } }
  else if o = 0x2C then { s with eq := { s.eq with stall := w.extractLsb' 0 16 } }
  else if o = 0x140 then
    { s with arcade := { s.arcade with overrun := s.arcade.overrun && !w.getLsbD 14, markLost := s.arcade.markLost && !w.getLsbD 15 } }
  else if o = 0x144 then s.arCommand w else s

/-- The Power Manager page (R482, R497). -/
def State.writePwr (s : State) (o : Nat) (w : W32) : State :=
  if o = 0 then (if s.chip.phase ≠ .out ∨ 4 < fld w 2 0 then s else s.powerRequest (pstateOf (fld w 2 0)) 6)
  else if o = 0x10 then s.modPwr fun p => { p with timer := w }
  else if o = 0x14 then (if s.rwl && fld w 15 0 != 0 then s.modPwr fun p => { p with leg := w &&& 0xFFFF } else s) else s

/-- A DMA channel's page (R430). -/
def State.writeDma (s : State) (n o : Nat) (w : W32) : State :=
  if o = 0 then s.modCh n fun x => { x with ctl := w &&& 0xFFFF } else if o = 8 then s.dmaHead n w else if o = 0xC then (s.dmaCmd n w).pump
  else if o = 0x14 then s.modCh n fun x => { x with irq := x.irq &&& ~~~(w.extractLsb' 0 4) } else s

/-- A word of the descriptor SRAM, at its address in the window of R413. -/
def State.writeDesc (s : State) (a : Nat) (w : W32) : State := { s with desc := writeBytes s.desc (a - 0x18000) (wordBytes w) }

/-! ## The map (R530, R531) -/

/-- A write of a whole word at an address, past the gate. -/
def State.writeWordAt (s : State) (a : Nat) (w : W32) : State :=
  match sliceOf a with
  | some (g, o) => (match pageOf o with
    | some (l, off) => s.writeLand (4 * g + l) off w
    | none => if o < 0x10000 then s.writeGal g o w else s)
  | none =>
    if a = 0xC then s.modChip fun c => { c with descMid := w.getLsbD 0 }
    else if a = 0xF04 then (if w.getLsbD 1 then s.modMisc fun m => { m with aheadWm := m.aheadWm.clear } else s)
    else if a < 0x1000 then s else if a < 0x2000 then s.writePwr (a - 0x1000) w
    else if a < 0x3000 then
      (if a = 0x2008 then s.modFlt fun f => { f with irq := f.irq &&& ~~~(w.extractLsb' 0 4), en := w.extractLsb' 8 4 } else s)
    else if a < 0xC000 then s.writeBox (if a < 0x4000 then 8 else (a - 0x4000) / 0x1000) (a % 0x1000) w
    else if a < 0xD000 then s.writeLby (a - 0xC000) w else if a < 0x10000 then s
    else if a < 0x18000 then s.writeDma ((a - 0x10000) / 0x1000) (a % 0x1000) w
    else if 0x20000 ≤ a ∧ a < 0x28000 ∧ !s.chip.descMid then s else if a < 0x38000 then s.writeDesc a w else s

/-! ## The rows -/

/-- Word-aligned address of an access. -/
def wordAddr (a : BitVec 21) : Nat := a.toNat / 4 * 4

/-- A read of any address past the port; the pops act as their own rows do. -/
def State.readAt (s : State) (a : Nat) (strb : BitVec 4) : State :=
  if a = addrEqPop then s.pop a strb false
  else if a = addrArPop then s.pop a strb true
  else s.readGate a strb fun s => s.readWordAt a

/-- `REGISTER_WRITE` (R533): a CFG write at an address. -/
def execRegisterWrite (addr : BitVec 21) (w : CfgWord) (s : State) : Out :=
  .next (s.cfgWrite (wordAddr addr) w fun s => s.writeWordAt (wordAddr addr) w.data)

/-- `LOW_WORD_READ` (R12, R535): a CFG read; of a low word it loads the latch, of a high word it answers the latch, elsewhere
it answers the word. -/
def execLowWordRead (addr : BitVec 21) (strb : BitVec 4) (s : State) : Out :=
  let a := wordAddr addr
  .next (s.cfgRead a strb fun s => s.readAt a strb)

/-- A request that waited is served, as its row serves it (R56). -/
def State.cfgServe (s : State) (r : CfgReq) : State :=
  if !r.write then s.readAt r.addr r.strb
  else s.writeGate r.addr r.strb fun s =>
    match sliceOf r.addr, r.counts with
    | some (g, o), _ :: _ => (match pageOf o with
      | some (l, _) => s.ecsRead (4 * g + l) r.data r.counts
      | none => s)
    | _, _ => s.writeWordAt r.addr r.data

/-- The requests that wait at CFG are served in their order, up to the next pop that stalls (R56, R445). They are served at the end
of a stall that times out and at tread boundaries (log entry 107, DESIGN CHOICE). -/
def State.cfgDrain (s : State) : State :=
  s.cfg.queue.foldl (fun s _ =>
    if s.cfg.stalled.isSome then s
    else match s.cfg.queue with
      | [] => s
      | r :: rest => ({ s with cfg := { s.cfg with queue := rest } } : State).cfgServe r) s

/-- `POP_STALL_TIMEOUT`: `LBY_STALL_LIMIT` has passed; the pop answers EMPTY. -/
def execPopStallTimeout (s : State) : Out :=
  match s.cfg.stalled with
  | none => .next s
  | some k =>
    if s.chip.cycle < k.began + 2 * s.eq.stall.toNat then .next s
    else
      let (w, s) := if k.arcade then s.popWide else s.popEvent
      .next (s.endStall w k).cfgDrain

/-- `ARB_CLR_LONGEST`. -/
def execArbClrLongest (l : LandingId) (strb : BitVec 4) (s : State) : Out :=
  .next (s.cfgWrite (landAddr l 0x00C) ⟨strb, 1⟩ fun s => s.clrLongest l)

/-- `TIMING_REGISTER_WRITE` (R205–R207). -/
def execTimingRegisterWrite (l : LandingId) (off : Fin 64) (w : CfgWord) (s : State) : Out :=
  let o := 0x800 + 4 * off.val
  .next (s.cfgWrite (landAddr l o) w fun s => if isTiming o then s.rwlLand l o w.data else s)

/-- `PHY_PLL_WRITE` (R275). -/
def execPhyPllWrite (l : LandingId) (w : CfgWord) (s : State) : Out :=
  .next (s.cfgWrite (landAddr l 0x1008) w fun s => s.rwlLand l 0x1008 w.data)

/-- `MNT_ECS_READ` (R242): the counts are what the mode-register reads return. -/
def execMntEcsRead (l : LandingId) (w : CfgWord) (counts : List (Fin 2 × Fin 8 × Fin 10 × Nat × Nat)) (s : State) : Out :=
  let r : CfgReq := { write := true, addr := landAddr l 0x62C, strb := w.strb, data := w.data, counts := counts }
  .next (s.cfgRequest r fun s => s.writeGate (landAddr l 0x62C) w.strb fun s => s.ecsRead l w.data counts)

end Sys2Proof.Machine
end

