-- ==== Sys2Proof/Machine/Clock.lean ====
section
/-! DEFINITION. The tick of the tread clock (R27, R28, R30): the boundary's work, and the CFG requests that waited. -/

namespace Sys2Proof.Machine

/-- A boundary while a warm reset waits for its Landings (R61): they go on draining. -/
def State.warmBoundary (s : State) : State := eachBelow s.nLand (fun l s => s.landStep l) s

/-- `TREAD_BOUNDARY`: the clock reaches the next boundary (R28, R30). In P3 only `BLK_TIME` advances, by the always-on domain's steps. -/
def execTreadBoundary (s : State) : Out :=
  if !s.clocked then .next s
  else
    let s := s.modChip fun c => { c with cycle := s.nextBoundary }
    let s := if !s.chip.coreOn then s else if s.chip.phase == .warm then s.warmBoundary else s.boundary
    .next s.cfgDrain

end Sys2Proof.Machine
end

