-- ==== Sys2Proof/Machine/Settings.lean ====
section
/-! DEFINITION. The eight register-setting commands (R466–R468) and `SCRUB_SET` (R237, R238, R475, R476). -/

namespace Sys2Proof.Machine

/-! ## Completion at a tread boundary -/

/-- The command holds its objects until the next tread boundary, and then completes with `OK` and these results (R466, R473). -/
def State.finishAtBoundary (s : State) (m : Nat) (res : List W32) : State := (s.goesOn m).defer (.done m (s.box m).taken res)

/-! ## Registers of each prefix (R150, R192, R199, R200, R244, R270, R347, R391, R409) -/

def wordsIn (lo hi off : Nat) : Bool := decide (lo ≤ off) && decide (off < hi) && off % 4 == 0
def arbNames (off : Nat) : Bool := wordsIn 0x000 0x04C off || (wordsIn 0x100 0x1D0 off && off % 16 != 12)
def seqNames (off : Nat) : Bool := wordsIn 0x400 0x414 off || wordsIn 0x420 0x440 off
def timingNames (off : Nat) : Bool := isTiming off
def mntNames (off : Nat) : Bool := wordsIn 0x600 0x640 off || wordsIn 0x680 0x6B0 off
def calNames (off : Nat) : Bool := wordsIn 0x3800 0x3818 off || wordsIn 0x3820 0x3830 off || wordsIn 0x3840 0x3880 off
def eccNames (off : Nat) : Bool :=
  wordsIn 0x2000 0x2008 off || wordsIn 0x2010 0x2050 off || wordsIn 0x2080 0x20A0 off || wordsIn 0x2100 0x2200 off
def cmpNames (off : Nat) : Bool := wordsIn 0x4000 0x4014 off || wordsIn 0x4020 0x4040 off
def tierNames (off : Nat) : Bool := wordsIn 0x5000 0x502C off || wordsIn 0x5040 0x505C off

/-! ## Extra rules (R208, R209, R227, R241, R467) -/

/-- The converted value of a rule word at the Landing's clock. -/
def ckOf (w : W32) (off rate : Nat) : Nat :=
  match ruleAt off with
  | some r => fld (convertRule w r.unit (tckOf rate)) 15 0
  | none => 0

/-- Deadline mode is refused at a Landing whose word at each offset is `w off` (R209). A converted busy time is counted at the real period,
2,000,000 / RATE ps, as the first bullet of the rule writes it (log entry 102, DEDUCED). -/
def dlRefused (rate : Nat) (w : Nat → W32) : Bool :=
  let slow (off : Nat) : Bool := decide (130000 * rate < ckOf (w off) off rate * 2000000)
  decide (34000 * rate < (ckOf (w 0x800) 0x800 rate + fld (w 0x8C0) 7 0) * 2000000) || slow 0x858 || slow 0x860 || slow 0x868

/-- Deadline mode is refused with RFM on while `SB` = 0 or MMT − IMT is below 32 (R230), from `MNT_CTL` and `MNT_RFM`. -/
def rfmRefused (ctl rfm : W32) : Bool := ctl.getLsbD 3 && (!rfm.getLsbD 30 || decide (fld rfm 19 10 < fld rfm 9 0 + 32))

/-- R209 and R230 at a Landing as it stands. -/
def State.dlRefusedAt (s : State) (l : Nat) : Bool :=
  dlRefused (s.land l).seq.geom.rate (s.lw l) || rfmRefused (s.lw l 0x600) (s.lw l 0x610)

/-- A word lies below another, field by field. -/
def timingBelow (off : Nat) (w p : W32) : Bool :=
  if off = 0x8C0 then decide (fld w 7 0 < fld p 7 0) || decide (fld w 15 8 < fld p 15 8)
  else decide (fld w 15 0 < fld p 15 0) || decide (fld w 23 16 < fld p 23 16)

/-- A timing value lies below the one firmware populated (R208). `SEQ_T_REFI` is one register: no Landing's value may be undercut
through any copy. -/
def State.belowPopulated (s : State) (l off : Nat) (w : W32) : Bool :=
  let at_ (x : Landing) : Bool := !x.populated.isEmpty && timingBelow off w ((lookupN x.populated off).getD (landDefault off))
  if off = offRefi then s.landings.toList.any at_ else at_ (s.land l)

/-- What R467 refuses: the command's prefix decides; `mask` is the write mask. A Landing in deadline mode is not brought under what R230
refuses either (log entry 105, DEDUCED). -/
def State.setRefused (s : State) (opc l off : Nat) (mask new : W32) : Bool :=
  if opc = 0x0201 then off == 0 && mask.getLsbD 0
  else if opc = 0x0203 then
    s.belowPopulated l off new ||
      ((s.lw l 0).getLsbD 0 && dlRefused (s.land l).seq.geom.rate (fun o => if o = off then new else s.lw l o))
  else if opc = 0x0204 then
    (off == 0x600 && (([2, 3, 4].any fun b => !new.getLsbD b && mustDefend (s.land l).sbd.spds b) ||
      (fld new 7 6 == 2 && (s.lw l 0).getLsbD 0))) ||
      ((s.lw l 0).getLsbD 0 && ((off == 0x600 && rfmRefused new (s.lw l 0x610)) || (off == 0x610 && rfmRefused (s.lw l 0x600) new))) || (off == 0x61C && fld mask 15 0 != 0)
  else false

/-! ## The commands -/

/-- A target of a register-setting command is present and discovered. -/
def State.setTarget (s : State) (gal : Bool) (t : Nat) : Bool :=
  if gal then decide (t < s.nGal) && (List.range 4).any fun i => (s.land (4 * t + i)).sbd.reached
  else decide (t < s.nLand) && (s.land t).sbd.reached

/-- The word a target would hold, and whether its own rules take it whole. -/
def State.setNew (s : State) (gal : Bool) (t off : Nat) (v mask : W32) : W32 × Bool :=
  if gal then
    let old := s.gw t off
    let new := mergeMask mask old v
    (new, galResult s.flightWritten (s.gw t 0x501C) (s.gw t 0x5020) off old new == new)
  else
    let old := s.lw t off
    let new := mergeMask mask old v
    (new, landResult s.flightWritten off old new == new)

/-- Write an accepted word at a target. -/
def State.setPut (s : State) (gal : Bool) (t off : Nat) (new : W32) : State :=
  if gal then (if s.gw t off = new then s else s.putGal t off new)
  else if s.lw t off = new then s
  else
    let s := s.putLand t off new
    if isTiming off then s.timingMark t off true else s

/-- A register-setting command (R466). -/
def State.setRegs (s : State) (m : Nat) (gal : Bool) (names : Nat → Bool) : State :=
  let b := s.box m
  let opc := b.opc
  let off := fld (b.word 3) 15 0
  let v := b.word 4
  let mask := b.word 5
  let ts := (List.range (if gal then 3 else 12)).filter fun t => (b.word 2).getLsbD t
  let rwl := if gal then galMask off else landMask off
  if !names off || mask &&& ~~~rwl != 0 then s.finishS m .badParam
  else if !ts.all (s.setTarget gal) then s.finishS m .badState
  else if !ts.all (fun t => (s.setNew gal t off v mask).2) then s.finishS m .badParam
  else if ts.any (fun t => s.setRefused opc t off mask (s.setNew gal t off v mask).1) then s.finishS m .badParam
  else
    let s := ts.foldl (fun s t => s.setPut gal t off (s.setNew gal t off v mask).1) s
    match ts.head? with
    | some t => s.finishAtBoundary m [if gal then s.galPage t off else s.landPage t off]
    | none =>
      let w := Config.freeWord s.chip.free
      (s.modChip fun c => { c with free := c.free + 1 }).finishAtBoundary m [w]

def execArbSet (m : MailboxId) (s : State) : Out := s.amiom m 0x0201 fun s => s.setRegs m false arbNames
def execSeqSet (m : MailboxId) (s : State) : Out := s.amiom m 0x0202 fun s => s.setRegs m false seqNames
def execTimingSet (m : MailboxId) (s : State) : Out := s.amiom m 0x0203 fun s => s.setRegs m false timingNames
def execMntSet (m : MailboxId) (s : State) : Out := s.amiom m 0x0204 fun s => s.setRegs m false mntNames
def execEccSet (m : MailboxId) (s : State) : Out := s.amiom m 0x0205 fun s => s.setRegs m true eccNames
def execCalSet (m : MailboxId) (s : State) : Out := s.amiom m 0x0206 fun s => s.setRegs m false calNames
def execCmpSet (m : MailboxId) (s : State) : Out := s.amiom m 0x0207 fun s => s.setRegs m true cmpNames
def execTierSet (m : MailboxId) (s : State) : Out := s.amiom m 0x0208 fun s => s.setRegs m true tierNames

/-! ## Patrol scrub (R237, R238) -/

/-- Lines that a Landing reads per block flight, as a fraction: `STEP` in each period, and in deadline mode at most a batch in
each window, windows being `DL_GAP` treads apart. -/
def State.scrubRate (s : State) (l : Nat) : Nat × Nat :=
  let step := fld (s.lw l 0x61C) 15 0
  let period := fld (s.lw l 0x63C) 2 0
  let most := fld (s.lw l 0x61C) 23 16 * (s.flightWritten / max 1 (fld (s.lw l 0x600) 15 8))
  if (s.lw l 0).getLsbD 0 && decide (most * period < step) then (most, 1) else (step, period)

/-- Expected pass time of a Landing in hours (R238). -/
def State.passTime (s : State) (l : Nat) : Nat :=
  if !(s.lw l 0x600).getLsbD 5 then 0xFFFFFFFF
  else
    let lines := s.allocLines l
    let (n, d) := s.scrubRate l
    if lines = 0 then 0 else if n = 0 then 0xFFFFFFFF else cdiv (lines * d * 16 * s.flightWritten) (n * 3600000000000)

/-- `SCRUB_SET`. -/
def State.scrubSet (s : State) (m : Nat) : State :=
  let b := s.box m
  let on := (b.word 3).getLsbD 0
  let hours := fld (b.word 3) 31 16
  let ts := (List.range 12).filter fun l => (b.word 2).getLsbD l
  if ts.any (fun l => s.nLand ≤ l) || decide (hours < 1) || decide (8760 < hours) then s.finishS m .badParam
  else
    let s := ts.foldl (fun s l =>
      let s := (s.modMnt l fun x => { x with passHours := hours }).setStep l
      s.putLand l 0x600 (mergeMask 0x20 (s.lw l 0x600) (at_ 5 (b2n on)))) s
    let s := ts.foldl (fun s l =>
      if on && (s.lw l 0).getLsbD 0 && decide (hours < s.passTime l) then s.post 0x1A 2 [at_ 0 l, BitVec.ofNat 32 (s.passTime l)] else s) s
    s.finish m .ok ((List.range 12).map fun l => if ts.contains l then BitVec.ofNat 32 (s.passTime l) else 0) []

def execScrubSet (m : MailboxId) (s : State) : Out := s.amiom m 0x0603 fun s => s.scrubSet m

end Sys2Proof.Machine
end

