-- ==== Sys2Proof/Machine/Service.lean ====
section
/-! DEFINITION. The general, claim, port and discovery commands (R95, R96, R305, R313, R412, R465, R469, R470, R478, R479), and the
end of a port's closing. -/

namespace Sys2Proof.Machine

/-! ## General -/

/-- `QUERY_CAPS` (R469). -/
def State.queryCaps (s : State) (m : Nat) : State :=
  s.finish m .ok
    [ at_ 0 4 ||| at_ 16 Config.firmwareVersion.toNat, s.chip.imageVersion, s.caps, at_ 0 Config.features.toNat, 1024, 4096 ] []

def execQueryCaps (m : MailboxId) (s : State) : Out := s.amiom m 0x0001 fun s => s.queryCaps m

/-- `BRINGUP` (R465): the change comes at the next tread boundary. -/
def execBringup (m : MailboxId) (s : State) : Out :=
  s.amiom m 0x0002 fun s => (s.defer (.bringup (((s.box m).word 2).getLsbD 0))).finishAtBoundary m []

/-! ## Claims (R478, R479) -/

/-- The holder of a resource as word 2 of `CLAIM` shows it; a free one reads 0. -/
def State.holderWord (s : State) (res which : Nat) : W32 := ((s.claimOf res which).map ClaimRec.held).getD 0

/-- The resource that word 2 names, none when there is no such resource. -/
def State.claimNamed (s : State) (w : W32) : Option (Nat × Nat) :=
  let res := fld w 15 8
  let which := fld w 7 0
  if (res = 0 ∧ which = 0) ∨ (res = 1 ∧ which < s.nLand) ∨ res = 2 then some (res, which) else none

/-- Units of the Arcade claimed by sources other than `src`. -/
def State.sharesBut (s : State) (src : Nat) : Nat :=
  ((s.misc.claims.filter fun c => c.res == 2 && c.which != src).map (·.param)).foldl (· + ·) 0

/-- `CLAIM`. An Arcade share of 0 lies outside 1 to 16, since the field's table gives 0 no other meaning (R9; log entry 71, DEDUCED). -/
def State.claim (s : State) (m : Nat) : State :=
  let b := s.box m
  match s.claimNamed (b.word 2) with
  | none => s.finishS m .badParam
  | some (res, which) =>
    let param := fld (b.word 3) 3 0
    let was := s.holderWord res which
    let mine := (s.claimOf res which).all fun c => c.holder == m
    if (res = 0 ∧ 5 < param) ∨ (res = 2 ∧ param = 0) then s.finishS m .badParam
    else if !mine then s.finish m .resourceBusy [was] []
    else if res = 2 ∧ 16 < s.sharesBut which + param then s.finish m .noSpace [was] []
    else
      let others := s.misc.claims.filter fun c => !(c.res == res && c.which == which)
      let s := s.modMisc fun x => { x with claims := others ++ [{ res := res, which := which, param := param, holder := m }] }
      s.finish m .ok [was] []

def execClaim (m : MailboxId) (s : State) : Out := s.amiom m 0x0003 fun s => s.claim m

/-- `RELEASE`: LBA may release any claim, with event 19h when it was another's. -/
def State.unclaim (s : State) (m : Nat) : State :=
  match s.claimNamed ((s.box m).word 2) with
  | none => s.finishS m .badParam
  | some (res, which) =>
    match s.claimOf res which with
    | none => s.finishS m .badState
    | some c =>
      if c.holder ≠ m ∧ m ≠ 8 then s.finishS m .badState
      else
        let s := s.modMisc fun x => { x with claims := x.claims.filter fun e => !(e.res == res && e.which == which) }
        let s := if res = 0 then s.modChip fun x => { x with status1Pulse := false } else s
        let s := if c.holder = m then s else s.post 0x19 1 [c.word, c.held]
        s.finishS m .ok

def execRelease (m : MailboxId) (s : State) : Out := s.amiom m 0x0004 fun s => s.unclaim m

/-! ## Ports (R54, R95, R96, R505) -/

/-- The fence of a port. -/
def State.portFence (s : State) (p : Nat) : Option Fence := s.flt.fences.find? fun f => f.grain == .port && f.port == p

/-- Lift a settled fence. -/
def State.liftFence (s : State) (f : Fence) : State :=
  let s := if f.shadow then s.endShadow f else s
  s.modFlt fun x => { x with fences := x.fences.filter fun e => e.id != f.id }

/-- A port opens with the block's full credits (R91). -/
def State.openPort (s : State) (p : Nat) (ordered : Bool) : State :=
  s.modPort p fun x => { Port.reset with state := .opened, ordered := ordered, req := 2048, wrq := 1536, faults := x.faults }

/-- `PORT_OPEN`. -/
def State.portOpen (s : State) (m : Nat) : State :=
  let w := (s.box m).word 2
  let p := fld w 2 0
  let fence := s.portFence p
  if (s.port p).state ≠ .closed ∨ fence.any (fun f => !f.settled) then s.finishS m .badState
  else
    let s : State := match fence with
      | some f => s.liftFence f
      | none => s
    (s.openPort p (w.getLsbD 8)).finishS m .ok

def execPortOpen (m : MailboxId) (s : State) : Out := s.amiom m 0x0101 fun s => s.portOpen m

/-- `PORT_CLOSE`: the port takes no more flits, and the command waits for its requests. -/
def State.portClose (s : State) (m : Nat) : State :=
  let p := fld ((s.box m).word 2) 2 0
  if (s.port p).state = .closed then s.finishS m .badState else (s.closePort p).goesOn m

def execPortClose (m : MailboxId) (s : State) : Out := s.amiom m 0x0102 fun s => s.portClose m

/-- The port's locked sequences are broken, with no response, and its credits lapse (R90, R95, R96). -/
def State.portClosed (s : State) (p : Nat) : State :=
  let s := (s.port p).seqs.foldl (fun s q => s.endSeq p q.ldid) s
  s.modPort p fun x => { Port.reset with faults := x.faults }

/-- `PORT_CLOSE_DONE`: every request accepted before the close has been answered. -/
def execPortCloseDone (p : Fin 8) (s : State) : Out :=
  let x := s.port p
  if x.state = .closing ∧ x.txns.isEmpty then
    let s := s.portClosed p
    let s := eachBelow 9 (fun m s =>
      let b := s.box m
      if b.state = MbState.busy ∧ b.started ∧ b.opc = 0x0102 ∧ fld (b.word 2) 2 0 = p.val then s.finishS m .ok else s) s
    .next s.pump
  else .next s

/-! ## Discovery and start (R305, R470) -/

/-- `DISCOVER`: the probe's findings are the command's operand. -/
def State.discover (s : State) (m : Nat) (found : List FoundModule) : State :=
  let w := (s.box m).word 2
  let cap := fld w 15 0
  if s.misc.discovery.done then s.finishS m .badState
  else if cap ≠ 0 ∧ !isBin cap then s.finishS m .badParam
  else
    let s := (s.goesOn m).probe found cap (w.getLsbD 16) m
    if s.chip.pwrGood then s.powerUp else s

def execDiscover (m : MailboxId) (found : List FoundModule) (s : State) : Out :=
  s.amiom m 0x0103 fun s => s.discover m (found.filter fun f => decide (f.landing.val < s.nLand))

/-- `LANDING_START`. -/
def State.landingStart (s : State) (m : Nat) : State :=
  let named := (List.range 12).filter fun l => ((s.box m).word 2).getLsbD l
  if !named.all (fun l => (s.land l).sbd.hold) then s.finishS m .badState
  else
    let s := (s.goesOn m).modMisc fun x => { x with discovery := { x.discovery with mailbox := some m } }
    (named.foldl (fun s l => s.beginTraining l) s).endStarts

def execLandingStart (m : MailboxId) (s : State) : Out := s.amiom m 0x0104 fun s => s.landingStart m

/-! ## Queries (R462, R469, R313) -/

/-- Granules of a Landing that halls and pools hold. -/
def State.heldGranules (s : State) (l : Nat) : Nat := (s.scrubGranules l).length

/-- `LANDING_QUERY`. -/
def State.landingQuery (s : State) (m : Nat) : State :=
  let l := fld ((s.box m).word 2) 3 0
  if s.nLand ≤ l then s.finishS m .badParam
  else
    let t := s.seen m
    let x := t.land l
    let claim : W32 := match t.claimOf 1 l with
      | some c => at_ 1 1 ||| at_ 4 c.holder
      | none => 0
    s.finish m .ok
      [ t.landPage l 0x408, t.landPage l 0x410, x.sbd.word, x.cal.stat, at_ 0 (b2n ((t.lw l 0).getLsbD 0)) ||| claim
      , BitVec.ofNat 32 (t.passTime l), BitVec.ofNat 32 (t.freeGranules l).length, BitVec.ofNat 32 (t.heldGranules l) ] []

def execLandingQuery (m : MailboxId) (s : State) : Out := s.amiom m 0x0105 fun s => s.landingQuery m

/-- `MODULE_QUERY`: the hub content and readings as last read. -/
def State.moduleQuery (s : State) (m : Nat) : State :=
  let w := (s.box m).word 2
  match ((s.seen m).land (fld w 3 0)).sbd.moduleAt (fld w 4 4) with
  | none => s.finishS m .notFound
  | some x =>
    s.finish m .ok [at_ 0 x.temp, x.pmic, at_ 0 (b2n x.hintUsed) ||| at_ 1 (b2n x.hintWritten) ||| at_ 2 (b2n x.hintWp)]
      (fitTo 1024 x.spd.raw)

def execModuleQuery (m : MailboxId) (s : State) : Out := s.amiom m 0x0106 fun s => s.moduleQuery m

/-! ## Sideband, DMA and debug (R313, R412, R469) -/

/-- `SBD_XFER`: in Bring-up mode a raw transaction joins its bus at the third priority (R304). -/
def State.sbdXfer (s : State) (m : Nat) : State :=
  let b := s.box m
  let bus := fld (b.word 2) 2 0
  let rd := (b.word 2).getLsbD 16
  let n := fld (b.word 3) 10 0
  let bad := decide (s.nLand ≤ 2 * bus) || decide (n = 0) || decide ((if rd then 1024 else 16) < n) || (!rd && decide (b.plen ≠ n))
  if !s.chip.bringup then s.finishS m .badState
  else if bad then s.finishS m .badParam
  else
    (s.goesOn m).sbdAsk
      { bus := bus, prio := 2, landing := 2 * bus, slot := fld (b.word 2) 10 8, tries := 0, mailbox := some m, page := 0
        data := if rd then [] else b.payload }

def execSbdXfer (m : MailboxId) (s : State) : Out := s.amiom m 0x0107 fun s => s.sbdXfer m

/-- `DMA_BIND`. -/
def State.dmaBind (s : State) (m : Nat) : State :=
  let w := (s.box m).word 2
  let n := fld w 2 0
  let st := (s.ch n).state
  if st = .idle ∨ st = .parked ∨ st = .stopped ∨ st = .error then
    (s.modCh n fun x => { x with bind := if w.getLsbD 16 then none else some (fld w 10 8, fld w 15 12) }).finishS m .ok
  else s.finishS m .resourceBusy

def execDmaBind (m : MailboxId) (s : State) : Out := s.amiom m 0x0108 fun s => s.dmaBind m

/-- A hall stands in the hall table: its creation has completed. -/
def State.hallStands (s : State) (n : Nat) : Bool := (s.hall n).any fun h => h.phase != .creating

/-- `DEBUG_SELECT`: from the next tread boundary DBG requests address this hall (R125). -/
def State.debugSelect (s : State) (m : Nat) : State :=
  let w := (s.box m).word 2
  let n := fld w 9 0
  if w.getLsbD 31 then (s.defer (.debugSelect none)).finishS m .ok
  else if !s.hallStands n then s.finishS m .notFound
  else (s.defer (.debugSelect (some n))).finishS m .ok

def execDebugSelect (m : MailboxId) (s : State) : Out := s.amiom m 0x0109 fun s => s.debugSelect m

end Sys2Proof.Machine
end

