-- ==== Sys2Proof/Machine/Records.lean ====
section
/-! DEFINITION. Calibration commands (R334, R342–R346, R471), and the commands of ECC, power, faults, counters and the Record Store
(R260, R454, R475, R477, R510–R512, R519–R524). -/

namespace Sys2Proof.Machine

/-! ## Calibration -/

/-- What `CAL_RUN` asks of one Landing: a margin check, or a run that one in progress satisfies; a fenced Landing answers 3h. -/
def State.askCal (s : State) (l : Nat) (check : Bool) : State :=
  if s.landFenced l then s.modCal l fun c => if check then { c with checkOutcome := some 3 } else { c with outcome := some 3 }
  else if check then (s.modCal l fun c => { c with checkOutcome := none, marginWant := c.marginWant || !(c.run.any (·.margin)) }).startWaiting l
  else
    let c := (s.land l).cal
    let s := s.modCal l fun c => { c with outcome := none, asked := true }
    match c.run with
    | some r => if r.margin then s.modCal l fun c => { c with pending := true } else s
    | none => s.requestRun l

/-- `CAL_RUN`. -/
def State.calRun (s : State) (m : Nat) : State :=
  let w := (s.box m).word 2
  let ms := fld ((s.box m).word 3) 9 0
  let named := (List.range 12).filter fun l => w.getLsbD l
  if ms < 1 ∨ 1000 < ms then s.finishS m .badParam
  else if !named.all (fun l => (s.land l).sbd.started) then s.finishS m .badState
  else (named.foldl (fun s l => s.askCal l (w.getLsbD 16)) (s.goesOn m)).finishCalRuns

def execCalRun (m : MailboxId) (s : State) : Out := s.amiom m 0x0301 fun s => s.calRun m

/-- `CAL_SAVE`; the store option keeps the records of both subchannels (R346). -/
def State.calSave (s : State) (m : Nat) : State :=
  let w := (s.box m).word 2
  let l := fld w 3 0
  if !(s.land l).sbd.started then s.finishS m .badState
  else
    let rec_ := s.calRecord l (fld w 4 4)
    let s := if w.getLsbD 8 then (s.storeSnapshot l 0).storeSnapshot l 1 else s
    s.finish m .ok [] rec_

def execCalSave (m : MailboxId) (s : State) : Out := s.amiom m 0x0302 fun s => s.calSave m

/-- `CAL_RESTORE`: the record is held for the Landing's start (R344). -/
def State.calRestore (s : State) (m : Nat) : State :=
  let b := (s.box m).payload
  let l := numAt b 5 1
  let sub := numAt b 6 1
  let x := s.land l
  let fits := decide (l < s.nLand) && decide (sub < 2) && x.sbd.reached && !x.sbd.started && x.seq.lstate == .sr && s.recordOk l sub b
  if fits then (s.modCal l fun c => { c with held := c.held.setIfInBounds sub (some b) }).finishS m .ok else s.finishS m .badParam

def execCalRestore (m : MailboxId) (s : State) : Out := s.amiom m 0x0303 fun s => s.calRestore m

/-! ## ECC (R260, R475) -/

/-- `ECC_DECLARE`: the declaration takes effect at the next tread boundary. -/
def State.eccDeclare (s : State) (m : Nat) : State :=
  let w := (s.box m).word 2
  let l := fld w 3 0
  let sub := fld w 4 4
  let rank := fld w 10 8
  let d := fld w 15 12
  let g := (s.land l).seq.geom
  let old := s.erased l { sub := sub, rank := rank, bg := 0, bank := 0, row := 0, col := 0 }
  if s.nLand ≤ l ∨ !g.valid ∨ g.ranks ≤ rank ∨ (if g.x8 then 4 else 9) < d then s.finishS m .badParam
  else
    let cls : W32 := if g.x8 ∨ old.any (fun x => x != d) then 1 else 0
    (if old = some d then s else s.defer (.declare l sub rank d)).finish m .ok [cls] []

def execEccDeclare (m : MailboxId) (s : State) : Out := s.amiom m 0x0601 fun s => s.eccDeclare m

/-! ## Power (R477, R488, R497) -/

/-- `PWR_CFG`. -/
def State.pwrCfg (s : State) (m : Nat) : State :=
  let w := (s.box m).word 2
  let max_ := fld ((s.box m).word 3) 15 0
  if s.pwr.trans.isSome ∨ s.pwr.pend.isSome then s.finishS m .resourceBusy
  else
    (s.modPwr fun p => { p with legacy := w.getLsbD 0, wakeEn := BitVec.ofNat 8 (fld w 12 8)
                                leg := if max_ = 0 then p.leg else at_ 0 max_ }).finishS m .ok

def execPwrCfg (m : MailboxId) (s : State) : Out := s.amiom m 0x0701 fun s => s.pwrCfg m

/-! ## Faults (R477, R510–R512) -/

/-- The location word of a fence, for one Landing of it. -/
def Fence.location (f : Fence) (l : Nat) : W32 :=
  let c := f.coord
  match f.grain with
  | .row => at_ 0 l ||| at_ 4 c.sub ||| at_ 5 c.rank ||| at_ 8 c.bg ||| at_ 11 c.bank ||| at_ 13 c.row
  | .bank => at_ 0 l ||| at_ 4 c.sub ||| at_ 5 c.rank ||| at_ 8 c.bg ||| at_ 11 c.bank
  | .rank => at_ 0 l ||| at_ 4 c.sub ||| at_ 5 c.rank
  | .landing => at_ 0 l
  | .cmp => at_ 0 f.gallery
  | .tier => 0
  | .port => at_ 0 f.port

/-- The entries of a fence in `FLT_READ`: one for each Landing of a Landing fence. -/
def Fence.entries (f : Fence) : List (List Byte) :=
  let one (l : Nat) : List Byte :=
    [BitVec.ofNat 8 (grainCode f.grain), 0, 0, 0] ++ wordBytes (f.location l) ++ wordBytes f.src ++ leBytes 8 (f.time / 2)
  if f.grain = .landing then f.group.map one else [one f.landing]

/-- Every fence in force, coarsest grain first. -/
def State.fenceList (s : State) : List (List Byte) :=
  [6, 5, 4, 3, 2, 1, 0].flatMap fun k => (s.flt.fences.filter fun f => f.active && grainCode f.grain == k).flatMap Fence.entries

/-- Source word of the latched record of class k, 0 for an empty one. -/
def Flt.firstSrc (f : Flt) (k : Nat) : W32 := (((f.first[k]?).getD none).map (·.src)).getD 0

/-- `FLT_READ`. -/
def State.fltRead (s : State) (m : Nat) : State :=
  let f := s.flt
  let has (k : Nat) : Bool := ((f.first[k]?).getD none).isSome
  let worst := if has 2 then f.firstSrc 2 else if has 1 then f.firstSrc 1 else f.firstSrc 0
  let list := s.fenceList
  s.finish m .ok
    [ worst, at_ 0 (bits3 f.ovf), f.count[0], f.count[1], f.count[2], f.firstSrc 0, f.firstSrc 1, f.firstSrc 2
    , BitVec.ofNat 32 list.length ] (list.take 204).flatten

def execFltRead (m : MailboxId) (s : State) : Out := s.amiom m 0x0801 fun s => s.fltRead m

/-- The cause of a class persists: a level condition holds, or the class is F in Halt (R512). -/
def State.causePersists (s : State) (k : Nat) : Bool :=
  s.flt.levels.any (fun r => r.cls == k + 1) || (k == 2 && s.chip.halted)

/-- `FLT_CLEAR`: in Managed mode the named states end. -/
def State.fltClear (s : State) (m : Nat) : State :=
  let named := (List.range 3).filter fun k => ((s.box m).word 2).getLsbD k
  if s.flt.service || named.any s.causePersists then s.finishS m .badState
  else (named.foldl (fun s k => s.endClass k) s).finishS m .ok

def execFltClear (m : MailboxId) (s : State) : Out := s.amiom m 0x0802 fun s => s.fltClear m

/-- `FLT_CFG`: the mode changes at the next tread boundary. -/
def State.fltCfg (s : State) (m : Nat) : State :=
  let b := s.box m
  let quiet := (b.word 3).toNat
  let alive := (b.word 4).toNat
  if quiet < 1 ∨ 10000 < quiet ∨ alive < 100 ∨ 1000000 < alive then s.finishS m .badParam
  else
    let s := s.modFlt fun f => { f with quietMs := quiet, aliveUs := alive }
    (s.defer (.fltMode (!(b.word 2).getLsbD 0))).finishS m .ok

def execFltCfg (m : MailboxId) (s : State) : Out := s.amiom m 0x0803 fun s => s.fltCfg m

/-! ## Counters (R519–R524) -/

/-- An event code that R522 lists and that a Gallery's counters reach (R523); 0000h stops a counter. -/
def countable (g code : Nat) : Bool :=
  let unit := code / 4096
  let inst := code / 256 % 16
  let sel := code % 256
  if code = 0 then true
  else
    (eventPlace code).isSome &&
      (if unit = 0 ∨ unit = 11 ∨ unit = 14 then inst == 0
       else if unit = 10 ∨ unit = 12 then decide (inst < 8)
       else if unit = 7 ∨ unit = 8 ∨ unit = 9 ∨ (unit = 13 ∧ sel = 4) then inst == g
       else inst / 4 == g)

/-- `CNT_CFG`: the setting takes effect at the next tread boundary. -/
def State.cntCfg (s : State) (m : Nat) : State :=
  let w := (s.box m).word 2
  let g := fld w 1 0
  let k := fld w 6 4
  let chain := w.getLsbD 8
  let code := fld w 31 16
  if s.nGal ≤ g ∨ (chain ∧ k = 7) ∨ !countable g code then s.finishS m .badParam
  else (s.defer (.cnt g k (at_ 0 code ||| at_ 16 (b2n chain)))).finishS m .ok

def execCntCfg (m : MailboxId) (s : State) : Out := s.amiom m 0x0901 fun s => s.cntCfg m

/-- `CNT_USER`: the enables change at the next tread boundary. -/
def execCntUser (m : MailboxId) (s : State) : Out :=
  s.amiom m 0x0902 fun s => (s.defer (.cntUser (BitVec.ofNat 8 (fld ((s.box m).word 2) 7 0)))).finishS m .ok

/-! ## Record Store (R454, R456, R477) -/

/-- `RS_READ`: a record of the bank taken. -/
def State.rsRead (s : State) (m : Nat) : State :=
  let b := s.box m
  let type := fld (b.word 2) 7 0
  let recs := match s.store.bank with
    | some k => k.ofType type
    | none => []
  if m < 8 ∧ (type = 1 ∨ type = 4) then s.finishS m .denied
  else match recs[(b.word 3).toNat]? with
    | none => s.finishS m .notFound
    | some r => s.finish m .ok [BitVec.ofNat 32 recs.length] (r.take 4096)

def execRsRead (m : MailboxId) (s : State) : Out := s.amiom m 0x0A01 fun s => s.rsRead m

/-- `RS_COMMIT`: waits for `RECORD_STORE_COMMIT`. -/
def execRsCommit (m : MailboxId) (s : State) : Out := s.amiom m 0x0A02 fun s => s.goesOn m

/-- `RS_DROP`: takes effect in the next commit. -/
def State.rsDrop (s : State) (m : Nat) : State :=
  let type := fld ((s.box m).word 2) 7 0
  if type = 1 ∨ type = 2 then s.goesOn m else s.finishS m .badParam

def execRsDrop (m : MailboxId) (s : State) : Out := s.amiom m 0x0A03 fun s => s.rsDrop m

end Sys2Proof.Machine
end

