-- ==== Sys2Proof/Machine/Halls.lean ====
section
/-! DEFINITION. The hall, key and window commands (R105–R121, R361–R364, R402–R404, R472–R474), the frame pool's command (R475), and
the completions of creation, growth, shrinking and release. -/

namespace Sys2Proof.Machine

/-! ## Keys (R361–R363) -/

/-- `KEK_LOAD`. -/
def State.kekLoad (s : State) (m : Nat) : State :=
  let b := s.box m
  if s.misc.kekLock then s.finishS m .resourceBusy
  else if b.plen ≠ 32 then s.finishS m .badParam
  else (s.modMisc fun x => { x with kek := some b.payload, kekLock := (b.word 2).getLsbD 0 }).finishS m .ok

def execKekLoad (m : MailboxId) (s : State) : Out := s.amiom m 0x0401 fun s => s.kekLoad m

/-- The 96 bytes of a wrapped key; none without a KEK, when the unwrap fails, or when K1 equals K2 (R362). -/
def State.unwrap (s : State) (wrapped : List Byte) : Option (List Byte) :=
  match s.misc.kek.bind fun k => aesUnwrap k wrapped with
  | none => none
  | some key => if key.take 32 = (key.drop 32).take 32 then none else some key

/-! ## Allocation (R110–R112, R393, R404) -/

/-- Granules that a hall of size `g` over `n` Landings holds on each of them: data, tags and page map together. -/
def perLanding (integ cmp : Bool) (g n : Nat) : Nat := (g + tagGranules integ g n + mapGranules cmp g n) / max 1 n
/-- Granules that it commits on each of them. -/
def perCommit (integ cmp elastic : Bool) (g n : Nat) : Nat :=
  (commitGranules elastic g n + tagGranules integ g n + mapGranules cmp g n) / max 1 n

/-- The set names only present Landings that no fence holds. -/
def State.setStands (s : State) (set : BitVec 12) : Bool :=
  set != 0 && (setBits set).all fun l => decide (l < s.nLand) && !s.landFenced l
/-- The set is made of whole Galleries. -/
def wholeGalleries (set : BitVec 12) : Bool := [0, 1, 2].all fun g => set.extractLsb' (4 * g) 4 == 0 || set.extractLsb' (4 * g) 4 == 0xF

/-- Heat runs of a Gallery that halls hold: first line and length. -/
def State.heatRuns (s : State) (g : Nat) : List (Nat × Nat) :=
  s.halls.filterMap fun e => (lookupN e.2.heat g).map fun b => (b, e.2.heatRun)
/-- The lowest place of a free run of heat lines in a Gallery (log entry 17, DESIGN CHOICE); none when its heat area has no room. -/
def State.heatPlace (s : State) (g len : Nat) : Option Nat :=
  let runs := s.heatRuns g
  let free (b : Nat) : Bool := decide (b + len ≤ 4 * (granuleBytes / 64)) && runs.all fun r => decide (b + len ≤ r.1) || decide (r.1 + r.2 ≤ b)
  if (s.gal g).auxExt.isEmpty then none
  else
    ((0 :: runs.map fun r => r.1 + r.2).filter free).foldl (fun m b => match m with
      | none => some b
      | some x => some (min x b)) none

/-- The heat runs of a hall, one in each Gallery of its set: none when some Gallery has no room. -/
def State.heatFor (s : State) (h : Hall) : Option (List (Nat × Nat)) :=
  if !h.cmp then some []
  else h.galleries.foldr (fun g acc => match acc, s.heatPlace g h.heatRun with
    | some l, some b => some ((g, b) :: l)
    | _, _ => none) (some [])

/-- The extents of a hall with its granules taken from those free now, over the ones it has. -/
def State.extendHall (s : State) (h : Hall) (g : Nat) : Hall :=
  let ms := h.members
  let n := max 1 ms.length
  let k := g / n - h.size / n
  let t := (tagGranules h.integ g n - tagGranules h.integ h.size n) / n
  let p := (mapGranules h.cmp g n - mapGranules h.cmp h.size n) / n
  let join (old new : List (List Nat)) : List (List Nat) := (List.range ms.length).map fun i => old.getD i [] ++ new.getD i []
  { h with ext := join h.ext (s.takeGranules ms 0 k), tagExt := join h.tagExt (s.takeGranules ms k t)
           mapExt := join h.mapExt (s.takeGranules ms (k + t) p) }

/-! ## Creation (R118, R472) -/

/-- A hall of some properties with nothing allocated. -/
def newHall (set : BitVec 12) (attrs : W32) : Hall :=
  { set := set, size := 0, enc := attrs.getLsbD 0, integ := attrs.getLsbD 1, cmp := attrs.getLsbD 2, elastic := attrs.getLsbD 3
    dl := attrs.getLsbD 4, dbgv := attrs.getLsbD 5, dma := if attrs.getLsbD 7 then 2 else b2n (attrs.getLsbD 6), w := 0
    ext := [], tagExt := [], mapExt := [], keyLoaded := false, key := [], check := 0, unbacked := [], pages := [], heat := []
    heatSize := 0, phase := .creating, zeroPos := [], zeroOut := [], metaPos := [], metaOut := [] }

/-- The properties break R109, or R209 refuses deadline mode on a member. -/
def State.badProperties (s : State) (h : Hall) (g : Nat) (attrs : W32) (plen : Nat) : Bool :=
  let n := h.members.length
  !s.setStands h.set || decide (g < n) || decide (g % max 1 n ≠ 0) || (h.integ && !h.enc) || (h.cmp && !wholeGalleries h.set) ||
    (h.elastic && !h.cmp) || fld attrs 7 6 == 2 || (h.enc && decide (plen ≠ 104)) || (h.dl && h.members.any s.dlRefusedAt)

/-- `HALL_CREATE`: the hall is allocated, and its tag and page-map regions are being zeroed. -/
def State.hallCreate (s : State) (m : Nat) : State :=
  let b := s.box m
  let n := fld (b.word 2) 9 0
  let g := fld (b.word 4) 15 0
  let h := newHall (BitVec.ofNat 12 (fld (b.word 3) 11 0)) (b.word 5)
  let k := h.members.length
  match s.hall n with
  | some x => s.finishS m (if x.phase = .releasing ∨ (s.runner 0x0404 n).isSome then .resourceBusy else .badState)
  | none =>
    if s.badProperties h g (b.word 5) b.plen then s.finishS m .badParam
    else if !s.roomFor h.members (perLanding h.integ h.cmp g k) (perCommit h.integ h.cmp h.elastic g k) then s.finishS m .noSpace
    else match s.heatFor { h with heatSize := g } with
      | none => s.finishS m .noSpace
      | some heat =>
        let key := if h.enc then s.unwrap b.payload else some []
        match key with
        | none => s.finishS m .badKey
        | some key =>
          let h := { s.extendHall h g with size := g, heat := heat, heatSize := g, zeroPos := List.replicate k 0, metaPos := List.replicate k 0, keyLoaded := true }
          let h := if h.enc then { h with key := key, check := keyCheck key } else h
          ((s.putHall n h).setSteps h.members).goesOn m

def execHallCreate (m : MailboxId) (s : State) : Out := s.amiom m 0x0402 fun s => s.hallCreate m

/-- The Record Store's content has changed. -/
def State.storeChanged (s : State) : State := { s with store := { s.store with changed := true } }

/-- Set or clear `ARB_CTL.DL_MODE` of some Landings (R145). -/
def State.setDl (s : State) (ls : List Nat) (on : Bool) : State :=
  ls.foldl (fun s l => s.putLand l 0 (mergeMask 1 (s.lw l 0) (at_ 0 (b2n on)))) s

/-- `HALL_CREATE_ZEROED`: the metadata regions are zeroed, and the creation completes (R118, R473). Lines that no
`INIT_ZERO_WRITE` presented are zeroed with this report (log entry 26, DESIGN CHOICE); one presented and not yet ordered
holds it up. -/
def State.hallCreateZeroed (s : State) (n : Nat) : State :=
  match s.hall n, s.runner 0x0402 n with
  | some h, some m =>
    if h.phase ≠ .creating || s.chip.halted || !h.metaOut.isEmpty then s
    else
      let s := s.putHall n { h with phase := .ready }
      let s := if h.dl then s.setDl h.members true else s
      s.storeChanged.finish m .ok [at_ 0 (s.epoch n)] []
  | _, _ => s

def execHallCreateZeroed (h : HallId) (s : State) : Out := .next ((s.hallCreateZeroed h).pump)

/-! ## Resizing (R119) -/

/-- A hall whose unfinished resize is undone: its extents cover its size. -/
def Hall.settled (h : Hall) : Hall :=
  let n := max 1 h.members.length
  { h with phase := .ready, ext := h.ext.map (·.take (h.size / n)), tagExt := h.tagExt.map (·.take (tagGranules h.integ h.size n / n))
           mapExt := h.mapExt.map (·.take (mapGranules h.cmp h.size n / n)) }

/-- A window of the hall would leave the address space or overlap another one at a new size (R105, R106; log entry 29, DESIGN CHOICE). -/
def State.windowClash (s : State) (n g : Nat) : Bool :=
  let size (w : Window) : Nat := if w.hall = n then g * granuleBytes else ((s.hall w.hall).map Hall.bytes).getD 0
  (s.windows.filter fun w => w.hall == n).any fun w =>
    decide (2 ^ 52 < w.base + size w) || s.windows.any fun v =>
      v.num != w.num && v.port == w.port && v.ldid == w.ldid && decide (v.base < w.base + size w) && decide (w.base < v.base + size v)

/-- The growth of a hall begins: granules are added, and the new metadata granules are being zeroed. -/
def State.growHall (s : State) (m n : Nat) (h : Hall) (g : Nat) : State :=
  let k := h.members.length
  let free := perLanding h.integ h.cmp g k - perLanding h.integ h.cmp h.size k
  let commit := perCommit h.integ h.cmp h.elastic g k - perCommit h.integ h.cmp h.elastic h.size k
  let wide := decide (h.heatSize < g)
  if !s.roomFor h.members free commit then s.finishS m .noSpace
  else if wide && (s.heatFor { h with heatSize := g }).isNone then s.finishS m .noSpace
  else ((s.putHall n { s.extendHall h g with phase := .growing g, metaPos := List.replicate k 0, metaOut := [] }).setSteps h.members).goesOn m

/-- `HALL_RESIZE`. -/
def State.hallResize (s : State) (m : Nat) : State :=
  let b := s.box m
  let n := fld (b.word 2) 9 0
  let g := fld (b.word 3) 15 0
  match (if s.hallStands n then s.hall n else none) with
  | none => s.finishS m .notFound
  | some h =>
    let k := h.members.length
    if h.phase = .releasing then s.finishS m .badState
    else if g < k ∨ g % max 1 k ≠ 0 ∨ (h.size < g ∧ s.windowClash n g) then s.finishS m .badParam
    else
      let h := h.settled
      let s := (s.putHall n h).setSteps h.members
      if g = h.size then s.finishS m .ok
      else if h.size < g then s.growHall m n h g
      else (s.defer (.shrink n g)).goesOn m

def execHallResize (m : MailboxId) (s : State) : Out := s.amiom m 0x0403 fun s => s.hallResize m

/-- Cached heat lines of a hall's runs go without write-back. -/
def State.dropHeat (s : State) (h : Hall) : State :=
  h.heat.foldl (fun s e => s.modGal e.1 fun x =>
    let mine (lpa : Nat) : Bool := match x.poolOwner (lpaLanding lpa) (lpaAddr lpa) with
      | .heat i => decide (e.2 ≤ i ∧ i < e.2 + h.heatRun)
      | _ => false
    { x with cache := x.cache.filter fun c => !(c.kind == .heat && mine c.lpa) }) s

/-- `HALL_GROW_ZEROED`: the growth completes; a hall whose heat runs are too short for it gets new ones (log entry 28, DESIGN CHOICE). -/
def State.hallGrowZeroed (s : State) (n : Nat) : State :=
  match s.hall n, s.runner 0x0403 n with
  | some h, some m =>
    match h.phase with
    | .growing g =>
      if s.chip.halted || !h.metaOut.isEmpty then s
      else
        let (h, s) := if h.cmp && decide (h.heatSize < g) then
            (match s.heatFor { h with heatSize := g } with
             | some heat => ({ h with heat := heat, heatSize := g }, s.dropHeat h)
             | none => (h, s))
          else (h, s)
        (s.putHall n { h with size := g, phase := .ready }).storeChanged.finishS m .ok
    | _ => s
  | _, _ => s

def execHallGrowZeroed (h : HallId) (s : State) : Out := .next ((s.hallGrowZeroed h).pump)

/-! ## What holds up a shrink or a release (R119, R120) -/

/-- Every access of a Landing that is not yet over; a planned write may still return to its queue. -/
def Landing.accesses (x : Landing) : List Access :=
  x.arb.staging ++ x.arb.grantNext.toList ++ x.seq.held ++ x.seq.rq ++ x.seq.wq ++ x.seq.inflight ++ x.seq.checking.map (·.1) ++
    x.seq.wrote.map (·.2)

/-- A request, a queued line, a move, a segment or a metadata fetch of a hall at or above an offset, or a queued line of one of
the granules `gone` (by member), is not over. -/
def State.hallBusy (s : State) (n : Nat) (h : Hall) (from_ : Nat) (gone : List (List Nat)) : Bool :=
  let inGone (l a : Nat) : Bool := match h.members.idxOf? l with
    | some i => (gone.getD i []).contains (a / granuleBytes)
    | none => false
  let txns := s.ports.toList.any fun x => x.txns.any fun t => t.hall == some n && decide (from_ ≤ t.off)
  let dma := s.dma.toList.any fun c => match c.run with
    | some r => (r.srcHall == n && r.srcs.any fun d => (d.issued || d.resolved.isSome) && !d.done && decide (from_ ≤ d.off)) ||
        (r.dstHall == n && r.dsts.any fun d => (d.issued || d.resolved.isSome) && !d.done && decide (from_ ≤ d.off))
    | none => false
  let cpu := s.misc.cpuWork.any fun w => !w.mapLine && w.hall == n && decide (from_ ≤ w.off)
  let lines := (List.range 12).any fun l => (s.land l).accesses.any fun a =>
    a.client != .scrub && !a.isClaim && (inGone l a.addr || (a.hall == some n && (a.client != .own || from_ == 0) && decide (from_ ≤ a.off)))
  let gals := s.galleries.toList.any fun x =>
    x.moves.any (fun m => m.hall == n && decide (from_ ≤ m.page * 4096)) || x.segs.any (fun f => f.hall == n && decide (from_ ≤ f.page * 4096)) ||
      x.fetches.any fun f => f.hall == some n && inGone (lpaLanding f.lpa) (lpaAddr f.lpa)
  txns || dma || cpu || lines || gals

/-- Granules of each member that lie beyond a kept size: data, tags and page map. -/
def Hall.beyondSize (h : Hall) (g : Nat) : List (List Nat) :=
  let n := max 1 h.members.length
  (List.range h.members.length).map fun i =>
    ((((h.ext.getD i []).zipIdx.drop (g / n)).filter fun e => !h.unbacked.contains e.2).map (·.1)) ++ (h.tagExt.getD i []).drop (tagGranules h.integ g n / n) ++
      (h.mapExt.getD i []).drop (mapGranules h.cmp g n / n)

/-- Pages of a hall from one on that are away from HOME give up their alcoves and their place in Q. -/
def State.freePages (s : State) (n : Nat) (h : Hall) (from_ : Nat) : State :=
  let mine := s.away.filter fun e => e.hall == n && decide (from_ ≤ e.page)
  let s := mine.foldl (fun s e =>
    let g := h.home e.page
    let s := if e.packed then s.countResv n e.page g (-1) else s
    if e.loc = 1 then s.freeAlcoves g e.frame e.start (e.count + 1) else s) s
  { s with away := s.away.filter fun e => !(e.hall == n && decide (from_ ≤ e.page)) }

/-- Cached tag and page-map lines of granules that go are discarded without write-back, with decoded segments and hot pages of
the removed pages and their ahead entries. -/
def State.dropCached (s : State) (n : Nat) (h : Hall) (from_ : Nat) (gone : List (List Nat)) : State :=
  let inGone (lpa : Nat) : Bool := match h.members.idxOf? (lpaLanding lpa) with
    | some i => (gone.getD i []).contains (lpaAddr lpa / granuleBytes)
    | none => false
  { s with
    ahead := s.ahead.filter fun a => !(a.hall == n && decide (from_ ≤ a.region * regionBytes))
    galleries := s.galleries.map fun x =>
      { x with
        cache := x.cache.filter fun c => !(c.hall == some n && inGone c.lpa)
        dbuf := x.dbuf.filter fun d => !(d.hall == n && decide (from_ ≤ d.page * 4096))
        hot := x.hot.filter fun e => !(e.1 == n && decide (from_ ≤ e.2 * 4096)) } }

/-- Open sequences on the removed range are broken. -/
def State.breakRange (s : State) (n from_ : Nat) : State :=
  eachBelow 9 (fun p s =>
    ((s.port p).seqs.filter fun q => q.hall == n && !q.broken && decide (from_ ≤ q.off)).foldl (fun s q => s.breakSeq p q.ldid .lockBroken) s) s

/-- `HALL_SHRINK_DONE`: the removed range is at rest, and the shrink completes. -/
def State.hallShrinkDone (s : State) (n : Nat) : State :=
  match s.hall n, s.runner 0x0403 n with
  | some h, some m =>
    match h.phase with
    | .shrinking g =>
      let bytes := g * granuleBytes
      let gone := h.beyondSize g
      if s.chip.halted || s.hallBusy n h bytes gone then s
      else
        let k := max 1 h.members.length
        let s := (((s.breakRange n bytes).freePages n h (bytes / 4096)).dropCached n h bytes gone)
        let old := (s.hall n).getD h
        let new := { old with size := g, w := min old.w bytes, unbacked := old.unbacked.filter fun j => decide (j < g / k)
                              pages := old.pages.filter fun e => decide (e.1 / 4 < g / k)
                              zeroPos := old.zeroPos.map fun z => min z (bytes / k / 64) }.settled
        ((s.advance n old new).setSteps h.members).storeChanged.finishS m .ok
    | _ => s
  | _, _ => s

def execHallShrinkDone (h : HallId) (s : State) : Out := .next ((s.hallShrinkDone h).pump)

/-! ## Release (R120) -/

/-- `HALL_RELEASE`: the windows go at the next tread boundary. -/
def State.hallRelease (s : State) (m : Nat) : State :=
  let n := fld ((s.box m).word 2) 9 0
  match s.hall n with
  | none => s.finishS m .notFound
  | some _ => (s.defer (.releaseWindows n)).goesOn m

def execHallRelease (m : MailboxId) (s : State) : Out := s.amiom m 0x0404 fun s => s.hallRelease m

/-- Every granule of a hall, by member. -/
def Hall.allGranules (h : Hall) : List (List Nat) :=
  (List.range h.members.length).map fun i =>
    (((h.ext.getD i []).zipIdx.filter fun e => !h.unbacked.contains e.2).map (·.1)) ++ h.tagExt.getD i [] ++ h.mapExt.getD i []

/-- Frames still bound to a hall are unbound, and their cached tag lines go. -/
def State.unbindFrames (s : State) (n : Nat) : State :=
  eachBelow 3 (fun g s =>
    let s := ((s.gal g).pool.filter fun e => e.2.bound && e.2.hall == n).foldl (fun s e =>
      s.putPool g e.1 { alcoves := 0, hall := 0, bound := false, quar := e.2.quar }) s
    s.modGal g fun x => { x with cache := x.cache.filter fun c => c.hall != some n }) s

/-- Members of a released hall on which no other hall allows deadlines. -/
def State.dlFree (s : State) (n : Nat) (h : Hall) : List Nat :=
  h.members.filter fun l => !s.halls.any fun e => e.1 != n && e.2.dl && e.2.members.contains l

/-- `HALL_RELEASE_DRAINED`: the hall is at rest; its key and metadata go, the epoch advances, and the granules are free. -/
def State.hallReleaseDrained (s : State) (n : Nat) : State :=
  match s.hall n, s.runner 0x0404 n with
  | some h, some m =>
    let gone := h.allGranules
    if h.phase ≠ .releasing || s.chip.halted || s.hallBusy n h 0 gone then s
    else
      let s := ((((s.freePages n h 0).unbindFrames n).dropHeat h).dropCached n h 0 gone)
      let s := if h.dl then s.setDl (s.dlFree n h) false else s
      let e := (s.epoch n + 1) % 65536
      let s : State := { s with halls := dropN s.halls n, epochs := putN s.epochs n e }
      (s.setSteps h.members).storeChanged.finish m .ok [at_ 0 e] []
  | _, _ => s

def execHallReleaseDrained (h : HallId) (s : State) : Out := .next ((s.hallReleaseDrained h).pump)

/-! ## Query (R472) -/

/-- The attribute word of a hall. -/
def Hall.attrs (h : Hall) : W32 :=
  at_ 0 (b2n h.enc) ||| at_ 1 (b2n h.integ) ||| at_ 2 (b2n h.cmp) ||| at_ 3 (b2n h.elastic) ||| at_ 4 (b2n h.dl) |||
    at_ 5 (b2n h.dbgv) ||| at_ 6 (if h.dma = 2 then 3 else h.dma)

/-- A window entry of `HALL_QUERY`. -/
def Window.entry (w : Window) : List Byte :=
  leBytes 2 w.num ++ [BitVec.ofNat 8 w.port, BitVec.ofNat 8 (w.ldid + 16 * b2n w.rw)] ++ leBytes 4 0 ++ leBytes 8 w.base

/-- `HALL_QUERY`. -/
def State.hallQuery (s : State) (m : Nat) : State :=
  let n := fld ((s.box m).word 2) 9 0
  let t := s.seen m
  match (if t.hallStands n then t.hall n else none) with
  | none => s.finishS m .notFound
  | some h =>
    let wins := t.windows.filter fun w => w.hall == n
    let pass := (h.members.map t.passTime).foldl max 0
    s.finish m .ok
      [ at_ 0 1 ||| at_ 1 (b2n (h.enc && h.keyLoaded)) ||| at_ 2 (b2n (decide (h.w = h.bytes))) ||| at_ 3 (b2n (h.phase == .releasing))
      , at_ 0 h.set.toNat, at_ 0 h.size, h.attrs, at_ 0 (t.epoch n), BitVec.ofNat 32 h.w, BitVec.ofNat 32 (h.w / 2 ^ 32)
      , BitVec.ofNat 32 wins.length, BitVec.ofNat 32 pass ] ((wins.take 256).flatMap Window.entry)

def execHallQuery (m : MailboxId) (s : State) : Out := s.amiom m 0x0405 fun s => s.hallQuery m

/-! ## Key reload (R363, R474) -/

/-- `HALL_KEY_LOAD`: the windows of a restored hall become active at the next tread boundary. -/
def State.hallKeyLoad (s : State) (m : Nat) : State :=
  let b := s.box m
  let n := fld (b.word 2) 9 0
  match (if s.hallStands n then s.hall n else none) with
  | none => s.finishS m .notFound
  | some h =>
    if !h.enc || h.keyLoaded then s.finishS m .badState
    else if b.plen ≠ 104 then s.finishS m .badParam
    else match s.unwrap b.payload with
      | none => s.finishS m .badKey
      | some key =>
        if keyCheck key ≠ h.check then s.finishS m .badKey
        else ((s.putHall n { h with key := key, keyLoaded := true }).defer (.activateHall n)).finishS m .ok

def execHallKeyLoad (m : MailboxId) (s : State) : Out := s.amiom m 0x0406 fun s => s.hallKeyLoad m

/-! ## Windows (R105, R106, R472) -/

/-- The base address of `WINDOW_ADD`. -/
def windowBase (lo hi : W32) : Nat := lo.toNat + fld hi 19 0 * 2 ^ 32

/-- The lowest window number not in use (log entry 17, DESIGN CHOICE). -/
def State.freeWindow (s : State) : Nat := ((List.range 4096).find? fun k => !s.windows.any fun w => w.num == k).getD 0

/-- A range overlaps a window of the same port and `LDID`. -/
def State.overlaps (s : State) (port ldid base size : Nat) : Bool :=
  s.windows.any fun v => v.port == port && v.ldid == ldid && decide (v.base < base + size) &&
    decide (base < v.base + ((s.hall v.hall).map fun x => x.promised * granuleBytes).getD 0)

/-- `WINDOW_ADD`: the window takes effect at the next tread boundary, when the command completes. -/
def State.windowAdd (s : State) (m : Nat) : State :=
  let b := s.box m
  let n := fld (b.word 2) 9 0
  let port := fld (b.word 3) 2 0
  let ldid := fld (b.word 3) 7 4
  let base := windowBase (b.word 4) (b.word 5)
  match (if s.hallStands n then s.hall n else none) with
  | none => s.finishS m .notFound
  | some h =>
    if h.phase = .releasing ∨ (h.enc ∧ !h.keyLoaded) then s.finishS m .badState
    else if base % granuleBytes ≠ 0 ∨ 2 ^ 52 < base + h.bytes then s.finishS m .badParam
    else if s.overlaps port ldid base h.bytes then s.finishS m .overlap
    else if 4096 ≤ s.windows.length then s.finishS m .noSpace
    else
      let k := s.freeWindow
      let w : Window := { num := k, hall := n, port := port, ldid := ldid, base := base, rw := (b.word 3).getLsbD 8, active := false }
      let s : State := { s with windows := s.windows ++ [w] }
      (s.storeChanged.defer (.windowOn k)).finishAtBoundary m [at_ 0 k]

def execWindowAdd (m : MailboxId) (s : State) : Out := s.amiom m 0x0407 fun s => s.windowAdd m

/-- `WINDOW_REMOVE`. -/
def State.windowRemove (s : State) (m : Nat) : State :=
  let k := fld ((s.box m).word 2) 11 0
  if s.windows.any fun w => w.num == k then (s.storeChanged.defer (.windowOff k)).finishAtBoundary m []
  else s.finishS m .notFound

def execWindowRemove (m : MailboxId) (s : State) : Out := s.amiom m 0x0408 fun s => s.windowRemove m

/-! ## The frame pool (R402, R403, R475) -/

/-- Granule sets that a pool's auxiliary area takes: none for a pool of no frames in which no hall has heat lines. -/
def State.auxSets (s : State) (g max_ : Nat) : Nat :=
  if max_ = 0 ∧ (s.heatRuns g).isEmpty then 0 else cdiv (granuleBytes + max_ * auxBlock) granuleBytes

/-- `k` granule sets of a Gallery's four Landings, after the first `skip` free ones. -/
def State.takeSets (s : State) (g skip k : Nat) : List (List Nat) :=
  let per := s.takeGranules ((List.range 4).map fun i => 4 * g + i) skip k
  (List.range k).map fun j => (List.range 4).map fun i => (per.getD i []).getD j 0

/-- The frame area may lose every set from `target` on: its frames are unbound, and H stays at 0 or above. -/
def Gallery.mayShrink (x : Gallery) (target : Nat) : Bool :=
  x.pool.all (fun e => !(e.2.bound && decide (target * framesPerSet ≤ e.1))) && decide (0 ≤ { x with poolExt := x.poolExt.take target }.headroom)

/-- Cached lines of auxiliary granule sets that go are discarded. -/
def Gallery.trimAux (x : Gallery) (sets : Nat) : Gallery :=
  let gone := x.auxExt.drop sets
  let inGone (lpa : Nat) : Bool := gone.any fun st => st.getD (lpaLanding lpa % 4) 0 == lpaAddr lpa / granuleBytes
  { x with auxExt := x.auxExt.take sets, cache := if gone.isEmpty then x.cache else x.cache.filter fun c => !inGone c.lpa }

/-- `TIER_POOL`. -/
def State.tierPool (s : State) (m : Nat) : State :=
  let b := s.box m
  let g := fld (b.word 2) 1 0
  let max_ := (b.word 3).toNat
  let target := (b.word 4).toNat
  let x := s.gal g
  let have_ := x.poolExt.length
  let aux := s.auxSets g max_
  let moreAux := aux - x.auxExt.length
  let more := target - have_
  if s.nGal ≤ g ∨ max_ < target ∨ max_ < have_ then s.finishS m .badParam
  else if (decide (0 < more + moreAux) && !s.roomFor ((List.range 4).map fun i => 4 * g + i) (more + moreAux) (more + moreAux)) ||
      (decide (target < have_) && !x.mayShrink target) then
    s.finishS m .noSpace
  else
    let ext := (x.poolExt ++ s.takeSets g 0 more).take target
    let auxes := x.auxExt ++ s.takeSets g more moreAux
    let s := s.modGal g fun x => { x with poolMax := max_, poolExt := ext, auxExt := auxes }.trimAux aux
    let s := s.setSteps ((List.range 4).map fun i => 4 * g + i)
    s.finish m .ok [s.galPage g 0x5018] []

def execTierPool (m : MailboxId) (s : State) : Out := s.amiom m 0x0501 fun s => s.tierPool m

end Sys2Proof.Machine
end

