-- ==== Sys2Proof/Machine/Repair.lean ====
section
/-! DEFINITION. Post-package repair (R263–R266, R475, R476). -/

namespace Sys2Proof.Machine

/-- The place that `PPR_RUN` names. -/
def Mailbox.repairCoord (b : Mailbox) : Coord :=
  let w := b.word 2
  { sub := fld w 4 4, rank := fld w 10 8, bg := fld w 14 12, bank := fld w 17 16, row := fld (b.word 3) 17 0, col := 0 }

/-- The place or the device lies outside the Landing's geometry, or a hall holds granules of the rank under a hard repair: every
granule spans every rank (R114, R263). -/
def State.badRepair (s : State) (l : Nat) (c : Coord) (dev : Nat) (hard spare : Bool) : Bool :=
  let g := (s.land l).seq.geom
  decide (g.ranks ≤ c.rank) || decide (g.banks ≤ c.bank) || decide (2 ^ (16 + g.rowBits) ≤ c.row) ||
    decide ((if g.x8 then 4 else 9) < dev) || !spare || (hard && s.halls.any fun e => e.2.members.contains l)

/-- Steps 1 to 3 of R264: the window claim, the locks, and the reads of the row's lines. -/
def State.beginRepair (s : State) (r : Repair) : State :=
  let l := r.landing
  let s := s.modMisc fun m =>
    { m with repairs := m.repairs ++ [r]
             claims := if r.own then m.claims else m.claims ++ [{ res := 1, which := l, param := 0, holder := 15 }] }
  let lines := r.lines (s.land l).seq.geom
  let s := s.modSeq l fun q => { q with lockTable := q.lockTable ++ lines.map fun a => { addr := a, cause := .repair } }
  lines.foldl (fun s a =>
    let (id, s) := s.fresh
    s.stage l (access id .ppr 10 (beStamp s.now) .read a)) s

/-- `PPR_RUN`; whether the device shows a spare row in the bank group is the command's operand. -/
def State.pprRun (s : State) (m : Nat) (spare : Bool) : State :=
  let b := s.box m
  let l := fld (b.word 2) 3 0
  let c := b.repairCoord
  let dev := fld (b.word 4) 3 0
  let hard := (b.word 2).getLsbD 31
  let held := s.claimOf 1 l
  if !(s.land l).sbd.started then s.finishS m .badState
  else if s.badRepair l c dev hard spare then s.finishS m .badParam
  else if held.any (fun x => x.holder != m) || (s.repairOf l).isSome then s.finishS m .resourceBusy
  else if s.landFenced l then s.finishS m .failed
  else (s.goesOn m).beginRepair { mailbox := m, landing := l, coord := c, dev := dev, hard := hard, serial := s.rankSerial l c.rank, own := held.isSome, staged := [], back := none, left := [] }

def execPprRun (m : MailboxId) (spareRow : Bool) (s : State) : Out := s.amiom m 0x0602 fun s => s.pprRun m spareRow

/-- A successful repair of a row lifts its fence; the fence of a bank goes with the last row that it lists (R505). -/
def State.liftRow (s : State) (l : Nat) (c : Coord) : State :=
  let here (f : Fence) : Bool := f.landing == l && f.coord.sub == c.sub && f.coord.rank == c.rank && f.coord.bg == c.bg && f.coord.bank == c.bank
  let strike (f : Fence) : Fence := { f with rows := f.rows.filter fun x => x != c.row }
  let s := s.modFlt fun x => { x with fences := mapIf (fun f => f.grain == .bank && here f) strike x.fences }
  (s.flt.fences.filter fun f => here f && ((f.grain == .row && f.coord.row == c.row) || (f.grain == .bank && f.rows.isEmpty))).foldl
    (fun s f => s.liftFence f) s

/-- The staged lines go back to the row as writes of the Landing's own (R25, R264 step 5). -/
def State.writeRow (s : State) (r : Repair) : State :=
  r.staged.foldl (fun s ln =>
    let (id, s) := s.fresh
    s.stage r.landing { access id .ppr 10 (beStamp s.now) .write ln.1 with stored := ln.2.1, poison := ln.2.2 }) s

/-- `PPR_PROGRAM_DONE`: the bank is free, and the staged lines are written back; the repair is over when the last one is ordered
(R264 steps 4 to 6). A row that stays fenced takes no write. -/
def State.pprDone (s : State) (l : Nat) (ok : Bool) (holdNs : Nat) : State :=
  match s.repairOf l with
  | none => s
  | some r =>
    if r.staged.length < (s.land l).seq.geom.rowLines || r.back.isSome || s.chip.halted then s
    else
      let s := if ok then s.liftRow l r.coord else s
      if s.writeBarred l r.coord then s.endRepair r ok holdNs
      else
        let back (e : Repair) : Repair := { e with back := some (ok, holdNs), left := e.staged.map (·.1) }
        (s.modMisc fun m => { m with repairs := mapIf (fun e => e.landing == l) back m.repairs }).writeRow r

def execPprProgramDone (l : LandingId) (ok : Bool) (holdNs : Nat) (s : State) : Out := .next ((s.pprDone l ok holdNs).pump)

end Sys2Proof.Machine
end

