-- ==== Sys2Proof/Machine/Vestibule.lean ====
section
/-! DEFINITION. The flits of the host ports and DBG (R69–R100): acceptance, credits, stamps, resolution and the
refusals of R85 and R86, one row per opcode. -/

namespace Sys2Proof.Machine

/-! ## Acceptance -/

/-- Credits of the request's class that the integrator holds (R91). -/
def Port.holds (x : Port) (wrq : Bool) : Bool := if wrq then decide (0 < x.wrq) else decide (0 < x.req)

/-- A port takes a flit: it is open, its logic is powered, and the sender holds a credit of the class. A flit
sent otherwise is ignored (R95; log entry 31, DESIGN CHOICE). -/
def State.takes (s : State) (p : Nat) (wrq : Bool) : Bool :=
  (s.port p).state == .opened && s.chip.coreOn && (s.port p).holds wrq

/-- The send of a flit debits its class. -/
def State.debit (s : State) (p : Nat) (wrq : Bool) : State :=
  s.modPort p fun x => if wrq then { x with wrq := x.wrq - 1 } else { x with req := x.req - 1 }

/-- A credit returns to the integrator. -/
def State.credit (s : State) (p : Nat) (wrq : Bool) : State :=
  s.modPort p fun x => if wrq then { x with wrq := x.wrq + 1 } else { x with req := x.req + 1 }

/-- The TAG of the header is outstanding on the port (R72). -/
def Port.tagUsed (x : Port) (tag : BitVec 12) : Bool := x.txns.any fun t => t.hdr.tag == tag

/-- Device physical address of a header (R71). -/
def dpa (h : Header) : Nat := h.addr.toNat * 64

/-- The hall, offset or refusal of a request of a port (R107, R125). -/
def State.lookup (s : State) (p : Nat) (h : Header) (need : Right) : Resolved :=
  if p = 8 then s.resolveDbg (dpa h) else s.resolve p h.ldid.toNat (dpa h) need

/-- The record of an accepted request (R78, R79). -/
def State.newTxn (s : State) (p : Nat) (opc : Opc) (h : Header) (poison : Bool) (data : BitVec 512) (be : BitVec 64)
    (place : Option (Nat × Nat)) : Txn × State :=
  let (id, s) := s.fresh
  let dlHall := match place.bind fun e => s.hall e.1 with
    | some x => x.dl
    | none => true
  let asked := decide (h.due ≠ 0xFFF) && p != 8
  let dl := asked && dlHall
  let s := if asked && !dlHall && p < 8 then s.bumpB (userCount p 0x20) 1 else s
  ({ id := id, opc := opc, hdr := h, poison := poison, data := data, be := be
     stamp := if p = 8 then stampOf s.now else if dl then dueStamp s.now h.due else beStamp s.now
     dl := dl, hall := place.map (·.1), off := (place.map (·.2)).getD 0, landing := none
     wait := if s.hostServes then .behind else .wake, resp := none, excused := !s.hostServes, credited := false, metaAt := [], metaFailed := false }, s)

/-- The user page counts MRD, MWR and MWRP as they are accepted (R524). -/
def State.countAccepted (s : State) (p : Nat) (opc : Opc) : State :=
  if p < 8 && opc == .mrd then s.bumpB (userCount p 0x10) 1
  else if p < 8 && (opc == .mwr || opc == .mwrp) then s.bumpB (userCount p 0x14) 1
  else s

/-- Protocol rules that a resolved or unresolved request breaks (R89). -/
def State.malformed (s : State) (p : Nat) (opc : Opc) (h : Header) (place : Option (Nat × Nat)) : Bool :=
  let q := (s.port p).seqOf h.ldid.toNat
  match opc with
  | .bad _ => true
  | .mrd => h.lock && q.isSome
  | .unlk =>
    h.lock || (match q, place with
      | none, _ => true
      | some x, some (n, off) => x.hall != n || x.off / 64 != off / 64
      | some x, none => x.dpa != dpa h)
  | _ => h.lock

/-- The right a request needs (R107). -/
def Opc.right (opc : Opc) (lock : Bool) : Right :=
  match opc with
  | .mrd => if lock then .readWrite else .read
  | .unlk => .read
  | _ => .readWrite

/-- A closing request that no longer resolves, or no longer has its right, ends its broken sequence with it: R86 ranks `UNMAPPED`
and `DENIED` before `LOCK_BROKEN` (R120). -/
def State.dropLost (s : State) (p : Nat) (opc : Opc) (h : Header) : State :=
  if opc.write || opc == .unlk then
    s.modPort p fun x => { x with seqs := x.seqs.filter fun q => !(q.broken && q.ldid == h.ldid.toNat && q.dpa == dpa h) }
  else s

/-- A request flit of a port (R71–R90): dropped, refused, or accepted and carried on. -/
def State.request (s : State) (p : Nat) (opc : Opc) (h : Header) (poison : Bool) (data : BitVec 512) (be : BitVec 64) :
    State :=
  if !s.takes p opc.wrq then s
  else
    let s := s.debit p opc.wrq
    if (s.port p).tagUsed h.tag then (s.credit p opc.wrq).portFault p 1
    else
      let found := s.lookup p h (opc.right h.lock)
      let place := match found with
        | .ok n off => some (n, off)
        | .bad _ => none
      let refusal : Option Status :=
        if s.chip.halted then some .halted
        else if s.malformed p opc h place then some .malformed
        else match found with
          | .bad st => some st
          | .ok _ _ => none
      let (t, s) := s.newTxn p opc h poison data be (if refusal.isSome then none else place)
      let s := (s.countAccepted p opc).modPort p fun x => { x with txns := x.txns ++ [t] }
      match refusal, place with
      | some st, _ => (if st = .unmapped ∨ st = .denied then s.dropLost p opc h else s).formS p t.id st
      | none, some (n, off) =>
        let s := if h.lock && opc == .mrd then
            let (l, a) := ((s.hall n).map fun x => x.line off).getD (0, 0)
            s.modPort p fun x => { x with seqs := x.seqs ++
              [{ ldid := h.ldid.toNat, dpa := dpa h, active := false, hall := n, off := off, landing := l, addr := a, broken := false }] }
          else s
        s.pump
      | none, none => s

/-- An open-row hint (R75): its credit returns at once, and it is staged with the best-effort stamp where it
resolves to a hall that grants read rights; anything else discards it without fault. Outside P0 it is discarded too, and wakes
nothing (log entry 93, DESIGN CHOICE). -/
def State.hintFlit (s : State) (p : Nat) (h : Header) : State :=
  if !s.takes p false then s
  else if s.chip.halted || h.lock || !s.hostServes then s
  else
    match s.lookup p h .read with
    | .bad _ => s
    | .ok n off =>
      (s.routeAsk { client := .cpu 0, req := reqOf p, hall := n, off := off, op := .hint, stamp := beStamp s.now, acc := stampOf s.now
                    dl := false, data := 0, be := 0, poison := false, opens := none, closes := none, inside := none, zeros := false }).1

/-! ## The rows -/

/-- `MRD` (R73). -/
def execMrd (p : PortId) (h : Header) (s : State) : Out := .next (s.request p .mrd h false 0 0)

/-- `MRDS` (R75). -/
def execMrds (p : PortId) (h : Header) (s : State) : Out := .next (s.hintFlit p h)

/-- `UNLK` (R73, R88). -/
def execUnlk (p : PortId) (h : Header) (s : State) : Out := .next (s.request p .unlk h false 0 0)

/-- `MWR` (R73, R77); `BE` is ignored. -/
def execMwr (p : PortId) (h : Header) (poison : Bool) (data : BitVec 512) (s : State) : Out :=
  .next (s.request p .mwr h poison data (BitVec.allOnes 64))

/-- `MWRP` (R73, R76, R77). -/
def execMwrp (p : PortId) (h : Header) (poison : Bool) (data : BitVec 512) (be : BitVec 64) (s : State) : Out :=
  .next (s.request p .mwrp h poison data be)

/-- `MALFORMED_OPCODE` (R74): an OPC of 04h–10h or 13h–1Fh takes a credit of the class of OPC[4] and is answered
`MALFORMED`. -/
def execMalformedOpcode (p : PortId) (h : Header) (opc : BitVec 6) (s : State) : Out :=
  let o := opc.toNat
  if (4 ≤ o ∧ o ≤ 0x10) ∨ (0x13 ≤ o ∧ o ≤ 0x1F) then .next (s.request p (.bad (opc.getLsbD 4)) h false 0 0) else .next s

/-- `CLASSLESS_OPCODE` (R74): an OPC of 00h or 20h–3Fh names no class. It is dropped, its credit never returns,
and it is a class U fault. The class debited is the one of OPC[4] (log entry 32, DESIGN CHOICE). -/
def execClasslessOpcode (p : PortId) (_h : Header) (opc : BitVec 6) (s : State) : Out :=
  let o := opc.toNat
  if (o = 0 ∨ 0x20 ≤ o) ∧ s.takes p (opc.getLsbD 4) then .next ((s.debit p (opc.getLsbD 4)).portFault p 2) else .next s

/-- `CREDIT_RETURN` (R92, R94): CPL and DAT credits come back, and held responses may leave. -/
def execCreditReturn (p : PortId) (cpl dat : BitVec 8) (s : State) : Out :=
  if (s.port p).state = .closed then .next s
  else .next ((s.modPort p fun x => { x with cpl := x.cpl + cpl.toNat, dat := x.dat + dat.toNat }).flushPort p)

end Sys2Proof.Machine
end

