-- ==== Sys2Proof/Machine/Dispatch.lean ====
section
/-! DEFINITION. One arm per command: a direct call of its meaning. -/

namespace Sys2Proof.Machine

def exec (i : Instr) (s : State) : Host.Outcome State Fault Refusal :=
  match i with
  | .coldReset => Sys2Proof.Machine.execColdReset s
  | .powerOnSequence bootsel rootKeyHash => Sys2Proof.Machine.execPowerOnSequence bootsel rootKeyHash s
  | .warmReset => Sys2Proof.Machine.execWarmReset s
  | .warmResetEnd => Sys2Proof.Machine.execWarmResetEnd s
  | .warmResetDrainTimeout l => Sys2Proof.Machine.execWarmResetDrainTimeout l s
  | .boot flash => Sys2Proof.Machine.execBoot flash s
  | .firmwareStart => Sys2Proof.Machine.execFirmwareStart s
  | .bootChunk => Sys2Proof.Machine.execBootChunk s
  | .bootGo => Sys2Proof.Machine.execBootGo s
  | .watchdogExpiry => Sys2Proof.Machine.execWatchdogExpiry s
  | .wakeNAssert => Sys2Proof.Machine.execWakeNAssert s
  | .thermNAssert => Sys2Proof.Machine.execThermNAssert s
  | .thermNRelease => Sys2Proof.Machine.execThermNRelease s
  | .pwrGoodFall => Sys2Proof.Machine.execPwrGoodFall s
  | .pwrGoodRise => Sys2Proof.Machine.execPwrGoodRise s
  | .pwrGoodTimeout pmicFaults => Sys2Proof.Machine.execPwrGoodTimeout pmicFaults s
  | .pgInputFall pin => Sys2Proof.Machine.execPgInputFall pin s
  | .refclkStop => Sys2Proof.Machine.execRefclkStop s
  | .treadBoundary => Sys2Proof.Machine.execTreadBoundary s
  | .treadPlan l => Sys2Proof.Machine.execTreadPlan l s
  | .blockFlightBoundary => Sys2Proof.Machine.execBlockFlightBoundary s
  | .arbDecision l => Sys2Proof.Machine.execArbDecision l s
  | .backoffExpiry l r => Sys2Proof.Machine.execBackoffExpiry l r s
  | .starvation l r => Sys2Proof.Machine.execStarvation l r s
  | .lockExpiry l => Sys2Proof.Machine.execLockExpiry l s
  | .mrd p h => Sys2Proof.Machine.execMrd p h s
  | .mrds p h => Sys2Proof.Machine.execMrds p h s
  | .unlk p h => Sys2Proof.Machine.execUnlk p h s
  | .mwr p h poison data => Sys2Proof.Machine.execMwr p h poison data s
  | .mwrp p h poison data be => Sys2Proof.Machine.execMwrp p h poison data be s
  | .malformedOpcode p h opc => Sys2Proof.Machine.execMalformedOpcode p h opc s
  | .classlessOpcode p h opc => Sys2Proof.Machine.execClasslessOpcode p h opc s
  | .creditReturn p cpl dat => Sys2Proof.Machine.execCreditReturn p cpl dat s
  | .lineDecode l access burst => Sys2Proof.Machine.execLineDecode l access burst s
  | .tagCheck l access => Sys2Proof.Machine.execTagCheck l access s
  | .haltDrainTimeout l => Sys2Proof.Machine.execHaltDrainTimeout l s
  | .tagLineFill g kind lpa => Sys2Proof.Machine.execTagLineFill g kind lpa s
  | .tagFetchStart g kind => Sys2Proof.Machine.execTagFetchStart g kind s
  | .aheadZeroingDone h region => Sys2Proof.Machine.execAheadZeroingDone h region s
  | .aheadEntryFree h region => Sys2Proof.Machine.execAheadEntryFree h region s
  | .initZeroWrite l h => Sys2Proof.Machine.execInitZeroWrite l h s
  | .refreshDue l sub rank => Sys2Proof.Machine.execRefreshDue l sub rank s
  | .refreshEmergency l sub rank => Sys2Proof.Machine.execRefreshEmergency l sub rank s
  | .refreshPartTwo l => Sys2Proof.Machine.execRefreshPartTwo l s
  | .maintenanceWindow l => Sys2Proof.Machine.execMaintenanceWindow l s
  | .rfmOwed l sub rank bg bank => Sys2Proof.Machine.execRfmOwed l sub rank bg bank s
  | .stringerDue l => Sys2Proof.Machine.execStringerDue l s
  | .stringerInstanceDone l zero full code puStep pdStep => Sys2Proof.Machine.execStringerInstanceDone l zero full code puStep pdStep s
  | .strSlewDone l => Sys2Proof.Machine.execStrSlewDone l s
  | .stringerAgeExpiry l => Sys2Proof.Machine.execStringerAgeExpiry l s
  | .stringerFullMeasurementDone l zero full codes => Sys2Proof.Machine.execStringerFullMeasurementDone l zero full codes s
  | .impedanceSearchDone l pu pd => Sys2Proof.Machine.execImpedanceSearchDone l pu pd s
  | .zqDue l => Sys2Proof.Machine.execZqDue l s
  | .zqLatch l sub rank => Sys2Proof.Machine.execZqLatch l sub rank s
  | .scrubStepDue l => Sys2Proof.Machine.execScrubStepDue l s
  | .heatDecayDue => Sys2Proof.Machine.execHeatDecayDue s
  | .calCheck l => Sys2Proof.Machine.execCalCheck l s
  | .calRunStart l => Sys2Proof.Machine.execCalRunStart l s
  | .calRetrainStep l m margins => Sys2Proof.Machine.execCalRetrainStep l m margins s
  | .calibrationCommit l => Sys2Proof.Machine.execCalibrationCommit l s
  | .marginCheckDone l margins => Sys2Proof.Machine.execMarginCheckDone l margins s
  | .bootTraining l r => Sys2Proof.Machine.execBootTraining l r s
  | .bootTrainingTimeout l => Sys2Proof.Machine.execBootTrainingTimeout l s
  | .dbTrainingDone l rank ok => Sys2Proof.Machine.execDbTrainingDone l rank ok s
  | .dbTrainingTimeout l rank => Sys2Proof.Machine.execDbTrainingTimeout l rank s
  | .ecsReadoutDue l counts => Sys2Proof.Machine.execEcsReadoutDue l counts s
  | .mntEcsRead l w counts => Sys2Proof.Machine.execMntEcsRead l w counts s
  | .eccLeak g => Sys2Proof.Machine.execEccLeak g s
  | .powerDownEntry l sub rank => Sys2Proof.Machine.execPowerDownEntry l sub rank s
  | .pageTimeout l sub rank bg bank => Sys2Proof.Machine.execPageTimeout l sub rank bg bank s
  | .hintDrop l access => Sys2Proof.Machine.execHintDrop l access s
  | .alertNFall l => Sys2Proof.Machine.execAlertNFall l s
  | .alertNRise l => Sys2Proof.Machine.execAlertNRise l s
  | .alertClassifyTimeout l => Sys2Proof.Machine.execAlertClassifyTimeout l s
  | .parityRetry l => Sys2Proof.Machine.execParityRetry l s
  | .aboPresent l => Sys2Proof.Machine.execAboPresent l s
  | .aboActWindowEnd l => Sys2Proof.Machine.execAboActWindowEnd l s
  | .aboEnd l => Sys2Proof.Machine.execAboEnd l s
  | .alertStuck l => Sys2Proof.Machine.execAlertStuck l s
  | .thermalRead l slot reading => Sys2Proof.Machine.execThermalRead l slot reading s
  | .pmicStatusRead l slot status warning fault => Sys2Proof.Machine.execPmicStatusRead l slot status warning fault s
  | .sidebandTransactionDone bus data => Sys2Proof.Machine.execSidebandTransactionDone bus data s
  | .sidebandTimeout bus => Sys2Proof.Machine.execSidebandTimeout bus s
  | .pllLock g => Sys2Proof.Machine.execPllLock g s
  | .pllLockLoss g => Sys2Proof.Machine.execPllLockLoss g s
  | .landingDrainComplete l => Sys2Proof.Machine.execLandingDrainComplete l s
  | .faultReport r => Sys2Proof.Machine.execFaultReport r s
  | .fenceSettled fenceId => Sys2Proof.Machine.execFenceSettled fenceId s
  | .fenceSettleTimeout fenceId => Sys2Proof.Machine.execFenceSettleTimeout fenceId s
  | .shadowEnd fenceId => Sys2Proof.Machine.execShadowEnd fenceId s
  | .quietPeriodEnd c => Sys2Proof.Machine.execQuietPeriodEnd c s
  | .aliveToggle => Sys2Proof.Machine.execAliveToggle s
  | .arcadePacketClose src body => Sys2Proof.Machine.execArcadePacketClose src body s
  | .recordStoreCommit checkOk => Sys2Proof.Machine.execRecordStoreCommit checkOk s
  | .commandTake => Sys2Proof.Machine.execCommandTake s
  | .lbyDbRing m strb => Sys2Proof.Machine.execLbyDbRing m strb s
  | .lbyStsAck m strb => Sys2Proof.Machine.execLbyStsAck m strb s
  | .lbyEqPop strb => Sys2Proof.Machine.execLbyEqPop strb s
  | .lbyArPop strb => Sys2Proof.Machine.execLbyArPop strb s
  | .popStallTimeout => Sys2Proof.Machine.execPopStallTimeout s
  | .flush strb => Sys2Proof.Machine.execFlush strb s
  | .mark strb => Sys2Proof.Machine.execMark strb s
  | .rewind strb => Sys2Proof.Machine.execRewind strb s
  | .clear strb => Sys2Proof.Machine.execClear strb s
  | .arbClrLongest l strb => Sys2Proof.Machine.execArbClrLongest l strb s
  | .timingRegisterWrite l off w => Sys2Proof.Machine.execTimingRegisterWrite l off w s
  | .phyPllWrite l w => Sys2Proof.Machine.execPhyPllWrite l w s
  | .lowWordRead addr strb => Sys2Proof.Machine.execLowWordRead addr strb s
  | .registerWrite addr w => Sys2Proof.Machine.execRegisterWrite addr w s
  | .dmaRing n strb => Sys2Proof.Machine.execDmaRing n strb s
  | .dmaStop n strb => Sys2Proof.Machine.execDmaStop n strb s
  | .dmaReset n strb => Sys2Proof.Machine.execDmaReset n strb s
  | .dmaResetDone n => Sys2Proof.Machine.execDmaResetDone n s
  | .dmaChHeadWrite n w => Sys2Proof.Machine.execDmaChHeadWrite n w s
  | .descriptorStart n => Sys2Proof.Machine.execDescriptorStart n s
  | .descriptorComplete n => Sys2Proof.Machine.execDescriptorComplete n s
  | .tierDemotionStart g h page => Sys2Proof.Machine.execTierDemotionStart g h page s
  | .tierDemotionSwitch g move => Sys2Proof.Machine.execTierDemotionSwitch g move s
  | .tierPromotionStart g h page => Sys2Proof.Machine.execTierPromotionStart g h page s
  | .tierPromotionSwitch g move => Sys2Proof.Machine.execTierPromotionSwitch g move s
  | .tierUnback h group => Sys2Proof.Machine.execTierUnback h group s
  | .segmentDecode g fetch => Sys2Proof.Machine.execSegmentDecode g fetch s
  | .pwrReq w => Sys2Proof.Machine.execPwrReq w s
  | .powerTransitionDone => Sys2Proof.Machine.execPowerTransitionDone s
  | .wake src => Sys2Proof.Machine.execWake src s
  | .wakeComplete => Sys2Proof.Machine.execWakeComplete s
  | .pwrTimerExpiry => Sys2Proof.Machine.execPwrTimerExpiry s
  | .legacyAsk => Sys2Proof.Machine.execLegacyAsk s
  | .legacyRollbackRestart => Sys2Proof.Machine.execLegacyRollbackRestart s
  | .portCloseDone p => Sys2Proof.Machine.execPortCloseDone p s
  | .hallReleaseDrained h => Sys2Proof.Machine.execHallReleaseDrained h s
  | .hallShrinkDone h => Sys2Proof.Machine.execHallShrinkDone h s
  | .hallCreateZeroed h => Sys2Proof.Machine.execHallCreateZeroed h s
  | .pprProgramDone l ok holdNs => Sys2Proof.Machine.execPprProgramDone l ok holdNs s
  | .queryCaps m => Sys2Proof.Machine.execQueryCaps m s
  | .bringup m => Sys2Proof.Machine.execBringup m s
  | .claim m => Sys2Proof.Machine.execClaim m s
  | .release m => Sys2Proof.Machine.execRelease m s
  | .portOpen m => Sys2Proof.Machine.execPortOpen m s
  | .portClose m => Sys2Proof.Machine.execPortClose m s
  | .discover m found => Sys2Proof.Machine.execDiscover m found s
  | .landingStart m => Sys2Proof.Machine.execLandingStart m s
  | .landingQuery m => Sys2Proof.Machine.execLandingQuery m s
  | .moduleQuery m => Sys2Proof.Machine.execModuleQuery m s
  | .sbdXfer m => Sys2Proof.Machine.execSbdXfer m s
  | .dmaBind m => Sys2Proof.Machine.execDmaBind m s
  | .debugSelect m => Sys2Proof.Machine.execDebugSelect m s
  | .arbSet m => Sys2Proof.Machine.execArbSet m s
  | .seqSet m => Sys2Proof.Machine.execSeqSet m s
  | .timingSet m => Sys2Proof.Machine.execTimingSet m s
  | .mntSet m => Sys2Proof.Machine.execMntSet m s
  | .eccSet m => Sys2Proof.Machine.execEccSet m s
  | .calSet m => Sys2Proof.Machine.execCalSet m s
  | .cmpSet m => Sys2Proof.Machine.execCmpSet m s
  | .tierSet m => Sys2Proof.Machine.execTierSet m s
  | .calRun m => Sys2Proof.Machine.execCalRun m s
  | .calSave m => Sys2Proof.Machine.execCalSave m s
  | .calRestore m => Sys2Proof.Machine.execCalRestore m s
  | .kekLoad m => Sys2Proof.Machine.execKekLoad m s
  | .hallCreate m => Sys2Proof.Machine.execHallCreate m s
  | .hallResize m => Sys2Proof.Machine.execHallResize m s
  | .hallRelease m => Sys2Proof.Machine.execHallRelease m s
  | .hallQuery m => Sys2Proof.Machine.execHallQuery m s
  | .hallKeyLoad m => Sys2Proof.Machine.execHallKeyLoad m s
  | .windowAdd m => Sys2Proof.Machine.execWindowAdd m s
  | .windowRemove m => Sys2Proof.Machine.execWindowRemove m s
  | .tierPool m => Sys2Proof.Machine.execTierPool m s
  | .eccDeclare m => Sys2Proof.Machine.execEccDeclare m s
  | .pprRun m spareRow => Sys2Proof.Machine.execPprRun m spareRow s
  | .scrubSet m => Sys2Proof.Machine.execScrubSet m s
  | .pwrCfg m => Sys2Proof.Machine.execPwrCfg m s
  | .fltRead m => Sys2Proof.Machine.execFltRead m s
  | .fltClear m => Sys2Proof.Machine.execFltClear m s
  | .fltCfg m => Sys2Proof.Machine.execFltCfg m s
  | .cntCfg m => Sys2Proof.Machine.execCntCfg m s
  | .cntUser m => Sys2Proof.Machine.execCntUser m s
  | .rsRead m => Sys2Proof.Machine.execRsRead m s
  | .rsCommit m => Sys2Proof.Machine.execRsCommit m s
  | .rsDrop m => Sys2Proof.Machine.execRsDrop m s
  | .pgInputRise pin => Sys2Proof.Machine.execPgInputRise pin s
  | .calRunTimeLimit m => Sys2Proof.Machine.execCalRunTimeLimit m s
  | .status1PulseEnd => Sys2Proof.Machine.execStatus1PulseEnd s
  | .hallGrowZeroed h => Sys2Proof.Machine.execHallGrowZeroed h s

end Sys2Proof.Machine
end

