-- ==== Sys2Proof/Certificates/Slice0/Obligations.lean ====
section
/-! DEFINITION. The statements for the provers. Every docstring names the rules or the log entries that its statement rests on. -/

namespace Sys2Proof.Slice

open Sys2Proof.Machine

/-- Opcodes of the commands that work in Halt (R469 to R477). -/
def worksInHalt : List Nat :=
  [ 0x0001, 0x0003, 0x0004, 0x0102, 0x0105, 0x0106, 0x0302, 0x0405, 0x0701, 0x0801, 0x0803, 0x0901, 0x0902, 0x0A01, 0x0A02 ]

/-- A command of opcode `opc` stands in mailbox `m`, taken and not begun; firmware runs and may begin it, and the block is not in
Halt, or the command works there (R459, R462). -/
abbrev Begins (s : State) (m : MailboxId) (opc : Nat) : Prop :=
  (s.box m).state = .busy ∧ (s.box m).started = false ∧ (s.box m).opc = opc ∧ s.chip.fwReady = true ∧ s.mayStart m = true ∧
    (s.chip.halted = false ∨ worksInHalt.contains opc = true)

/-- The block is in P0 with no transition and no pending request, as a command that needs DRAM asks (R463). -/
abbrev Awake (s : State) : Prop := s.inP0 = true ∧ s.pwr.pend = none

/-- The mailboxes with mailbox `m` completed (R438, R441). -/
def boxesDone (s : State) (m : MailboxId) (st : AStatus) (res : List W32) (pay : List Byte) : Vector Mailbox 9 :=
  s.boxes.setIfInBounds m ((s.box m).finish st res pay)

/-- The mailboxes with mailbox `m` holding its objects and going on. -/
def boxesOn (s : State) (m : MailboxId) : Vector Mailbox 9 := s.boxes.setIfInBounds m { s.box m with started := true }

/-- CFG takes a request and serves it at once: no pop stalls and nothing waits behind one (R56, R445, R536). -/
abbrev CfgFree (s : State) : Prop := s.cfgAlive = true ∧ s.cfgWaits = false

/-- CFG takes a whole-word write at an address of a unit that is present and on, and serves it at once (R6, R57). -/
abbrev CfgOpen (s : State) (a : Nat) : Prop := CfgFree s ∧ s.absentAt a = false ∧ s.domainDown a = false

/-- CFG with the answer of an accepted write. -/
def cfgOk (s : State) : Cfg := s.cfg.answer 0 false

/-- A chip into whose Control Processor the boot ROM has loaded an image (R434): the code into the code SRAM, the rest of the payload into
the data SRAM. -/
def imageIn (c : Chip) (img : List Byte) : Chip :=
  let payload := (img.drop 256).take (imageHeader img).len
  { c with cpCode := writeBytes [] 0 (payload.take (imageHeader img).code)
           cpData := writeBytes [] 0 (payload.drop (imageHeader img).code) }

end Sys2Proof.Slice

open Sys2Proof Sys2Proof.Machine Sys2Proof.Slice

/-! ## The machine as a whole -/

/-- The command at the front of the queue runs on the state with the queue's rest. -/
def Obligations.StepRunsFrontCommand : Prop :=
  ∀ (c : Instr) (rest : List Instr) (s : State), step { s with pending := c :: rest } = exec c { s with pending := rest }

/-- With nothing waiting a step is one CCLK cycle, in P3 with CORE off the 10 ns of the always-on clock (R27); in cold reset, in P4 and
with the CP domain off outside P3 nothing moves (log entry 2, DESIGN CHOICE: the command table has no row for a clock). -/
def Obligations.EmptyQueueStepIsOneCycle : Prop :=
  ∀ s : State, s.pending = [] →
    (s.chip.phase ≠ .cold → s.pwr.state ≠ .p4 → s.chip.cpOn = true ∨ s.pwr.state = .p3 →
      step s = .next { s with chip := { s.chip with
        cycle := s.chip.cycle + (if s.pwr.state = .p3 ∧ s.chip.coreOn = false then 20 else 1) } }) ∧
    (s.chip.phase = .cold ∨ s.pwr.state = .p4 ∨ (s.chip.cpOn = false ∧ s.pwr.state ≠ .p3) → step s = .next s)

/-- Every step answers a next state: no command faults and none is refused. -/
def Obligations.EveryStepAnswers : Prop := ∀ s : State, Safe s

/-- A step takes exactly the front command out of the queue, puts none in, and never changes which variant the part is, on which
the set of its units rests (R4 to R7). -/
def Obligations.StepKeepsQueueOrderAndPart : Prop :=
  ∀ s t : State, step s = .next t → t.pending = s.pending.tail ∧ t.chip.variant = s.chip.variant

/-- Every step keeps the canonical form of the descriptor memory (R413; log entry 8). -/
def Obligations.StepKeepsDescriptorMemoryCanonical : Prop :=
  ∀ s t : State, s.desc.wf = true → step s = .next t → t.desc.wf = true

/-- Outside the end of a reset, `BLK_TIME` never falls, and with a command at the front it moves only at `TREAD_BOUNDARY` (R27;
log entries 2 and 3, DESIGN CHOICE: which steps move the clock). A cold reset also ends at the rise of the rail that it waited for. -/
def Obligations.BlockTimeNeverFallsOutsideResets : Prop :=
  ∀ s t : State, step s = .next t →
    (∀ c rest, s.pending = c :: rest → c ≠ .coldReset ∧ c ≠ .warmResetEnd ∧ (∀ b h, c ≠ .powerOnSequence b h) ∧
      (s.chip.railWait = true → ∀ pin, c ≠ .pgInputRise pin)) →
      s.now ≤ t.now ∧ ∀ c rest, s.pending = c :: rest → c ≠ .treadBoundary → t.now = s.now

/-- The state after reset: an empty queue, canonical descriptor memory, `BLK_TIME` 0 and no hall; P0 (R62) and what the manual's
tables and rules give the Event Queue (R453), a DMA channel (R430), the Power Manager (R497), the Fault Collector (R510, R516), a
Landing in SR with no geometry (R192, R155), and a closed port. -/
def Obligations.ResetValuesOfTheUnits : Prop :=
  State.reset.pending = [] ∧ State.reset.desc.wf = true ∧ State.reset.now = 0 ∧ State.reset.halls = [] ∧
  State.reset.pwr.state = .p0 ∧ State.reset.pwr.wakeEn = 0x07 ∧ State.reset.pwr.leg = 0x03E8 ∧
  State.reset.eq.mask = 3 ∧ State.reset.eq.stall = 4000 ∧
  State.reset.flt.service = false ∧ State.reset.flt.en = 0xE ∧ State.reset.flt.quietMs = 10 ∧ State.reset.flt.aliveUs = 1000 ∧
  (∀ n : ChannelId, (State.reset.ch n).ctl = 0xFFF4 ∧ (State.reset.ch n).state = .idle) ∧
  (∀ l : LandingId, (State.reset.land l).seq.lstate = .sr ∧ (State.reset.land l).seq.geom.valid = false ∧
    (State.reset.land l).phy.mode = .deep) ∧
  (∀ p : PortId, (State.reset.port p).state = .closed)

/-! ## Shared operations -/

/-- A canonical byte memory reads back what was written, leaves every other byte alone, and stays canonical. -/
def Obligations.ByteMemoryReadsBackAndStaysCanonical : Prop :=
  ∀ (m : Memory) (a : Nat) (v : Byte), Memory.wf m = true →
    readByte (writeByte m a v) a = v ∧ (∀ b, b ≠ a → readByte (writeByte m a v) b = readByte m b) ∧
      Memory.wf (writeByte m a v) = true

/-- R130: serial comparison of stamps. Equal stamps are tied, and the comparison is that of the times while those lie within 2^31 ns. -/
def Obligations.StampsCompareInSerialArithmetic : Prop :=
  (∀ a b : BitVec 32, nearer a b = true ↔ 1 ≤ (b.toNat + 2 ^ 32 - a.toNat) % 2 ^ 32 ∧ (b.toNat + 2 ^ 32 - a.toNat) % 2 ^ 32 ≤ 2 ^ 31 - 1) ∧
    (∀ a : BitVec 32, nearer a a = false) ∧
    ∀ t u : Nat, t < u + 2 ^ 31 → u < t + 2 ^ 31 → (nearer (BitVec.ofNat 32 t) (BitVec.ofNat 32 u) = true ↔ t < u)

/-- R28: tread n is the interval in which `BLK_TIME` lies in [16·n, 16·n + 16), 32 CCLK cycles. -/
def Obligations.TreadIsSixteenNanoseconds : Prop :=
  ∀ (s : State) (n : Nat), (s.tread = n ↔ 16 * n ≤ s.now ∧ s.now < 16 * n + 16) ∧ (s.tread = n ↔ 32 * n ≤ s.chip.cycle ∧ s.chip.cycle < 32 * n + 32)

/-- R195: the clock period in whole picoseconds, with the rule's examples; `SEQ_TCK.TCK_PS` of a Landing with geometry reads it. -/
def Obligations.ClockPeriodIsTruncated : Prop :=
  (∀ rate, 0 < rate → tckOf rate * rate ≤ 2000000 ∧ 2000000 < (tckOf rate + 1) * rate) ∧
    (∀ (s : State) (l : LandingId), (s.land l).seq.geom.valid = true → s.rulePage l 0x8C4 = BitVec.ofNat 32 (tckOf (s.land l).seq.geom.rate)) ∧
    tckOf 4800 = 416 ∧ tckOf 8800 = 227 ∧ tckOf 11200 = 178 ∧ tckOf 12800 = 156

/-- R526: a clear and a crossing at one evaluation; a crossing at `COUNT` = FFh. -/
def Obligations.WatermarkCrossingSurvivesItsClear : Prop :=
  ∀ w : Wm, w.above = false →
    ((w.clear.eval true).crossed = true ∧ (w.clear.eval true).count = 1) ∧ (w.clear.hit.crossed = true ∧ w.clear.hit.count = 1) ∧
      (w.count = 255 → (w.eval true).crossed = true ∧ (w.eval true).count = 255 ∧ w.hit.crossed = true ∧ w.hit.count = 255)

/-- The address map (R113, R114). The DRAM coordinates of a line name it: the Landing address comes back from them, for every geometry. The
interleave places local chunk q of each member Landing once: the chunk offset of (member, q) goes to that member, at local chunk q of its
extents. -/
def Obligations.AddressesNameEachLineOnce : Prop :=
  (∀ (g : Geom) (a : Nat), a % 64 = 0 →
    a < 2 ^ (6 + 5 + (if g.x8 then 5 else 6) + (if g.bank4 then 2 else 1) + g.rankBits + (16 + g.rowBits)) →
      addrOf g (coordOf g a) = a ∧ (coordOf g a).sub < 2 ∧ (coordOf g a).bg < 8 ∧ (coordOf g a).bank < g.banks ∧
        (coordOf g a).rank < g.ranks ∧ (coordOf g a).row < 2 ^ (16 + g.rowBits) ∧ (coordOf g a).col < 2 * 2 ^ (if g.x8 then 5 else 6)) ∧
  (∀ (members : List Nat) (ext : List (List Nat)) (slot q r : Nat), slot < members.length → r < 256 →
    interleave members ext (chunkOffset members.length slot q + r) =
      (members.getD slot 0,
        ((ext.getD slot []).getD ((q * 256 + r) / granuleBytes) 0) * granuleBytes + (q * 256 + r) % granuleBytes))

/-! ## Resets, power-up and boot -/

/-- The cold reset and its end (R60, R62, R65). `COLD_RESET`: every unit at its reset values, every domain off, `DRST_N`, `PWR_EN` and
`ALIVE` low; the flash, the variant and the queue stay. `POWER_ON_SEQUENCE`: the straps are sampled, and with both rails good CP and CORE
are on, `BLK_TIME` is 0 and the reset has ended; with a rail missing the domains stay off, and the rise of the later rail ends it. On a
block that runs already it does nothing (log entry 6, DESIGN CHOICE). -/
def Obligations.ColdResetClearsAndPowerOnSamples : Prop :=
  (∀ s : State, ∃ t, exec .coldReset s = .next t ∧
    t.chip.phase = .cold ∧ t.chip.coreOn = false ∧ t.chip.cpOn = false ∧ t.chip.cycle = 0 ∧ t.chip.fwReady = false ∧
    t.chip.pwrEn = false ∧ t.chip.alive = false ∧ t.chip.drstN = Vector.replicate 12 false ∧ t.chip.halted = false ∧
    t.landings = State.reset.landings ∧ t.galleries = State.reset.galleries ∧ t.ports = State.reset.ports ∧
    t.dma = State.reset.dma ∧ t.boxes = State.reset.boxes ∧ t.eq = State.reset.eq ∧ t.arcade = State.reset.arcade ∧
    t.pwr = State.reset.pwr ∧ t.flt = State.reset.flt ∧ t.misc = State.reset.misc ∧
    t.cfg = { State.reset.cfg with replies := s.cfg.replies } ∧
    t.halls = [] ∧ t.windows = [] ∧ t.away = [] ∧ t.ahead = [] ∧ t.desc = [] ∧
    t.store.bankA = s.store.bankA ∧ t.store.bankB = s.store.bankB ∧ t.chip.variant = s.chip.variant ∧ t.pending = s.pending) ∧
  (∀ (s : State) (bootsel : Bool) (hash : BitVec 384), s.chip.phase = .cold →
    (s.chip.pgCore = true → s.chip.pgCp = true → exec (.powerOnSequence bootsel hash) s = .next { s with chip := { s.chip with
      phase := .out, bootsel := bootsel, rootKeyHash := hash, coreOn := true, cpOn := true, cycle := 0, warm := false
      railWait := false } }) ∧
    (s.chip.pgCore = false ∨ s.chip.pgCp = false → exec (.powerOnSequence bootsel hash) s = .next { s with chip := { s.chip with
      bootsel := bootsel, rootKeyHash := hash, coreOn := false, cpOn := false, warm := false, railWait := true } })) ∧
  (∀ s : State, s.chip.phase = .cold → s.chip.railWait = true →
    (s.chip.pgCp = true → exec (.pgInputRise .core) s = .next { s with chip := { s.chip with
      pgCore := true, phase := .out, coreOn := true, cpOn := true, cycle := 0, railWait := false } }) ∧
    (s.chip.pgCp = false → exec (.pgInputRise .core) s = .next { s with chip := { s.chip with pgCore := true } }) ∧
    (s.chip.pgCore = true → exec (.pgInputRise .cp) s = .next { s with chip := { s.chip with
      pgCp := true, phase := .out, coreOn := true, cpOn := true, cycle := 0, railWait := false } })) ∧
  (∀ (s : State) (bootsel : Bool) (hash : BitVec 384), s.chip.phase ≠ .cold → s.chip.cycle ≠ 0 →
    exec (.powerOnSequence bootsel hash) s = .next s)

/-- The warm reset (R60 to R63, R542). `WARM_RESET` stops every port without a response, the Control Processor and a power transition, and
has no effect in P4 or while a reset is held. `WARM_RESET_DRAIN_TIMEOUT` leaves a Landing that still drains in self-refresh with no write
queued, and one at rest as it is. `WARM_RESET_END`, with every Landing at rest, brings the registers to their reset values, `BLK_TIME` to 0
and the power state to P0; the first-fault records, the descriptor memory, the flash and the variant stay; before that it waits. -/
def Obligations.WarmResetStopsDrainsAndEnds : Prop :=
  (∀ s : State, s.chip.phase = .out → s.pwr.state ≠ .p4 → ∃ t, exec .warmReset s = .next t ∧
    t.chip.phase = .warm ∧ t.chip.fwReady = false ∧ t.ports = State.reset.ports ∧ t.cfg.stalled = none ∧ t.misc.repairs = [] ∧
    t.pwr.trans = none ∧ t.pwr.pend = none) ∧
  (∀ s : State, s.pwr.state = .p4 ∨ s.chip.phase ≠ .out → exec .warmReset s = .next s) ∧
  (∀ (s : State) (l : LandingId), s.chip.phase = .warm → (s.land l).seq.lstate.quiet = false →
    ∃ t, exec (.warmResetDrainTimeout l) s = .next t ∧ (t.land l).seq.lstate = .sr ∧ (t.land l).seq.wq = [] ∧
      (t.land l).page = (s.land l).page ∧ ∀ k : LandingId, k ≠ l → t.land k = s.land k) ∧
  (∀ (s : State) (l : LandingId), s.chip.phase ≠ .warm ∨ (s.land l).seq.lstate.quiet = true →
    exec (.warmResetDrainTimeout l) s = .next s) ∧
  (∀ s : State, s.chip.phase = .warm → ((List.range s.nLand).all fun l => (s.land l).seq.lstate.quiet) = true →
    ∃ t, exec .warmResetEnd s = .next t ∧ t.chip.phase = .out ∧ t.chip.cycle = 0 ∧ t.pwr.state = .p0 ∧ t.pwr.trans = none ∧
      t.chip.fwReady = false ∧ t.chip.halted = false ∧ t.landings = State.reset.landings ∧ t.ports = State.reset.ports ∧
      t.boxes = State.reset.boxes ∧ t.dma = State.reset.dma ∧ t.eq = State.reset.eq ∧ t.misc = State.reset.misc ∧
      t.flt.first = s.flt.first ∧ t.flt.ovf = s.flt.ovf ∧ t.flt.count = s.flt.count ∧ t.flt.active = State.reset.flt.active ∧
      t.desc = s.desc ∧ t.away = s.away ∧ t.store.bankA = s.store.bankA ∧ t.store.bankB = s.store.bankB ∧
      t.chip.variant = s.chip.variant ∧ t.chip.drstN = s.chip.drstN ∧ t.pending = s.pending) ∧
  (∀ s : State, s.chip.phase ≠ .warm ∨ ((List.range s.nLand).all fun l => (s.land l).seq.lstate.quiet) = false →
    exec .warmResetEnd s = .next s)

/-- The boot ROM (R434 to R436). `BOOT` latches error 1h without a root key hash, waits for LBA with BOOTSEL high, and else loads and keeps
the image it chooses or the error it finds; nothing else changes. `BOOT_CHUNK` keeps the bytes at their offset, or answers `BAD_PARAM`, with
error 6h for a chunk beyond the limit of an image. `BOOT_GO` of an image that does not verify discards it with error 6h (log entry 121,
DEDUCED); of one that does, loads it and keeps its version. `FIRMWARE_START` of the verified image: `FW_READY`, its version, no boot error. -/
def Obligations.BootRomKeepsImageAndStartsIt : Prop :=
  (∀ (s : State) (f : FlashView), s.inRom = true → s.chip.verified = none →
    exec (.boot f) s = .next { s with chip :=
      if s.chip.rootKeyHash = 0 then { s.chip with bootErr := 1 }
      else if s.chip.bootsel then s.chip
      else match (if f.idOk then chooseImage s.chip.rootKeyHash f else none) with
        | some v => { imageIn s.chip (if v.2 = 0 then f.slot0 else f.slot1) with verified := some v }
        | none => { s.chip with bootErr := bootError s.chip.rootKeyHash f } }) ∧
  (∀ s : State, s.romCommand 0x0F01 = true →
    let n := (s.box 8).plen
    let off := ((s.box 8).word 2).toNat
    (n ≠ 0 → n ≤ 4096 → off % 4096 = 0 → off + n ≤ imageLimit →
      exec .bootChunk s = .next { s with
        chip := { s.chip with bootBuf := writeBytes s.chip.bootBuf off (s.box 8).payload }, boxes := boxesDone s 8 .ok [] [] }) ∧
    (n ≠ 0 → n ≤ 4096 → off % 4096 = 0 → imageLimit < off + n →
      exec .bootChunk s = .next { s with chip := { s.chip with bootErr := 6 }, boxes := boxesDone s 8 .badParam [] [] }) ∧
    (n = 0 ∨ 4096 < n ∨ off % 4096 ≠ 0 → exec .bootChunk s = .next { s with boxes := boxesDone s 8 .badParam [] [] })) ∧
  (∀ s : State, s.romCommand 0x0F02 = true →
    let total := ((s.box 8).word 2).toNat
    let img := readBytes s.chip.bootBuf 0 (min total imageLimit)
    let good := total ≤ imageLimit ∧ isCandidate s.chip.rootKeyHash img = true ∧ imageSigned img = true
    (good → exec .bootGo s = .next { s with
      chip := { imageIn s.chip img with verified := some ((imageHeader img).version, 2), bootBuf := [] }
      boxes := boxesDone s 8 .ok [] [] }) ∧
    (¬ good → exec .bootGo s = .next { s with
      chip := { s.chip with bootBuf := [], bootErr := 6 }, boxes := boxesDone s 8 .badParam [] [] })) ∧
  (∀ (s : State) (v : W32) (slot : Nat), s.chip.verified = some (v, slot) → s.inRom = true →
    ∃ t, exec .firmwareStart s = .next t ∧ t.chip.fwReady = true ∧ t.chip.imageVersion = v ∧ t.chip.bootErr = 0 ∧
      t.chip.verified = none ∧ t.chip.bootBuf = [] ∧ t.chip.aliveOn = true ∧ t.store.taken = s.store.choose)

/-- `WATCHDOG_EXPIRY` (R142, R432, R464): every command rung or taken ends with `FW_RESTART`, the other mailboxes keep what they hold, every
claim goes, what the Control Processor had asked of DRAM is forgotten but for page-map lines, and firmware no longer runs. Ports and halls
stay. -/
def Obligations.WatchdogRestartsFirmware : Prop :=
  ∀ s : State, s.chip.phase = .out → s.chip.cpOn = true → s.pwr.state ≠ .p4 → ∃ t, exec .watchdogExpiry s = .next t ∧
    t.chip.fwReady = false ∧ t.chip.verified = none ∧ t.misc.claims = [] ∧ (∀ w ∈ t.misc.cpuWork, w.mapLine = true) ∧
    ((∀ w ∈ s.misc.cpuWork, w.mapLine = true → w.mailbox = none) →
      (∀ m : MailboxId, (s.box m).state = .pending ∨ (s.box m).state = .busy → t.box m = (s.box m).finish .fwRestart [] []) ∧
      (∀ m : MailboxId, (s.box m).state = .idle ∨ (s.box m).state = .done → t.box m = s.box m)) ∧
    t.ports = s.ports ∧ t.halls = s.halls

/-! ## Pins -/

/-- Pins. Without a fault of their own (R48, R51, R479, R500, R514): THERM_N releases and its level condition ends; a rail-good input that
returns ends the condition of its source; ALIVE toggles once firmware has reported ready, with no U or F state and out of Halt; the short
hold of STATUS1 ends. Those that report a level source (R46, R51, R59, R515): the condition begins to hold and the source reaches the Fault
Collector with the fence the table gives it: none for 15/04h to 15/07h, the Gallery's four Landings for 15/03h, the Landing for 15/02h. -/
def Obligations.PinsReportReturnAndToggle : Prop :=
  (∀ s : State, s.awake = true → exec .thermNRelease s = .next (State.levelOff { s with chip := { s.chip with thermN := true } } 15 7 0)) ∧
  (∀ (s : State) (l : LandingId), s.awake = true → exec (.pgInputRise (.phy l)) s =
    .next (State.levelOff { s with chip := { s.chip with pgPhy := s.chip.pgPhy.set l.val true } } 15 2 l)) ∧
  (∀ (s : State) (g : GalleryId), s.awake = true → exec (.pgInputRise (.gal g)) s =
    .next (State.levelOff { s with chip := { s.chip with pgGal := s.chip.pgGal.set g.val true } } 15 3 g)) ∧
  (∀ s : State, s.awake = true → s.chip.pgCp = true →
    exec (.pgInputRise .core) s = .next (State.levelOff { s with chip := { s.chip with pgCore := true } } 15 4 0)) ∧
  (∀ s : State, s.awake = true → s.chip.pgCore = true →
    exec (.pgInputRise .cp) s = .next (State.levelOff { s with chip := { s.chip with pgCp := true } } 15 4 0)) ∧
  (∀ (s : State) (pin : PgPin), s.awake = false → s.chip.railWait = false →
    exec (.pgInputRise pin) s = .next { s with chip := s.chip.setPg pin true }) ∧
  (∀ s : State, s.awake = true → s.chip.aliveOn = true → s.faultState = false → s.chip.halted = false →
    exec .aliveToggle s = .next { s with chip := { s.chip with alive := !s.chip.alive } }) ∧
  (∀ s : State, s.faultState = true → exec .aliveToggle s = .next s) ∧
  (∀ s : State, exec .status1PulseEnd s = .next { s with chip := { s.chip with status1Pulse := false } }) ∧
  (∀ s : State, s.awake = true → s.chip.thermN = true →
    exec .thermNAssert s = .next (State.levelReport { s with chip := { s.chip with thermN := false } } (rep 15 7 0 0) none)) ∧
  (∀ s : State, s.awake = true → s.chip.pwrEn = true → s.chip.pwrGood = true →
    exec .pwrGoodFall s = .next (State.levelReport { s with chip := { s.chip with pwrGood := false } } (rep 15 5 0 0) none)) ∧
  (∀ s : State, s.awake = true → exec .refclkStop s = .next (s.levelReport (rep 15 6 0 0) none)) ∧
  (∀ s : State, s.awake = true → s.chip.coreOn = true → s.chip.pgCore = true →
    exec (.pgInputFall .core) s = .next (State.levelReport { s with chip := { s.chip with pgCore := false } } (rep 15 4 0 0) none)) ∧
  (∀ s : State, s.awake = true → s.chip.cpOn = true → s.chip.pgCp = true →
    exec (.pgInputFall .cp) s = .next (State.levelReport { s with chip := { s.chip with pgCp := false } } (rep 15 4 0 0) none)) ∧
  (∀ (s : State) (g : GalleryId), s.awake = true → s.chip.galOn[g.val] = true → s.chip.pgGal[g.val] = true →
    exec (.pgInputFall (.gal g)) s =
      let u : State := { s with chip := { s.chip with pgGal := s.chip.pgGal.set g.val false } }
      .next (u.levelReport (rep 15 3 g 0) (some (u.landFence ((List.range 4).map fun i => 4 * g.val + i) (rep 15 3 g 0))))) ∧
  (∀ (s : State) (l : LandingId), s.awake = true → s.chip.phyOn[l.val] = true → s.chip.pgPhy[l.val] = true →
    (s.land l).sbd.started = true →
    exec (.pgInputFall (.phy l)) s =
      let u : State := { s with chip := { s.chip with pgPhy := s.chip.pgPhy.set l.val false } }
      .next (u.levelReport (repL 15 2 l 0) (some (u.landFence [l.val] (repL 15 2 l 0)))))

/-! ## Reports, fences and classes -/

/-- Reports (R499, R502, R505, R506, R508). One that is not consequential is taken by its class's record, or sets the overflow bit; the class
count rises and saturates, and the class state is active. One that only echoes a fence in its shadow counts as consequential and changes
nothing else. Every class F report enters Halt, and only class F does. A fence starts with a number of its own, raises the fence interrupt
and the count, and waits for the tread boundary; one that stands covers it, and none starts once Halt has begun. -/
def Obligations.ReportsLatchFenceAndHalt : Prop :=
  (∀ (s : State) (r : Rep) (grain time : Nat), s.consequential r = false → 1 ≤ r.cls → r.cls ≤ 3 →
    let t := s.reportAt r grain time
    let k := r.cls - 1
    t.flt.count[k]? = some (satInc ((s.flt.count[k]?).getD 0)) ∧ t.flt.active[k]? = some true ∧
    ((s.flt.first[k]?).getD none = none →
      t.flt.first[k]? = some (some { src := r.src, detail := r.detail, time := time }) ∧ t.flt.ovf = s.flt.ovf) ∧
    (∀ x, (s.flt.first[k]?).getD none = some x → t.flt.first = s.flt.first ∧ t.flt.ovf[k]? = some true) ∧
    t.flt.conseq = s.flt.conseq ∧ t.flt.fences = s.flt.fences ∧ t.flt.levels = s.flt.levels) ∧
  (∀ (s : State) (r : Rep) (f : Option Fence), s.consequential r = true → s.chip.coreOn = true →
    s.raise r f = { s with flt := { s.flt with conseq := satInc s.flt.conseq }, blk := s.blk.bump 0x206C 1 }) ∧
  (∀ (s : State) (r : Rep) (f : Option Fence), s.chip.coreOn = true →
    (r.cls = 3 → (s.raise r f).chip.halted = true) ∧ (r.cls ≠ 3 → (s.raise r f).chip.halted = s.chip.halted)) ∧
  (∀ (s : State) (f : Fence),
    (s.halt = true ∨ s.fencedAlready f = true → s.startFence f = s) ∧
    (s.halt = false → s.fencedAlready f = false →
      s.startFence f = { s with
        chip := { s.chip with nextId := s.chip.nextId + 1 }
        flt := { s.flt with fences := s.flt.fences ++ [{ f with id := s.chip.nextId }], irq := s.flt.irq ||| 8
                            fencesStarted := satInc s.flt.fencesStarted }
        blk := s.blk.bump 0x2074 1
        misc := { s.misc with deferred := s.misc.deferred ++ [.fence s.chip.nextId] } }))

/-- `FAULT_REPORT` of a source that R515 lists reaches its reaction; of any other it does nothing. A source without a reaction of its
own, of class C and without a fence, is reported and no more. -/
def Obligations.FaultReportReachesItsReaction : Prop :=
  (∀ (s : State) (w : ReportWord), srcExists w.subsys w.code = true → s.chip.phase ≠ .cold → s.pwr.state ≠ .p4 →
    exec (.faultReport w) s = .next (State.pump (s.react w))) ∧
  (∀ (s : State) (w : ReportWord), srcExists w.subsys w.code = false → exec (.faultReport w) s = .next s) ∧
  (∀ (s : State) (w : ReportWord), w.code = 0xF0 → s.react w = s.raise (reportRep w) none)

/-- The rows of a fence and of a class (R505, R506, R508, R511): a quiet fence settles and nothing else changes; a fence that has not
settled within 1 ms of its start ends its shadow and 16/01h names its grain; two treads after it has settled its shadow ends; in Service
mode, its quiet period over, the state of class C or U ends and the recovery is counted, never that of class F. Before their time the three
do nothing. -/
def Obligations.FencesSettleAndClassesRecover : Prop :=
  (∀ (s : State) (i : Nat) (f : Fence), s.fenceOf i = some f → f.settled = false → s.fenceQuiet f = true →
    exec (.fenceSettled i) s = .next { s with flt := { s.flt with
      fences := s.flt.fences.map fun e => if e.id = i then { e with settled := true, settledAt := s.chip.cycle } else e } }) ∧
  (∀ (s : State) (i : Nat) (f : Fence), s.fenceOf i = some f → f.settled = false → f.shadow = true → f.time + 2000000 ≤ s.chip.cycle →
    exec (.fenceSettleTimeout i) s = .next ((s.endShadow f).raise (rep 16 1 0 (at_ 0 (grainCode f.grain))) none)) ∧
  (∀ (s : State) (i : Nat) (f : Fence), s.fenceOf i = some f → s.chip.cycle < f.time + 2000000 →
    exec (.fenceSettleTimeout i) s = .next s) ∧
  (∀ (s : State) (i : Nat) (f : Fence), s.fenceOf i = some f → f.settled = true → f.shadow = true → f.settledAt + 64 ≤ s.chip.cycle →
    (s.flt.levels.filter fun r => f.echo r) = [] →
    exec (.shadowEnd i) s = .next { s with flt := { s.flt with
      fences := s.flt.fences.map fun e => if e.id = i then { e with shadow := false } else e } }) ∧
  (∀ (s : State) (i : Nat) (f : Fence), s.fenceOf i = some f → s.chip.cycle < f.settledAt + 64 → exec (.shadowEnd i) s = .next s) ∧
  (∀ (s : State) (c : FaultClass), s.flt.service = true → c ≠ .f → s.flt.active[classIndex c]? = some true →
    (s.flt.levels.any fun r => r.cls == classIndex c + 1) = false →
    max ((s.flt.lastReport[classIndex c]?).getD 0) s.flt.switched + 1000000 * s.flt.quietMs ≤ s.now →
    ∃ t, exec (.quietPeriodEnd c) s = .next t ∧ t.flt.active[classIndex c]? = some false ∧ t.flt.first[classIndex c]? = some none ∧
      t.flt.ovf[classIndex c]? = some false ∧ t.flt.recoveries = satInc s.flt.recoveries ∧ t.flt.count = s.flt.count) ∧
  (∀ s : State, exec (.quietPeriodEnd .f) s = .next s)

/-! ## Time -/

/-- `TREAD_BOUNDARY` brings the clock to the next boundary (R28; log entry 3, DESIGN CHOICE: the row is the passing of time itself),
on the clock of P3 to its first 10 ns step at or past it (R27);
`BLOCK_FLIGHT_BOUNDARY` counts a flight, sets the next one a block flight on, and clears the ports' fault counts (R31, R505);
`TREAD_PLAN` builds the plan of the next tread and leaves the Landing's state (R178). -/
def Obligations.BoundariesAdvanceTheClockAndPlansFollow : Prop :=
  (∀ s : State, s.clocked = true → s.slowClock = false →
    ∃ t, exec .treadBoundary s = .next t ∧ t.tread = s.tread + 1 ∧ t.chip.cycle % 32 = 0) ∧
  (∀ s : State, s.clocked = true → s.slowClock = true → ∃ t k, exec .treadBoundary s = .next t ∧
    t.chip.cycle = s.chip.cycle + 20 * k ∧ s.tread < t.tread ∧ t.chip.cycle < 32 * (s.tread + 1) + 20) ∧
  (∀ s : State, s.clocked = false → exec .treadBoundary s = .next s) ∧
  (∀ s : State, s.clocked = true → s.chip.coreOn = true → s.chip.phase = .out → s.chip.nextFlight ≤ s.tread →
    ∃ t, exec .blockFlightBoundary s = .next t ∧ t.chip.flight = s.chip.flight + 1 ∧
      t.chip.nextFlight = s.chip.nextFlight + s.blockFlight ∧ ∀ p : PortId, (t.port p).faults = 0) ∧
  (∀ (s : State) (l : LandingId), s.plans l = true → ∃ u, exec (.treadPlan l) s = .next (State.pump u) ∧
    (u.land l).seq.planTread = s.tread + 1 ∧ (u.land l).seq.lstate = (s.land l).seq.lstate)

/-! ## The arbiter -/

/-- The arbiter (R131 to R135, R139). `ARB_DECISION`: with every request of the Landing in its staging place, an emergency of the Maintenance
Unit wins whatever the stamps, and a request presented alone wins; the winner leaves staging and is granted in the next cycle. A backoff that
is over goes; a starved request is reported as 3/01h, once (log entry 89, DESIGN CHOICE), and never one of DBG, which has no stamp (R129);
a lock whose hold count stands at or above `LOCK_MAX` leaves the grant (log entry 38, DESIGN CHOICE), and one below it stays. -/
def Obligations.ArbiterGrantsAndTimes : Prop :=
  (∀ (s : State) (l : LandingId) (a : Access), (s.land l).admits = true → s.chip.halted = false → (s.land l).seq.held = [] →
    (∀ x ∈ (s.land l).arb.staging, x.entered = true) →
    (s.land l).arb.grantNext = none → s.presents l 11 = some a → a.emergency = true →
    ∃ u g, exec (.arbDecision l) s = .next (State.pump u) ∧ (u.land l).arb.grantNext = some g ∧ g.id = a.id ∧
      ∀ x ∈ (u.land l).arb.staging, x.id ≠ a.id) ∧
  (∀ (s : State) (l : LandingId) (r : RequesterId) (a : Access), (s.land l).admits = true → s.chip.halted = false →
    (s.land l).seq.held = [] → (∀ x ∈ (s.land l).arb.staging, x.entered = true) →
    (s.land l).arb.grantNext = none → (s.land l).arb.lock = none → s.presents l r = some a →
    (∀ k : RequesterId, k ≠ r → s.presents l k = none) →
    ∃ u g, exec (.arbDecision l) s = .next (State.pump u) ∧ (u.land l).arb.grantNext = some g ∧ g.id = a.id ∧
      ∀ x ∈ (u.land l).arb.staging, x.id ≠ a.id) ∧
  (∀ (s : State) (l : LandingId) (r : RequesterId) (t : Nat), ((s.land l).arb.backoff[r.val]?).getD none = some t → t ≤ s.chip.cycle →
    exec (.backoffExpiry l r) s = .next { s with
      landings := s.landings.setIfInBounds l
        ({ s.land l with arb := { (s.land l).arb with backoff := (s.land l).arb.backoff.setIfInBounds r none } } : Landing) }) ∧
  (∀ (s : State) (l : LandingId) (r : RequesterId) (a : Access), r.val ≠ 12 → (s.land l).arb.staging = [a] → a.req = r →
    a.entered = true → nearer a.stamp (stampOf s.now) = true → 1000000 < (stampOf s.now - a.stamp).toNat →
    (s.land l).arb.starved = [] →
    ∃ u f, exec (.starvation l r) s = .next (State.raise u f none) ∧ (u.land l).arb.starved = [a.id] ∧
      f.subsys = 3 ∧ f.code = 1 ∧ f.inst = l ∧ f.cls = 2 ∧ f.detail = at_ 0 r) ∧
  (∀ (s : State) (l : LandingId), exec (.starvation l 12) s = .next s) ∧
  (∀ (s : State) (l : LandingId) (k : GrantLock), (s.land l).arb.lock = some k →
    (fld (s.lv l 0) 15 8 ≤ k.treads → ∃ u, exec (.lockExpiry l) s = .next (State.pump u) ∧ (u.land l).arb.lock = none) ∧
    (k.treads < fld (s.lv l 0) 15 8 → exec (.lockExpiry l) s = .next s))

/-! ## The host ports -/

/-- The record of a request that a port has just accepted for a line of hall `n` (R71, R78, R79): the due stamp where the request asks for
a deadline and the hall allows one, else the best-effort stamp; DBG has no class. Outside P0 it waits for the wake (R487). -/
def Sys2Proof.Slice.acceptedTxn (s : State) (p : PortId) (opc : Opc) (h : Header) (poison : Bool) (data : BitVec 512) (be : BitVec 64)
    (n off : Nat) : Txn :=
  let dl := decide (h.due ≠ 0xFFF) && decide (p.val ≠ 8) && (match s.hall n with
    | some x => x.dl
    | none => true)
  { id := s.chip.nextId, opc := opc, hdr := h, poison := poison, data := data, be := be
    stamp := if p.val = 8 then stampOf s.now else if dl then dueStamp s.now h.due else beStamp s.now
    dl := dl, hall := some n, off := off, landing := none, wait := if s.hostServes then .behind else .wake, resp := none
    excused := !s.hostServes, credited := false, metaAt := [], metaFailed := false }

/-- The port has taken the request: one credit of its class is spent, and it stands last among the outstanding ones. -/
def Sys2Proof.Slice.Accepts (s u : State) (p : PortId) (t : Txn) : Prop :=
  (u.port p).txns = (s.port p).txns ++ [t] ∧
    (u.port p).req = (if t.opc.wrq then (s.port p).req else (s.port p).req - 1) ∧
    (u.port p).wrq = (if t.opc.wrq then (s.port p).wrq - 1 else (s.port p).wrq) ∧ (u.port p).state = (s.port p).state ∧
    (∀ k : PortId, k ≠ p → u.port k = s.port k) ∧ u.landings = s.landings ∧ u.galleries = s.galleries ∧ u.halls = s.halls ∧ u.dma = s.dma

/-- A request is answered at once with a status, and nothing of it stays on the port. -/
def Sys2Proof.Slice.AnsweredAtOnce (s t : State) (p : PortId) (h : Header) (st : Status) : Prop :=
  ∃ r : Resp, t.sent = r :: s.sent ∧ r.port = p ∧ r.status = st ∧ r.tag = h.tag ∧ r.ldid = h.ldid ∧ r.data = 0 ∧ r.dload = 0 ∧
    (t.port p).txns = [] ∧ (t.port p).req = (s.port p).req ∧ (t.port p).wrq = (s.port p).wrq

/-- A port takes a flit: open, powered, with a credit of the class (R71, R72, R91). A request that resolves joins the outstanding ones with
its stamp (R78, R79). One in Halt, and one that does not resolve, is answered at once on a port with nothing outstanding (R85, R86); a `TAG`
that is outstanding is a fault of the port, and the credit returns (R72). -/
def Obligations.RequestsAreAcceptedAndStamped : Prop :=
  ∀ (s : State) (p : PortId) (h : Header), (s.port p).state = .opened → s.chip.coreOn = true →
    (∀ n off : Nat, s.chip.halted = false → (s.port p).tagUsed h.tag = false →
      (0 < (s.port p).req → s.lookup p h (Opc.mrd.right h.lock) = .ok n off → s.malformed p .mrd h (some (n, off)) = false →
        ∃ u, exec (.mrd p h) s = .next (State.pump u) ∧ Accepts s u p (acceptedTxn s p .mrd h false 0 0 n off)) ∧
      (0 < (s.port p).req → s.lookup p h .read = .ok n off → s.malformed p .unlk h (some (n, off)) = false →
        ∃ u, exec (.unlk p h) s = .next (State.pump u) ∧ Accepts s u p (acceptedTxn s p .unlk h false 0 0 n off)) ∧
      (0 < (s.port p).wrq → s.lookup p h .readWrite = .ok n off → h.lock = false → ∀ (poison : Bool) (data : BitVec 512),
        ∃ u, exec (.mwr p h poison data) s = .next (State.pump u) ∧
          Accepts s u p (acceptedTxn s p .mwr h poison data (BitVec.allOnes 64) n off)) ∧
      (0 < (s.port p).wrq → s.lookup p h .readWrite = .ok n off → h.lock = false →
        ∀ (poison : Bool) (data : BitVec 512) (be : BitVec 64),
        ∃ u, exec (.mwrp p h poison data be) s = .next (State.pump u) ∧ Accepts s u p (acceptedTxn s p .mwrp h poison data be n off))) ∧
    ((s.port p).txns = [] → 0 < (s.port p).cpl → 0 < (s.port p).dat → ∀ (poison : Bool) (data : BitVec 512) (be : BitVec 64),
      (s.chip.halted = true → (0 < (s.port p).req → (∃ t, exec (.mrd p h) s = .next t ∧ AnsweredAtOnce s t p h .halted) ∧
          ∃ t, exec (.unlk p h) s = .next t ∧ AnsweredAtOnce s t p h .halted) ∧
        (0 < (s.port p).wrq → (∃ t, exec (.mwr p h poison data) s = .next t ∧ AnsweredAtOnce s t p h .halted) ∧
          ∃ t, exec (.mwrp p h poison data be) s = .next t ∧ AnsweredAtOnce s t p h .halted)) ∧
      (∀ st, s.chip.halted = false → h.lock = false →
        (0 < (s.port p).req → s.lookup p h .read = .bad st → ∃ t, exec (.mrd p h) s = .next t ∧ AnsweredAtOnce s t p h st) ∧
        (0 < (s.port p).wrq → s.lookup p h .readWrite = .bad st →
          (∃ t, exec (.mwr p h poison data) s = .next t ∧ AnsweredAtOnce s t p h st) ∧
            ∃ t, exec (.mwrp p h poison data be) s = .next t ∧ AnsweredAtOnce s t p h st))) ∧
    ((s.port p).tagUsed h.tag = true → ∀ (poison : Bool) (data : BitVec 512) (be : BitVec 64),
      (0 < (s.port p).req → exec (.mrd p h) s = .next (((s.debit p false).credit p false).portFault p 1) ∧
        exec (.unlk p h) s = .next (((s.debit p false).credit p false).portFault p 1)) ∧
      (0 < (s.port p).wrq → exec (.mwr p h poison data) s = .next (((s.debit p true).credit p true).portFault p 1) ∧
        exec (.mwrp p h poison data be) s = .next (((s.debit p true).credit p true).portFault p 1)))

/-- Hints and credits (R75, R92). A hint that resolves is routed for its requester with the best-effort stamp and no transaction, its
credit kept; one that does not resolve, has `LOCK` set or comes in Halt is discarded without fault, and so is one outside P0 (log entry 93,
DESIGN CHOICE). Credits returned to an open port count, and what they allow is sent. A flit that the port does not take changes nothing (R95;
log entry 31, DESIGN CHOICE): the port closed, CORE off, or no credit of the class. -/
def Obligations.HintsCreditsAndUntakenFlitsLeaveNoTransaction : Prop :=
  (∀ (s : State) (p : PortId) (h : Header) (n off : Nat), s.takes p false = true → s.chip.halted = false → h.lock = false →
    s.hostServes = true → s.lookup p h .read = .ok n off →
    exec (.mrds p h) s = .next (s.routeAsk { client := .cpu 0, req := reqOf p, hall := n, off := off, op := .hint, stamp := beStamp s.now
                                             acc := stampOf s.now, dl := false, data := 0, be := 0, poison := false, opens := none
                                             closes := none, inside := none, zeros := false }).1) ∧
  (∀ (s : State) (p : PortId) (h : Header), h.lock = true ∨ s.chip.halted = true ∨ s.hostServes = false ∨
    (∃ st, s.lookup p h .read = .bad st) → exec (.mrds p h) s = .next s) ∧
  (∀ (s : State) (p : PortId) (cpl dat : BitVec 8), (s.port p).state ≠ .closed →
    exec (.creditReturn p cpl dat) s = .next (State.flushPort { s with
      ports := s.ports.setIfInBounds p
        ({ s.port p with cpl := (s.port p).cpl + cpl.toNat, dat := (s.port p).dat + dat.toNat } : Port) } p)) ∧
  (∀ (s : State) (p : PortId) (cpl dat : BitVec 8), (s.port p).state = .closed → exec (.creditReturn p cpl dat) s = .next s) ∧
  (∀ (s : State) (p : PortId) (h : Header), s.takes p false = false →
    exec (.mrd p h) s = .next s ∧ exec (.mrds p h) s = .next s ∧ exec (.unlk p h) s = .next s) ∧
  (∀ (s : State) (p : PortId) (h : Header), s.takes p true = false → ∀ (poison : Bool) (data : BitVec 512) (be : BitVec 64),
    exec (.mwr p h poison data) s = .next s ∧ exec (.mwrp p h poison data be) s = .next s)

/-- The opcodes that name no command (R74). A malformed one takes its credit and is answered `MALFORMED`, on a port with nothing
outstanding at once, with a header of its tag and no data; one without a class is dropped as a port fault, and its credit stays away (log
entry 32, DESIGN CHOICE: the class is that of OPC[4]). Each of an opcode outside its range does nothing. A poisoned or refused DAT carries
zeros, and a response that never reached a Landing, and a `HALTED` one, a `DLOAD` of 0 (R83, R84). -/
def Obligations.MalformedAndRefusedAnswersCarryNothing : Prop :=
  (∀ (s : State) (p : PortId) (h : Header) (opc : BitVec 6),
    (4 ≤ opc.toNat ∧ opc.toNat ≤ 0x10) ∨ (0x13 ≤ opc.toNat ∧ opc.toNat ≤ 0x1F) → s.takes p (opc.getLsbD 4) = true →
    s.chip.halted = false → (s.port p).txns = [] → 0 < (s.port p).cpl → 0 < (s.port p).dat →
    ∃ t, exec (.malformedOpcode p h opc) s = .next t ∧ AnsweredAtOnce s t p h .malformed) ∧
  (∀ (s : State) (p : PortId) (h : Header) (opc : BitVec 6), opc.toNat < 4 ∨ opc.toNat = 0x11 ∨ opc.toNat = 0x12 ∨ 0x20 ≤ opc.toNat →
    exec (.malformedOpcode p h opc) s = .next s) ∧
  (∀ (s : State) (p : PortId) (h : Header) (opc : BitVec 6), opc.toNat = 0 ∨ 0x20 ≤ opc.toNat → s.takes p (opc.getLsbD 4) = true →
    exec (.classlessOpcode p h opc) s = .next ((s.debit p (opc.getLsbD 4)).portFault p 2)) ∧
  (∀ (s : State) (p : PortId) (h : Header) (opc : BitVec 6), 0 < opc.toNat → opc.toNat < 0x20 →
    exec (.classlessOpcode p h opc) s = .next s) ∧
  (∀ (s : State) (p : Nat) (t : Txn) (st : Status) (poison : Bool) (data : BitVec 512),
    ((s.respOf p t st poison data).poison = true → (s.respOf p t st poison data).data = 0) ∧
    (st ≠ .ok → (s.respOf p t st poison data).data = 0) ∧
    (t.landing = none ∨ st = .halted → (s.respOf p t st poison data).dload = 0) ∧ (s.respOf p t st poison data).dload ≤ 3)

/-- `PORT_CLOSE_DONE` (R95, R96): the last answer given, the port is closed with no credit and no sequence, and a `PORT_CLOSE` that waits
for it completes. -/
def Obligations.PortCloseEndsWithTheLastAnswer : Prop :=
  ∀ (s : State) (p : Fin 8), (s.port p).state = .closing → (s.port p).txns = [] →
    ∃ u, exec (.portCloseDone p) s = .next (State.pump u) ∧ (u.port p).state = .closed ∧ (u.port p).req = 0 ∧ (u.port p).wrq = 0 ∧
      (u.port p).cpl = 0 ∧ (u.port p).dat = 0 ∧
      (∀ m : MailboxId, (s.box m).state = .busy → (s.box m).started = true → (s.box m).opc = 0x0102 →
        fld ((s.box m).word 2) 2 0 = p.val → u.box m = (s.box m).finish .ok [] []) ∧
      (∀ m : MailboxId, (s.box m).opc ≠ 0x0102 → u.box m = s.box m)

/-! ## The line path -/

/-- A burst returns for the read in flight that it answers: the read leaves the list, and the line is decoded (R252). A line whose tag
is not the one its hall, place and content give never reaches its client: the Gallery records it and the block enters Halt (R354,
R366). One whose tag agrees goes on. Metadata lines (R358): a line read from DRAM enters its Gallery's cache and its fetch is over; a
waiting miss gets a fetch slot as soon as fewer than the limit are outstanding. -/
def Obligations.LinesAreDecodedCheckedAndCached : Prop :=
  (∀ (s : State) (l : LandingId) (id : Nat) (burst : BitVec 640) (a : Access),
    ((s.land l).seq.inflight.find? fun a => a.id == id) = some a → (s.land l).seq.discards id = false →
    ∃ u, exec (.lineDecode l id burst) s = .next (State.pump (State.decodeBurst u l a burst)) ∧
      (u.land l).seq.inflight = (s.land l).seq.inflight.filter fun e => e.id != id) ∧
  (∀ (s : State) (l : LandingId) (id : Nat) (a : Access) (stored : BitVec 512) (corrected : Bool) (n : Nat) (h : Hall) (tag : BitVec 32),
    ((s.land l).seq.checking.find? fun e => e.1.id == id) = some (a, stored, corrected) → (∀ g k lpa, a.client ≠ .fill g k lpa) →
    a.poison = false → a.hall = some n → s.hall n = some h → h.integ = true → s.chip.variant.cipher = true → s.chip.coreOn = true →
    s.storedTag a = some tag → tag ≠ s.tagOf n h l a.addr stored →
    ∃ u, exec (.tagCheck l id) s = .next (State.pump u) ∧ u.chip.halted = true) ∧
  (∀ (s : State) (l : LandingId) (id : Nat) (a : Access) (stored : BitVec 512) (corrected : Bool) (n : Nat) (h : Hall),
    ((s.land l).seq.checking.find? fun e => e.1.id == id) = some (a, stored, corrected) → (∀ g k lpa, a.client ≠ .fill g k lpa) →
    a.poison = false → a.hall = some n → s.hall n = some h → h.integ = true → s.chip.variant.cipher = true →
    s.storedTag a = some (s.tagOf n h l a.addr stored) →
    exec (.tagCheck l id) s = .next (State.pump ((s.bumpG (l / 4) 0x301C 1).release l a (some h) stored))) ∧
  (∀ (s : State) (g : GalleryId) (lpa : Nat) (a : Access) (stored : BitVec 512) (c : Bool),
    ((s.land (lpaLanding lpa)).seq.checking.find? fun e => e.1.client == .fill g .tag lpa) = some (a, stored, c) →
    (∀ f ∈ (s.gal g).fetches, f.adds = []) → (s.gal g).cache = [] → 16 ≤ (s.gal g).tagLines →
    ∃ u x, exec (.tagLineFill g .tag lpa) s = .next (State.pump u) ∧ (u.gal g).cache = [x] ∧ x.kind = .tag ∧ x.lpa = lpa ∧
      x.hall = a.hall ∧ x.dirty = false ∧ ∀ f ∈ (u.gal g).fetches, ¬ (f.kind = .tag ∧ f.lpa = lpa)) ∧
  (∀ (s : State) (g : GalleryId) (k : MetaKind) (f : MetaFetch), (s.gal g).fetches = [f] → f.kind = k → f.started = false →
    ∃ t, exec (.tagFetchStart g k) s = .next t ∧ (t.gal g).fetches = [{ f with started := true }])

/-- Initial zeroing (R115 to R117). `INIT_ZERO_WRITE`: the next line of a ready hall with no ahead entry joins the staging of its member
Landing, under a best-effort stamp, as a write of zeros of the Maintenance Unit's; behind a line of zero it competes as any request (R26). A
hall being released, or a Landing that does not serve, gets none. The ahead table: a zeroed region is marked (log entry 26), and its entry is
freed once W has passed it. -/
def Obligations.ZeroingFillsLinesAndFreesEntries : Prop :=
  (∀ (s : State) (l : LandingId) (n : HallId) (h : Hall) (slot : Nat), s.hall n = some h → h.members.idxOf? l.val = some slot →
    h.phase = .ready → s.ahead = [] → s.mayZero l = true →
    let p := h.zeroPos.getD slot 0
    let sp := h.homeSpot (h.zeroOff slot p)
    64 * p < h.reach / max 1 h.members.length → s.spotFenced sp = false →
    ∃ u a, exec (.initZeroWrite l n) s = .next (State.pump u) ∧ a ∈ (u.land sp.l).arb.staging ∧ a.op = .write ∧ a.client = .zero n ∧
      a.req = 11 ∧ a.addr = sp.addr ∧ a.off = h.zeroOff slot p ∧ a.hall = some n.val ∧ a.data = 0 ∧ a.poison = false ∧ a.dl = false ∧
      a.stamp = beStamp s.now) ∧
  (∀ (s : State) (l : LandingId) (n : HallId) (h : Hall), s.hall n = some h → h.phase = .releasing ∨ s.mayZero l = false →
    exec (.initZeroWrite l n) s = .next (State.pump s)) ∧
  (∀ (s : State) (n : HallId) (region : Nat) (a : Ahead) (h : Hall), s.aheadOf n region = some a → s.hall n = some h → a.done = false →
    h.zeroingIn region = false →
    ∃ u, exec (.aheadZeroingDone n region) s = .next (State.pump u) ∧
      u.ahead = s.ahead.map fun e => if e.hall = n.val ∧ e.region = region then { e with done := true } else e) ∧
  (∀ (s : State) (n : HallId) (region : Nat) (a : Ahead) (h : Hall), s.aheadOf n region = some a → s.hall n = some h → a.done = true →
    (region + 1) * regionBytes ≤ h.w →
    exec (.aheadEntryFree n region) s = .next (State.pump { s with
      ahead := s.ahead.filter fun e => !(e.hall == n.val && e.region == region) }))

/-! ## Drains -/

/-- The end of a drain. `HALT_DRAIN_TIMEOUT` (R368): a Landing that has drained for 20 µs abandons its writes; the other Landings, the Galleries and the
ports stay. `LANDING_DRAIN_COMPLETE` (R214, R276): a drained Landing whose PLL is locked closes its banks and rests in self-refresh, in
Halt as HALT, under its fence as FENCED, with no refresh owed; without the lock it waits. -/
def Obligations.DrainsEndAtRestOrAbandonTheirWrites : Prop :=
  (∀ (s : State) (l : LandingId) (t0 : Nat), s.chip.halted = true → (s.land l).seq.lstate = .drain → (s.land l).drainFrom = some t0 →
    (t0 + 40000 ≤ s.chip.cycle →
      ∃ t, exec (.haltDrainTimeout l) s = .next t ∧ (t.land l).seq.wq = [] ∧ (t.land l).seq.planNow = [] ∧
        (t.land l).seq.planNext = [] ∧ (∀ k : LandingId, k ≠ l → t.land k = s.land k) ∧ t.ports = s.ports ∧ t.galleries = s.galleries) ∧
    (s.chip.cycle < t0 + 40000 → exec (.haltDrainTimeout l) s = .next s)) ∧
  (∀ (s : State) (l : LandingId), (s.land l).seq.lstate = .drain → (s.land l).seq.drained = true → (s.gal (l / 4)).pllLock = true →
    ∃ u, exec (.landingDrainComplete l) s = .next (State.pump u) ∧
      (u.land l).seq.lstate = (if s.chip.halted then .halt else if s.landFenced l then .fenced else .sr) ∧ (u.land l).seq.rows = [] ∧
      (u.land l).phy.mode = .deep ∧ (u.land l).phy.strValid = false ∧ (u.land l).drainFrom = none ∧
      (∀ i : Fin 16, ((u.land l).mnt.ref[i]).sched.debt = 0) ∧ ∀ k : LandingId, k ≠ l → u.land k = s.land k) ∧
  (∀ (s : State) (l : LandingId), (s.gal (l / 4)).pllLock = false → exec (.landingDrainComplete l) s = .next s)

/-! ## The Maintenance Unit -/

/-- A claim of the Maintenance Unit joins the Landing's staging (R126, R127, R222). -/
def Sys2Proof.Slice.Claims (s t : State) (l : LandingId) (k : ClaimKind) (stamp : BitVec 32) (emergency : Bool) : Prop :=
  ∃ a : Access, a ∈ (t.land l).arb.staging ∧ a.op = .claim k ∧ a.req = 11 ∧ a.stamp = stamp ∧ a.emergency = emergency ∧
    a.id ≥ s.chip.nextId

/-- Refresh (R212, R213, R217, R219): a due instance is presented with its due time as stamp, as REFab or as part one of REFsb; at a debt
of four it is an emergency; part two follows; `MAINTENANCE_WINDOW` (R222) presents the refresh of every rank that is due and touches its
own Landing's requests only, no hall or mailbox, and no port while none of its requests waits upstream. -/
def Obligations.RefreshIsPresented : Prop :=
  (∀ (s : State) (l : LandingId) (sub : Fin 2) (rank : Fin 8) (r : RefSched), s.refOf l sub rank = some r →
    s.refreshReady l sub rank r = true → s.windowFree l = true →
    ∃ t, exec (.refreshDue l sub rank) s = .next t ∧ (t.refOf l sub rank).map (·.presented) = some true ∧
      (t.land l).mnt.lastWindow = some s.tread ∧
      ((s.land l).mnt.sameBank = false → Claims s t l (.refAb sub rank) (stampOf (16 * r.sched.next)) false) ∧
      ((s.land l).mnt.sameBank = true → Claims s t l (.refSb sub rank 0) (stampOf (16 * r.sched.next)) false ∧
        Claims s t l (.refSb sub rank 1) (stampOf (16 * r.sched.next)) false)) ∧
  (∀ (s : State) (l : LandingId) (sub : Fin 2) (rank : Fin 8) (r : RefSched), s.refOf l sub rank = some r → s.mntServes l = true →
    rank.val < (s.land l).seq.geom.ranks → 4 ≤ (schedOwe (s.land l).mnt.flight s.tread r.sched).debt → r.presented = false →
    r.partTwo = none → (s.land l).mnt.sameBank = false →
    ∃ t, exec (.refreshEmergency l sub rank) s = .next t ∧ Claims s t l (.refAb sub rank) (stampOf (16 * r.sched.next)) true) ∧
  (∀ (s : State) (l : LandingId), s.mntServes l = true → s.windowFree l = true →
    ∃ t, exec (.refreshPartTwo l) s = .next t ∧ ∀ e ∈ (s.land l).rankList, ∀ at0,
      (s.refOf l e.1 e.2).bind (·.partTwo) = some at0 → at0 ≤ s.tread →
      Claims s t l (.refSb e.1 e.2 2) (stampOf (16 * at0)) false ∧ Claims s t l (.refSb e.1 e.2 3) (stampOf (16 * at0)) false ∧
        (t.refOf l e.1 e.2).map (·.partTwo) = some none) ∧
  (∀ (s : State) (l : LandingId), s.mntServes l = true → s.windowFree l = true →
    ∃ t, exec (.maintenanceWindow l) s = .next t ∧
      (∀ e ∈ (s.land l).rankList, ∀ r, s.refOf l e.1 e.2 = some r → s.refreshReady l e.1 e.2 r = true →
        Claims s t l (if (s.land l).mnt.sameBank then .refSb e.1 e.2 0 else .refAb e.1 e.2) (stampOf (16 * r.sched.next)) false) ∧
      (∀ k : LandingId, k ≠ l → t.land k = s.land k) ∧ t.halls = s.halls ∧ t.boxes = s.boxes ∧
      ((∀ x ∈ (s.land l).arb.staging, x.entered = true) → t.ports = s.ports))

/-- Owed work that is recorded and presented (R229, R237, R240): an RFM owed by a bank, the ZQ instance of a Landing, the latch of a
rank under its due time, and a scrub step, whose schedule takes what was merged into it; heat decay, ECS readout, for every rank and under
its due time, and the leak of the device counts (R26, R242, R259, R395; log entry 113, DESIGN CHOICE: the first interval of the leak). -/
def Obligations.MaintenanceWorkIsOwedAndPaced : Prop :=
  (∀ (s : State) (l : LandingId) (sub : Fin 2) (rank bg : Fin 8) (bank : Fin 4), (s.lv l 0x600).getLsbD 3 = true →
    fld (s.lv l 0x610) 9 0 ≤ (s.land l).mnt.raaOf (sub.val, rank.val, bg.val, bank.val) →
    ((s.land l).mnt.owedRfm.any fun e => e.1 == (sub.val, rank.val, bg.val, bank.val)) = false →
    ∃ t, exec (.rfmOwed l sub rank bg bank) s = .next t ∧
      (t.land l).mnt.owedRfm = (s.land l).mnt.owedRfm ++ [((sub.val, rank.val, bg.val, bank.val), s.now)]) ∧
  (∀ (s : State) (l : LandingId), s.mntRuns l = true → (s.land l).mnt.zq.next ≤ s.tread →
    ∃ t, exec (.zqDue l) s = .next t ∧ (t.land l).mnt.zqWaiting = true ∧
      (t.land l).mnt.zq = (schedMerge (fld (s.lv l 0x628) 9 0 * s.blockFlight) 2 s.tread (s.land l).mnt.zq).1) ∧
  (∀ (s : State) (l : LandingId) (sub : Fin 2) (rank : Fin 8) (at0 : Nat), s.mntRuns l = true → s.windowFree l = true →
    s.windowClaimed l = false → (s.land l).mnt.zqOpen = [(sub.val, rank.val, at0)] → at0 ≤ s.chip.cycle →
    ((s.land l).claimed fun k => k == .zqLatch sub rank) = false →
    ∃ t, exec (.zqLatch l sub rank) s = .next t ∧ Claims s t l (.zqLatch sub rank) (stampOf (at0 / 2)) false) ∧
  (∀ (s : State) (l : LandingId), s.mntRuns l = true → (s.land l).mnt.scrubOn = true → (s.land l).mnt.scrub.next ≤ s.tread →
    fld (s.lv l 0x61C) 15 0 ≠ 0 → s.scrubGranules l ≠ [] →
    ∃ t, exec (.scrubStepDue l) s = .next t ∧ (t.land l).mnt.scrubWait = true ∧
      (t.land l).mnt.scrub = (schedMerge (fld (s.lv l 0x63C) 2 0 * s.blockFlight) 16 s.tread (s.land l).mnt.scrub).1) ∧
  (∀ s : State, s.chip.variant.cmpTier = true → s.chip.coreOn = true → s.chip.phase = .out → s.chip.halted = false →
    s.misc.heat.next ≤ s.tread →
    let sc := (schedMerge (fld (s.gv 0 0x5008) 2 0 * s.blockFlight) 64 s.tread s.misc.heat).1
    ∃ t, exec .heatDecayDue s = .next t ∧ t.misc.heatIndex = (s.misc.heatIndex + (sc.merged + 1)) % 16384 ∧
      t.misc.heat = schedStart (fld (s.gv 0 0x5008) 2 0 * s.blockFlight) (fld (s.gv 0 0x5008) 12 3) (fld (s.gv 0 0x5008) 22 13) s.tread sc) ∧
  (∀ (s : State) (l : LandingId) (counts : List (Fin 2 × Fin 8 × Fin 10 × Nat × Nat)), s.mntRuns l = true → s.ecsOn l = true →
    s.windowFree l = true → s.windowClaimed l = false → (s.land l).mnt.ecsNext ≤ s.chip.flight →
    ∃ t, exec (.ecsReadoutDue l counts) s = .next t ∧ (t.land l).mnt.ecsNext = s.chip.flight + 1024 * fld (s.lv l 0x62C) 15 8 ∧
      ∀ e ∈ (s.land l).rankList, Claims s t l (.ecsRead e.1 e.2)
        (stampOf (16 * (s.chip.nextFlight - (s.chip.flight + 1 - (s.land l).mnt.ecsNext) * s.blockFlight))) false) ∧
  (∀ (s : State) (g : GalleryId),
    (s.chip.flight < (s.gal g).leakAt + 64 * fld (s.gv g 0x2000) 23 16 → exec (.eccLeak g) s = .next s) ∧
    ((s.gal g).leakAt + 64 * fld (s.gv g 0x2000) 23 16 ≤ s.chip.flight → exec (.eccLeak g) s = .next { s with
      galleries := s.galleries.setIfInBounds g ({ s.gal g with
        leakAt := s.chip.flight
        devCounts := ((s.gal g).devCounts.map fun e => (e.1, e.2 - 1)).filter fun e => e.2 ≠ 0 } : Gallery) }))

/-! ## Wakes, rails and PLLs -/

/-- A wake request stands: the block leaves `s`'s state toward P0 for a source (R488, R489). -/
def Sys2Proof.Slice.Wakes (s t : State) (src : Nat) : Prop :=
  ∃ tr, t.pwr.trans = some tr ∧ tr.target = .p0 ∧ tr.from_ = s.pwr.state ∧ tr.stage = .wake ∧ tr.began = s.now ∧ tr.src = src ∧
    t.pwr.lastWake = src ∧ t.pwr.state = s.pwr.state ∧
    (s.pwr.state = .p3 → t.chip.coreOn = true ∧ t.chip.galOn = s.pwr.galWas ∧ t.chip.phyOn = s.pwr.phyWas)

/-- The block rests in P1, P2 or P3: nothing is under way, out of reset and out of Halt. -/
def Sys2Proof.Slice.Asleep (s : State) : Prop :=
  (s.pwr.state = .p1 ∨ s.pwr.state = .p2 ∨ s.pwr.state = .p3) ∧ s.pwr.trans = none ∧ s.chip.phase = .out ∧ s.chip.halted = false

/-- Wake sources (R49, R488, R489): an enabled WAKE_N, wake timer that has run out, request waiting at a port, doorbell or class U or F
state starts the wake, which records its code; a request for P0 needs no enable; a source that is not enabled changes nothing, nor do ports and doorbells while CORE is off. -/
def Obligations.EnabledSourcesWakeTheBlock : Prop :=
  (∀ s : State, Asleep s → s.wakeEnabled 0 = true → ∃ t, exec .wakeNAssert s = .next t ∧ Wakes s t 1) ∧
  (∀ s : State, s.wakeEnabled 0 = false → exec .wakeNAssert s = .next s) ∧
  (∀ s : State, Asleep s → s.wakeEnabled 4 = true → s.pwr.timer ≠ 0 → s.pwr.reachedAt + 1000 * s.pwr.timer.toNat ≤ s.now →
    (∃ t, exec .pwrTimerExpiry s = .next t ∧ Wakes s t 5) ∧ ∃ t, exec (.wake .timer) s = .next t ∧ Wakes s t 5) ∧
  (∀ s : State, s.wakeEnabled 4 = false ∨ s.pwr.timer = 0 ∨ s.now < s.pwr.reachedAt + 1000 * s.pwr.timer.toNat →
    exec .pwrTimerExpiry s = .next s ∧ exec (.wake .timer) s = .next s) ∧
  (∀ s : State, Asleep s → ∃ t, exec (.wake .request) s = .next t ∧ Wakes s t 6) ∧
  (∀ s : State, Asleep s → s.wakeEnabled 3 = true → s.faultState = true ∨ s.flt.heldP3.isSome = true →
    ∃ t, exec (.wake .fault) s = .next t ∧ Wakes s t 4) ∧
  (∀ s : State, s.faultState = false → s.flt.heldP3 = none → exec (.wake .fault) s = .next s) ∧
  (∀ (s : State) (p : PortId) (x : Txn), Asleep s → s.wakeEnabled 1 = true → s.chip.coreOn = true → x ∈ (s.port p).txns →
    x.wait = .wake → x.resp = none → ∃ t, exec (.wake .port) s = .next t ∧ Wakes s t 2) ∧
  (∀ s : State, Asleep s → s.wakeEnabled 2 = true → s.chip.coreOn = true → ∃ t, exec (.wake .dmaDoorbell) s = .next t ∧ Wakes s t 3) ∧
  (∀ s : State, s.chip.coreOn = false → exec (.wake .port) s = .next s ∧ exec (.wake .dmaDoorbell) s = .next s)

/-- Module power and the PLLs (R46, R276, R305). `PWR_GOOD_RISE`: the level condition of 15/05h ends and a discovery that waits goes on.
`PWR_GOOD_TIMEOUT`: the Landings of a faulty PMIC, or all that wait, are refused with code Bh. `PLL_LOCK` marks the lock; its loss with the
Gallery's Landings all in SR is no fault, and with one outside SR is 7/04h, which fences the four without a drain. -/
def Obligations.ModulePowerAndPllsComeAndGo : Prop :=
  (∀ s : State, s.awake = true → s.chip.pwrEn = true → s.chip.pwrGood = false → s.misc.discovery.waitPower = false →
    exec .pwrGoodRise s = .next (State.levelOff { s with chip := { s.chip with pwrGood := true } } 15 5 0)) ∧
  (∀ s : State, s.awake = true → s.chip.pwrEn = true → s.chip.pwrGood = false → s.misc.discovery.waitPower = true →
    ∃ t, exec .pwrGoodRise s = .next t ∧ t.chip.pwrGood = true ∧ t.misc.discovery.waitPower = false) ∧
  (∀ (s : State) (bad : List LandingId), s.misc.discovery.waitPower = true → s.chip.pwrGood = false →
    ∃ t, exec (.pwrGoodTimeout bad) s = .next t ∧ t.misc.discovery.waitPower = false ∧
      ∀ l : LandingId, l.val < s.nLand → (s.land l).sbd.waiting = true → bad = [] ∨ l ∈ bad →
        (t.land l).sbd.reason = 0xB ∧ (t.land l).sbd.waiting = false) ∧
  (∀ (s : State) (g : GalleryId), s.chip.galOn[g.val] = true → s.chip.coreOn = true → s.chip.phase ≠ .cold →
    exec (.pllLock g) s = .next (State.levelOff { s with
      galleries := s.galleries.setIfInBounds g ({ s.gal g with pllLock := true } : Gallery) } 7 4 g)) ∧
  (∀ (s : State) (g : GalleryId), (s.gal g).pllLock = true →
    let u : State := { s with galleries := s.galleries.setIfInBounds g ({ s.gal g with pllLock := false } : Gallery) }
    let four := (List.range 4).map fun i => 4 * g.val + i
    ((∀ i, i < 4 → (s.land (4 * g.val + i)).seq.lstate = .sr) → exec (.pllLockLoss g) s = .next u) ∧
    ((∃ i, i < 4 ∧ (s.land (4 * g.val + i)).seq.lstate ≠ .sr) → exec (.pllLockLoss g) s =
      .next (u.levelReport (rep 7 4 g 0) (some { u.landFence four (rep 7 4 g 0) with noDrain := true }))))

/-! ## The PHY: Stringer and impedance -/

/-- The Stringer's rows (R280 to R285). A due measurement starts and its schedule moves on; an accepted instance enters the table, a
rejected one leaves it, and the third in a row wants a margin check; lanes end their slew; a table older than four block flights is no longer
valid; a full measurement, while the macro is brought up, gives `ZERO`, `FULL`, all shapes and a schedule with debt 0. `IMPEDANCE_SEARCH_DONE`
(R294, R295), at the same time: codes in range take effect; at boot, one out of range keeps the codes, latches `OOR`, and the Landing is not
started, its DRST_N low. -/
def Obligations.StringerAndImpedanceKeepTheirValues : Prop :=
  (∀ (s : State) (l : LandingId), s.macroRuns l = true → s.strEnabled l = true → (s.land l).phy.measured = true →
    (s.land l).phy.running = false → (s.land l).cal.run = none → (s.land l).sbd.waiting = false → s.chip.halted = false →
    (s.land l).phy.sched.next ≤ s.tread →
    ∃ t, exec (.stringerDue l) s = .next t ∧ (t.land l).phy.running = true ∧ (t.land l).phy.began = s.tread ∧
      (t.land l).phy.sched = schedStart s.blockFlight (s.blockFlight / 4) ((s.blockFlight + 1) / 2) s.tread
        (schedMerge s.blockFlight 1 s.tread (s.land l).phy.sched).1) ∧
  (∀ (s : State) (l : LandingId) (zer full code : Nat) (pu pd : Int), (s.land l).phy.running = true →
    (s.land l).phy.accepts zer full (shapeOf code zer full) = true →
    ∃ t, exec (.stringerInstanceDone l zer full code pu pd) s = .next t ∧ (t.land l).phy.zero = zer ∧ (t.land l).phy.full = full ∧
      (t.land l).phy.shape = (s.land l).phy.shape.set (s.land l).phy.nextK (shapeOf code zer full) ∧
      (t.land l).phy.lin = rebuildLin zer full (t.land l).phy.shape ∧ (t.land l).phy.nextK = (s.land l).phy.nextK % 63 + 1 ∧
      (t.land l).phy.rejRun = 0 ∧ (t.land l).phy.newTable = true ∧ (t.land l).phy.running = false ∧
      (t.land l).phy.accepted = some (s.land l).phy.began) ∧
  (∀ (s : State) (l : LandingId) (zer full code : Nat) (pu pd : Int), (s.land l).phy.running = true →
    (s.land l).phy.accepts zer full (shapeOf code zer full) = false →
    ∃ t, exec (.stringerInstanceDone l zer full code pu pd) s = .next t ∧ (t.land l).phy.lin = (s.land l).phy.lin ∧
      (t.land l).phy.shape = (s.land l).phy.shape ∧ (t.land l).phy.zero = (s.land l).phy.zero ∧
      (t.land l).phy.full = (s.land l).phy.full ∧ (t.land l).phy.running = false ∧
      (t.land l).phy.rejRun = min 3 ((s.land l).phy.rejRun + 1) ∧
      ((s.land l).phy.rejRun = 2 → (t.land l).cal.marginWant = true ∧ (t.land l).cal.marginFence = true)) ∧
  (∀ (s : State) (l : LandingId), exec (.strSlewDone l) s = .next { s with
    landings := s.landings.setIfInBounds l ({ s.land l with phy := { (s.land l).phy with slew := false, leaving := [] } } : Landing) }) ∧
  (∀ (s : State) (l : LandingId), (s.strAge l ≤ 4 → exec (.stringerAgeExpiry l) s = .next s) ∧
    (4 < s.strAge l → exec (.stringerAgeExpiry l) s = .next { s with
      landings := s.landings.setIfInBounds l ({ s.land l with phy := { (s.land l).phy with strValid := false } } : Landing) })) ∧
  (∀ (s : State) (l : LandingId) (zer full : Nat) (codes : List Nat), s.macroRuns l = true → s.bringsUp l = true →
    (s.land l).phy.measured = false →
    ∃ t, exec (.stringerFullMeasurementDone l zer full codes) s = .next t ∧ (t.land l).phy.zero = zer ∧ (t.land l).phy.full = full ∧
      (t.land l).phy.shape.length = 65 ∧ (t.land l).phy.shape.head? = some 0 ∧ (t.land l).phy.shape.getLast? = some 65536 ∧
      (∀ k, 1 ≤ k → k ≤ 63 → (t.land l).phy.shape[k]? = some (shapeOf (codes.getD (k - 1) 0) zer full)) ∧
      (t.land l).phy.lin = rebuildLin zer full (t.land l).phy.shape ∧ (t.land l).phy.strValid = true ∧
      (t.land l).phy.measured = true ∧ (t.land l).phy.sched.debt = 0 ∧ (t.land l).phy.sched.next = s.tread + s.blockFlight) ∧
  (∀ (s : State) (l : LandingId) (pu pd : Nat), s.macroRuns l = true → s.bringsUp l = true → 20 ≤ pu → pu ≤ 107 → 20 ≤ pd → pd ≤ 107 →
    exec (.impedanceSearchDone l pu pd) s = .next (s.loadLand l 0x1010 (at_ 0 pu ||| at_ 8 pd))) ∧
  (∀ (s : State) (l : LandingId) (pu pd : Nat), s.macroRuns l = true → s.bringsUp l = true →
    (s.land l).sbd.waiting = true → (s.land l).sbd.started = false →
    pu < 20 ∨ 107 < pu ∨ pd < 20 ∨ 107 < pd → ∃ t, exec (.impedanceSearchDone l pu pd) s = .next t ∧ (t.land l).phy.oor = true ∧
      (t.land l).sbd.waiting = false ∧ (t.land l).sbd.failed = true ∧ (t.land l).sbd.started = false ∧ t.chip.drstN[l.val] = false ∧
      (t.land l).page = (s.land l).page) ∧
  (∀ (s : State) (l : LandingId) (pu pd : Nat), s.macroRuns l = false ∨ s.bringsUp l = false →
    exec (.impedanceSearchDone l pu pd) s = .next s) ∧
  (∀ (s : State) (l : LandingId) (zer full : Nat) (codes : List Nat),
    s.macroRuns l = false ∨ s.bringsUp l = false ∨ (s.land l).phy.measured = true →
    exec (.stringerFullMeasurementDone l zer full codes) s = .next s)

/-! ## Training and calibration -/

/-- Periodic calibration (R328 to R341). A check that is due moves its schedule; with the temperature moved and nothing in the way it starts
a run. What waits starts with the margin check first. A step that has been placed, or runs in a wake, goes on or ends its run, and a
precondition that fails gives the run or the check up with its cause. A commit whose tread has come loads. A margin check ends. -/
def Obligations.CalibrationRunsGoOnOrEnd : Prop :=
  (∀ (s : State) (l : LandingId), (s.land l).sbd.started = true → s.chip.coreOn = true → s.chip.phase = .out →
    (s.land l).cal.sched.next ≤ s.tread → ∃ t, exec (.calCheck l) s = .next t ∧
      (t.land l).cal.sched = schedStart (16 * s.blockFlight) (4 * s.blockFlight) (8 * s.blockFlight) s.tread
        (schedMerge (16 * s.blockFlight) 1 s.tread (s.land l).cal.sched).1 ∧
      ((s.land l).cal.run = none → (s.land l).cal.staged = none → s.moved l = true → (s.land l).cal.pending = false → (s.lv l 0x3800).getLsbD 0 = true →
        s.chip.bringup = false → s.calBlock l = none → ∃ r, (t.land l).cal.run = some r ∧ r.margin = false ∧ (t.land l).cal.state = 2)) ∧
  (∀ (s : State) (l : LandingId), (s.land l).sbd.started = true → s.windowFree l = true ∨ s.wakeRun l = true → s.calBlock l = none →
    (s.land l).cal.run = none → (s.land l).cal.staged = none →
    ((s.land l).cal.marginWant = true → ∃ t r, exec (.calRunStart l) s = .next t ∧ (t.land l).cal.run = some r ∧ r.margin = true ∧
      (t.land l).cal.state = 4 ∧ (t.land l).cal.marginWant = false) ∧
    ((s.land l).cal.marginWant = false → s.mayRun l = true → ∃ t r, exec (.calRunStart l) s = .next t ∧ (t.land l).cal.run = some r ∧
      r.margin = false ∧ r.startTemp = (s.land l).mnt.temp ∧ (t.land l).cal.state = 2)) ∧
  (∀ (s : State) (l : LandingId) (r : CalRun) (m : TrainMeasure) (margins : List RankMargin), (s.land l).cal.run = some r →
    (r.placed = false → s.wakeRun l = false →
      exec (.calRetrainStep l m margins) s = .next s ∧ exec (.marginCheckDone l margins) s = .next s) ∧
    (r.margin = false → r.placed = true ∨ s.wakeRun l = true →
      (s.calBlock l = none → ∃ u, exec (.calRetrainStep l m margins) s = .next (State.pump u) ∧
        ∀ r', (u.land l).cal.run = some r' → r.step < r'.step ∧ r'.startTemp = r.startTemp) ∧
      (∀ code, s.calBlock l = some code → ∃ t, exec (.calRetrainStep l m margins) s = .next t ∧ (t.land l).cal.run = none ∧
        (t.land l).cal.staged = none ∧ (t.land l).cal.cause = code ∧ (t.land l).cal.pending = true ∧
        (t.land l).cal.aborts = (s.land l).cal.aborts + 1)) ∧
    (r.margin = true → r.placed = true ∨ s.wakeRun l = true → ∀ code, s.calBlock l = some code →
      ∃ t, exec (.marginCheckDone l margins) s = .next t ∧ (t.land l).cal.run = none ∧ (t.land l).cal.cause = code ∧
        (t.land l).cal.marginWant = true ∧ (t.land l).cal.pending = (s.land l).cal.pending)) ∧
  (∀ (s : State) (l : LandingId) (g : Staged) (t0 : Nat), (s.land l).cal.staged = some g → g.placed = some t0 → t0 ≤ s.tread →
    ∃ t, exec (.calibrationCommit l) s = .next t ∧ (t.land l).cal.staged = none ∧ (t.land l).cal.tRef = g.temp ∧
      (t.land l).cal.last = s.now ∧ (t.land l).cal.rejRun = 0 ∧ (t.land l).cal.aborts = 0) ∧
  (∀ (s : State) (l : LandingId), (s.land l).cal.staged = none → exec (.calibrationCommit l) s = .next s) ∧
  (∀ (s : State) (l : LandingId) (r : CalRun) (margins : List RankMargin), (s.land l).cal.run = some r → r.margin = true →
    r.placed = true ∨ s.wakeRun l = true → s.calBlock l = none →
    ∃ u, exec (.marginCheckDone l margins) s = .next (State.pump u) ∧ (u.land l).cal.run = none ∧ (u.land l).cal.state = 0 ∧
      (u.land l).cal.marginFence = false ∧
      ((u.land l).cal.marginLow = margins.any fun m => (s.land l).seq.geom.sets.contains m.rank.val && !s.setFenced l m.sub m.rank &&
        s.marginBad l m)) ∧
  (∀ (s : State) (m : MailboxId), (s.box m).state = .busy → (s.box m).started = true → (s.box m).opc = 0x0301 →
    exec (.calRunTimeLimit m) s = .next { s with
      boxes := boxesDone s m .ok [s.calWord ((s.box m).word 2) 0 2, s.calWord ((s.box m).word 2) 1 2] [] })

/-- Boot training (R322 to R327). A result within every limit starts the Landing: it leaves SR for RUN with its reference temperature; an
attempt out of time trains again at a lower rate or ends the Landing's start with DRST_N low; a data buffer's report and its timeout are
kept for the set. -/
def Obligations.BootTrainingStartsOrFailsTheLanding : Prop :=
  (∀ (s : State) (l : LandingId) (r : TrainResult), s.trains l = true → (s.land l).buffersDone = true → (s.land l).sbd.started = false →
    (s.land l).cal.dbFail = [] → (s.land l).cal.held = Vector.replicate 2 none → zqOk r.pu = true → zqOk r.pd = true →
    s.bootFault l r = 0 →
    ∃ u, exec (.bootTraining l r) s = .next (State.pump u) ∧ (u.land l).sbd.started = true ∧ (u.land l).sbd.waiting = false ∧
      (u.land l).seq.lstate = .run ∧ (u.land l).phy.mode = .active ∧ (u.land l).cal.tRef = (s.land l).mnt.temp ∧
      (u.land l).cal.last = s.now ∧ (u.land l).cal.bootFail = false) ∧
  (∀ (s : State) (l : LandingId), (s.land l).sbd.waiting = true → (s.land l).sbd.hold = false → s.misc.discovery.waitPower = false →
    s.starting l = true → ∃ t, exec (.bootTrainingTimeout l) s = .next t ∧
      (((t.land l).sbd.waiting = true ∧ (t.land l).seq.geom.rate < (s.land l).seq.geom.rate ∧ (t.gal (l / 4)).pllLock = false) ∨
        ((t.land l).sbd.waiting = false ∧ (t.land l).sbd.failed = true ∧ (t.land l).sbd.started = false ∧
          (t.land l).cal.bootFail = true ∧ t.chip.drstN[l.val] = false))) ∧
  (∀ (s : State) (l : LandingId) (rank : Fin 8) (ok : Bool), (s.land l).sbd.waiting = true → (s.land l).seq.geom.mrd = true →
    exec (.dbTrainingDone l rank ok) s = .next { s with
      landings := s.landings.setIfInBounds l ({ s.land l with cal :=
        if ok then { (s.land l).cal with dbDone := (s.land l).cal.dbDone.filter (· ≠ rank.val / 2 * 2) ++ [rank.val / 2 * 2] }
        else { (s.land l).cal with dbFail := (s.land l).cal.dbFail.filter (· ≠ rank.val / 2 * 2) ++ [rank.val / 2 * 2] } } : Landing) }) ∧
  (∀ (s : State) (l : LandingId) (rank : Fin 8), (s.land l).sbd.waiting = true → (s.land l).seq.geom.mrd = true →
    (s.land l).cal.dbDone.contains (rank.val / 2 * 2) = false → (s.land l).cal.dbFail.contains (rank.val / 2 * 2) = false →
    exec (.dbTrainingTimeout l rank) s = .next { s with
      landings := s.landings.setIfInBounds l ({ s.land l with cal :=
        { (s.land l).cal with dbFail := (s.land l).cal.dbFail ++ [rank.val / 2 * 2] } } : Landing) })

/-! ## CFG -/

/-- The commands that are CFG writes, each with the request that it puts at CFG: the address of its register and the word (R56, R533). -/
def Sys2Proof.Slice.cfgRows (m : MailboxId) (l : LandingId) (n : ChannelId) (off : Fin 64) (addr : BitVec 21) (data : W32)
    (strb : BitVec 4) (counts : List (Fin 2 × Fin 8 × Fin 10 × Nat × Nat)) : List (Instr × CfgReq) :=
  let put (a : Nat) (d : W32) : CfgReq := { write := true, addr := a, strb := strb, data := d, counts := [] }
  [ (.lbyDbRing m strb, put (boxBase m + 0x200) 1), (.lbyStsAck m strb, put (boxBase m + 0x204) 8), (.flush strb, put 0xC144 1)
  , (.mark strb, put 0xC144 2), (.rewind strb, put 0xC144 4), (.clear strb, put 0xC144 8), (.pwrReq ⟨strb, data⟩, put 0x1000 data)
  , (.arbClrLongest l strb, put (landAddr l 0x00C) 1), (.timingRegisterWrite l off ⟨strb, data⟩, put (landAddr l (0x800 + 4 * off.val)) data)
  , (.phyPllWrite l ⟨strb, data⟩, put (landAddr l 0x1008) data), (.registerWrite addr ⟨strb, data⟩, put (addr.toNat / 4 * 4) data)
  , (.mntEcsRead l ⟨strb, data⟩ counts, { put (landAddr l 0x62C) data with counts := counts })
  , (.dmaRing n strb, put (0x1000C + 0x1000 * n) 1), (.dmaStop n strb, put (0x1000C + 0x1000 * n) 2)
  , (.dmaReset n strb, put (0x1000C + 0x1000 * n) 4), (.dmaChHeadWrite n ⟨strb, data⟩, put (0x10008 + 0x1000 * n) data) ]

/-- The gate of every CFG write (R6, R11, R56, R57, R445, R536): while CFG takes no request nothing changes; behind a stalled pop the request
waits in its order; without all four strobes, or into a domain that is off, the write is ignored and answered with an error; at an absent
unit it is ignored and answered as accepted. -/
def Obligations.CfgWritesPassTheGate : Prop :=
  ∀ (s : State) (m : MailboxId) (l : LandingId) (n : ChannelId) (off : Fin 64) (addr : BitVec 21) (data : W32) (strb : BitVec 4)
    (counts : List (Fin 2 × Fin 8 × Fin 10 × Nat × Nat)), ∀ e ∈ cfgRows m l n off addr data strb counts,
      (s.cfgAlive = false → exec e.1 s = .next s) ∧
      (s.cfgAlive = true → s.cfgWaits = true → exec e.1 s = .next { s with cfg := { s.cfg with queue := s.cfg.queue ++ [e.2] } }) ∧
      (CfgFree s → strb ≠ 0xF → exec e.1 s = .next { s with cfg := s.cfg.answer 0 true }) ∧
      (CfgFree s → strb = 0xF → s.absentAt e.2.addr = true → exec e.1 s = .next { s with cfg := cfgOk s }) ∧
      (CfgFree s → strb = 0xF → s.absentAt e.2.addr = false → s.domainDown e.2.addr = true →
        exec e.1 s = .next { s with cfg := s.cfg.answer 0 true })

/-- Words in rising order of their offsets, as every page keeps them. -/
abbrev Sys2Proof.Slice.Rising (w : Words) : Prop := w.Pairwise fun a b => a.1 < b.1

/-- Registers over CFG. Of the Landings (R10, R205, R207, R242, R275): in Bring-up mode a timing register takes a word in its ranges and
marks `SEQ_TCHK`; a word outside them leaves it and names it there; `PHY_PLL` changes with the Gallery's Landings at rest and then has to
lock again; outside Bring-up mode they ignore the write; a write of `SEQ_T_REFI` waits in every Landing (R197); `ARB_CLR` clears the longest
times, and a readout of ECS has the counters of every rank read, while no feature holds the window (R225). Of the block (R12, R413, R439, R482, R510, R535): the wake timer, the fault interrupt's status and enables, a command word of a
mailbox in BUSY, which only sets `OVERRUN`, and a descriptor word, which reads back; a low word loads its latch, and the high word answers
from it; behind a stalled pop a read waits (R56). -/
def Obligations.RegistersTakeTheirWritesAndReads : Prop :=
  (∀ (s : State) (l : LandingId) (off : Fin 64) (d : W32), CfgOpen s (landAddr l (0x800 + 4 * off.val)) → s.chip.bringup = true →
    isTiming (0x800 + 4 * off.val) = true →
    (∀ v, s.landTry l (0x800 + 4 * off.val) d = some v → Rising (s.land (homeLand l (0x800 + 4 * off.val))).page.regs →
      ∃ t, exec (.timingRegisterWrite l off ⟨0xF, d⟩) s = .next t ∧ t.lw l (0x800 + 4 * off.val) = v ∧ t.cfg = cfgOk s ∧
        (0x800 + 4 * off.val ≠ offRefi → (t.land l).tchk = (s.land l).tchk ||| 4) ∧
        (0x800 + 4 * off.val = offRefi → ∀ k : LandingId, k.val < s.nLand → (t.land k).refiPend = true)) ∧
    (s.landTry l (0x800 + 4 * off.val) d = none → Rising (s.land (homeLand l (0x800 + 4 * off.val))).page.regs →
      ∃ t, exec (.timingRegisterWrite l off ⟨0xF, d⟩) s = .next t ∧
        t.lw l (0x800 + 4 * off.val) = s.lw l (0x800 + 4 * off.val) ∧ t.cfg = cfgOk s ∧
        (t.land l).tchk.getLsbD 0 = true ∧ fld (t.land l).tchk 15 8 = off.val)) ∧
  (∀ (s : State) (l : LandingId) (off : Fin 64) (d : W32), CfgOpen s (landAddr l (0x800 + 4 * off.val)) →
    s.chip.bringup = false → exec (.timingRegisterWrite l off ⟨0xF, d⟩) s = .next { s with cfg := cfgOk s }) ∧
  (∀ (s : State) (l : LandingId) (d v : W32), CfgOpen s (landAddr l 0x1008) → s.chip.bringup = true → s.pllFree (l / 4) = true →
    s.landTry l 0x1008 d = some v → Rising (s.land (l / 4 * 4)).page.regs →
    ∃ t, exec (.phyPllWrite l ⟨0xF, d⟩) s = .next t ∧ t.lw l 0x1008 = v ∧ t.cfg = cfgOk s ∧
      (t.gal (l / 4)).pllLock = ((s.gal (l / 4)).pllLock && decide (v = s.lw l 0x1008))) ∧
  (∀ (s : State) (l : LandingId) (d : W32), CfgOpen s (landAddr l 0x1008) → s.chip.bringup = false ∨ s.pllFree (l / 4) = false →
    exec (.phyPllWrite l ⟨0xF, d⟩) s = .next { s with cfg := cfgOk s }) ∧
  (∀ (s : State) (l : LandingId), CfgOpen s (landAddr l 0x00C) → exec (.arbClrLongest l 0xF) s = .next { s with
    landings := s.landings.setIfInBounds l
      ({ s.land l with arb := { (s.land l).arb with longest := Vector.replicate 13 0 } } : Landing)
    cfg := cfgOk s }) ∧
  (∀ (s : State) (l : LandingId) (d : W32) (counts : List (Fin 2 × Fin 8 × Fin 10 × Nat × Nat)), CfgOpen s (landAddr l 0x62C) →
    d.getLsbD 0 = true → s.ecsOn l = true → s.mntRuns l = true → s.windowClaimed l = false →
    ∃ t, exec (.mntEcsRead l ⟨0xF, d⟩ counts) s = .next t ∧ t.cfg = cfgOk s ∧
      ∀ e ∈ (s.land l).rankList, ∃ a ∈ (t.land l).arb.staging, a.op = .claim (.ecsRead e.1 e.2) ∧ a.stamp = stampOf s.now) ∧
  (∀ (s : State) (d : W32), CfgFree s → exec (.registerWrite 0x1010 ⟨0xF, d⟩) s = .next { s with
    pwr := { s.pwr with timer := d }, cfg := cfgOk s }) ∧
  (∀ (s : State) (d : W32), CfgOpen s 0x2008 → exec (.registerWrite 0x2008 ⟨0xF, d⟩) s = .next { s with
    flt := { s.flt with irq := s.flt.irq &&& ~~~(d.extractLsb' 0 4), en := d.extractLsb' 8 4 }, cfg := cfgOk s }) ∧
  (∀ (s : State) (m : MailboxId) (k : Fin 64) (d : W32), CfgOpen s (boxBase m + 4 * k) → (s.box m).state = .busy →
    exec (.registerWrite (BitVec.ofNat 21 (boxBase m + 4 * k)) ⟨0xF, d⟩) s = .next { s with
      boxes := s.boxes.setIfInBounds m ({ s.box m with overrun := true } : Mailbox)
      cfg := cfgOk s }) ∧
  (∀ (s : State) (addr : BitVec 21) (d : W32), 0x18000 ≤ addr.toNat → addr.toNat < 0x20000 → CfgOpen s (wordAddr addr) →
    s.desc.wf = true → ∃ t, exec (.registerWrite addr ⟨0xF, d⟩) s = .next t ∧ t.cfg = cfgOk s ∧ t.desc.wf = true ∧
      readWord t.desc (wordAddr addr - 0x18000) = d ∧ t.dma = s.dma ∧
      ∀ b, b < wordAddr addr - 0x18000 ∨ wordAddr addr - 0x18000 + 4 ≤ b → readByte t.desc b = readByte s.desc b) ∧
  (∀ (s : State) (strb : BitVec 4), CfgFree s → exec (.lowWordRead 0x10 strb) s = .next { s with
    cfg := ({ s.cfg with latches := setW 0 s.cfg.latches 0x10 (BitVec.ofNat 32 (s.now / 2 ^ 32)) } : Cfg).answer
      (BitVec.ofNat 32 s.now) (decide (strb ≠ 0xF)) }) ∧
  (∀ (s : State) (strb : BitVec 4), CfgFree s → exec (.lowWordRead 0x14 strb) s = .next { s with
    cfg := s.cfg.answer (getW 0 s.cfg.latches 0x10) (decide (strb ≠ 0xF)) }) ∧
  (∀ (s : State) (addr : BitVec 21) (strb : BitVec 4), s.cfgAlive = true → s.cfgWaits = true →
    exec (.lowWordRead addr strb) s = .next { s with cfg := { s.cfg with
      queue := s.cfg.queue ++ [{ write := false, addr := wordAddr addr, strb := strb, data := 0, counts := [] }] } }) ∧
  (∀ (s : State) (addr : BitVec 21) (strb : BitVec 4), s.cfgAlive = false → exec (.lowWordRead addr strb) s = .next s)

/-- Mailboxes, the Event Queue and the Arcade over CFG (R439, R443, R445, R448, R452). A doorbell and an acknowledgement move a mailbox by
its state; a pop takes the oldest item of the most urgent priority, or the next wide word, and latches its words; one that finds nothing
stalls, and after its limit answers EMPTY, with an error where its strobe was partial, and then what waited behind it is served (R56, R57;
log entry 107, DESIGN CHOICE: when); the Arcade's commands act; a trace packet of a source without a claim is not written (R478). -/
def Obligations.LobbyAnswersItsRegisters : Prop :=
  (∀ (s : State) (m : MailboxId), CfgOpen s (boxBase m + 0x200) → (s.box m).state = .idle ∨ (s.box m).state = .done →
    m.val = 8 ∨ s.chip.fwReady = true ∨ s.chip.bootsel = false → exec (.lbyDbRing m 0xF) s = .next { s with
      boxes := s.boxes.setIfInBounds m ({ s.box m with state := .pending, started := false } : Mailbox)
      cfg := cfgOk s }) ∧
  (∀ (s : State) (m : MailboxId), CfgOpen s (boxBase m + 0x200) → (s.box m).state = .pending ∨ (s.box m).state = .busy →
    exec (.lbyDbRing m 0xF) s = .next { s with
      boxes := s.boxes.setIfInBounds m ({ s.box m with overrun := true } : Mailbox)
      cfg := cfgOk s }) ∧
  (∀ (s : State) (m : MailboxId), CfgOpen s (boxBase m + 0x204) → exec (.lbyStsAck m 0xF) s = .next { s with
    boxes := s.boxes.setIfInBounds m (if (s.box m).state = .done then { s.box m with state := .idle } else s.box m)
    cfg := cfgOk s }) ∧
  (∀ (s : State) (strb : BitVec 4), CfgFree s → s.domainDown 0xC000 = false → s.eq.urgent = none → s.eq.stall ≠ 0 →
    exec (.lbyEqPop strb) s = .next { s with cfg := { s.cfg with
      stalled := some { arcade := false, began := s.chip.cycle, partialStrb := decide (strb ≠ 0xF) } } }) ∧
  (∀ (s : State) (strb : BitVec 4) (p : Nat) (e : EqItem), CfgFree s → s.domainDown 0xC000 = false → s.eq.urgent = some (p, e) →
    exec (.lbyEqPop strb) s = .next { s with
      eq := { s.eq with items := s.eq.items.setIfInBounds p (((s.eq.items[p]?).getD []).drop 1), latch := e.words.drop 1 }
      cfg := s.cfg.answer (e.words.getD 0 0) (decide (strb ≠ 0xF)) }) ∧
  (∀ (s : State) (strb : BitVec 4), CfgFree s → s.domainDown 0xC100 = false → s.arcade.next = none → s.eq.stall ≠ 0 →
    exec (.lbyArPop strb) s = .next { s with cfg := { s.cfg with
      stalled := some { arcade := true, began := s.chip.cycle, partialStrb := decide (strb ≠ 0xF) } } }) ∧
  (∀ (s : State) (strb : BitVec 4) (valid : Nat) (ws : List W32), CfgFree s → s.domainDown 0xC100 = false →
    s.arcade.next = some (valid, ws) → exec (.lbyArPop strb) s = .next { s with
      arcade := { s.arcade with rptr := (s.arcade.rptr / 8 + 1) * 8, latch := ws }
      cfg := s.cfg.answer (at_ 0 valid) (decide (strb ≠ 0xF)) }) ∧
  (∀ (s : State) (strb : BitVec 4), s.cfgAlive = true → s.cfgWaits = true →
    exec (.lbyEqPop strb) s = .next { s with cfg := { s.cfg with
      queue := s.cfg.queue ++ [{ write := false, addr := 0xC000, strb := strb, data := 0, counts := [] }] } } ∧
    exec (.lbyArPop strb) s = .next { s with cfg := { s.cfg with
      queue := s.cfg.queue ++ [{ write := false, addr := 0xC100, strb := strb, data := 0, counts := [] }] } }) ∧
  (∀ (s : State) (k : Stall), s.cfg.stalled = some k →
    (s.chip.cycle < k.began + 2 * s.eq.stall.toNat → exec .popStallTimeout s = .next s) ∧
    (k.began + 2 * s.eq.stall.toNat ≤ s.chip.cycle → k.arcade = false → s.eq.urgent = none →
      exec .popStallTimeout s = .next (State.cfgDrain { s with
        eq := { s.eq with latch := [] }, cfg := ({ s.cfg with stalled := none } : Cfg).answer 0 k.partialStrb })) ∧
    (k.began + 2 * s.eq.stall.toNat ≤ s.chip.cycle → k.arcade = true → s.arcade.next = none →
      exec .popStallTimeout s = .next (State.cfgDrain { s with
        arcade := { s.arcade with latch := [] }, cfg := ({ s.cfg with stalled := none } : Cfg).answer (at_ 6 1) k.partialStrb }))) ∧
  (∀ s : State, CfgOpen s 0xC144 →
    exec (.flush 0xF) s = .next { s with arcade := s.arcade.flush, cfg := cfgOk s } ∧
    exec (.mark 0xF) s = .next { s with arcade := { s.arcade with mark := some s.arcade.rptr }, cfg := cfgOk s } ∧
    exec (.rewind 0xF) s = .next { s with arcade := s.arcade.rewind, cfg := cfgOk s } ∧
    exec (.clear 0xF) s = .next { s with
      arcade := { s.arcade with words := [], base := 0, rptr := 0, pads := [], packets := [], mark := none }, cfg := cfgOk s }) ∧
  (∀ (s : State) (src : BitVec 8) (body : List W32) (c : ClaimRec), s.claimOf 2 src.toNat = some c → s.chip.coreOn = true →
    s.chip.phase = .out → s.cfg.stalled = none →
    exec (.arcadePacketClose src body) s = .next { s with arcade := s.arcade.trace src.toNat c.param body }) ∧
  (∀ (s : State) (src : BitVec 8) (body : List W32), s.claimOf 2 src.toNat = none → exec (.arcadePacketClose src body) s = .next s)

/-! ## DMA -/

/-- The DMA channel's commands by state (R424 to R430). The doorbell starts an idle channel at `HEAD`, a stopped one at its descriptor, and
is noted by a running one; STOP stops an idle or parked channel at once and lets a running one finish its descriptor; RESET returns a channel
at rest to IDLE and a running one once its last response has come; `HEAD` is written at rest only. -/
def Obligations.DmaCommandsMoveTheChannel : Prop :=
  (∀ (s : State) (n : ChannelId), CfgOpen s (0x1000C + 0x1000 * n) →
    (∃ u, exec (.dmaRing n 0xF) s = .next ((State.pump u).cfgReply 0 false) ∧ (∀ k : ChannelId, k ≠ n → u.ch k = s.ch k) ∧
      ((s.ch n).state = .idle → (u.ch n).state = .running ∧ (u.ch n).cur = (s.ch n).head ∧ (u.ch n).toStart = true) ∧
      ((s.ch n).state = .stopped → (s.ch n).tailDone = false → (u.ch n).state = .running ∧ (u.ch n).cur = (s.ch n).cur ∧
        (u.ch n).toStart = true) ∧
      ((s.ch n).state = .running ∨ (s.ch n).state = .stopping → u.ch n = { s.ch n with dbPend := true }) ∧
      ((s.ch n).state = .error ∨ (s.ch n).state = .halted ∨ (s.ch n).state = .resetting → u.ch n = s.ch n)) ∧
    (∃ u, exec (.dmaStop n 0xF) s = .next ((State.pump u).cfgReply 0 false) ∧ (∀ k : ChannelId, k ≠ n → u.ch k = s.ch k) ∧
      ((s.ch n).state = .idle → (u.ch n).state = .stopped ∧ (u.ch n).cur = (s.ch n).head ∧ (u.ch n).irq = (s.ch n).irq ||| 8) ∧
      ((s.ch n).state = .parked → (u.ch n).state = .stopped ∧ (u.ch n).cur = (s.ch n).cur ∧ (u.ch n).irq = (s.ch n).irq ||| 8) ∧
      ((s.ch n).state = .running → u.ch n = { s.ch n with state := .stopping }) ∧
      ((s.ch n).state = .error ∨ (s.ch n).state = .halted ∨ (s.ch n).state = .stopped → u.ch n = s.ch n)) ∧
    (∃ u, exec (.dmaReset n 0xF) s = .next ((State.pump u).cfgReply 0 false) ∧
      ((s.ch n).state = .parked ∨ (s.ch n).state = .stopped ∨ (s.ch n).state = .error →
        u.ch n = { s.ch n with state := .idle, tailDone := false }) ∧
      ((s.ch n).state = .running ∨ (s.ch n).state = .stopping → (u.ch n).state = .resetting ∧ (u.ch n).toStart = false))) ∧
  (∀ (s : State) (n : ChannelId) (d : W32), CfgOpen s (0x10008 + 0x1000 * n) →
    ((s.ch n).state = .idle ∨ (s.ch n).state = .parked ∨ (s.ch n).state = .stopped ∨ (s.ch n).state = .error →
      exec (.dmaChHeadWrite n ⟨0xF, d⟩) s = .next { s with
        dma := s.dma.setIfInBounds n ({ s.ch n with head := fld d 11 0, state := .idle, errSince := false, tailDone := false } : Dma)
        cfg := cfgOk s }) ∧
    ((s.ch n).state = .running ∨ (s.ch n).state = .stopping ∨ (s.ch n).state = .halted ∨ (s.ch n).state = .resetting →
      exec (.dmaChHeadWrite n ⟨0xF, d⟩) s = .next { s with cfg := cfgOk s })) ∧
  (∀ (s : State) (n : ChannelId), (s.ch n).state = .resetting → (∀ r, (s.ch n).run = some r → r.answered = true) →
    exec (.dmaResetDone n) s = .next { s with
      dma := s.dma.setIfInBounds n ({ s.ch n with state := .idle, run := none, tailDone := false } : Dma) })

/-- Descriptors (R412 to R422). A fetched descriptor has its checks in order: an unbound channel is error 9h, a malformed one 1h, and only one
without error has lines, which cover its range; a channel asked to stop stands before it. One that has ended is written back: without error
its word +1Ch is 1 and the channel goes on, or parks at a tail; with an error that is not skipped the channel is in ERROR. -/
def Obligations.DescriptorsAreCheckedAndWrittenBack : Prop :=
  (∀ (s : State) (n : ChannelId), (s.ch n).toStart = true → (s.ch n).state = .running → s.dmaStarts = true → s.chip.coreOn = true →
    s.chip.phase = .out → let ws := (List.range 8).map (s.descWord (s.ch n).cur)
    ∃ u r, exec (.descriptorStart n) s = .next (State.pump u) ∧ (u.ch n).run = some r ∧ (u.ch n).toStart = false ∧ r.words = ws ∧
      (u.ch n).inForce = (s.ch n).ctl ∧
      ((s.ch n).bind = none → r.err.map (·.1) = some 9) ∧
      ((s.ch n).bind ≠ none → descBad ws = true → r.err.map (·.1) = some 1) ∧
      (r.err ≠ none → r.srcs = [] ∧ r.dsts = []) ∧
      (r.err = none → r.dsts = dmaLines (descDstOff ws) (descLen ws) ∧
        r.srcs = (if descOp ws = 0 then dmaLines (descSrcOff ws) (descLen ws) else []))) ∧
  (∀ (s : State) (n : ChannelId), (s.ch n).toStart = true → (s.ch n).state = .stopping → ∃ u, exec (.descriptorStart n) s = .next (State.pump u) ∧
    (u.ch n).state = .stopped ∧ (u.ch n).cur = (s.ch n).cur ∧ (u.ch n).irq = (s.ch n).irq ||| 8) ∧
  (∀ (s : State) (n : ChannelId) (r : DmaRun), (s.ch n).run = some r → r.over_ = true → s.desc.wf = true →
    (s.ch n).state = .running →
    (r.err = none → ∃ u, exec (.descriptorComplete n) s = .next (State.pump u) ∧ u.descWord (s.ch n).cur 7 = 1 ∧
      (u.ch n).descDone = (s.ch n).descDone + 1 ∧ (u.ch n).run = none ∧
      ((s.descWord (s.ch n).cur 0).getLsbD 12 = true → (u.ch n).state = .parked ∧ (u.ch n).cur = (s.ch n).cur) ∧
      ((s.descWord (s.ch n).cur 0).getLsbD 12 = false → (u.ch n).state = .running ∧ (u.ch n).toStart = true ∧
        (u.ch n).cur = fld (s.descWord (s.ch n).cur 0) 11 0)) ∧
    (∀ e, r.err = some e → r.skip = false → ∃ u, exec (.descriptorComplete n) s = .next (State.pump u) ∧
      u.descWord (s.ch n).cur 7 = (2 ||| at_ 2 e.1) ∧ (u.ch n).state = .error ∧ (u.ch n).irq = (s.ch n).irq ||| 2 ∧
      (u.ch n).errInfo = (at_ 0 e.1 ||| at_ 4 (b2n e.2.1) ||| at_ 5 (e.2.2.1 % 1024) ||| at_ 15 (s.ch n).cur) ∧
      (u.ch n).descDone = (s.ch n).descDone))

/-! ## ALERT_N and the sequencer's own events -/

/-- ALERT_N (R187 to R189, R232 to R234). Its fall counts on a Landing at rest and else begins a RETRY with the time of the fall; a short
alert was a parity error, whose replay follows or whose Landing is fenced once the retries are spent; a long one is an Alert Back-Off, after
which the Landing returns, or the parity retry that it broke off is made again. From `DEFER` after the fall its RFMs to every rank are
presented as emergencies, from `ACT_WIN` on ACTs stop, and with the alert risen and its last RFM over it ends; still low 1 µs after the RFMs
it is 5/02h, which fences the Landing. -/
def Obligations.AlertsAreRetriedOrServed : Prop :=
  (∀ (s : State) (l : LandingId), (s.land l).sbd.started = true → s.chip.coreOn = true → (s.land l).seq.retry = none →
    (s.land l).mnt.abo = none →
    ((s.land l).seq.lstate = .sr ∨ (s.land l).seq.lstate = .fenced ∨ (s.land l).seq.lstate = .halt →
      exec (.alertNFall l) s = .next (s.bumpL l 0x698 1)) ∧
    ((s.land l).seq.lstate = .run ∨ (s.land l).seq.lstate = .drain →
      ∃ t r, exec (.alertNFall l) s = .next t ∧ (t.land l).seq.lstate = .retry ∧ (t.land l).seq.retry = some r ∧
        r.fall = s.chip.cycle ∧ r.rising = none ∧ r.tries = 0 ∧ r.back = (s.land l).seq.lstate ∧ r.parity = false ∧
        (t.land l).seq.planNext = [])) ∧
  (∀ (s : State) (l : LandingId) (r : Retry), (s.land l).seq.retry = some r → r.rising = none →
    (s.parityLength l r.fall = true → r.tries < s.parMax l → ∃ t, exec (.alertNRise l) s = .next t ∧
      (t.land l).seq.retry = some { r with rising := some s.chip.cycle, parity := true } ∧
      (t.land l).seq.lstate = (s.land l).seq.lstate) ∧
    (s.parityLength l r.fall = true → s.parMax l ≤ r.tries →
      ∃ u f, exec (.alertNRise l) s = .next (State.raise u (repL 4 2 l 0) (some f)) ∧ f.grain = .landing ∧ f.group = [l.val]) ∧
    (s.parityLength l r.fall = false → ∃ t, exec (.alertNRise l) s = .next t ∧
      (t.land l).mnt.abo = some { fall := r.fall, presented := false, actStopped := false, risen := true } ∧
      (r.parity = false → (t.land l).seq.retry = none ∧ (t.land l).seq.lstate = r.back) ∧
      (r.parity = true → (t.land l).seq.retry = some { r with rising := some s.chip.cycle })) ∧
    (∃ t, exec (.alertClassifyTimeout l) s = .next t ∧
      (t.land l).mnt.abo = some { fall := r.fall, presented := false, actStopped := false, risen := false } ∧
      (t.land l).mnt.aboFlight = (s.land l).mnt.aboFlight + 1 ∧
      (r.parity = false → (t.land l).seq.retry = none ∧ (t.land l).seq.lstate = r.back) ∧
      (r.parity = true → (t.land l).seq.retry = some { r with rising := some s.chip.cycle }))) ∧
  (∀ (s : State) (l : LandingId) (a : Abo), (s.land l).seq.retry = none → (s.land l).mnt.abo = some a →
    exec (.alertNRise l) s = .next (State.levelOff { s with
      landings := s.landings.setIfInBounds l
        ({ s.land l with mnt := { (s.land l).mnt with abo := some { a with risen := true } } } : Landing) } 5 2 l)) ∧
  (∀ (s : State) (l : LandingId) (r : Retry), (s.land l).seq.retry = some r → r.rising.isSome = true → r.done = none →
    r.parity = true → (s.land l).seq.lstate = .retry → r.tries < s.parMax l → ∃ t k, exec (.parityRetry l) s = .next t ∧
      (t.land l).seq.retry = some { r with tries := r.tries + 1, done := some k } ∧ (t.land l).seq.lstate = .retry) ∧
  (∀ (s : State) (l : LandingId) (a : Abo), (s.land l).mnt.abo = some a →
    (a.presented = false → s.mntServes l = true → a.fall + 2 * fld (s.lv l 0x618) 15 8 ≤ s.chip.cycle →
      ∃ t, exec (.aboPresent l) s = .next t ∧ (t.land l).mnt.abo = some { a with presented := true } ∧
        ∀ e ∈ (s.land l).rankList, Claims s t l (.aboRfm e.1 e.2) (stampOf (a.fall / 2)) true) ∧
    (s.chip.cycle < a.fall + 2 * fld (s.lv l 0x618) 15 8 → exec (.aboPresent l) s = .next s) ∧
    (a.fall + 2 * fld (s.lv l 0x618) 7 0 ≤ s.chip.cycle → exec (.aboActWindowEnd l) s = .next { s with
      landings := s.landings.setIfInBounds l
        ({ s.land l with mnt := { (s.land l).mnt with abo := some { a with actStopped := true } } } : Landing) }) ∧
    (s.chip.cycle < a.fall + 2 * fld (s.lv l 0x618) 7 0 → exec (.aboActWindowEnd l) s = .next s)) ∧
  (∀ (s : State) (l : LandingId) (a : Abo), (s.land l).mnt.abo = some a → a.presented = true → (s.land l).claimed ClaimKind.isAbo = false →
    (a.risen = true → s.rfmsOver l = true → exec (.aboEnd l) s = .next (State.levelOff { s with
      landings := s.landings.setIfInBounds l ({ s.land l with mnt := { (s.land l).mnt with abo := none } } : Landing) } 5 2 l)) ∧
    (a.risen = false ∨ s.rfmsOver l = false → exec (.aboEnd l) s = .next s) ∧
    (a.risen = false → s.rfmsOld l = true → s.levelHolds 5 2 l = false →
      exec (.alertStuck l) s = .next (s.levelReport (repL 5 2 l 0) (some (s.landFence [l.val] (repL 5 2 l 0))))) ∧
    (a.risen = true → exec (.alertStuck l) s = .next s))

/-- The sequencer's own events (R162, R163, R184, R215): an idle rank enters POWER_DOWN, with `PD_EN` outside deadline mode after `PD_IDLE`
treads and in P1 at once; a row unused for too long is precharged; both at a free edge of the next plan, without which they wait. A hint that
found no place in two plans, or whose bank is not IDLE, is dropped. -/
def Obligations.IdleRanksRowsAndHintsAreLetGo : Prop :=
  (∀ (s : State) (l : LandingId) (sub : Fin 2) (rank : Fin 8) (k : Nat),
    s.pwr.state = .p1 ∨ ((s.lv l 0x400).getLsbD 3 = true ∧ s.dlMode l = false ∧
      fld (s.lv l 0x400) 7 4 ≤ (s.land l).seq.idleOf sub rank) →
    (s.land l).seq.lstate = .run → (s.land l).seq.geom.valid = true → rank.val < (s.land l).seq.geom.ranks →
    (s.land l).seq.banksIdle sub rank (firstEdge (s.land l).seq.geom.rate (s.tread + 1)) = true →
    (s.land l).seq.hasWork sub rank = false → (s.land l).seq.pd.contains (sub.val, rank.val) = false →
    s.ownEdge l (rankWant .pdEnter (sub.val, rank.val)) = some k →
    ∃ t c, exec (.powerDownEntry l sub rank) s = .next t ∧ (t.land l).seq.pd = (s.land l).seq.pd ++ [(sub.val, rank.val)] ∧
      (t.land l).seq.planNext = (s.land l).seq.planNext ++ [c] ∧ c.cmd = .pdEnter ∧ c.sub = sub.val ∧ c.rank = rank.val ∧ c.edge = k ∧
      firstEdge (s.land l).seq.geom.rate (s.tread + 1) ≤ k) ∧
  (∀ (s : State) (l : LandingId) (sub : Fin 2) (rank : Fin 8), s.ownEdge l (rankWant .pdEnter (sub.val, rank.val)) = none ∨
    (s.land l).seq.hasWork sub rank = true ∨ (s.pwr.state ≠ .p1 ∧ (s.lv l 0x400).getLsbD 3 = false) →
    exec (.powerDownEntry l sub rank) s = .next s) ∧
  (∀ (s : State) (l : LandingId) (sub : Fin 2) (rank : Fin 8) (bg : Fin 8) (bank : Fin 4) (o : OpenRow),
    (s.land l).seq.rowAt sub rank bg bank = some o → fld (s.lv l 0x400) 1 0 = 2 → (s.land l).seq.lstate = .run →
    let own := s.ownEdge l { cmd := .pre, sub := sub.val, rank := rank.val, bg := bg.val, bank := bank.val, row := o.row, col := 0 }
    (∀ k, o.used + fld (s.lv l 0x400) 15 8 ≤ s.tread → own = some k → ∃ t c, exec (.pageTimeout l sub rank bg bank) s = .next t ∧
      (t.land l).seq.planNext = (s.land l).seq.planNext ++ [c] ∧ c.cmd = .pre ∧ c.sub = sub.val ∧ c.rank = rank.val ∧ c.bg = bg.val ∧
      c.bank = bank.val ∧ c.edge = k ∧ (t.land l).seq.rowAt sub rank bg bank = none) ∧
    (s.tread < o.used + fld (s.lv l 0x400) 15 8 ∨ own = none → exec (.pageTimeout l sub rank bg bank) s = .next s)) ∧
  (∀ (s : State) (l : LandingId) (sub : Fin 2) (rank : Fin 8) (bg : Fin 8) (bank : Fin 4), fld (s.lv l 0x400) 1 0 ≠ 2 →
    exec (.pageTimeout l sub rank bg bank) s = .next s) ∧
  (∀ (s : State) (l : LandingId) (id : Nat) (a : Access), ((s.land l).seq.hints.find? fun e => e.id == id) = some a →
    (2 ≤ (s.land l).seq.hintPlans id ∨ s.hintStands l a = false →
      ∃ t, exec (.hintDrop l id) s = .next t ∧ (t.land l).seq.hints = (s.land l).seq.hints.filter (fun e => e.id != id) ∧
        (t.land l).seq.rows = (s.land l).seq.rows ∧ ∀ j : LandingId, j ≠ l → t.land j = s.land j) ∧
    ((s.land l).seq.hintPlans id < 2 → s.hintStands l a = true → exec (.hintDrop l id) s = .next s))

/-! ## Sensors and the sideband -/

/-- Sensors and sideband transactions (R220, R304, R312). A reading is kept and clears the slot's failures; the second failed reading in a
row holds 5/01h. A PMIC's warning holds 9/02h until a status without it. A transaction that ends frees its bus and completes its `SBD_XFER`
with the bytes read; one that times out is tried twice more and then fails. -/
def Obligations.SensorsAndSidebandReport : Prop :=
  (∀ (s : State) (l : LandingId) (slot : Fin 2) (m : Module), (s.land l).sbd.moduleAt slot = some m → s.busPaused l = false →
    s.chip.coreOn = true →
    (∀ temp, ∃ t, exec (.thermalRead l slot (some temp)) s = .next t ∧
      (t.land l).sbd.moduleAt slot = some { m with temp := temp } ∧ ((t.land l).mnt.fails[slot.val]?) = some 0) ∧
    (∃ t, exec (.thermalRead l slot none) s = .next t ∧
      ((t.land l).mnt.fails[slot.val]?) = some ((((s.land l).mnt.fails[slot.val]?).getD 0) + 1) ∧
      ((s.land l).mnt.fails[slot.val]? = some 1 → t.flt.levels.contains (sensorRep l slot) = true) ∧
      ((s.land l).mnt.fails[slot.val]? = some 0 → t.flt = s.flt)) ∧
    (∀ (status : W32) (fault : Bool), ∃ t, exec (.pmicStatusRead l slot status true fault) s = .next t ∧
      (t.land l).sbd.moduleAt slot = some { m with pmic := status, pmicBad := true } ∧ t.flt.levels.contains (pmicRep l slot) = true) ∧
    (∀ (status : W32) (fault : Bool), ∃ t, exec (.pmicStatusRead l slot status false fault) s = .next t ∧
      (t.land l).sbd.moduleAt slot = some { m with pmic := status, pmicBad := fault } ∧
      t.flt.levels.contains (pmicRep l slot) = false)) ∧
  (∀ (s : State) (bus : Fin 6) (data : List Byte) (j : SbdJob) (m : MailboxId), s.sbdRunning bus = some j → j.mailbox = some m.val →
    (s.box m).state = .busy → (s.box m).opc = 0x0107 →
    (∃ t, exec (.sidebandTransactionDone bus data) s = .next t ∧ (t.box m).state = .done ∧
      t.box m = (s.box m).finish .ok [] (if ((s.box m).word 2).getLsbD 16 then fitTo (fld ((s.box m).word 3) 10 0) data else []) ∧
      (s.pwr.trans.isSome = true → t.sbdRunning bus = none)) ∧
    (j.tries < 2 → exec (.sidebandTimeout bus) s = .next { s with
      misc := { s.misc with sbdBusy := mapIf (fun e => e.bus = bus.val) (fun e => { e with tries := e.tries + 1 }) s.misc.sbdBusy } }) ∧
    (2 ≤ j.tries → ∃ t, exec (.sidebandTimeout bus) s = .next t ∧ t.box m = (s.box m).finish .failed [] [])) ∧
  (∀ (s : State) (bus : Fin 6) (data : List Byte), s.sbdRunning bus = none →
    exec (.sidebandTransactionDone bus data) s = .next s ∧ exec (.sidebandTimeout bus) s = .next s)

/-! ## Taking commands; the Record Store -/

/-- `COMMAND_TAKE` (R440, R459): firmware takes LBA first; the command is BUSY with its number in the order of taking, or is refused at once
with the first of `BAD_LENGTH`, `UNSUPPORTED` and `DENIED`; nothing rung, nothing taken. -/
def Obligations.FirmwareTakesCommandsInOrder : Prop :=
  (∀ (s : State) (m : MailboxId), s.chip.fwReady = true → s.chip.phase = .out → s.chip.coreOn = true → s.nextBox = some m.val →
    (s.takeRefusal m (s.box m) = none → ∃ t, exec .commandTake s = .next t ∧
      t.box m = { s.box m with state := .busy, started := false, taken := s.misc.takeCount + 1 } ∧
      t.misc.takeCount = s.misc.takeCount + 1 ∧ ∀ k : MailboxId, k ≠ m → t.box k = s.box k) ∧
    (∀ st, s.takeRefusal m (s.box m) = some st → ∃ t, exec .commandTake s = .next t ∧ (t.box m).state = .done ∧
      (t.box m).rsp = ((s.box m).finish st [] []).rsp ∧ t.ports = s.ports ∧ ∀ k : MailboxId, k ≠ m → t.box k = s.box k)) ∧
  (∀ s : State, s.nextBox = none → exec .commandTake s = .next s) ∧
  (∀ s : State, (s.box 8).state = .pending → s.nextBox = some 8) ∧
  (∀ (s : State) (m : MailboxId), 4096 < (s.box m).plen → s.takeRefusal m (s.box m) = some .badLength) ∧
  (∀ (s : State) (m : MailboxId), (s.box m).plen ≤ 4096 → opcodeRow (s.box m).opc = none →
    s.takeRefusal m (s.box m) = some .unsupported)

/-- `RECORD_STORE_COMMIT` (R456, R477): with its check passed the image goes to the bank not taken, which is then the one taken, and a waiting
`RS_COMMIT` has its sequence number; with its check failed the bank taken stays and `RS_COMMIT` ends `FAILED`. -/
def Obligations.RecordStoreCommitsToTheOtherBank : Prop :=
  (∀ s : State, s.chip.fwReady = true → s.store.changed = true → s.store.lastCommit = none →
    (∃ t, exec (.recordStoreCommit true) s = .next t ∧ t.store.changed = false ∧ t.store.lastCommit = some s.now ∧
      t.store.taken = some (s.store.taken == some false) ∧
      (s.store.taken = some false → t.store.bankA = s.store.bankA ∧ t.store.bankB.isSome = true) ∧
      (s.store.taken = some true → t.store.bankB = s.store.bankB ∧ t.store.bankA.isSome = true) ∧
      (∀ m : MailboxId, (s.box m).state = .busy → (s.box m).started = true → (s.box m).opc = 0x0A02 →
        t.box m = (s.box m).finish .ok [t.store.seq] [])) ∧
    (∃ t, exec (.recordStoreCommit false) s = .next t ∧ t.store.taken = s.store.taken ∧
      (s.store.taken = some false → t.store.bankA = s.store.bankA ∧ t.store.bankB = none) ∧
      (s.store.taken = some true → t.store.bankB = s.store.bankB ∧ t.store.bankA = none) ∧
      (∀ m : MailboxId, (s.box m).state = .busy → (s.box m).started = true → (s.box m).opc = 0x0A02 →
        t.box m = (s.box m).finish .failed [] []))) ∧
  (∀ (s : State) (ok : Bool) (t0 : Nat), s.store.lastCommit = some t0 → s.now < t0 + 1000000000 →
    exec (.recordStoreCommit ok) s = .next s)

/-! ## Power transitions -/

/-- `PWR_REQ` (R482 to R484): codes above 4 are ignored; the present state is accepted at once with result 2, another one begins its
transition; one that Halt, an open port or missing firmware forbids is refused with 5 or 6; a request during a transition waits in the pending
slot. -/
def Obligations.PowerRequestsAreTakenOrRefused : Prop :=
  (∀ (s : State) (d : W32), CfgFree s → 4 < fld d 2 0 → exec (.pwrReq ⟨0xF, d⟩) s = .next { s with cfg := cfgOk s }) ∧
  (∀ (s : State) (d : W32), CfgFree s → s.chip.phase = .out → fld d 2 0 ≤ 4 → s.chip.halted = false → s.pwr.trans = none →
    let target := pstateOf (fld d 2 0)
    (target = s.pwr.state → fld d 2 0 ≤ 2 → ∃ t, exec (.pwrReq ⟨0xF, d⟩) s = .next t ∧ t.pwr = { s.pwr with
      resCode := 2, resTarget := target.num, resUnit := 0, resSeq := s.pwr.resSeq + 1 } ∧ t.cfg = cfgOk s) ∧
    (target ≠ s.pwr.state → (target = .p3 → ∀ p : Fin 8, (s.port p).state = .closed) →
      (target = .p3 ∨ target = .p4 → s.chip.fwReady = true) → ∃ t tr, exec (.pwrReq ⟨0xF, d⟩) s = .next t ∧
        t.pwr.trans = some tr ∧ tr.target = target ∧ tr.from_ = s.pwr.state ∧ tr.began = s.now ∧ tr.src = 6 ∧
        t.pwr.state = s.pwr.state ∧ t.pwr.resSeq = s.pwr.resSeq) ∧
    (target = .p3 → (∃ p : Fin 8, (s.port p).state ≠ .closed) → ∃ t, exec (.pwrReq ⟨0xF, d⟩) s = .next t ∧
      t.pwr = { s.pwr with resCode := 6, resTarget := 3, resUnit := 0, resSeq := s.pwr.resSeq + 1 })) ∧
  (∀ (s : State) (d : W32), CfgFree s → s.chip.phase = .out → fld d 2 0 < 4 → s.chip.halted = true →
    ∃ t, exec (.pwrReq ⟨0xF, d⟩) s = .next t ∧ t.pwr = { s.pwr with
      resCode := 5, resTarget := fld d 2 0, resUnit := 0, resSeq := s.pwr.resSeq + 1 }) ∧
  (∀ (s : State) (d : W32) (tr : Transition), CfgFree s → s.chip.phase = .out → fld d 2 0 ≤ 2 → s.chip.halted = false →
    s.pwr.trans = some tr → s.pwr.pend = none → tr.target ≠ pstateOf (fld d 2 0) → ∃ t, exec (.pwrReq ⟨0xF, d⟩) s = .next t ∧
      t.pwr = { s.pwr with pend := some (pstateOf (fld d 2 0)), pendAt := s.now, pendSrc := 6 })

/-- The ends of a transition (R485, R489, R490, R493, R494). An entry ends once every Landing that takes part has done its steps: in P1 with
its ranks in POWER_DOWN and the PHY gated; in P3 with CORE off and the image kept; in P4 with CORE, CP and module power off. The wake ends
with every Landing serving, and waits for them. The legacy handshake asks unit by unit and rolls back at a refusal, which ends with
result 4. -/
def Obligations.TransitionsEndInTheirState : Prop :=
  (∀ (s : State) (tr : Transition), s.pwr.trans = some tr → tr.stage = .drain → s.pwr.pend = none →
    (s.serves.all (s.entered tr.target) = false → exec .powerTransitionDone s = .next s) ∧
    (s.serves.all (s.entered tr.target) = true → ∃ t, exec .powerTransitionDone s = .next t ∧
      (tr.target = .p1 → t.pwr.state = .p1 ∧ t.pwr.trans = none ∧ t.pwr.resCode = 1 ∧
        ∀ l ∈ s.serves, (t.land l).phy.mode = .gated ∧ ∀ e ∈ (s.land l).rankList, (t.land l).seq.pd.contains e = true) ∧
      (tr.target = .p2 → t.pwr.state = .p2 ∧ t.pwr.trans = none ∧ t.pwr.resCode = 1) ∧
      (tr.target = .p3 → s.chip.fwReady = true → (∀ m : MailboxId, (s.box m).state = .idle ∨ (s.box m).state = .done) →
        t.pwr.state = .p3 ∧ t.pwr.image = true ∧ t.chip.coreOn = false ∧ t.pwr.galWas = s.chip.galOn ∧ t.pwr.phyWas = s.chip.phyOn ∧
          t.halls = s.halls ∧ ∀ p : PortId, (t.port p).state = .closed) ∧
      (tr.target = .p4 → t.pwr.state = .p4 ∧ t.chip.coreOn = false ∧ t.chip.cpOn = false ∧ t.chip.pwrEn = false ∧
        t.chip.drstN = Vector.replicate 12 false))) ∧
  (∀ (s : State) (tr : Transition), s.pwr.trans = some tr → tr.stage = .wake →
    (s.serves.all (s.mayServe tr.from_) = false → exec .wakeComplete s = .next s) ∧
    (s.serves.all (s.mayServe tr.from_) = true → tr.from_ = .p1 → tr.target = .p0 → s.pwr.pend = none →
      ∃ u, exec .wakeComplete s = .next (State.pump u) ∧ u.pwr.state = .p0 ∧ u.pwr.trans = none ∧ u.pwr.resCode = 1 ∧
        u.pwr.image = false ∧ ∀ l ∈ s.serves, (u.land l).phy.mode = .active ∧ (u.land l).seq.pd = [])) ∧
  (∀ (s : State) (tr : Transition), s.pwr.trans = some tr →
    (tr.stage = .ask 3 → s.misc.sbdBusy = [] → exec .legacyAsk s = .next { s with
      pwr := { s.pwr with trans := some { tr with stage := .ask 4, agreed := tr.agreed ++ [3], delays := 0 } } }) ∧
    (tr.stage = .ask 3 → s.misc.sbdBusy ≠ [] → tr.delays + 1 ≤ fld s.pwr.leg 15 0 → exec .legacyAsk s = .next { s with
      pwr := { s.pwr with trans := some { tr with delays := tr.delays + 1 } } }) ∧
    (tr.stage = .ask 3 → s.misc.sbdBusy ≠ [] → fld s.pwr.leg 15 0 < tr.delays + 1 → exec .legacyAsk s = .next { s with
      pwr := { s.pwr with trans := some { tr with stage := .rollback, refuser := 3 } } }) ∧
    (tr.stage = .rollback → tr.agreed = [3] → exec .legacyRollbackRestart s = .next { s with
      pwr := { s.pwr with trans := some { tr with agreed := [] } } }) ∧
    (tr.stage = .rollback → tr.agreed = [] → s.pwr.pend = none → ∃ u, exec .legacyRollbackRestart s = .next (State.pump u) ∧
      u.pwr = { s.pwr with trans := none, resCode := 4, resTarget := tr.target.num, resUnit := tr.refuser
                           resSeq := s.pwr.resSeq + 1 }))

/-! ## Tiering and compression -/

/-- The Tier Engine's and the decoder's rows (R24, R380, R382, R384, R388, R399 to R403). A candidate's demotion and a waiting write's
promotion join the Gallery's moves with the page's reads; a switch moves the page's entry and ends the move; unbacking is taken at the next
boundary, when the hall gives up the group; a segment that is complete and has the nearest stamp leaves the fetches, and one that is not
complete waits. -/
def Obligations.TierMovesStartAndSwitch : Prop :=
  (∀ (s : State) (g : GalleryId) (n : HallId) (page : Nat), s.tierRuns = false →
    exec (.tierDemotionStart g n page) s = .next s ∧ exec (.tierPromotionStart g n page) s = .next s ∧
      ∀ group, exec (.tierUnback n group) s = .next s) ∧
  (∀ (s : State) (g : GalleryId) (n : HallId) (page heat : Nat) (h : Hall) (e : PageEntry), s.tierRuns = true → s.hall n = some h →
    h.home page = g.val → page * 4096 < h.bytes → let r := (s.scanLines g n h page).soundEntry h n page
    r.1 = some e → r.2.pageHeat g n page = some heat →
    ∀ region, r.2.regionHeat g h page = some region → r.2.candidate g n h page e heat region = true →
    ∃ t m, exec (.tierDemotionStart g n page) s = .next t ∧ m ∈ (t.gal g).moves ∧ m.demote = true ∧ m.hall = n.val ∧ m.page = page ∧
      m.stamp = beStamp s.now) ∧
  (∀ (s : State) (g : GalleryId) (n : HallId) (page : Nat) (h : Hall) (e : PageEntry), s.tierRuns = true → s.hall n = some h →
    h.home page = g.val → (s.gal g).moves = [] → s.waitingWrites n page ≠ [] → (s.gal g).hot = [] → h.elastic = false →
    h.unbacked = [] →
    (s.moveEntry h n page ((nearest ((s.waitingWrites n page).map (·.1) ++ s.waitingInner n page)).getD (beStamp s.now))).1 = some e →
    e.loc = 2 → ∃ u m, exec (.tierPromotionStart g n page) s = .next (State.pump u) ∧ m ∈ (u.gal g).moves ∧ m.demote = false ∧
      m.write = true ∧ m.hall = n.val ∧ m.page = page ∧ m.poisoned = List.range 64) ∧
  (∀ (s : State) (g : GalleryId) (id : Nat) (m : Move) (h : Hall) (e : PageEntry), s.moveOf g id = some m → m.abandoned = false →
    s.chip.halted = false → s.hall m.hall = some h → (s.moveEntry h m.hall m.page m.stamp).1 = some e →
    (m.demote = true → 0 < m.total → m.written = m.total → e.loc ≠ 2 → ∃ u, exec (.tierDemotionSwitch g id) s = .next (State.pump u) ∧
      (∀ x ∈ (u.gal g).moves, x.id ≠ id) ∧
      ∃ w ∈ u.away, w.hall = m.hall ∧ w.page = m.page ∧ w.loc = 1 ∧ w.frame = m.frame ∧ w.start = m.start ∧ w.count = m.count) ∧
    (m.demote = false → m.total = 64 → m.written = 64 → m.toFrame = false →
      ∃ u, exec (.tierPromotionSwitch g id) s = .next (State.pump u) ∧ (∀ x ∈ (u.gal g).moves, x.id ≠ id) ∧
        ∀ w ∈ u.away, ¬ (w.hall = m.hall ∧ w.page = m.page))) ∧
  (∀ (s : State) (g : GalleryId) (id : Nat), s.chip.halted = true →
    exec (.tierDemotionSwitch g id) s = .next s ∧ exec (.tierPromotionSwitch g id) s = .next s ∧
      exec (.segmentDecode g id) s = .next s) ∧
  (∀ (s : State) (n : HallId) (h : Hall) (group : Nat), s.hall n = some h → s.tierRuns = true → s.mayUnback n h group = true →
    exec (.tierUnback n group) s = .next { s with misc := { s.misc with deferred := s.misc.deferred ++ [.unback n group] } } ∧
      (s.unback n group).hall n = some { h with unbacked := h.unbacked ++ [group] }) ∧
  (∀ (s : State) (g : GalleryId) (id : Nat) (f : SegFetch), s.segOf g id = some f → s.chip.halted = false →
    (f.lines.length < f.need → exec (.segmentDecode g id) s = .next (State.pump s)) ∧
    (f.need ≤ f.lines.length → (∀ x ∈ (s.gal g).segs, x.id ≠ id → x.need ≤ x.lines.length →
      nearer x.stamp f.stamp = false ∧ (x.stamp = f.stamp → id ≤ x.id)) → ∃ u, exec (.segmentDecode g id) s = .next (State.pump u) ∧ ∀ x ∈ (u.gal g).segs, x.id ≠ id))

/-! ## Halls -/

/-- The completions of hall commands and of a repair (R118 to R120, R264). A created hall is ready, with deadline mode on its members if it
allows deadlines; a grown or shrunk hall has its new size; a released one is gone and its epoch has advanced; the command that waits completes
`OK`. While presented zero lines of the metadata are out, a creation or growth waits (R118, R119; log entry 26). A repair whose row has been
programmed writes its lines back through staging (R25); a row that stays fenced takes none, and `PPR_RUN` ends with how long the bank was
held. -/
def Obligations.HallWorkCompletesItsCommand : Prop :=
  (∀ (s : State) (n : HallId) (h : Hall) (m : MailboxId), s.hall n = some h → s.runner 0x0402 n = some m.val → h.phase = .creating →
    h.metaOut = [] → s.chip.halted = false → ∃ u, exec (.hallCreateZeroed n) s = .next (State.pump u) ∧ u.hall n = some { h with phase := .ready } ∧
      u.box m = (s.box m).finish .ok [at_ 0 (s.epoch n)] [] ∧ u.store.changed = true ∧
      (h.dl = true → ∀ l ∈ h.members, (u.lw l 0).getLsbD 0 = true)) ∧
  (∀ (s : State) (n : HallId) (h : Hall) (m : MailboxId) (g : Nat), s.hall n = some h → s.runner 0x0403 n = some m.val →
    s.chip.halted = false →
    (h.phase = .growing g → h.metaOut = [] → ∃ u x, exec (.hallGrowZeroed n) s = .next (State.pump u) ∧ u.hall n = some x ∧ x.size = g ∧
      x.phase = .ready ∧ x.ext = h.ext ∧ x.w = h.w ∧ u.box m = (s.box m).finish .ok [] []) ∧
    (h.phase = .shrinking g → s.hallBusy n h (g * granuleBytes) (h.beyondSize g) = false →
      ∃ u x, exec (.hallShrinkDone n) s = .next (State.pump u) ∧ u.hall n = some x ∧ x.size = g ∧ x.phase = .ready ∧
        x.w ≤ g * granuleBytes ∧ u.box m = (s.box m).finish .ok [] [] ∧
        ∀ e ∈ u.away, ¬ (e.hall = n.val ∧ g * granuleBytes ≤ e.page * 4096)) ∧
    (h.phase = .shrinking g → s.hallBusy n h (g * granuleBytes) (h.beyondSize g) = true →
      exec (.hallShrinkDone n) s = .next (State.pump s)) ∧
    (h.metaOut ≠ [] → exec (.hallGrowZeroed n) s = .next (State.pump s) ∧ exec (.hallCreateZeroed n) s = .next (State.pump s))) ∧
  (∀ (s : State) (n : HallId) (h : Hall) (m : MailboxId), s.hall n = some h → s.runner 0x0404 n = some m.val → h.phase = .releasing →
    s.chip.halted = false → s.hallBusy n h 0 h.allGranules = false → ∃ u, exec (.hallReleaseDrained n) s = .next (State.pump u) ∧
      u.hall n = none ∧ u.epoch n = (s.epoch n + 1) % 65536 ∧ u.box m = (s.box m).finish .ok [at_ 0 ((s.epoch n + 1) % 65536)] [] ∧
      (∀ e ∈ u.away, e.hall ≠ n.val) ∧ u.store.changed = true) ∧
  (∀ (s : State) (l : LandingId) (ok : Bool) (hold : Nat) (r : Repair) (m : MailboxId), s.repairOf l = some r → r.mailbox = m.val →
    (s.land l).seq.geom.rowLines ≤ r.staged.length → r.back = none → s.chip.halted = false →
    let s1 := if ok then s.liftRow l r.coord else s
    (s1.writeBarred l r.coord = true → ∃ u, exec (.pprProgramDone l ok hold) s = .next (State.pump u) ∧ u.repairOf l = none ∧
      u.box m = (s1.box m).finish (if ok then .ok else .failed) [BitVec.ofNat 32 hold] [] ∧
      ∀ e ∈ (u.land l).seq.lockTable, e.cause ≠ .repair) ∧
    (s1.writeBarred l r.coord = false → ∃ u r', exec (.pprProgramDone l ok hold) s = .next (State.pump u) ∧ u.repairOf l = some r' ∧
      r'.back = some (ok, hold) ∧ r'.left = r.staged.map (·.1) ∧ (ok = false → u.boxes = s.boxes) ∧
      ∀ e ∈ r.staged, ∃ a ∈ (u.land l).arb.staging, a.op = .write ∧ a.client = .ppr ∧ a.addr = e.1 ∧ a.stored = e.2.1 ∧
        a.poison = e.2.2))

/-! ## The Amiom commands -/

/-- The Amiom commands with their opcodes (R468 to R477). -/
def Sys2Proof.Slice.amiomRows (m : MailboxId) (spare : Bool) (found : List FoundModule) : List (Instr × Nat) :=
  [ (.queryCaps m, 0x0001), (.bringup m, 0x0002), (.claim m, 0x0003), (.release m, 0x0004), (.portOpen m, 0x0101)
  , (.portClose m, 0x0102), (.discover m found, 0x0103), (.landingStart m, 0x0104), (.landingQuery m, 0x0105)
  , (.moduleQuery m, 0x0106), (.sbdXfer m, 0x0107), (.dmaBind m, 0x0108), (.debugSelect m, 0x0109), (.arbSet m, 0x0201)
  , (.seqSet m, 0x0202), (.timingSet m, 0x0203), (.mntSet m, 0x0204), (.eccSet m, 0x0205), (.calSet m, 0x0206)
  , (.cmpSet m, 0x0207), (.tierSet m, 0x0208), (.calRun m, 0x0301), (.calSave m, 0x0302), (.calRestore m, 0x0303) ] ++
  [ (.kekLoad m, 0x0401), (.hallCreate m, 0x0402), (.hallResize m, 0x0403), (.hallRelease m, 0x0404), (.hallQuery m, 0x0405)
  , (.hallKeyLoad m, 0x0406), (.windowAdd m, 0x0407), (.windowRemove m, 0x0408), (.tierPool m, 0x0501), (.eccDeclare m, 0x0601)
  , (.pprRun m spare, 0x0602), (.scrubSet m, 0x0603), (.pwrCfg m, 0x0701), (.fltRead m, 0x0801), (.fltClear m, 0x0802)
  , (.fltCfg m, 0x0803), (.cntCfg m, 0x0901), (.cntUser m, 0x0902), (.rsRead m, 0x0A01), (.rsCommit m, 0x0A02), (.rsDrop m, 0x0A03) ]

/-- A mailbox holds a command of opcode `opc`, taken and not begun, and firmware may begin it. -/
abbrev Sys2Proof.Slice.Waits (s : State) (m : MailboxId) (opc : Nat) : Prop :=
  (s.box m).state = .busy ∧ (s.box m).started = false ∧ (s.box m).opc = opc ∧ s.chip.fwReady = true ∧ s.mayStart m = true

/-- What every Amiom command meets before its own rules (R459, R462, R463, R468): not taken, held back by another holder of its objects, or
without firmware it changes nothing; in Halt those that do not work there end `HALTED`; those that need DRAM end `BAD_STATE` outside P0 or
with a power request pending. -/
def Obligations.CommandsBeginOnlyWhenTheyMay : Prop :=
  ∀ (s : State) (m : MailboxId) (spare : Bool) (found : List FoundModule), ∀ e ∈ amiomRows m spare found,
    (¬ Waits s m e.2 → exec e.1 s = .next s) ∧
    (Waits s m e.2 → s.chip.halted = true → worksInHalt.contains e.2 = false →
      exec e.1 s = .next { s with boxes := boxesDone s m .halted [] [] }) ∧
    (Waits s m e.2 → s.chip.halted = false → [0x0402, 0x0403, 0x0404, 0x0103, 0x0104, 0x0301, 0x0602, 0x0501, 0x0406].contains e.2 = true →
      ¬ Awake s → exec e.1 s = .next { s with boxes := boxesDone s m .badState [] [] })

/-- Mailbox `m` answered, and what waits on the ports, DMA and moves goes on. -/
def Sys2Proof.Slice.answered (s : State) (m : MailboxId) (st : AStatus) (res : List W32) (pay : List Byte) : State :=
  State.pump { s with boxes := boxesDone s m st res pay }

/-- General, claim, port, DMA and debug commands (R9, R91, R95, R96, R125, R412, R465, R469, R478, R479). A port that closes keeps its BPP
sequences until its requests are answered (R96; log entry 90, DEDUCED). -/
def Obligations.GeneralCommandsHaveTheirEffect : Prop :=
  (∀ (s : State) (m : MailboxId), Begins s m 0x0001 → exec (.queryCaps m) s = .next (answered s m .ok
    [ at_ 0 4 ||| at_ 16 Config.firmwareVersion.toNat, s.chip.imageVersion, s.caps, at_ 0 Config.features.toNat, 1024, 4096 ] [])) ∧
  (∀ (s : State) (m : MailboxId), Begins s m 0x0002 → exec (.bringup m) s = .next (State.pump { s with
    misc := { s.misc with deferred := s.misc.deferred ++ [.bringup (((s.box m).word 2).getLsbD 0), .done m (s.box m).taken []] }
    boxes := boxesOn s m })) ∧
  (∀ (s : State) (m : MailboxId), Begins s m 0x0003 →
    (s.claimNamed ((s.box m).word 2) = none → exec (.claim m) s = .next (answered s m .badParam [] [])) ∧
    (∀ res which c, s.claimNamed ((s.box m).word 2) = some (res, which) → s.claimOf res which = some c → c.holder ≠ m →
      (res = 0 → fld ((s.box m).word 3) 3 0 ≤ 5) → (res = 2 → fld ((s.box m).word 3) 3 0 ≠ 0) →
      exec (.claim m) s = .next (answered s m .resourceBusy [c.held] [])) ∧
    (∀ res which, s.claimNamed ((s.box m).word 2) = some (res, which) → s.claimOf res which = none → res ≠ 2 →
      (res = 0 → fld ((s.box m).word 3) 3 0 ≤ 5) → exec (.claim m) s = .next (answered { s with
        misc := { s.misc with claims := s.misc.claims ++
          [{ res := res, which := which, param := fld ((s.box m).word 3) 3 0, holder := m }] } } m .ok [0] [])) ∧
    (∀ which, s.claimNamed ((s.box m).word 2) = some (2, which) → let share := fld ((s.box m).word 3) 3 0
      (share = 0 → exec (.claim m) s = .next (answered s m .badParam [] [])) ∧
      (s.claimOf 2 which = none → share ≠ 0 → s.sharesBut which + share ≤ 16 → exec (.claim m) s = .next (answered { s with
        misc := { s.misc with claims := s.misc.claims ++ [{ res := 2, which := which, param := share, holder := m }] } } m .ok [0] [])) ∧
      (s.claimOf 2 which = none → share ≠ 0 → 16 < s.sharesBut which + share →
        exec (.claim m) s = .next (answered s m .noSpace [0] [])))) ∧
  (∀ (s : State) (m : MailboxId), Begins s m 0x0004 →
    (∀ res which, s.claimNamed ((s.box m).word 2) = some (res, which) → s.claimOf res which = none →
      exec (.release m) s = .next (answered s m .badState [] [])) ∧
    (∀ which c, s.claimNamed ((s.box m).word 2) = some (1, which) → s.claimOf 1 which = some c → c.holder = m →
      exec (.release m) s = .next (answered { s with
        misc := { s.misc with claims := s.misc.claims.filter fun e => !(e.res == 1 && e.which == which) } } m .ok [] [])) ∧
    (∀ res which c, s.claimNamed ((s.box m).word 2) = some (res, which) → s.claimOf res which = some c → c.holder ≠ m → m.val ≠ 8 →
      exec (.release m) s = .next (answered s m .badState [] []))) ∧
  (∀ (s : State) (m : MailboxId) (p : PortId), Begins s m 0x0101 → fld ((s.box m).word 2) 2 0 = p.val →
    ((s.port p).state ≠ .closed → exec (.portOpen m) s = .next (answered s m .badState [] [])) ∧
    ((s.port p).state = .closed → s.portFence p = none → exec (.portOpen m) s = .next (answered { s with
      ports := s.ports.setIfInBounds p ({ Port.reset with
        state := .opened, ordered := ((s.box m).word 2).getLsbD 8, req := 2048, wrq := 1536, faults := (s.port p).faults } : Port) }
      m .ok [] []))) ∧
  (∀ (s : State) (m : MailboxId) (p : PortId), Begins s m 0x0102 → fld ((s.box m).word 2) 2 0 = p.val →
    ((s.port p).state = .closed → exec (.portClose m) s = .next (answered s m .badState [] [])) ∧
    ((s.port p).state = .opened → ∃ u, exec (.portClose m) s = .next (State.pump u) ∧ u.boxes = boxesOn s m ∧
      (u.port p).state = .closing ∧ (u.port p).seqs = (s.port p).seqs ∧ u.halls = s.halls ∧ u.dma = s.dma) ∧
    ((s.port p).state = .closing → exec (.portClose m) s = .next (State.pump { s with boxes := boxesOn s m }))) ∧
  (∀ (s : State) (m : MailboxId) (n : ChannelId), Begins s m 0x0108 → fld ((s.box m).word 2) 2 0 = n.val →
    ((s.ch n).state = .idle ∨ (s.ch n).state = .parked ∨ (s.ch n).state = .stopped ∨ (s.ch n).state = .error →
      exec (.dmaBind m) s = .next (answered { s with
        dma := s.dma.setIfInBounds n ({ s.ch n with
          bind := if ((s.box m).word 2).getLsbD 16 then none else some (fld ((s.box m).word 2) 10 8, fld ((s.box m).word 2) 15 12) } : Dma) }
        m .ok [] [])) ∧
    ((s.ch n).state = .running ∨ (s.ch n).state = .stopping ∨ (s.ch n).state = .halted ∨ (s.ch n).state = .resetting →
      exec (.dmaBind m) s = .next (answered s m .resourceBusy [] []))) ∧
  (∀ (s : State) (m : MailboxId), Begins s m 0x0109 →
    (((s.box m).word 2).getLsbD 31 = true → exec (.debugSelect m) s = .next (answered { s with
      misc := { s.misc with deferred := s.misc.deferred ++ [.debugSelect none] } } m .ok [] [])) ∧
    (((s.box m).word 2).getLsbD 31 = false → s.hallStands (fld ((s.box m).word 2) 9 0) = true →
      exec (.debugSelect m) s = .next (answered { s with
        misc := { s.misc with deferred := s.misc.deferred ++ [.debugSelect (some (fld ((s.box m).word 2) 9 0))] } } m .ok [] [])) ∧
    (((s.box m).word 2).getLsbD 31 = false → s.hallStands (fld ((s.box m).word 2) 9 0) = false →
      exec (.debugSelect m) s = .next (answered s m .notFound [] [])))

/-- Discovery, queries and the sideband's raw transactions (R305, R313, R462, R469, R470). -/
def Obligations.DiscoveryAndQueriesAnswer : Prop :=
  (∀ (s : State) (m : MailboxId) (found : List FoundModule), Begins s m 0x0103 → Awake s →
    (s.misc.discovery.done = true → exec (.discover m found) s = .next (answered s m .badState [] [])) ∧
    (s.misc.discovery.done = false → fld ((s.box m).word 2) 15 0 ≠ 0 → isBin (fld ((s.box m).word 2) 15 0) = false →
      exec (.discover m found) s = .next (answered s m .badParam [] [])) ∧
    (s.misc.discovery.done = false → fld ((s.box m).word 2) 15 0 = 0 ∨ isBin (fld ((s.box m).word 2) 15 0) = true →
      ∃ u, exec (.discover m found) s = .next (State.pump u) ∧ ((u.box m).state = .done ∨ (u.box m).started = true) ∧
        ∀ l : LandingId, l.val < s.nLand → (s.land l).sbd.started = false → (u.land l).sbd.reached = true)) ∧
  (∀ (s : State) (m : MailboxId), Begins s m 0x0104 → Awake s →
    ((∀ l : LandingId, ((s.box m).word 2).getLsbD l = true → (s.land l).sbd.hold = true) →
      ∃ u, exec (.landingStart m) s = .next (State.pump u) ∧ ∀ l : LandingId, ((s.box m).word 2).getLsbD l = true →
        (u.land l).sbd.hold = false ∧ ((u.land l).cal.state = 1 ∨ (u.land l).cal.state = 5)) ∧
    ((∃ l : LandingId, ((s.box m).word 2).getLsbD l = true ∧ (s.land l).sbd.hold = false) →
      exec (.landingStart m) s = .next (answered s m .badState [] []))) ∧
  (∀ (s : State) (m : MailboxId) (l : Fin 16), Begins s m 0x0105 → fld ((s.box m).word 2) 3 0 = l.val →
    (s.nLand ≤ l.val → exec (.landingQuery m) s = .next (answered s m .badParam [] [])) ∧
    (l.val < s.nLand → ∃ res, exec (.landingQuery m) s = .next (answered s m .ok res []) ∧ res.length = 8 ∧
      res[2]? = some ((s.seen m).land l).sbd.word ∧ res[5]? = some (BitVec.ofNat 32 ((s.seen m).passTime l)) ∧
      res[6]? = some (BitVec.ofNat 32 ((s.seen m).freeGranules l).length) ∧
      res[7]? = some (BitVec.ofNat 32 ((s.seen m).heldGranules l)))) ∧
  (∀ (s : State) (m : MailboxId), Begins s m 0x0106 →
    let x := ((s.seen m).land (fld ((s.box m).word 2) 3 0)).sbd.moduleAt (fld ((s.box m).word 2) 4 4)
    (x = none → exec (.moduleQuery m) s = .next (answered s m .notFound [] [])) ∧
    (∀ y, x = some y → exec (.moduleQuery m) s = .next (answered s m .ok
      [at_ 0 y.temp, y.pmic, at_ 0 (b2n y.hintUsed) ||| at_ 1 (b2n y.hintWritten) ||| at_ 2 (b2n y.hintWp)] (fitTo 1024 y.spd.raw)))) ∧
  (∀ (s : State) (m : MailboxId), Begins s m 0x0107 →
    let bus := fld ((s.box m).word 2) 2 0
    let rd := ((s.box m).word 2).getLsbD 16
    let n := fld ((s.box m).word 3) 10 0
    let good := 2 * bus < s.nLand ∧ 0 < n ∧ (rd = true → n ≤ 1024) ∧ (rd = false → n ≤ 16 ∧ (s.box m).plen = n)
    (s.chip.bringup = false → exec (.sbdXfer m) s = .next (answered s m .badState [] [])) ∧
    (s.chip.bringup = true → ¬ good → exec (.sbdXfer m) s = .next (answered s m .badParam [] [])) ∧
    (s.chip.bringup = true → good → ∃ u j, exec (.sbdXfer m) s = .next (State.pump u) ∧ u.boxes = boxesOn s m ∧
      j ∈ u.misc.sbdBusy ++ u.misc.sbdQueue ∧ j.mailbox = some m.val ∧ j.bus = bus ∧ j.prio = 2 ∧ j.tries = 0 ∧
      j.data = (if rd then [] else (s.box m).payload)))

/-- The register-setting commands with their opcodes, whether they name Galleries, and the registers of their prefix. -/
def Sys2Proof.Slice.setRows (m : MailboxId) : List (Instr × Nat × Bool × (Nat → Bool)) :=
  [ (.arbSet m, 0x0201, false, arbNames), (.seqSet m, 0x0202, false, seqNames), (.timingSet m, 0x0203, false, timingNames)
  , (.mntSet m, 0x0204, false, mntNames), (.calSet m, 0x0206, false, calNames), (.eccSet m, 0x0205, true, eccNames)
  , (.cmpSet m, 0x0207, true, cmpNames), (.tierSet m, 0x0208, true, tierNames) ]

/-- The register-setting commands (R466, R467). An offset outside the prefix or a mask outside the fields is `BAD_PARAM`, a target absent or
not discovered `BAD_STATE`, a value that a target's own rules refuse `BAD_PARAM`; nothing is written then. Else every target holds the word
under the mask, and the command completes at the next boundary. -/
def Obligations.SettingCommandsWriteEveryTarget : Prop :=
  ∀ (s : State) (m : MailboxId), ∀ e ∈ setRows m, Begins s m e.2.1 →
    let off := fld ((s.box m).word 3) 15 0
    let v := (s.box m).word 4
    let mask := (s.box m).word 5
    let gal := e.2.2.1
    let ts := (List.range (if gal then 3 else 12)).filter fun t => ((s.box m).word 2).getLsbD t
    let fits := e.2.2.2 off = true ∧ mask &&& ~~~(if gal then galMask off else landMask off) = 0
    (¬ fits → exec e.1 s = .next (answered s m .badParam [] [])) ∧
    (fits → (∃ t ∈ ts, s.setTarget gal t = false) → exec e.1 s = .next (answered s m .badState [] [])) ∧
    (fits → (∀ t ∈ ts, s.setTarget gal t = true) →
      ((∃ t ∈ ts, (s.setNew gal t off v mask).2 = false ∨ s.setRefused e.2.1 t off mask (s.setNew gal t off v mask).1 = true) →
        exec e.1 s = .next (answered s m .badParam [] [])) ∧
      ((∀ t ∈ ts, (s.setNew gal t off v mask).2 = true ∧ s.setRefused e.2.1 t off mask (s.setNew gal t off v mask).1 = false) →
        (∀ l, Rising (s.land l).page.regs) → (∀ g, Rising (s.gal g).page.regs) →
        ∃ u w, exec e.1 s = .next (State.pump u) ∧ u.boxes = boxesOn s m ∧
          u.misc.deferred = s.misc.deferred ++ [.done m (s.box m).taken [w]] ∧
          (∀ t ∈ ts, gal = false → u.lw t off = mergeMask mask (s.lw t off) v) ∧
          (∀ t ∈ ts, gal = true → u.gw t off = mergeMask mask (s.gw t off) v)))

/-- The commands of calibration, ECC, repair and scrub (R237, R260, R263, R334, R344, R346, R471, R475, R476). -/
def Obligations.CalibrationAndEccCommandsHaveTheirEffect : Prop :=
  (∀ (s : State) (m : MailboxId), Begins s m 0x0301 → Awake s →
    let w := (s.box m).word 2
    let ms := fld ((s.box m).word 3) 9 0
    (ms < 1 ∨ 1000 < ms → exec (.calRun m) s = .next (answered s m .badParam [] [])) ∧
    (1 ≤ ms → ms ≤ 1000 → (∃ l : LandingId, w.getLsbD l = true ∧ (s.land l).sbd.started = false) →
      exec (.calRun m) s = .next (answered s m .badState [] [])) ∧
    (1 ≤ ms → ms ≤ 1000 → (∀ l : LandingId, w.getLsbD l = true → (s.land l).sbd.started = true) → w.getLsbD 16 = false →
      ∃ u, exec (.calRun m) s = .next (State.pump u) ∧ ∀ l : LandingId, w.getLsbD l = true →
        (s.landFenced l = true → (u.land l).cal.outcome = some 3) ∧
        (s.calBlock l = none → (s.land l).cal.run = none → (s.land l).cal.staged = none →
          ∃ r, (u.land l).cal.run = some r ∧ r.margin = false))) ∧
  (∀ (s : State) (m : MailboxId) (l : LandingId), Begins s m 0x0302 → fld ((s.box m).word 2) 3 0 = l.val →
    ((s.land l).sbd.started = false → exec (.calSave m) s = .next (answered s m .badState [] [])) ∧
    ((s.land l).sbd.started = true → ((s.box m).word 2).getLsbD 8 = false →
      exec (.calSave m) s = .next (answered s m .ok [] (s.calRecord l (fld ((s.box m).word 2) 4 4))))) ∧
  (∀ (s : State) (m : MailboxId) (l : LandingId) (sub : Fin 2), Begins s m 0x0303 → numAt (s.box m).payload 5 1 = l.val →
    numAt (s.box m).payload 6 1 = sub.val →
    let fits := l.val < s.nLand ∧ (s.land l).sbd.reached = true ∧ (s.land l).sbd.started = false ∧ (s.land l).seq.lstate = .sr ∧
      s.recordOk l sub (s.box m).payload = true
    (¬ fits → exec (.calRestore m) s = .next (answered s m .badParam [] [])) ∧
    (fits → exec (.calRestore m) s = .next (answered { s with
      landings := s.landings.setIfInBounds l
        ({ s.land l with cal := { (s.land l).cal with held := (s.land l).cal.held.setIfInBounds sub (some (s.box m).payload) } } : Landing) }
      m .ok [] []))) ∧
  (∀ (s : State) (m : MailboxId) (l : LandingId), Begins s m 0x0601 → fld ((s.box m).word 2) 3 0 = l.val →
    let w := (s.box m).word 2
    let g := (s.land l).seq.geom
    let fits := l.val < s.nLand ∧ g.valid = true ∧ fld w 10 8 < g.ranks ∧ fld w 15 12 ≤ (if g.x8 then 4 else 9)
    let old := s.erased l { sub := fld w 4 4, rank := fld w 10 8, bg := 0, bank := 0, row := 0, col := 0 }
    (¬ fits → exec (.eccDeclare m) s = .next (answered s m .badParam [] [])) ∧
    (fits → old = none → exec (.eccDeclare m) s = .next (answered { s with
      misc := { s.misc with deferred := s.misc.deferred ++ [.declare l (fld w 4 4) (fld w 10 8) (fld w 15 12)] } }
      m .ok [if g.x8 then 1 else 0] []))) ∧
  (∀ (s : State) (m : MailboxId) (spare : Bool) (l : LandingId), Begins s m 0x0602 → Awake s → fld ((s.box m).word 2) 3 0 = l.val →
    let c := (s.box m).repairCoord
    let bad := s.badRepair l c (fld ((s.box m).word 4) 3 0) (((s.box m).word 2).getLsbD 31) spare
    ((s.land l).sbd.started = false → exec (.pprRun m spare) s = .next (answered s m .badState [] [])) ∧
    ((s.land l).sbd.started = true → bad = true → exec (.pprRun m spare) s = .next (answered s m .badParam [] [])) ∧
    ((s.land l).sbd.started = true → bad = false → s.claimOf 1 l = none → s.repairOf l = none → s.landFenced l = false →
      ∃ u r, exec (.pprRun m spare) s = .next (State.pump u) ∧ u.boxes = boxesOn s m ∧ u.repairOf l = some r ∧ r.coord = c ∧
        r.mailbox = m.val ∧ r.staged = [] ∧ u.misc.claims = s.misc.claims ++ [{ res := 1, which := l, param := 0, holder := 15 }])) ∧
  (∀ (s : State) (m : MailboxId), Begins s m 0x0603 →
    let w := (s.box m).word 2
    let hours := fld ((s.box m).word 3) 31 16
    (hours < 1 ∨ 8760 < hours → exec (.scrubSet m) s = .next (answered s m .badParam [] [])) ∧
    (1 ≤ hours → hours ≤ 8760 → (∀ l : LandingId, w.getLsbD l = true → l.val < s.nLand) →
      ∃ u res, exec (.scrubSet m) s = .next (State.pump u) ∧ u.box m = (s.box m).finish .ok res [] ∧ res.length = 12 ∧
        ∀ l : LandingId, (w.getLsbD l = true → (u.land l).mnt.passHours = hours ∧
          (((s.box m).word 3).getLsbD 0 = true → (u.lw l 0x600).getLsbD 5 = true)) ∧
          (w.getLsbD l = false → u.land l = s.land l)))

/-- Keys and halls (R118 to R120, R361 to R363, R472 to R474): what each command refuses, and the hall, key or work that it leaves. -/
def Obligations.HallCommandsHaveTheirEffect : Prop :=
  (∀ (s : State) (m : MailboxId), Begins s m 0x0401 →
    (s.misc.kekLock = true → exec (.kekLoad m) s = .next (answered s m .resourceBusy [] [])) ∧
    (s.misc.kekLock = false → (s.box m).plen ≠ 32 → exec (.kekLoad m) s = .next (answered s m .badParam [] [])) ∧
    (s.misc.kekLock = false → (s.box m).plen = 32 → exec (.kekLoad m) s = .next (answered { s with
      misc := { s.misc with kek := some (s.box m).payload, kekLock := ((s.box m).word 2).getLsbD 0 } } m .ok [] []))) ∧
  (∀ (s : State) (m : MailboxId), Begins s m 0x0402 → Awake s →
    let n := fld ((s.box m).word 2) 9 0
    let g := fld ((s.box m).word 4) 15 0
    let h := newHall (BitVec.ofNat 12 (fld ((s.box m).word 3) 11 0)) ((s.box m).word 5)
    let k := h.members.length
    (∀ x, s.hall n = some x → exec (.hallCreate m) s = .next (answered s m
      (if x.phase = .releasing ∨ (s.runner 0x0404 n).isSome = true then .resourceBusy else .badState) [] [])) ∧
    (s.hall n = none → s.badProperties h g ((s.box m).word 5) (s.box m).plen = true →
      exec (.hallCreate m) s = .next (answered s m .badParam [] [])) ∧
    (s.hall n = none → s.badProperties h g ((s.box m).word 5) (s.box m).plen = false →
      (s.roomFor h.members (perLanding h.integ h.cmp g k) (perCommit h.integ h.cmp h.elastic g k) = false →
        exec (.hallCreate m) s = .next (answered s m .noSpace [] [])) ∧
      (s.roomFor h.members (perLanding h.integ h.cmp g k) (perCommit h.integ h.cmp h.elastic g k) = true →
        (s.heatFor { h with heatSize := g } = none → exec (.hallCreate m) s = .next (answered s m .noSpace [] [])) ∧
        (s.heatFor { h with heatSize := g } ≠ none → ∃ u, exec (.hallCreate m) s = .next (State.pump u) ∧
          match (if h.enc then s.unwrap (s.box m).payload else some []) with
          | none => u.boxes = boxesDone s m .badKey [] [] ∧ u.halls = s.halls
          | some key => u.boxes = boxesOn s m ∧ ∃ x, u.hall n = some x ∧ x.phase = .creating ∧ x.size = g ∧ x.set = h.set ∧ x.w = 0 ∧
              x.enc = h.enc ∧ x.integ = h.integ ∧ x.cmp = h.cmp ∧ x.elastic = h.elastic ∧ x.dl = h.dl ∧ x.keyLoaded = true ∧ x.ext.length = k ∧
              (h.enc = true → x.key = key ∧ x.check = keyCheck key))))) ∧
  (∀ (s : State) (m : MailboxId), Begins s m 0x0403 → Awake s →
    let n := fld ((s.box m).word 2) 9 0
    let g := fld ((s.box m).word 3) 15 0
    (s.hallStands n = false → exec (.hallResize m) s = .next (answered s m .notFound [] [])) ∧
    (∀ h, s.hallStands n = true → s.hall n = some h → h.phase ≠ .releasing →
      (g < h.members.length → exec (.hallResize m) s = .next (answered s m .badParam [] [])) ∧
      (h.members.length ≤ g → g % max 1 h.members.length = 0 → h.size < g → s.windowClash n g = false →
        let k := h.members.length
        let t := State.setSteps { s with halls := putN s.halls n h.settled } h.members
        let room := t.roomFor h.members (perLanding h.integ h.cmp g k - perLanding h.integ h.cmp h.size k)
          (perCommit h.integ h.cmp h.elastic g k - perCommit h.integ h.cmp h.elastic h.size k)
        let heat := decide (h.heatSize < g) && (t.heatFor { h.settled with heatSize := g }).isNone
        (room = false ∨ heat = true → exec (.hallResize m) s = .next (answered t m .noSpace [] [])) ∧
        (room = true → heat = false →
          ∃ u x, exec (.hallResize m) s = .next (State.pump u) ∧ u.boxes = boxesOn s m ∧ u.hall n = some x ∧ x.phase = .growing g ∧
            x.size = h.size ∧ x.w = h.w)) ∧
      (h.members.length ≤ g → g % max 1 h.members.length = 0 →
        let t := State.setSteps { s with halls := putN s.halls n h.settled } h.members
        (g < h.size → exec (.hallResize m) s = .next (State.pump { t with
          misc := { t.misc with deferred := t.misc.deferred ++ [.shrink n g] }, boxes := boxesOn t m })) ∧
        (g = h.size → exec (.hallResize m) s = .next (answered t m .ok [] []))))) ∧
  (∀ (s : State) (m : MailboxId), Begins s m 0x0404 → Awake s →
    let n := fld ((s.box m).word 2) 9 0
    (s.hall n = none → exec (.hallRelease m) s = .next (answered s m .notFound [] [])) ∧
    (s.hall n ≠ none → exec (.hallRelease m) s = .next (State.pump { s with
      misc := { s.misc with deferred := s.misc.deferred ++ [.releaseWindows n] }, boxes := boxesOn s m }))) ∧
  (∀ (s : State) (m : MailboxId), Begins s m 0x0405 →
    let n := fld ((s.box m).word 2) 9 0
    ((s.seen m).hallStands n = false → exec (.hallQuery m) s = .next (answered s m .notFound [] [])) ∧
    (∀ h, (s.seen m).hallStands n = true → (s.seen m).hall n = some h →
      ∃ res pay, exec (.hallQuery m) s = .next (answered s m .ok res pay) ∧ res.length = 9 ∧ res[1]? = some (at_ 0 h.set.toNat) ∧
        res[2]? = some (at_ 0 h.size) ∧ res[3]? = some h.attrs ∧ res[4]? = some (at_ 0 ((s.seen m).epoch n)))) ∧
  (∀ (s : State) (m : MailboxId), Begins s m 0x0406 → Awake s →
    let n := fld ((s.box m).word 2) 9 0
    (s.hallStands n = false → exec (.hallKeyLoad m) s = .next (answered s m .notFound [] [])) ∧
    (∀ h, s.hallStands n = true → s.hall n = some h →
      (h.enc = false ∨ h.keyLoaded = true → exec (.hallKeyLoad m) s = .next (answered s m .badState [] [])) ∧
      (h.enc = true → h.keyLoaded = false → (s.box m).plen ≠ 104 → exec (.hallKeyLoad m) s = .next (answered s m .badParam [] [])) ∧
      (h.enc = true → h.keyLoaded = false → (s.box m).plen = 104 →
        exec (.hallKeyLoad m) s = .next (match s.unwrap (s.box m).payload with
          | none => answered s m .badKey [] []
          | some key => if keyCheck key ≠ h.check then answered s m .badKey [] [] else answered { s with
              halls := putN s.halls n { h with key := key, keyLoaded := true }
              misc := { s.misc with deferred := s.misc.deferred ++ [.activateHall n] } } m .ok [] []))))

/-- Windows and the frame pool (R105, R106, R402 to R404, R472, R475). -/
def Obligations.WindowAndPoolCommandsHaveTheirEffect : Prop :=
  (∀ (s : State) (m : MailboxId), Begins s m 0x0407 →
    let n := fld ((s.box m).word 2) 9 0
    let w3 := (s.box m).word 3
    let base := windowBase ((s.box m).word 4) ((s.box m).word 5)
    (s.hallStands n = false → exec (.windowAdd m) s = .next (answered s m .notFound [] [])) ∧
    (∀ h, s.hallStands n = true → s.hall n = some h → h.phase ≠ .releasing → (h.enc = true → h.keyLoaded = true) →
      (base % granuleBytes ≠ 0 ∨ 2 ^ 52 < base + h.bytes → exec (.windowAdd m) s = .next (answered s m .badParam [] [])) ∧
      (base % granuleBytes = 0 → base + h.bytes ≤ 2 ^ 52 →
        (s.overlaps (fld w3 2 0) (fld w3 7 4) base h.bytes = true → exec (.windowAdd m) s = .next (answered s m .overlap [] [])) ∧
        (s.overlaps (fld w3 2 0) (fld w3 7 4) base h.bytes = false → s.windows.length < 4096 →
          exec (.windowAdd m) s = .next (State.pump { s with
            windows := s.windows ++ [{ num := s.freeWindow, hall := n, port := fld w3 2 0, ldid := fld w3 7 4, base := base
                                       rw := w3.getLsbD 8, active := false }]
            store := { s.store with changed := true }
            misc := { s.misc with deferred := s.misc.deferred ++
              [.windowOn s.freeWindow, .done m (s.box m).taken [at_ 0 s.freeWindow]] }
            boxes := boxesOn s m })) ∧
        (s.overlaps (fld w3 2 0) (fld w3 7 4) base h.bytes = false → 4096 ≤ s.windows.length →
          exec (.windowAdd m) s = .next (answered s m .noSpace [] []))))) ∧
  (∀ (s : State) (m : MailboxId), Begins s m 0x0408 →
    let k := fld ((s.box m).word 2) 11 0
    ((∃ w ∈ s.windows, w.num = k) → exec (.windowRemove m) s = .next (State.pump { s with
      store := { s.store with changed := true }
      misc := { s.misc with deferred := s.misc.deferred ++ [.windowOff k, .done m (s.box m).taken []] }
      boxes := boxesOn s m })) ∧
    ((∀ w ∈ s.windows, w.num ≠ k) → exec (.windowRemove m) s = .next (answered s m .notFound [] []))) ∧
  (∀ (s : State) (m : MailboxId) (g : GalleryId), Begins s m 0x0501 → Awake s → fld ((s.box m).word 2) 1 0 = g.val →
    let most := ((s.box m).word 3).toNat
    let target := ((s.box m).word 4).toNat
    (s.nGal ≤ g.val ∨ most < target ∨ most < (s.gal g).poolExt.length → exec (.tierPool m) s = .next (answered s m .badParam [] [])) ∧
    (g.val < s.nGal → most = (s.gal g).poolExt.length → target = most → s.auxSets g most ≤ (s.gal g).auxExt.length →
      ∃ u w, exec (.tierPool m) s = .next (State.pump u) ∧ u.box m = (s.box m).finish .ok [w] [] ∧ (u.gal g).poolMax = most ∧
        (u.gal g).poolExt = (s.gal g).poolExt) ∧
    (g.val < s.nGal → target ≤ most → (s.gal g).poolExt.length ≤ target →
      s.roomFor ((List.range 4).map fun i => 4 * g.val + i) (target - (s.gal g).poolExt.length + (s.auxSets g most - (s.gal g).auxExt.length))
        (target - (s.gal g).poolExt.length + (s.auxSets g most - (s.gal g).auxExt.length)) = true →
      ∃ u w, exec (.tierPool m) s = .next (State.pump u) ∧ u.box m = (s.box m).finish .ok [w] [] ∧ (u.gal g).poolMax = most ∧
        (u.gal g).poolExt.length = target))

/-- The commands of power, faults, counters and the Record Store (R454, R477, R488, R497, R510 to R512, R522 to R524). -/
def Obligations.ServiceCommandsHaveTheirEffect : Prop :=
  (∀ (s : State) (m : MailboxId), Begins s m 0x0701 →
    let w := (s.box m).word 2
    let most := fld ((s.box m).word 3) 15 0
    (s.pwr.trans.isSome = true ∨ s.pwr.pend.isSome = true → exec (.pwrCfg m) s = .next (answered s m .resourceBusy [] [])) ∧
    (s.pwr.trans = none → s.pwr.pend = none → exec (.pwrCfg m) s = .next (answered { s with
      pwr := { s.pwr with legacy := w.getLsbD 0, wakeEn := BitVec.ofNat 8 (fld w 12 8), leg := if most = 0 then s.pwr.leg else at_ 0 most } }
      m .ok [] []))) ∧
  (∀ (s : State) (m : MailboxId), Begins s m 0x0801 → ∃ res pay, exec (.fltRead m) s = .next (answered s m .ok res pay) ∧
    res.length = 9 ∧ res[2]? = some s.flt.count[0] ∧ res[3]? = some s.flt.count[1] ∧ res[4]? = some s.flt.count[2] ∧
    res[8]? = some (BitVec.ofNat 32 s.fenceList.length)) ∧
  (∀ (s : State) (m : MailboxId), Begins s m 0x0802 →
    (s.flt.service = true ∨ (∃ k, k < 3 ∧ ((s.box m).word 2).getLsbD k = true ∧ s.causePersists k = true) →
      exec (.fltClear m) s = .next (answered s m .badState [] [])) ∧
    (s.flt.service = false → (∀ k, k < 3 → ((s.box m).word 2).getLsbD k = true → s.causePersists k = false) →
      ∃ u, exec (.fltClear m) s = .next (State.pump u) ∧ u.box m = (s.box m).finish .ok [] [] ∧ u.flt.count = s.flt.count ∧
        ∀ k : Fin 3, u.flt.active[k] = (s.flt.active[k] && !((s.box m).word 2).getLsbD k) ∧
          (((s.box m).word 2).getLsbD k = true → u.flt.first[k] = none ∧ u.flt.ovf[k] = false))) ∧
  (∀ (s : State) (m : MailboxId), Begins s m 0x0803 →
    let quiet := ((s.box m).word 3).toNat
    let alive := ((s.box m).word 4).toNat
    (quiet < 1 ∨ 10000 < quiet ∨ alive < 100 ∨ 1000000 < alive → exec (.fltCfg m) s = .next (answered s m .badParam [] [])) ∧
    (1 ≤ quiet → quiet ≤ 10000 → 100 ≤ alive → alive ≤ 1000000 → exec (.fltCfg m) s = .next (answered { s with
      flt := { s.flt with quietMs := quiet, aliveUs := alive }
      misc := { s.misc with deferred := s.misc.deferred ++ [.fltMode (!((s.box m).word 2).getLsbD 0)] } } m .ok [] []))) ∧
  (∀ (s : State) (m : MailboxId), Begins s m 0x0901 →
    let w := (s.box m).word 2
    let good := fld w 1 0 < s.nGal ∧ ¬ (w.getLsbD 8 = true ∧ fld w 6 4 = 7) ∧ countable (fld w 1 0) (fld w 31 16) = true
    (¬ good → exec (.cntCfg m) s = .next (answered s m .badParam [] [])) ∧
    (good → exec (.cntCfg m) s = .next (answered { s with misc := { s.misc with deferred := s.misc.deferred ++
      [.cnt (fld w 1 0) (fld w 6 4) (at_ 0 (fld w 31 16) ||| at_ 16 (b2n (w.getLsbD 8)))] } } m .ok [] []))) ∧
  (∀ (s : State) (m : MailboxId), Begins s m 0x0902 → exec (.cntUser m) s = .next (answered { s with
    misc := { s.misc with deferred := s.misc.deferred ++ [.cntUser (BitVec.ofNat 8 (fld ((s.box m).word 2) 7 0))] } } m .ok [] [])) ∧
  (∀ (s : State) (m : MailboxId) (k : Bank), Begins s m 0x0A01 → s.store.bank = some k →
    let type := fld ((s.box m).word 2) 7 0
    let place := ((s.box m).word 3).toNat
    (m.val < 8 → type = 1 ∨ type = 4 → exec (.rsRead m) s = .next (answered s m .denied [] [])) ∧
    (m.val = 8 ∨ (type ≠ 1 ∧ type ≠ 4) →
      ((k.ofType type)[place]? = none → exec (.rsRead m) s = .next (answered s m .notFound [] [])) ∧
      (∀ r, (k.ofType type)[place]? = some r →
        exec (.rsRead m) s = .next (answered s m .ok [BitVec.ofNat 32 (k.ofType type).length] (r.take 4096))))) ∧
  (∀ (s : State) (m : MailboxId), Begins s m 0x0A02 →
    exec (.rsCommit m) s = .next (State.pump { s with boxes := boxesOn s m })) ∧
  (∀ (s : State) (m : MailboxId), Begins s m 0x0A03 →
    let type := fld ((s.box m).word 2) 7 0
    (type = 1 ∨ type = 2 → exec (.rsDrop m) s = .next (State.pump { s with boxes := boxesOn s m })) ∧
    (type ≠ 1 → type ≠ 2 → exec (.rsDrop m) s = .next (answered s m .badParam [] [])))

/-- The flow of requests, descriptors and moves stands still in a block that has none. -/
def Obligations.QuietBlockDoesNotMove : Prop :=
  ∀ s : State, (∀ p : PortId, (s.port p).txns = []) → (∀ n : ChannelId, (s.ch n).run = none) → (∀ g : GalleryId, (s.gal g).moves = []) →
    State.pump s = s
end

