-- ==== Sys2Proof/Laws/Memory.lean ====
section
/-! SUPPORT. Byte memories and word lists: every write keeps the canonical form, and what is read after one. -/

namespace Sys2Proof.Machine

/-! ## Byte memories -/

theorem wfFrom_mono {lo hi : Nat} (h : lo ≤ hi) : ∀ {m : Memory}, wfFrom hi m = true → wfFrom lo m = true
  | [], _ => rfl
  | (k, v) :: m, w => by
    simp only [wfFrom, Bool.and_eq_true, decide_eq_true_eq] at w ⊢
    exact ⟨⟨by omega, w.1.2⟩, w.2⟩

theorem readByte_below {lo a : Nat} (h : a < lo) : ∀ {m : Memory}, wfFrom lo m = true → readByte m a = 0
  | [], _ => rfl
  | (k, v) :: m, w => by
    simp only [wfFrom, Bool.and_eq_true, decide_eq_true_eq] at w
    simp [readByte, show a < k by omega]

theorem writeByte_wfFrom {lo a : Nat} (v : Byte) (h : lo ≤ a) : ∀ {m : Memory}, wfFrom lo m = true → wfFrom lo (writeByte m a v) = true
  | [], _ => by
    unfold writeByte
    split
    · rfl
    · next hv => simpa only [wfFrom, Bool.and_eq_true, decide_eq_true_eq, and_true] using ⟨h, hv⟩
  | (k, w) :: m, hm => by
    simp only [wfFrom, Bool.and_eq_true, decide_eq_true_eq] at hm
    obtain ⟨⟨hk, hw⟩, hm⟩ := hm
    have keep : wfFrom k ((k, w) :: m) = true := by
      simpa only [wfFrom, Bool.and_eq_true, decide_eq_true_eq] using ⟨⟨Nat.le_refl k, hw⟩, hm⟩
    unfold writeByte
    split
    · next h1 =>
      split
      · exact wfFrom_mono hk keep
      · next hv =>
        rw [wfFrom, wfFrom_mono (show a + 1 ≤ k from h1) keep]
        simpa only [Bool.and_eq_true, decide_eq_true_eq, and_true] using ⟨h, hv⟩
    · split
      · next h2 =>
        subst h2
        split
        · exact wfFrom_mono (Nat.le_succ_of_le hk) hm
        · next hv => simpa only [wfFrom, Bool.and_eq_true, decide_eq_true_eq] using ⟨⟨hk, hv⟩, hm⟩
      · next h1 h2 =>
        rw [wfFrom, writeByte_wfFrom v (show k + 1 ≤ a by omega) hm]
        simpa only [Bool.and_eq_true, decide_eq_true_eq, and_true] using ⟨hk, hw⟩

/-- Writing a byte keeps the canonical form. -/
theorem writeByte_wf {m : Memory} (a : Nat) (v : Byte) (h : Memory.wf m = true) : Memory.wf (writeByte m a v) = true :=
  writeByte_wfFrom v (Nat.zero_le a) h

/-- Writing bytes keeps the canonical form. -/
theorem writeBytes_wf : ∀ (bs : List Byte) {m : Memory} (a : Nat), Memory.wf m = true → Memory.wf (writeBytes m a bs) = true
  | [], _, _, h => h
  | b :: bs, _, a, h => writeBytes_wf bs (a + 1) (writeByte_wf a b h)

/-- A byte that has been written reads back. -/
theorem readByte_writeByte_self {lo a : Nat} (v : Byte) : ∀ {m : Memory}, wfFrom lo m = true → readByte (writeByte m a v) a = v
  | [], _ => by by_cases h : v = 0#8 <;> simp [writeByte, readByte, h]
  | (k, w) :: m, hm => by
    simp only [wfFrom, Bool.and_eq_true, decide_eq_true_eq] at hm
    unfold writeByte
    split
    · by_cases hv : v = 0#8 <;> simp [readByte, hv]
      intro h1; omega
    · split
      · subst a
        by_cases hv : v = 0#8 <;> simp [readByte, hv]
        exact readByte_below (Nat.lt_succ_self k) hm.2
      · simp [readByte, *, readByte_writeByte_self v hm.2]

/-- Writing one byte leaves every other byte alone. -/
theorem readByte_writeByte_ne {lo a b : Nat} (v : Byte) (h : b ≠ a) :
    ∀ {m : Memory}, wfFrom lo m = true → readByte (writeByte m a v) b = readByte m b
  | [], _ => by by_cases hv : v = 0#8 <;> simp [writeByte, readByte, hv, h]
  | (k, w) :: m, hm => by
    simp only [wfFrom, Bool.and_eq_true, decide_eq_true_eq] at hm
    unfold writeByte
    split
    · by_cases hv : v = 0
      · simp [hv]
      · rw [if_neg hv]; simp only [readByte]
        by_cases h1 : b < a
        · simp [h1, show b < k by omega]
        · simp [h1, h]
    · split
      · subst a
        by_cases hv : v = 0
        · rw [if_pos hv]; simp only [readByte]
          by_cases h1 : b < k
          · simp [h1, readByte_below (show b < k + 1 by omega) hm.2]
          · simp [h1, h]
        · rw [if_neg hv]; simp [readByte, h]
      · simp only [readByte]
        rw [readByte_writeByte_ne v h hm.2]

/-- Bytes written at an address leave every byte below it alone. -/
theorem readByte_writeBytes_lt (b : Nat) : ∀ (bs : List Byte) {m : Memory} (a : Nat), Memory.wf m = true → b < a →
    readByte (writeBytes m a bs) b = readByte m b
  | [], _, _, _, _ => rfl
  | v :: bs, m, a, h, hb => by
    rw [writeBytes, readByte_writeBytes_lt b bs (a + 1) (writeByte_wf a v h) (by omega), readByte_writeByte_ne v (by omega) h]

/-- Bytes that have been written read back. -/
theorem readBytes_writeBytes : ∀ (bs : List Byte) {m : Memory} (a : Nat), Memory.wf m = true →
    readBytes (writeBytes m a bs) a bs.length = bs
  | [], _, _, _ => rfl
  | v :: bs, m, a, h => by
    have ih := readBytes_writeBytes bs (a + 1) (writeByte_wf a v h)
    have h0 : readByte (writeBytes (writeByte m a v) (a + 1) bs) a = v := by
      rw [readByte_writeBytes_lt a bs (a + 1) (writeByte_wf a v h) (by omega)]
      exact readByte_writeByte_self v h
    simp only [readBytes, writeBytes, List.length_cons, List.range_succ_eq_map, List.map_cons, List.map_map, Nat.add_zero] at ih ⊢
    rw [h0]
    congr 1
    conv => rhs; rw [← ih]
    exact List.map_congr_left fun i _ => by simp [Nat.add_assoc, Nat.add_comm 1]

/-- The descriptor memory after reset is canonical. -/
theorem reset_desc_wf : Memory.wf State.reset.desc = true := rfl

/-! ## Word lists -/

/-- Offsets strictly rising from `lo` on. -/
def Words.rising (lo : Nat) : Words → Prop
  | [] => True
  | (k, _) :: m => lo ≤ k ∧ Words.rising (k + 1) m

theorem getW_below {d : W32} {lo a : Nat} (h : a < lo) : ∀ {m : Words}, Words.rising lo m → getW d m a = d
  | [], _ => rfl
  | (k, v) :: m, w => by simp [getW, show a < k from Nat.lt_of_lt_of_le h w.1]

/-- A word that has been written reads back. -/
theorem getW_setW_self (d : W32) (a : Nat) (v : W32) : ∀ {lo : Nat} {m : Words}, Words.rising lo m → getW d (setW d m a v) a = v
  | _, [], _ => by by_cases h : v = d <;> simp [setW, getW, h]
  | _, (k, w) :: m, hm => by
    unfold setW
    split
    · by_cases hv : v = d <;> simp [getW, hv]
      intro h1; omega
    · split
      · subst a
        by_cases hv : v = d <;> simp [getW, hv]
        exact getW_below (Nat.lt_succ_self k) hm.2
      · simp [getW, *, getW_setW_self d a v hm.2]

/-- Writing one word leaves every other word alone. -/
theorem getW_setW_ne (d : W32) {a b : Nat} (v : W32) (h : b ≠ a) :
    ∀ {lo : Nat} {m : Words}, Words.rising lo m → getW d (setW d m a v) b = getW d m b
  | _, [], _ => by
    by_cases hv : v = d <;> simp [setW, getW, hv, h]
  | _, (k, w) :: m, hm => by
    unfold setW
    split
    · by_cases hv : v = d
      · simp [hv]
      · simp only [hv, if_false, getW]
        by_cases h1 : b < a
        · simp [h1, show b < k by omega]
        · simp [h1, h]
    · split
      · subst a
        by_cases hv : v = d
        · simp only [hv, if_true, getW]
          by_cases h1 : b < k
          · simp [h1, getW_below (show b < k + 1 by omega) hm.2]
          · simp [h1, h]
        · simp [hv, getW, h]
      · simp only [getW]
        rw [getW_setW_ne d v h hm.2]

end Sys2Proof.Machine
end

