-- ==== Sys2Proof/Laws/State.lean ====
section
/-! SUPPORT. What each named update of the state leaves alone, field by field and accessor by accessor, and what it sets: the lemmas
that stand in place of unfolding a record update. -/

namespace Sys2Proof.Machine

/-! ## `State.setLand` -/

@[simp] theorem State.setLand_pending (s : State) (i : Nat) (x : Landing) : (s.setLand i x).pending = s.pending := rfl
@[simp] theorem State.setLand_chip (s : State) (i : Nat) (x : Landing) : (s.setLand i x).chip = s.chip := rfl
@[simp] theorem State.setLand_cfg (s : State) (i : Nat) (x : Landing) : (s.setLand i x).cfg = s.cfg := rfl
@[simp] theorem State.setLand_galleries (s : State) (i : Nat) (x : Landing) : (s.setLand i x).galleries = s.galleries := rfl
@[simp] theorem State.setLand_ports (s : State) (i : Nat) (x : Landing) : (s.setLand i x).ports = s.ports := rfl
@[simp] theorem State.setLand_sent (s : State) (i : Nat) (x : Landing) : (s.setLand i x).sent = s.sent := rfl
@[simp] theorem State.setLand_halls (s : State) (i : Nat) (x : Landing) : (s.setLand i x).halls = s.halls := rfl
@[simp] theorem State.setLand_epochs (s : State) (i : Nat) (x : Landing) : (s.setLand i x).epochs = s.epochs := rfl
@[simp] theorem State.setLand_windows (s : State) (i : Nat) (x : Landing) : (s.setLand i x).windows = s.windows := rfl
@[simp] theorem State.setLand_away (s : State) (i : Nat) (x : Landing) : (s.setLand i x).away = s.away := rfl
@[simp] theorem State.setLand_ahead (s : State) (i : Nat) (x : Landing) : (s.setLand i x).ahead = s.ahead := rfl
@[simp] theorem State.setLand_dma (s : State) (i : Nat) (x : Landing) : (s.setLand i x).dma = s.dma := rfl
@[simp] theorem State.setLand_desc (s : State) (i : Nat) (x : Landing) : (s.setLand i x).desc = s.desc := rfl
@[simp] theorem State.setLand_boxes (s : State) (i : Nat) (x : Landing) : (s.setLand i x).boxes = s.boxes := rfl
@[simp] theorem State.setLand_eq (s : State) (i : Nat) (x : Landing) : (s.setLand i x).eq = s.eq := rfl
@[simp] theorem State.setLand_arcade (s : State) (i : Nat) (x : Landing) : (s.setLand i x).arcade = s.arcade := rfl
@[simp] theorem State.setLand_store (s : State) (i : Nat) (x : Landing) : (s.setLand i x).store = s.store := rfl
@[simp] theorem State.setLand_pwr (s : State) (i : Nat) (x : Landing) : (s.setLand i x).pwr = s.pwr := rfl
@[simp] theorem State.setLand_flt (s : State) (i : Nat) (x : Landing) : (s.setLand i x).flt = s.flt := rfl
@[simp] theorem State.setLand_misc (s : State) (i : Nat) (x : Landing) : (s.setLand i x).misc = s.misc := rfl
@[simp] theorem State.setLand_blk (s : State) (i : Nat) (x : Landing) : (s.setLand i x).blk = s.blk := rfl
@[simp] theorem State.setLand_shot (s : State) (i : Nat) (x : Landing) : (s.setLand i x).shot = s.shot := rfl
@[simp] theorem State.setLand_shots (s : State) (i : Nat) (x : Landing) : (s.setLand i x).shots = s.shots := rfl
@[simp] theorem State.setLand_gal (s : State) (i : Nat) (x : Landing) (k : Nat) : (s.setLand i x).gal k = s.gal k := rfl
@[simp] theorem State.setLand_port (s : State) (i : Nat) (x : Landing) (k : Nat) : (s.setLand i x).port k = s.port k := rfl
@[simp] theorem State.setLand_ch (s : State) (i : Nat) (x : Landing) (k : Nat) : (s.setLand i x).ch k = s.ch k := rfl
@[simp] theorem State.setLand_box (s : State) (i : Nat) (x : Landing) (k : Nat) : (s.setLand i x).box k = s.box k := rfl
@[simp] theorem State.setLand_now (s : State) (i : Nat) (x : Landing) : (s.setLand i x).now = s.now := rfl
@[simp] theorem State.setLand_tread (s : State) (i : Nat) (x : Landing) : (s.setLand i x).tread = s.tread := rfl
@[simp] theorem State.setLand_hall (s : State) (i : Nat) (x : Landing) (k : Nat) : (s.setLand i x).hall k = s.hall k := rfl

/-! ## `State.modLand` -/

@[simp] theorem State.modLand_pending (s : State) (i : Nat) (f : Landing → Landing) : (s.modLand i f).pending = s.pending := rfl
@[simp] theorem State.modLand_chip (s : State) (i : Nat) (f : Landing → Landing) : (s.modLand i f).chip = s.chip := rfl
@[simp] theorem State.modLand_cfg (s : State) (i : Nat) (f : Landing → Landing) : (s.modLand i f).cfg = s.cfg := rfl
@[simp] theorem State.modLand_galleries (s : State) (i : Nat) (f : Landing → Landing) : (s.modLand i f).galleries = s.galleries := rfl
@[simp] theorem State.modLand_ports (s : State) (i : Nat) (f : Landing → Landing) : (s.modLand i f).ports = s.ports := rfl
@[simp] theorem State.modLand_sent (s : State) (i : Nat) (f : Landing → Landing) : (s.modLand i f).sent = s.sent := rfl
@[simp] theorem State.modLand_halls (s : State) (i : Nat) (f : Landing → Landing) : (s.modLand i f).halls = s.halls := rfl
@[simp] theorem State.modLand_epochs (s : State) (i : Nat) (f : Landing → Landing) : (s.modLand i f).epochs = s.epochs := rfl
@[simp] theorem State.modLand_windows (s : State) (i : Nat) (f : Landing → Landing) : (s.modLand i f).windows = s.windows := rfl
@[simp] theorem State.modLand_away (s : State) (i : Nat) (f : Landing → Landing) : (s.modLand i f).away = s.away := rfl
@[simp] theorem State.modLand_ahead (s : State) (i : Nat) (f : Landing → Landing) : (s.modLand i f).ahead = s.ahead := rfl
@[simp] theorem State.modLand_dma (s : State) (i : Nat) (f : Landing → Landing) : (s.modLand i f).dma = s.dma := rfl
@[simp] theorem State.modLand_desc (s : State) (i : Nat) (f : Landing → Landing) : (s.modLand i f).desc = s.desc := rfl
@[simp] theorem State.modLand_boxes (s : State) (i : Nat) (f : Landing → Landing) : (s.modLand i f).boxes = s.boxes := rfl
@[simp] theorem State.modLand_eq (s : State) (i : Nat) (f : Landing → Landing) : (s.modLand i f).eq = s.eq := rfl
@[simp] theorem State.modLand_arcade (s : State) (i : Nat) (f : Landing → Landing) : (s.modLand i f).arcade = s.arcade := rfl
@[simp] theorem State.modLand_store (s : State) (i : Nat) (f : Landing → Landing) : (s.modLand i f).store = s.store := rfl
@[simp] theorem State.modLand_pwr (s : State) (i : Nat) (f : Landing → Landing) : (s.modLand i f).pwr = s.pwr := rfl
@[simp] theorem State.modLand_flt (s : State) (i : Nat) (f : Landing → Landing) : (s.modLand i f).flt = s.flt := rfl
@[simp] theorem State.modLand_misc (s : State) (i : Nat) (f : Landing → Landing) : (s.modLand i f).misc = s.misc := rfl
@[simp] theorem State.modLand_blk (s : State) (i : Nat) (f : Landing → Landing) : (s.modLand i f).blk = s.blk := rfl
@[simp] theorem State.modLand_shot (s : State) (i : Nat) (f : Landing → Landing) : (s.modLand i f).shot = s.shot := rfl
@[simp] theorem State.modLand_shots (s : State) (i : Nat) (f : Landing → Landing) : (s.modLand i f).shots = s.shots := rfl
@[simp] theorem State.modLand_gal (s : State) (i : Nat) (f : Landing → Landing) (k : Nat) : (s.modLand i f).gal k = s.gal k := rfl
@[simp] theorem State.modLand_port (s : State) (i : Nat) (f : Landing → Landing) (k : Nat) : (s.modLand i f).port k = s.port k := rfl
@[simp] theorem State.modLand_ch (s : State) (i : Nat) (f : Landing → Landing) (k : Nat) : (s.modLand i f).ch k = s.ch k := rfl
@[simp] theorem State.modLand_box (s : State) (i : Nat) (f : Landing → Landing) (k : Nat) : (s.modLand i f).box k = s.box k := rfl
@[simp] theorem State.modLand_now (s : State) (i : Nat) (f : Landing → Landing) : (s.modLand i f).now = s.now := rfl
@[simp] theorem State.modLand_tread (s : State) (i : Nat) (f : Landing → Landing) : (s.modLand i f).tread = s.tread := rfl
@[simp] theorem State.modLand_hall (s : State) (i : Nat) (f : Landing → Landing) (k : Nat) : (s.modLand i f).hall k = s.hall k := rfl

/-! ## `State.setGal` -/

@[simp] theorem State.setGal_pending (s : State) (i : Nat) (x : Gallery) : (s.setGal i x).pending = s.pending := rfl
@[simp] theorem State.setGal_chip (s : State) (i : Nat) (x : Gallery) : (s.setGal i x).chip = s.chip := rfl
@[simp] theorem State.setGal_cfg (s : State) (i : Nat) (x : Gallery) : (s.setGal i x).cfg = s.cfg := rfl
@[simp] theorem State.setGal_landings (s : State) (i : Nat) (x : Gallery) : (s.setGal i x).landings = s.landings := rfl
@[simp] theorem State.setGal_ports (s : State) (i : Nat) (x : Gallery) : (s.setGal i x).ports = s.ports := rfl
@[simp] theorem State.setGal_sent (s : State) (i : Nat) (x : Gallery) : (s.setGal i x).sent = s.sent := rfl
@[simp] theorem State.setGal_halls (s : State) (i : Nat) (x : Gallery) : (s.setGal i x).halls = s.halls := rfl
@[simp] theorem State.setGal_epochs (s : State) (i : Nat) (x : Gallery) : (s.setGal i x).epochs = s.epochs := rfl
@[simp] theorem State.setGal_windows (s : State) (i : Nat) (x : Gallery) : (s.setGal i x).windows = s.windows := rfl
@[simp] theorem State.setGal_away (s : State) (i : Nat) (x : Gallery) : (s.setGal i x).away = s.away := rfl
@[simp] theorem State.setGal_ahead (s : State) (i : Nat) (x : Gallery) : (s.setGal i x).ahead = s.ahead := rfl
@[simp] theorem State.setGal_dma (s : State) (i : Nat) (x : Gallery) : (s.setGal i x).dma = s.dma := rfl
@[simp] theorem State.setGal_desc (s : State) (i : Nat) (x : Gallery) : (s.setGal i x).desc = s.desc := rfl
@[simp] theorem State.setGal_boxes (s : State) (i : Nat) (x : Gallery) : (s.setGal i x).boxes = s.boxes := rfl
@[simp] theorem State.setGal_eq (s : State) (i : Nat) (x : Gallery) : (s.setGal i x).eq = s.eq := rfl
@[simp] theorem State.setGal_arcade (s : State) (i : Nat) (x : Gallery) : (s.setGal i x).arcade = s.arcade := rfl
@[simp] theorem State.setGal_store (s : State) (i : Nat) (x : Gallery) : (s.setGal i x).store = s.store := rfl
@[simp] theorem State.setGal_pwr (s : State) (i : Nat) (x : Gallery) : (s.setGal i x).pwr = s.pwr := rfl
@[simp] theorem State.setGal_flt (s : State) (i : Nat) (x : Gallery) : (s.setGal i x).flt = s.flt := rfl
@[simp] theorem State.setGal_misc (s : State) (i : Nat) (x : Gallery) : (s.setGal i x).misc = s.misc := rfl
@[simp] theorem State.setGal_blk (s : State) (i : Nat) (x : Gallery) : (s.setGal i x).blk = s.blk := rfl
@[simp] theorem State.setGal_shot (s : State) (i : Nat) (x : Gallery) : (s.setGal i x).shot = s.shot := rfl
@[simp] theorem State.setGal_shots (s : State) (i : Nat) (x : Gallery) : (s.setGal i x).shots = s.shots := rfl
@[simp] theorem State.setGal_land (s : State) (i : Nat) (x : Gallery) (k : Nat) : (s.setGal i x).land k = s.land k := rfl
@[simp] theorem State.setGal_port (s : State) (i : Nat) (x : Gallery) (k : Nat) : (s.setGal i x).port k = s.port k := rfl
@[simp] theorem State.setGal_ch (s : State) (i : Nat) (x : Gallery) (k : Nat) : (s.setGal i x).ch k = s.ch k := rfl
@[simp] theorem State.setGal_box (s : State) (i : Nat) (x : Gallery) (k : Nat) : (s.setGal i x).box k = s.box k := rfl
@[simp] theorem State.setGal_now (s : State) (i : Nat) (x : Gallery) : (s.setGal i x).now = s.now := rfl
@[simp] theorem State.setGal_tread (s : State) (i : Nat) (x : Gallery) : (s.setGal i x).tread = s.tread := rfl
@[simp] theorem State.setGal_hall (s : State) (i : Nat) (x : Gallery) (k : Nat) : (s.setGal i x).hall k = s.hall k := rfl

/-! ## `State.modGal` -/

@[simp] theorem State.modGal_pending (s : State) (i : Nat) (f : Gallery → Gallery) : (s.modGal i f).pending = s.pending := rfl
@[simp] theorem State.modGal_chip (s : State) (i : Nat) (f : Gallery → Gallery) : (s.modGal i f).chip = s.chip := rfl
@[simp] theorem State.modGal_cfg (s : State) (i : Nat) (f : Gallery → Gallery) : (s.modGal i f).cfg = s.cfg := rfl
@[simp] theorem State.modGal_landings (s : State) (i : Nat) (f : Gallery → Gallery) : (s.modGal i f).landings = s.landings := rfl
@[simp] theorem State.modGal_ports (s : State) (i : Nat) (f : Gallery → Gallery) : (s.modGal i f).ports = s.ports := rfl
@[simp] theorem State.modGal_sent (s : State) (i : Nat) (f : Gallery → Gallery) : (s.modGal i f).sent = s.sent := rfl
@[simp] theorem State.modGal_halls (s : State) (i : Nat) (f : Gallery → Gallery) : (s.modGal i f).halls = s.halls := rfl
@[simp] theorem State.modGal_epochs (s : State) (i : Nat) (f : Gallery → Gallery) : (s.modGal i f).epochs = s.epochs := rfl
@[simp] theorem State.modGal_windows (s : State) (i : Nat) (f : Gallery → Gallery) : (s.modGal i f).windows = s.windows := rfl
@[simp] theorem State.modGal_away (s : State) (i : Nat) (f : Gallery → Gallery) : (s.modGal i f).away = s.away := rfl
@[simp] theorem State.modGal_ahead (s : State) (i : Nat) (f : Gallery → Gallery) : (s.modGal i f).ahead = s.ahead := rfl
@[simp] theorem State.modGal_dma (s : State) (i : Nat) (f : Gallery → Gallery) : (s.modGal i f).dma = s.dma := rfl
@[simp] theorem State.modGal_desc (s : State) (i : Nat) (f : Gallery → Gallery) : (s.modGal i f).desc = s.desc := rfl
@[simp] theorem State.modGal_boxes (s : State) (i : Nat) (f : Gallery → Gallery) : (s.modGal i f).boxes = s.boxes := rfl
@[simp] theorem State.modGal_eq (s : State) (i : Nat) (f : Gallery → Gallery) : (s.modGal i f).eq = s.eq := rfl
@[simp] theorem State.modGal_arcade (s : State) (i : Nat) (f : Gallery → Gallery) : (s.modGal i f).arcade = s.arcade := rfl
@[simp] theorem State.modGal_store (s : State) (i : Nat) (f : Gallery → Gallery) : (s.modGal i f).store = s.store := rfl
@[simp] theorem State.modGal_pwr (s : State) (i : Nat) (f : Gallery → Gallery) : (s.modGal i f).pwr = s.pwr := rfl
@[simp] theorem State.modGal_flt (s : State) (i : Nat) (f : Gallery → Gallery) : (s.modGal i f).flt = s.flt := rfl
@[simp] theorem State.modGal_misc (s : State) (i : Nat) (f : Gallery → Gallery) : (s.modGal i f).misc = s.misc := rfl
@[simp] theorem State.modGal_blk (s : State) (i : Nat) (f : Gallery → Gallery) : (s.modGal i f).blk = s.blk := rfl
@[simp] theorem State.modGal_shot (s : State) (i : Nat) (f : Gallery → Gallery) : (s.modGal i f).shot = s.shot := rfl
@[simp] theorem State.modGal_shots (s : State) (i : Nat) (f : Gallery → Gallery) : (s.modGal i f).shots = s.shots := rfl
@[simp] theorem State.modGal_land (s : State) (i : Nat) (f : Gallery → Gallery) (k : Nat) : (s.modGal i f).land k = s.land k := rfl
@[simp] theorem State.modGal_port (s : State) (i : Nat) (f : Gallery → Gallery) (k : Nat) : (s.modGal i f).port k = s.port k := rfl
@[simp] theorem State.modGal_ch (s : State) (i : Nat) (f : Gallery → Gallery) (k : Nat) : (s.modGal i f).ch k = s.ch k := rfl
@[simp] theorem State.modGal_box (s : State) (i : Nat) (f : Gallery → Gallery) (k : Nat) : (s.modGal i f).box k = s.box k := rfl
@[simp] theorem State.modGal_now (s : State) (i : Nat) (f : Gallery → Gallery) : (s.modGal i f).now = s.now := rfl
@[simp] theorem State.modGal_tread (s : State) (i : Nat) (f : Gallery → Gallery) : (s.modGal i f).tread = s.tread := rfl
@[simp] theorem State.modGal_hall (s : State) (i : Nat) (f : Gallery → Gallery) (k : Nat) : (s.modGal i f).hall k = s.hall k := rfl

/-! ## `State.setPort` -/

@[simp] theorem State.setPort_pending (s : State) (i : Nat) (x : Port) : (s.setPort i x).pending = s.pending := rfl
@[simp] theorem State.setPort_chip (s : State) (i : Nat) (x : Port) : (s.setPort i x).chip = s.chip := rfl
@[simp] theorem State.setPort_cfg (s : State) (i : Nat) (x : Port) : (s.setPort i x).cfg = s.cfg := rfl
@[simp] theorem State.setPort_landings (s : State) (i : Nat) (x : Port) : (s.setPort i x).landings = s.landings := rfl
@[simp] theorem State.setPort_galleries (s : State) (i : Nat) (x : Port) : (s.setPort i x).galleries = s.galleries := rfl
@[simp] theorem State.setPort_sent (s : State) (i : Nat) (x : Port) : (s.setPort i x).sent = s.sent := rfl
@[simp] theorem State.setPort_halls (s : State) (i : Nat) (x : Port) : (s.setPort i x).halls = s.halls := rfl
@[simp] theorem State.setPort_epochs (s : State) (i : Nat) (x : Port) : (s.setPort i x).epochs = s.epochs := rfl
@[simp] theorem State.setPort_windows (s : State) (i : Nat) (x : Port) : (s.setPort i x).windows = s.windows := rfl
@[simp] theorem State.setPort_away (s : State) (i : Nat) (x : Port) : (s.setPort i x).away = s.away := rfl
@[simp] theorem State.setPort_ahead (s : State) (i : Nat) (x : Port) : (s.setPort i x).ahead = s.ahead := rfl
@[simp] theorem State.setPort_dma (s : State) (i : Nat) (x : Port) : (s.setPort i x).dma = s.dma := rfl
@[simp] theorem State.setPort_desc (s : State) (i : Nat) (x : Port) : (s.setPort i x).desc = s.desc := rfl
@[simp] theorem State.setPort_boxes (s : State) (i : Nat) (x : Port) : (s.setPort i x).boxes = s.boxes := rfl
@[simp] theorem State.setPort_eq (s : State) (i : Nat) (x : Port) : (s.setPort i x).eq = s.eq := rfl
@[simp] theorem State.setPort_arcade (s : State) (i : Nat) (x : Port) : (s.setPort i x).arcade = s.arcade := rfl
@[simp] theorem State.setPort_store (s : State) (i : Nat) (x : Port) : (s.setPort i x).store = s.store := rfl
@[simp] theorem State.setPort_pwr (s : State) (i : Nat) (x : Port) : (s.setPort i x).pwr = s.pwr := rfl
@[simp] theorem State.setPort_flt (s : State) (i : Nat) (x : Port) : (s.setPort i x).flt = s.flt := rfl
@[simp] theorem State.setPort_misc (s : State) (i : Nat) (x : Port) : (s.setPort i x).misc = s.misc := rfl
@[simp] theorem State.setPort_blk (s : State) (i : Nat) (x : Port) : (s.setPort i x).blk = s.blk := rfl
@[simp] theorem State.setPort_shot (s : State) (i : Nat) (x : Port) : (s.setPort i x).shot = s.shot := rfl
@[simp] theorem State.setPort_shots (s : State) (i : Nat) (x : Port) : (s.setPort i x).shots = s.shots := rfl
@[simp] theorem State.setPort_land (s : State) (i : Nat) (x : Port) (k : Nat) : (s.setPort i x).land k = s.land k := rfl
@[simp] theorem State.setPort_gal (s : State) (i : Nat) (x : Port) (k : Nat) : (s.setPort i x).gal k = s.gal k := rfl
@[simp] theorem State.setPort_ch (s : State) (i : Nat) (x : Port) (k : Nat) : (s.setPort i x).ch k = s.ch k := rfl
@[simp] theorem State.setPort_box (s : State) (i : Nat) (x : Port) (k : Nat) : (s.setPort i x).box k = s.box k := rfl
@[simp] theorem State.setPort_now (s : State) (i : Nat) (x : Port) : (s.setPort i x).now = s.now := rfl
@[simp] theorem State.setPort_tread (s : State) (i : Nat) (x : Port) : (s.setPort i x).tread = s.tread := rfl
@[simp] theorem State.setPort_hall (s : State) (i : Nat) (x : Port) (k : Nat) : (s.setPort i x).hall k = s.hall k := rfl

/-! ## `State.modPort` -/

@[simp] theorem State.modPort_pending (s : State) (i : Nat) (f : Port → Port) : (s.modPort i f).pending = s.pending := rfl
@[simp] theorem State.modPort_chip (s : State) (i : Nat) (f : Port → Port) : (s.modPort i f).chip = s.chip := rfl
@[simp] theorem State.modPort_cfg (s : State) (i : Nat) (f : Port → Port) : (s.modPort i f).cfg = s.cfg := rfl
@[simp] theorem State.modPort_landings (s : State) (i : Nat) (f : Port → Port) : (s.modPort i f).landings = s.landings := rfl
@[simp] theorem State.modPort_galleries (s : State) (i : Nat) (f : Port → Port) : (s.modPort i f).galleries = s.galleries := rfl
@[simp] theorem State.modPort_sent (s : State) (i : Nat) (f : Port → Port) : (s.modPort i f).sent = s.sent := rfl
@[simp] theorem State.modPort_halls (s : State) (i : Nat) (f : Port → Port) : (s.modPort i f).halls = s.halls := rfl
@[simp] theorem State.modPort_epochs (s : State) (i : Nat) (f : Port → Port) : (s.modPort i f).epochs = s.epochs := rfl
@[simp] theorem State.modPort_windows (s : State) (i : Nat) (f : Port → Port) : (s.modPort i f).windows = s.windows := rfl
@[simp] theorem State.modPort_away (s : State) (i : Nat) (f : Port → Port) : (s.modPort i f).away = s.away := rfl
@[simp] theorem State.modPort_ahead (s : State) (i : Nat) (f : Port → Port) : (s.modPort i f).ahead = s.ahead := rfl
@[simp] theorem State.modPort_dma (s : State) (i : Nat) (f : Port → Port) : (s.modPort i f).dma = s.dma := rfl
@[simp] theorem State.modPort_desc (s : State) (i : Nat) (f : Port → Port) : (s.modPort i f).desc = s.desc := rfl
@[simp] theorem State.modPort_boxes (s : State) (i : Nat) (f : Port → Port) : (s.modPort i f).boxes = s.boxes := rfl
@[simp] theorem State.modPort_eq (s : State) (i : Nat) (f : Port → Port) : (s.modPort i f).eq = s.eq := rfl
@[simp] theorem State.modPort_arcade (s : State) (i : Nat) (f : Port → Port) : (s.modPort i f).arcade = s.arcade := rfl
@[simp] theorem State.modPort_store (s : State) (i : Nat) (f : Port → Port) : (s.modPort i f).store = s.store := rfl
@[simp] theorem State.modPort_pwr (s : State) (i : Nat) (f : Port → Port) : (s.modPort i f).pwr = s.pwr := rfl
@[simp] theorem State.modPort_flt (s : State) (i : Nat) (f : Port → Port) : (s.modPort i f).flt = s.flt := rfl
@[simp] theorem State.modPort_misc (s : State) (i : Nat) (f : Port → Port) : (s.modPort i f).misc = s.misc := rfl
@[simp] theorem State.modPort_blk (s : State) (i : Nat) (f : Port → Port) : (s.modPort i f).blk = s.blk := rfl
@[simp] theorem State.modPort_shot (s : State) (i : Nat) (f : Port → Port) : (s.modPort i f).shot = s.shot := rfl
@[simp] theorem State.modPort_shots (s : State) (i : Nat) (f : Port → Port) : (s.modPort i f).shots = s.shots := rfl
@[simp] theorem State.modPort_land (s : State) (i : Nat) (f : Port → Port) (k : Nat) : (s.modPort i f).land k = s.land k := rfl
@[simp] theorem State.modPort_gal (s : State) (i : Nat) (f : Port → Port) (k : Nat) : (s.modPort i f).gal k = s.gal k := rfl
@[simp] theorem State.modPort_ch (s : State) (i : Nat) (f : Port → Port) (k : Nat) : (s.modPort i f).ch k = s.ch k := rfl
@[simp] theorem State.modPort_box (s : State) (i : Nat) (f : Port → Port) (k : Nat) : (s.modPort i f).box k = s.box k := rfl
@[simp] theorem State.modPort_now (s : State) (i : Nat) (f : Port → Port) : (s.modPort i f).now = s.now := rfl
@[simp] theorem State.modPort_tread (s : State) (i : Nat) (f : Port → Port) : (s.modPort i f).tread = s.tread := rfl
@[simp] theorem State.modPort_hall (s : State) (i : Nat) (f : Port → Port) (k : Nat) : (s.modPort i f).hall k = s.hall k := rfl

/-! ## `State.setCh` -/

@[simp] theorem State.setCh_pending (s : State) (i : Nat) (x : Dma) : (s.setCh i x).pending = s.pending := rfl
@[simp] theorem State.setCh_chip (s : State) (i : Nat) (x : Dma) : (s.setCh i x).chip = s.chip := rfl
@[simp] theorem State.setCh_cfg (s : State) (i : Nat) (x : Dma) : (s.setCh i x).cfg = s.cfg := rfl
@[simp] theorem State.setCh_landings (s : State) (i : Nat) (x : Dma) : (s.setCh i x).landings = s.landings := rfl
@[simp] theorem State.setCh_galleries (s : State) (i : Nat) (x : Dma) : (s.setCh i x).galleries = s.galleries := rfl
@[simp] theorem State.setCh_ports (s : State) (i : Nat) (x : Dma) : (s.setCh i x).ports = s.ports := rfl
@[simp] theorem State.setCh_sent (s : State) (i : Nat) (x : Dma) : (s.setCh i x).sent = s.sent := rfl
@[simp] theorem State.setCh_halls (s : State) (i : Nat) (x : Dma) : (s.setCh i x).halls = s.halls := rfl
@[simp] theorem State.setCh_epochs (s : State) (i : Nat) (x : Dma) : (s.setCh i x).epochs = s.epochs := rfl
@[simp] theorem State.setCh_windows (s : State) (i : Nat) (x : Dma) : (s.setCh i x).windows = s.windows := rfl
@[simp] theorem State.setCh_away (s : State) (i : Nat) (x : Dma) : (s.setCh i x).away = s.away := rfl
@[simp] theorem State.setCh_ahead (s : State) (i : Nat) (x : Dma) : (s.setCh i x).ahead = s.ahead := rfl
@[simp] theorem State.setCh_desc (s : State) (i : Nat) (x : Dma) : (s.setCh i x).desc = s.desc := rfl
@[simp] theorem State.setCh_boxes (s : State) (i : Nat) (x : Dma) : (s.setCh i x).boxes = s.boxes := rfl
@[simp] theorem State.setCh_eq (s : State) (i : Nat) (x : Dma) : (s.setCh i x).eq = s.eq := rfl
@[simp] theorem State.setCh_arcade (s : State) (i : Nat) (x : Dma) : (s.setCh i x).arcade = s.arcade := rfl
@[simp] theorem State.setCh_store (s : State) (i : Nat) (x : Dma) : (s.setCh i x).store = s.store := rfl
@[simp] theorem State.setCh_pwr (s : State) (i : Nat) (x : Dma) : (s.setCh i x).pwr = s.pwr := rfl
@[simp] theorem State.setCh_flt (s : State) (i : Nat) (x : Dma) : (s.setCh i x).flt = s.flt := rfl
@[simp] theorem State.setCh_misc (s : State) (i : Nat) (x : Dma) : (s.setCh i x).misc = s.misc := rfl
@[simp] theorem State.setCh_blk (s : State) (i : Nat) (x : Dma) : (s.setCh i x).blk = s.blk := rfl
@[simp] theorem State.setCh_shot (s : State) (i : Nat) (x : Dma) : (s.setCh i x).shot = s.shot := rfl
@[simp] theorem State.setCh_shots (s : State) (i : Nat) (x : Dma) : (s.setCh i x).shots = s.shots := rfl
@[simp] theorem State.setCh_land (s : State) (i : Nat) (x : Dma) (k : Nat) : (s.setCh i x).land k = s.land k := rfl
@[simp] theorem State.setCh_gal (s : State) (i : Nat) (x : Dma) (k : Nat) : (s.setCh i x).gal k = s.gal k := rfl
@[simp] theorem State.setCh_port (s : State) (i : Nat) (x : Dma) (k : Nat) : (s.setCh i x).port k = s.port k := rfl
@[simp] theorem State.setCh_box (s : State) (i : Nat) (x : Dma) (k : Nat) : (s.setCh i x).box k = s.box k := rfl
@[simp] theorem State.setCh_now (s : State) (i : Nat) (x : Dma) : (s.setCh i x).now = s.now := rfl
@[simp] theorem State.setCh_tread (s : State) (i : Nat) (x : Dma) : (s.setCh i x).tread = s.tread := rfl
@[simp] theorem State.setCh_hall (s : State) (i : Nat) (x : Dma) (k : Nat) : (s.setCh i x).hall k = s.hall k := rfl

/-! ## `State.modCh` -/

@[simp] theorem State.modCh_pending (s : State) (i : Nat) (f : Dma → Dma) : (s.modCh i f).pending = s.pending := rfl
@[simp] theorem State.modCh_chip (s : State) (i : Nat) (f : Dma → Dma) : (s.modCh i f).chip = s.chip := rfl
@[simp] theorem State.modCh_cfg (s : State) (i : Nat) (f : Dma → Dma) : (s.modCh i f).cfg = s.cfg := rfl
@[simp] theorem State.modCh_landings (s : State) (i : Nat) (f : Dma → Dma) : (s.modCh i f).landings = s.landings := rfl
@[simp] theorem State.modCh_galleries (s : State) (i : Nat) (f : Dma → Dma) : (s.modCh i f).galleries = s.galleries := rfl
@[simp] theorem State.modCh_ports (s : State) (i : Nat) (f : Dma → Dma) : (s.modCh i f).ports = s.ports := rfl
@[simp] theorem State.modCh_sent (s : State) (i : Nat) (f : Dma → Dma) : (s.modCh i f).sent = s.sent := rfl
@[simp] theorem State.modCh_halls (s : State) (i : Nat) (f : Dma → Dma) : (s.modCh i f).halls = s.halls := rfl
@[simp] theorem State.modCh_epochs (s : State) (i : Nat) (f : Dma → Dma) : (s.modCh i f).epochs = s.epochs := rfl
@[simp] theorem State.modCh_windows (s : State) (i : Nat) (f : Dma → Dma) : (s.modCh i f).windows = s.windows := rfl
@[simp] theorem State.modCh_away (s : State) (i : Nat) (f : Dma → Dma) : (s.modCh i f).away = s.away := rfl
@[simp] theorem State.modCh_ahead (s : State) (i : Nat) (f : Dma → Dma) : (s.modCh i f).ahead = s.ahead := rfl
@[simp] theorem State.modCh_desc (s : State) (i : Nat) (f : Dma → Dma) : (s.modCh i f).desc = s.desc := rfl
@[simp] theorem State.modCh_boxes (s : State) (i : Nat) (f : Dma → Dma) : (s.modCh i f).boxes = s.boxes := rfl
@[simp] theorem State.modCh_eq (s : State) (i : Nat) (f : Dma → Dma) : (s.modCh i f).eq = s.eq := rfl
@[simp] theorem State.modCh_arcade (s : State) (i : Nat) (f : Dma → Dma) : (s.modCh i f).arcade = s.arcade := rfl
@[simp] theorem State.modCh_store (s : State) (i : Nat) (f : Dma → Dma) : (s.modCh i f).store = s.store := rfl
@[simp] theorem State.modCh_pwr (s : State) (i : Nat) (f : Dma → Dma) : (s.modCh i f).pwr = s.pwr := rfl
@[simp] theorem State.modCh_flt (s : State) (i : Nat) (f : Dma → Dma) : (s.modCh i f).flt = s.flt := rfl
@[simp] theorem State.modCh_misc (s : State) (i : Nat) (f : Dma → Dma) : (s.modCh i f).misc = s.misc := rfl
@[simp] theorem State.modCh_blk (s : State) (i : Nat) (f : Dma → Dma) : (s.modCh i f).blk = s.blk := rfl
@[simp] theorem State.modCh_shot (s : State) (i : Nat) (f : Dma → Dma) : (s.modCh i f).shot = s.shot := rfl
@[simp] theorem State.modCh_shots (s : State) (i : Nat) (f : Dma → Dma) : (s.modCh i f).shots = s.shots := rfl
@[simp] theorem State.modCh_land (s : State) (i : Nat) (f : Dma → Dma) (k : Nat) : (s.modCh i f).land k = s.land k := rfl
@[simp] theorem State.modCh_gal (s : State) (i : Nat) (f : Dma → Dma) (k : Nat) : (s.modCh i f).gal k = s.gal k := rfl
@[simp] theorem State.modCh_port (s : State) (i : Nat) (f : Dma → Dma) (k : Nat) : (s.modCh i f).port k = s.port k := rfl
@[simp] theorem State.modCh_box (s : State) (i : Nat) (f : Dma → Dma) (k : Nat) : (s.modCh i f).box k = s.box k := rfl
@[simp] theorem State.modCh_now (s : State) (i : Nat) (f : Dma → Dma) : (s.modCh i f).now = s.now := rfl
@[simp] theorem State.modCh_tread (s : State) (i : Nat) (f : Dma → Dma) : (s.modCh i f).tread = s.tread := rfl
@[simp] theorem State.modCh_hall (s : State) (i : Nat) (f : Dma → Dma) (k : Nat) : (s.modCh i f).hall k = s.hall k := rfl

/-! ## `State.setBox` -/

@[simp] theorem State.setBox_pending (s : State) (i : Nat) (x : Mailbox) : (s.setBox i x).pending = s.pending := rfl
@[simp] theorem State.setBox_chip (s : State) (i : Nat) (x : Mailbox) : (s.setBox i x).chip = s.chip := rfl
@[simp] theorem State.setBox_cfg (s : State) (i : Nat) (x : Mailbox) : (s.setBox i x).cfg = s.cfg := rfl
@[simp] theorem State.setBox_landings (s : State) (i : Nat) (x : Mailbox) : (s.setBox i x).landings = s.landings := rfl
@[simp] theorem State.setBox_galleries (s : State) (i : Nat) (x : Mailbox) : (s.setBox i x).galleries = s.galleries := rfl
@[simp] theorem State.setBox_ports (s : State) (i : Nat) (x : Mailbox) : (s.setBox i x).ports = s.ports := rfl
@[simp] theorem State.setBox_sent (s : State) (i : Nat) (x : Mailbox) : (s.setBox i x).sent = s.sent := rfl
@[simp] theorem State.setBox_halls (s : State) (i : Nat) (x : Mailbox) : (s.setBox i x).halls = s.halls := rfl
@[simp] theorem State.setBox_epochs (s : State) (i : Nat) (x : Mailbox) : (s.setBox i x).epochs = s.epochs := rfl
@[simp] theorem State.setBox_windows (s : State) (i : Nat) (x : Mailbox) : (s.setBox i x).windows = s.windows := rfl
@[simp] theorem State.setBox_away (s : State) (i : Nat) (x : Mailbox) : (s.setBox i x).away = s.away := rfl
@[simp] theorem State.setBox_ahead (s : State) (i : Nat) (x : Mailbox) : (s.setBox i x).ahead = s.ahead := rfl
@[simp] theorem State.setBox_dma (s : State) (i : Nat) (x : Mailbox) : (s.setBox i x).dma = s.dma := rfl
@[simp] theorem State.setBox_desc (s : State) (i : Nat) (x : Mailbox) : (s.setBox i x).desc = s.desc := rfl
@[simp] theorem State.setBox_eq (s : State) (i : Nat) (x : Mailbox) : (s.setBox i x).eq = s.eq := rfl
@[simp] theorem State.setBox_arcade (s : State) (i : Nat) (x : Mailbox) : (s.setBox i x).arcade = s.arcade := rfl
@[simp] theorem State.setBox_store (s : State) (i : Nat) (x : Mailbox) : (s.setBox i x).store = s.store := rfl
@[simp] theorem State.setBox_pwr (s : State) (i : Nat) (x : Mailbox) : (s.setBox i x).pwr = s.pwr := rfl
@[simp] theorem State.setBox_flt (s : State) (i : Nat) (x : Mailbox) : (s.setBox i x).flt = s.flt := rfl
@[simp] theorem State.setBox_misc (s : State) (i : Nat) (x : Mailbox) : (s.setBox i x).misc = s.misc := rfl
@[simp] theorem State.setBox_blk (s : State) (i : Nat) (x : Mailbox) : (s.setBox i x).blk = s.blk := rfl
@[simp] theorem State.setBox_shot (s : State) (i : Nat) (x : Mailbox) : (s.setBox i x).shot = s.shot := rfl
@[simp] theorem State.setBox_shots (s : State) (i : Nat) (x : Mailbox) : (s.setBox i x).shots = s.shots := rfl
@[simp] theorem State.setBox_land (s : State) (i : Nat) (x : Mailbox) (k : Nat) : (s.setBox i x).land k = s.land k := rfl
@[simp] theorem State.setBox_gal (s : State) (i : Nat) (x : Mailbox) (k : Nat) : (s.setBox i x).gal k = s.gal k := rfl
@[simp] theorem State.setBox_port (s : State) (i : Nat) (x : Mailbox) (k : Nat) : (s.setBox i x).port k = s.port k := rfl
@[simp] theorem State.setBox_ch (s : State) (i : Nat) (x : Mailbox) (k : Nat) : (s.setBox i x).ch k = s.ch k := rfl
@[simp] theorem State.setBox_now (s : State) (i : Nat) (x : Mailbox) : (s.setBox i x).now = s.now := rfl
@[simp] theorem State.setBox_tread (s : State) (i : Nat) (x : Mailbox) : (s.setBox i x).tread = s.tread := rfl
@[simp] theorem State.setBox_hall (s : State) (i : Nat) (x : Mailbox) (k : Nat) : (s.setBox i x).hall k = s.hall k := rfl

/-! ## `State.modBox` -/

@[simp] theorem State.modBox_pending (s : State) (i : Nat) (f : Mailbox → Mailbox) : (s.modBox i f).pending = s.pending := rfl
@[simp] theorem State.modBox_chip (s : State) (i : Nat) (f : Mailbox → Mailbox) : (s.modBox i f).chip = s.chip := rfl
@[simp] theorem State.modBox_cfg (s : State) (i : Nat) (f : Mailbox → Mailbox) : (s.modBox i f).cfg = s.cfg := rfl
@[simp] theorem State.modBox_landings (s : State) (i : Nat) (f : Mailbox → Mailbox) : (s.modBox i f).landings = s.landings := rfl
@[simp] theorem State.modBox_galleries (s : State) (i : Nat) (f : Mailbox → Mailbox) : (s.modBox i f).galleries = s.galleries := rfl
@[simp] theorem State.modBox_ports (s : State) (i : Nat) (f : Mailbox → Mailbox) : (s.modBox i f).ports = s.ports := rfl
@[simp] theorem State.modBox_sent (s : State) (i : Nat) (f : Mailbox → Mailbox) : (s.modBox i f).sent = s.sent := rfl
@[simp] theorem State.modBox_halls (s : State) (i : Nat) (f : Mailbox → Mailbox) : (s.modBox i f).halls = s.halls := rfl
@[simp] theorem State.modBox_epochs (s : State) (i : Nat) (f : Mailbox → Mailbox) : (s.modBox i f).epochs = s.epochs := rfl
@[simp] theorem State.modBox_windows (s : State) (i : Nat) (f : Mailbox → Mailbox) : (s.modBox i f).windows = s.windows := rfl
@[simp] theorem State.modBox_away (s : State) (i : Nat) (f : Mailbox → Mailbox) : (s.modBox i f).away = s.away := rfl
@[simp] theorem State.modBox_ahead (s : State) (i : Nat) (f : Mailbox → Mailbox) : (s.modBox i f).ahead = s.ahead := rfl
@[simp] theorem State.modBox_dma (s : State) (i : Nat) (f : Mailbox → Mailbox) : (s.modBox i f).dma = s.dma := rfl
@[simp] theorem State.modBox_desc (s : State) (i : Nat) (f : Mailbox → Mailbox) : (s.modBox i f).desc = s.desc := rfl
@[simp] theorem State.modBox_eq (s : State) (i : Nat) (f : Mailbox → Mailbox) : (s.modBox i f).eq = s.eq := rfl
@[simp] theorem State.modBox_arcade (s : State) (i : Nat) (f : Mailbox → Mailbox) : (s.modBox i f).arcade = s.arcade := rfl
@[simp] theorem State.modBox_store (s : State) (i : Nat) (f : Mailbox → Mailbox) : (s.modBox i f).store = s.store := rfl
@[simp] theorem State.modBox_pwr (s : State) (i : Nat) (f : Mailbox → Mailbox) : (s.modBox i f).pwr = s.pwr := rfl
@[simp] theorem State.modBox_flt (s : State) (i : Nat) (f : Mailbox → Mailbox) : (s.modBox i f).flt = s.flt := rfl
@[simp] theorem State.modBox_misc (s : State) (i : Nat) (f : Mailbox → Mailbox) : (s.modBox i f).misc = s.misc := rfl
@[simp] theorem State.modBox_blk (s : State) (i : Nat) (f : Mailbox → Mailbox) : (s.modBox i f).blk = s.blk := rfl
@[simp] theorem State.modBox_shot (s : State) (i : Nat) (f : Mailbox → Mailbox) : (s.modBox i f).shot = s.shot := rfl
@[simp] theorem State.modBox_shots (s : State) (i : Nat) (f : Mailbox → Mailbox) : (s.modBox i f).shots = s.shots := rfl
@[simp] theorem State.modBox_land (s : State) (i : Nat) (f : Mailbox → Mailbox) (k : Nat) : (s.modBox i f).land k = s.land k := rfl
@[simp] theorem State.modBox_gal (s : State) (i : Nat) (f : Mailbox → Mailbox) (k : Nat) : (s.modBox i f).gal k = s.gal k := rfl
@[simp] theorem State.modBox_port (s : State) (i : Nat) (f : Mailbox → Mailbox) (k : Nat) : (s.modBox i f).port k = s.port k := rfl
@[simp] theorem State.modBox_ch (s : State) (i : Nat) (f : Mailbox → Mailbox) (k : Nat) : (s.modBox i f).ch k = s.ch k := rfl
@[simp] theorem State.modBox_now (s : State) (i : Nat) (f : Mailbox → Mailbox) : (s.modBox i f).now = s.now := rfl
@[simp] theorem State.modBox_tread (s : State) (i : Nat) (f : Mailbox → Mailbox) : (s.modBox i f).tread = s.tread := rfl
@[simp] theorem State.modBox_hall (s : State) (i : Nat) (f : Mailbox → Mailbox) (k : Nat) : (s.modBox i f).hall k = s.hall k := rfl

/-! ## `State.modArb` -/

@[simp] theorem State.modArb_pending (s : State) (i : Nat) (f : Arb → Arb) : (s.modArb i f).pending = s.pending := rfl
@[simp] theorem State.modArb_chip (s : State) (i : Nat) (f : Arb → Arb) : (s.modArb i f).chip = s.chip := rfl
@[simp] theorem State.modArb_cfg (s : State) (i : Nat) (f : Arb → Arb) : (s.modArb i f).cfg = s.cfg := rfl
@[simp] theorem State.modArb_galleries (s : State) (i : Nat) (f : Arb → Arb) : (s.modArb i f).galleries = s.galleries := rfl
@[simp] theorem State.modArb_ports (s : State) (i : Nat) (f : Arb → Arb) : (s.modArb i f).ports = s.ports := rfl
@[simp] theorem State.modArb_sent (s : State) (i : Nat) (f : Arb → Arb) : (s.modArb i f).sent = s.sent := rfl
@[simp] theorem State.modArb_halls (s : State) (i : Nat) (f : Arb → Arb) : (s.modArb i f).halls = s.halls := rfl
@[simp] theorem State.modArb_epochs (s : State) (i : Nat) (f : Arb → Arb) : (s.modArb i f).epochs = s.epochs := rfl
@[simp] theorem State.modArb_windows (s : State) (i : Nat) (f : Arb → Arb) : (s.modArb i f).windows = s.windows := rfl
@[simp] theorem State.modArb_away (s : State) (i : Nat) (f : Arb → Arb) : (s.modArb i f).away = s.away := rfl
@[simp] theorem State.modArb_ahead (s : State) (i : Nat) (f : Arb → Arb) : (s.modArb i f).ahead = s.ahead := rfl
@[simp] theorem State.modArb_dma (s : State) (i : Nat) (f : Arb → Arb) : (s.modArb i f).dma = s.dma := rfl
@[simp] theorem State.modArb_desc (s : State) (i : Nat) (f : Arb → Arb) : (s.modArb i f).desc = s.desc := rfl
@[simp] theorem State.modArb_boxes (s : State) (i : Nat) (f : Arb → Arb) : (s.modArb i f).boxes = s.boxes := rfl
@[simp] theorem State.modArb_eq (s : State) (i : Nat) (f : Arb → Arb) : (s.modArb i f).eq = s.eq := rfl
@[simp] theorem State.modArb_arcade (s : State) (i : Nat) (f : Arb → Arb) : (s.modArb i f).arcade = s.arcade := rfl
@[simp] theorem State.modArb_store (s : State) (i : Nat) (f : Arb → Arb) : (s.modArb i f).store = s.store := rfl
@[simp] theorem State.modArb_pwr (s : State) (i : Nat) (f : Arb → Arb) : (s.modArb i f).pwr = s.pwr := rfl
@[simp] theorem State.modArb_flt (s : State) (i : Nat) (f : Arb → Arb) : (s.modArb i f).flt = s.flt := rfl
@[simp] theorem State.modArb_misc (s : State) (i : Nat) (f : Arb → Arb) : (s.modArb i f).misc = s.misc := rfl
@[simp] theorem State.modArb_blk (s : State) (i : Nat) (f : Arb → Arb) : (s.modArb i f).blk = s.blk := rfl
@[simp] theorem State.modArb_shot (s : State) (i : Nat) (f : Arb → Arb) : (s.modArb i f).shot = s.shot := rfl
@[simp] theorem State.modArb_shots (s : State) (i : Nat) (f : Arb → Arb) : (s.modArb i f).shots = s.shots := rfl
@[simp] theorem State.modArb_gal (s : State) (i : Nat) (f : Arb → Arb) (k : Nat) : (s.modArb i f).gal k = s.gal k := rfl
@[simp] theorem State.modArb_port (s : State) (i : Nat) (f : Arb → Arb) (k : Nat) : (s.modArb i f).port k = s.port k := rfl
@[simp] theorem State.modArb_ch (s : State) (i : Nat) (f : Arb → Arb) (k : Nat) : (s.modArb i f).ch k = s.ch k := rfl
@[simp] theorem State.modArb_box (s : State) (i : Nat) (f : Arb → Arb) (k : Nat) : (s.modArb i f).box k = s.box k := rfl
@[simp] theorem State.modArb_now (s : State) (i : Nat) (f : Arb → Arb) : (s.modArb i f).now = s.now := rfl
@[simp] theorem State.modArb_tread (s : State) (i : Nat) (f : Arb → Arb) : (s.modArb i f).tread = s.tread := rfl
@[simp] theorem State.modArb_hall (s : State) (i : Nat) (f : Arb → Arb) (k : Nat) : (s.modArb i f).hall k = s.hall k := rfl

/-! ## `State.modSeq` -/

@[simp] theorem State.modSeq_pending (s : State) (i : Nat) (f : Seq → Seq) : (s.modSeq i f).pending = s.pending := rfl
@[simp] theorem State.modSeq_chip (s : State) (i : Nat) (f : Seq → Seq) : (s.modSeq i f).chip = s.chip := rfl
@[simp] theorem State.modSeq_cfg (s : State) (i : Nat) (f : Seq → Seq) : (s.modSeq i f).cfg = s.cfg := rfl
@[simp] theorem State.modSeq_galleries (s : State) (i : Nat) (f : Seq → Seq) : (s.modSeq i f).galleries = s.galleries := rfl
@[simp] theorem State.modSeq_ports (s : State) (i : Nat) (f : Seq → Seq) : (s.modSeq i f).ports = s.ports := rfl
@[simp] theorem State.modSeq_sent (s : State) (i : Nat) (f : Seq → Seq) : (s.modSeq i f).sent = s.sent := rfl
@[simp] theorem State.modSeq_halls (s : State) (i : Nat) (f : Seq → Seq) : (s.modSeq i f).halls = s.halls := rfl
@[simp] theorem State.modSeq_epochs (s : State) (i : Nat) (f : Seq → Seq) : (s.modSeq i f).epochs = s.epochs := rfl
@[simp] theorem State.modSeq_windows (s : State) (i : Nat) (f : Seq → Seq) : (s.modSeq i f).windows = s.windows := rfl
@[simp] theorem State.modSeq_away (s : State) (i : Nat) (f : Seq → Seq) : (s.modSeq i f).away = s.away := rfl
@[simp] theorem State.modSeq_ahead (s : State) (i : Nat) (f : Seq → Seq) : (s.modSeq i f).ahead = s.ahead := rfl
@[simp] theorem State.modSeq_dma (s : State) (i : Nat) (f : Seq → Seq) : (s.modSeq i f).dma = s.dma := rfl
@[simp] theorem State.modSeq_desc (s : State) (i : Nat) (f : Seq → Seq) : (s.modSeq i f).desc = s.desc := rfl
@[simp] theorem State.modSeq_boxes (s : State) (i : Nat) (f : Seq → Seq) : (s.modSeq i f).boxes = s.boxes := rfl
@[simp] theorem State.modSeq_eq (s : State) (i : Nat) (f : Seq → Seq) : (s.modSeq i f).eq = s.eq := rfl
@[simp] theorem State.modSeq_arcade (s : State) (i : Nat) (f : Seq → Seq) : (s.modSeq i f).arcade = s.arcade := rfl
@[simp] theorem State.modSeq_store (s : State) (i : Nat) (f : Seq → Seq) : (s.modSeq i f).store = s.store := rfl
@[simp] theorem State.modSeq_pwr (s : State) (i : Nat) (f : Seq → Seq) : (s.modSeq i f).pwr = s.pwr := rfl
@[simp] theorem State.modSeq_flt (s : State) (i : Nat) (f : Seq → Seq) : (s.modSeq i f).flt = s.flt := rfl
@[simp] theorem State.modSeq_misc (s : State) (i : Nat) (f : Seq → Seq) : (s.modSeq i f).misc = s.misc := rfl
@[simp] theorem State.modSeq_blk (s : State) (i : Nat) (f : Seq → Seq) : (s.modSeq i f).blk = s.blk := rfl
@[simp] theorem State.modSeq_shot (s : State) (i : Nat) (f : Seq → Seq) : (s.modSeq i f).shot = s.shot := rfl
@[simp] theorem State.modSeq_shots (s : State) (i : Nat) (f : Seq → Seq) : (s.modSeq i f).shots = s.shots := rfl
@[simp] theorem State.modSeq_gal (s : State) (i : Nat) (f : Seq → Seq) (k : Nat) : (s.modSeq i f).gal k = s.gal k := rfl
@[simp] theorem State.modSeq_port (s : State) (i : Nat) (f : Seq → Seq) (k : Nat) : (s.modSeq i f).port k = s.port k := rfl
@[simp] theorem State.modSeq_ch (s : State) (i : Nat) (f : Seq → Seq) (k : Nat) : (s.modSeq i f).ch k = s.ch k := rfl
@[simp] theorem State.modSeq_box (s : State) (i : Nat) (f : Seq → Seq) (k : Nat) : (s.modSeq i f).box k = s.box k := rfl
@[simp] theorem State.modSeq_now (s : State) (i : Nat) (f : Seq → Seq) : (s.modSeq i f).now = s.now := rfl
@[simp] theorem State.modSeq_tread (s : State) (i : Nat) (f : Seq → Seq) : (s.modSeq i f).tread = s.tread := rfl
@[simp] theorem State.modSeq_hall (s : State) (i : Nat) (f : Seq → Seq) (k : Nat) : (s.modSeq i f).hall k = s.hall k := rfl

/-! ## `State.modMnt` -/

@[simp] theorem State.modMnt_pending (s : State) (i : Nat) (f : Mnt → Mnt) : (s.modMnt i f).pending = s.pending := rfl
@[simp] theorem State.modMnt_chip (s : State) (i : Nat) (f : Mnt → Mnt) : (s.modMnt i f).chip = s.chip := rfl
@[simp] theorem State.modMnt_cfg (s : State) (i : Nat) (f : Mnt → Mnt) : (s.modMnt i f).cfg = s.cfg := rfl
@[simp] theorem State.modMnt_galleries (s : State) (i : Nat) (f : Mnt → Mnt) : (s.modMnt i f).galleries = s.galleries := rfl
@[simp] theorem State.modMnt_ports (s : State) (i : Nat) (f : Mnt → Mnt) : (s.modMnt i f).ports = s.ports := rfl
@[simp] theorem State.modMnt_sent (s : State) (i : Nat) (f : Mnt → Mnt) : (s.modMnt i f).sent = s.sent := rfl
@[simp] theorem State.modMnt_halls (s : State) (i : Nat) (f : Mnt → Mnt) : (s.modMnt i f).halls = s.halls := rfl
@[simp] theorem State.modMnt_epochs (s : State) (i : Nat) (f : Mnt → Mnt) : (s.modMnt i f).epochs = s.epochs := rfl
@[simp] theorem State.modMnt_windows (s : State) (i : Nat) (f : Mnt → Mnt) : (s.modMnt i f).windows = s.windows := rfl
@[simp] theorem State.modMnt_away (s : State) (i : Nat) (f : Mnt → Mnt) : (s.modMnt i f).away = s.away := rfl
@[simp] theorem State.modMnt_ahead (s : State) (i : Nat) (f : Mnt → Mnt) : (s.modMnt i f).ahead = s.ahead := rfl
@[simp] theorem State.modMnt_dma (s : State) (i : Nat) (f : Mnt → Mnt) : (s.modMnt i f).dma = s.dma := rfl
@[simp] theorem State.modMnt_desc (s : State) (i : Nat) (f : Mnt → Mnt) : (s.modMnt i f).desc = s.desc := rfl
@[simp] theorem State.modMnt_boxes (s : State) (i : Nat) (f : Mnt → Mnt) : (s.modMnt i f).boxes = s.boxes := rfl
@[simp] theorem State.modMnt_eq (s : State) (i : Nat) (f : Mnt → Mnt) : (s.modMnt i f).eq = s.eq := rfl
@[simp] theorem State.modMnt_arcade (s : State) (i : Nat) (f : Mnt → Mnt) : (s.modMnt i f).arcade = s.arcade := rfl
@[simp] theorem State.modMnt_store (s : State) (i : Nat) (f : Mnt → Mnt) : (s.modMnt i f).store = s.store := rfl
@[simp] theorem State.modMnt_pwr (s : State) (i : Nat) (f : Mnt → Mnt) : (s.modMnt i f).pwr = s.pwr := rfl
@[simp] theorem State.modMnt_flt (s : State) (i : Nat) (f : Mnt → Mnt) : (s.modMnt i f).flt = s.flt := rfl
@[simp] theorem State.modMnt_misc (s : State) (i : Nat) (f : Mnt → Mnt) : (s.modMnt i f).misc = s.misc := rfl
@[simp] theorem State.modMnt_blk (s : State) (i : Nat) (f : Mnt → Mnt) : (s.modMnt i f).blk = s.blk := rfl
@[simp] theorem State.modMnt_shot (s : State) (i : Nat) (f : Mnt → Mnt) : (s.modMnt i f).shot = s.shot := rfl
@[simp] theorem State.modMnt_shots (s : State) (i : Nat) (f : Mnt → Mnt) : (s.modMnt i f).shots = s.shots := rfl
@[simp] theorem State.modMnt_gal (s : State) (i : Nat) (f : Mnt → Mnt) (k : Nat) : (s.modMnt i f).gal k = s.gal k := rfl
@[simp] theorem State.modMnt_port (s : State) (i : Nat) (f : Mnt → Mnt) (k : Nat) : (s.modMnt i f).port k = s.port k := rfl
@[simp] theorem State.modMnt_ch (s : State) (i : Nat) (f : Mnt → Mnt) (k : Nat) : (s.modMnt i f).ch k = s.ch k := rfl
@[simp] theorem State.modMnt_box (s : State) (i : Nat) (f : Mnt → Mnt) (k : Nat) : (s.modMnt i f).box k = s.box k := rfl
@[simp] theorem State.modMnt_now (s : State) (i : Nat) (f : Mnt → Mnt) : (s.modMnt i f).now = s.now := rfl
@[simp] theorem State.modMnt_tread (s : State) (i : Nat) (f : Mnt → Mnt) : (s.modMnt i f).tread = s.tread := rfl
@[simp] theorem State.modMnt_hall (s : State) (i : Nat) (f : Mnt → Mnt) (k : Nat) : (s.modMnt i f).hall k = s.hall k := rfl

/-! ## `State.modPhy` -/

@[simp] theorem State.modPhy_pending (s : State) (i : Nat) (f : Phy → Phy) : (s.modPhy i f).pending = s.pending := rfl
@[simp] theorem State.modPhy_chip (s : State) (i : Nat) (f : Phy → Phy) : (s.modPhy i f).chip = s.chip := rfl
@[simp] theorem State.modPhy_cfg (s : State) (i : Nat) (f : Phy → Phy) : (s.modPhy i f).cfg = s.cfg := rfl
@[simp] theorem State.modPhy_galleries (s : State) (i : Nat) (f : Phy → Phy) : (s.modPhy i f).galleries = s.galleries := rfl
@[simp] theorem State.modPhy_ports (s : State) (i : Nat) (f : Phy → Phy) : (s.modPhy i f).ports = s.ports := rfl
@[simp] theorem State.modPhy_sent (s : State) (i : Nat) (f : Phy → Phy) : (s.modPhy i f).sent = s.sent := rfl
@[simp] theorem State.modPhy_halls (s : State) (i : Nat) (f : Phy → Phy) : (s.modPhy i f).halls = s.halls := rfl
@[simp] theorem State.modPhy_epochs (s : State) (i : Nat) (f : Phy → Phy) : (s.modPhy i f).epochs = s.epochs := rfl
@[simp] theorem State.modPhy_windows (s : State) (i : Nat) (f : Phy → Phy) : (s.modPhy i f).windows = s.windows := rfl
@[simp] theorem State.modPhy_away (s : State) (i : Nat) (f : Phy → Phy) : (s.modPhy i f).away = s.away := rfl
@[simp] theorem State.modPhy_ahead (s : State) (i : Nat) (f : Phy → Phy) : (s.modPhy i f).ahead = s.ahead := rfl
@[simp] theorem State.modPhy_dma (s : State) (i : Nat) (f : Phy → Phy) : (s.modPhy i f).dma = s.dma := rfl
@[simp] theorem State.modPhy_desc (s : State) (i : Nat) (f : Phy → Phy) : (s.modPhy i f).desc = s.desc := rfl
@[simp] theorem State.modPhy_boxes (s : State) (i : Nat) (f : Phy → Phy) : (s.modPhy i f).boxes = s.boxes := rfl
@[simp] theorem State.modPhy_eq (s : State) (i : Nat) (f : Phy → Phy) : (s.modPhy i f).eq = s.eq := rfl
@[simp] theorem State.modPhy_arcade (s : State) (i : Nat) (f : Phy → Phy) : (s.modPhy i f).arcade = s.arcade := rfl
@[simp] theorem State.modPhy_store (s : State) (i : Nat) (f : Phy → Phy) : (s.modPhy i f).store = s.store := rfl
@[simp] theorem State.modPhy_pwr (s : State) (i : Nat) (f : Phy → Phy) : (s.modPhy i f).pwr = s.pwr := rfl
@[simp] theorem State.modPhy_flt (s : State) (i : Nat) (f : Phy → Phy) : (s.modPhy i f).flt = s.flt := rfl
@[simp] theorem State.modPhy_misc (s : State) (i : Nat) (f : Phy → Phy) : (s.modPhy i f).misc = s.misc := rfl
@[simp] theorem State.modPhy_blk (s : State) (i : Nat) (f : Phy → Phy) : (s.modPhy i f).blk = s.blk := rfl
@[simp] theorem State.modPhy_shot (s : State) (i : Nat) (f : Phy → Phy) : (s.modPhy i f).shot = s.shot := rfl
@[simp] theorem State.modPhy_shots (s : State) (i : Nat) (f : Phy → Phy) : (s.modPhy i f).shots = s.shots := rfl
@[simp] theorem State.modPhy_gal (s : State) (i : Nat) (f : Phy → Phy) (k : Nat) : (s.modPhy i f).gal k = s.gal k := rfl
@[simp] theorem State.modPhy_port (s : State) (i : Nat) (f : Phy → Phy) (k : Nat) : (s.modPhy i f).port k = s.port k := rfl
@[simp] theorem State.modPhy_ch (s : State) (i : Nat) (f : Phy → Phy) (k : Nat) : (s.modPhy i f).ch k = s.ch k := rfl
@[simp] theorem State.modPhy_box (s : State) (i : Nat) (f : Phy → Phy) (k : Nat) : (s.modPhy i f).box k = s.box k := rfl
@[simp] theorem State.modPhy_now (s : State) (i : Nat) (f : Phy → Phy) : (s.modPhy i f).now = s.now := rfl
@[simp] theorem State.modPhy_tread (s : State) (i : Nat) (f : Phy → Phy) : (s.modPhy i f).tread = s.tread := rfl
@[simp] theorem State.modPhy_hall (s : State) (i : Nat) (f : Phy → Phy) (k : Nat) : (s.modPhy i f).hall k = s.hall k := rfl

/-! ## `State.modCal` -/

@[simp] theorem State.modCal_pending (s : State) (i : Nat) (f : Cal → Cal) : (s.modCal i f).pending = s.pending := rfl
@[simp] theorem State.modCal_chip (s : State) (i : Nat) (f : Cal → Cal) : (s.modCal i f).chip = s.chip := rfl
@[simp] theorem State.modCal_cfg (s : State) (i : Nat) (f : Cal → Cal) : (s.modCal i f).cfg = s.cfg := rfl
@[simp] theorem State.modCal_galleries (s : State) (i : Nat) (f : Cal → Cal) : (s.modCal i f).galleries = s.galleries := rfl
@[simp] theorem State.modCal_ports (s : State) (i : Nat) (f : Cal → Cal) : (s.modCal i f).ports = s.ports := rfl
@[simp] theorem State.modCal_sent (s : State) (i : Nat) (f : Cal → Cal) : (s.modCal i f).sent = s.sent := rfl
@[simp] theorem State.modCal_halls (s : State) (i : Nat) (f : Cal → Cal) : (s.modCal i f).halls = s.halls := rfl
@[simp] theorem State.modCal_epochs (s : State) (i : Nat) (f : Cal → Cal) : (s.modCal i f).epochs = s.epochs := rfl
@[simp] theorem State.modCal_windows (s : State) (i : Nat) (f : Cal → Cal) : (s.modCal i f).windows = s.windows := rfl
@[simp] theorem State.modCal_away (s : State) (i : Nat) (f : Cal → Cal) : (s.modCal i f).away = s.away := rfl
@[simp] theorem State.modCal_ahead (s : State) (i : Nat) (f : Cal → Cal) : (s.modCal i f).ahead = s.ahead := rfl
@[simp] theorem State.modCal_dma (s : State) (i : Nat) (f : Cal → Cal) : (s.modCal i f).dma = s.dma := rfl
@[simp] theorem State.modCal_desc (s : State) (i : Nat) (f : Cal → Cal) : (s.modCal i f).desc = s.desc := rfl
@[simp] theorem State.modCal_boxes (s : State) (i : Nat) (f : Cal → Cal) : (s.modCal i f).boxes = s.boxes := rfl
@[simp] theorem State.modCal_eq (s : State) (i : Nat) (f : Cal → Cal) : (s.modCal i f).eq = s.eq := rfl
@[simp] theorem State.modCal_arcade (s : State) (i : Nat) (f : Cal → Cal) : (s.modCal i f).arcade = s.arcade := rfl
@[simp] theorem State.modCal_store (s : State) (i : Nat) (f : Cal → Cal) : (s.modCal i f).store = s.store := rfl
@[simp] theorem State.modCal_pwr (s : State) (i : Nat) (f : Cal → Cal) : (s.modCal i f).pwr = s.pwr := rfl
@[simp] theorem State.modCal_flt (s : State) (i : Nat) (f : Cal → Cal) : (s.modCal i f).flt = s.flt := rfl
@[simp] theorem State.modCal_misc (s : State) (i : Nat) (f : Cal → Cal) : (s.modCal i f).misc = s.misc := rfl
@[simp] theorem State.modCal_blk (s : State) (i : Nat) (f : Cal → Cal) : (s.modCal i f).blk = s.blk := rfl
@[simp] theorem State.modCal_shot (s : State) (i : Nat) (f : Cal → Cal) : (s.modCal i f).shot = s.shot := rfl
@[simp] theorem State.modCal_shots (s : State) (i : Nat) (f : Cal → Cal) : (s.modCal i f).shots = s.shots := rfl
@[simp] theorem State.modCal_gal (s : State) (i : Nat) (f : Cal → Cal) (k : Nat) : (s.modCal i f).gal k = s.gal k := rfl
@[simp] theorem State.modCal_port (s : State) (i : Nat) (f : Cal → Cal) (k : Nat) : (s.modCal i f).port k = s.port k := rfl
@[simp] theorem State.modCal_ch (s : State) (i : Nat) (f : Cal → Cal) (k : Nat) : (s.modCal i f).ch k = s.ch k := rfl
@[simp] theorem State.modCal_box (s : State) (i : Nat) (f : Cal → Cal) (k : Nat) : (s.modCal i f).box k = s.box k := rfl
@[simp] theorem State.modCal_now (s : State) (i : Nat) (f : Cal → Cal) : (s.modCal i f).now = s.now := rfl
@[simp] theorem State.modCal_tread (s : State) (i : Nat) (f : Cal → Cal) : (s.modCal i f).tread = s.tread := rfl
@[simp] theorem State.modCal_hall (s : State) (i : Nat) (f : Cal → Cal) (k : Nat) : (s.modCal i f).hall k = s.hall k := rfl

/-! ## `State.modSbd` -/

@[simp] theorem State.modSbd_pending (s : State) (i : Nat) (f : Sbd → Sbd) : (s.modSbd i f).pending = s.pending := rfl
@[simp] theorem State.modSbd_chip (s : State) (i : Nat) (f : Sbd → Sbd) : (s.modSbd i f).chip = s.chip := rfl
@[simp] theorem State.modSbd_cfg (s : State) (i : Nat) (f : Sbd → Sbd) : (s.modSbd i f).cfg = s.cfg := rfl
@[simp] theorem State.modSbd_galleries (s : State) (i : Nat) (f : Sbd → Sbd) : (s.modSbd i f).galleries = s.galleries := rfl
@[simp] theorem State.modSbd_ports (s : State) (i : Nat) (f : Sbd → Sbd) : (s.modSbd i f).ports = s.ports := rfl
@[simp] theorem State.modSbd_sent (s : State) (i : Nat) (f : Sbd → Sbd) : (s.modSbd i f).sent = s.sent := rfl
@[simp] theorem State.modSbd_halls (s : State) (i : Nat) (f : Sbd → Sbd) : (s.modSbd i f).halls = s.halls := rfl
@[simp] theorem State.modSbd_epochs (s : State) (i : Nat) (f : Sbd → Sbd) : (s.modSbd i f).epochs = s.epochs := rfl
@[simp] theorem State.modSbd_windows (s : State) (i : Nat) (f : Sbd → Sbd) : (s.modSbd i f).windows = s.windows := rfl
@[simp] theorem State.modSbd_away (s : State) (i : Nat) (f : Sbd → Sbd) : (s.modSbd i f).away = s.away := rfl
@[simp] theorem State.modSbd_ahead (s : State) (i : Nat) (f : Sbd → Sbd) : (s.modSbd i f).ahead = s.ahead := rfl
@[simp] theorem State.modSbd_dma (s : State) (i : Nat) (f : Sbd → Sbd) : (s.modSbd i f).dma = s.dma := rfl
@[simp] theorem State.modSbd_desc (s : State) (i : Nat) (f : Sbd → Sbd) : (s.modSbd i f).desc = s.desc := rfl
@[simp] theorem State.modSbd_boxes (s : State) (i : Nat) (f : Sbd → Sbd) : (s.modSbd i f).boxes = s.boxes := rfl
@[simp] theorem State.modSbd_eq (s : State) (i : Nat) (f : Sbd → Sbd) : (s.modSbd i f).eq = s.eq := rfl
@[simp] theorem State.modSbd_arcade (s : State) (i : Nat) (f : Sbd → Sbd) : (s.modSbd i f).arcade = s.arcade := rfl
@[simp] theorem State.modSbd_store (s : State) (i : Nat) (f : Sbd → Sbd) : (s.modSbd i f).store = s.store := rfl
@[simp] theorem State.modSbd_pwr (s : State) (i : Nat) (f : Sbd → Sbd) : (s.modSbd i f).pwr = s.pwr := rfl
@[simp] theorem State.modSbd_flt (s : State) (i : Nat) (f : Sbd → Sbd) : (s.modSbd i f).flt = s.flt := rfl
@[simp] theorem State.modSbd_misc (s : State) (i : Nat) (f : Sbd → Sbd) : (s.modSbd i f).misc = s.misc := rfl
@[simp] theorem State.modSbd_blk (s : State) (i : Nat) (f : Sbd → Sbd) : (s.modSbd i f).blk = s.blk := rfl
@[simp] theorem State.modSbd_shot (s : State) (i : Nat) (f : Sbd → Sbd) : (s.modSbd i f).shot = s.shot := rfl
@[simp] theorem State.modSbd_shots (s : State) (i : Nat) (f : Sbd → Sbd) : (s.modSbd i f).shots = s.shots := rfl
@[simp] theorem State.modSbd_gal (s : State) (i : Nat) (f : Sbd → Sbd) (k : Nat) : (s.modSbd i f).gal k = s.gal k := rfl
@[simp] theorem State.modSbd_port (s : State) (i : Nat) (f : Sbd → Sbd) (k : Nat) : (s.modSbd i f).port k = s.port k := rfl
@[simp] theorem State.modSbd_ch (s : State) (i : Nat) (f : Sbd → Sbd) (k : Nat) : (s.modSbd i f).ch k = s.ch k := rfl
@[simp] theorem State.modSbd_box (s : State) (i : Nat) (f : Sbd → Sbd) (k : Nat) : (s.modSbd i f).box k = s.box k := rfl
@[simp] theorem State.modSbd_now (s : State) (i : Nat) (f : Sbd → Sbd) : (s.modSbd i f).now = s.now := rfl
@[simp] theorem State.modSbd_tread (s : State) (i : Nat) (f : Sbd → Sbd) : (s.modSbd i f).tread = s.tread := rfl
@[simp] theorem State.modSbd_hall (s : State) (i : Nat) (f : Sbd → Sbd) (k : Nat) : (s.modSbd i f).hall k = s.hall k := rfl

/-! ## `State.modChip` -/

@[simp] theorem State.modChip_pending (s : State) (f : Chip → Chip) : (s.modChip f).pending = s.pending := rfl
@[simp] theorem State.modChip_cfg (s : State) (f : Chip → Chip) : (s.modChip f).cfg = s.cfg := rfl
@[simp] theorem State.modChip_landings (s : State) (f : Chip → Chip) : (s.modChip f).landings = s.landings := rfl
@[simp] theorem State.modChip_galleries (s : State) (f : Chip → Chip) : (s.modChip f).galleries = s.galleries := rfl
@[simp] theorem State.modChip_ports (s : State) (f : Chip → Chip) : (s.modChip f).ports = s.ports := rfl
@[simp] theorem State.modChip_sent (s : State) (f : Chip → Chip) : (s.modChip f).sent = s.sent := rfl
@[simp] theorem State.modChip_halls (s : State) (f : Chip → Chip) : (s.modChip f).halls = s.halls := rfl
@[simp] theorem State.modChip_epochs (s : State) (f : Chip → Chip) : (s.modChip f).epochs = s.epochs := rfl
@[simp] theorem State.modChip_windows (s : State) (f : Chip → Chip) : (s.modChip f).windows = s.windows := rfl
@[simp] theorem State.modChip_away (s : State) (f : Chip → Chip) : (s.modChip f).away = s.away := rfl
@[simp] theorem State.modChip_ahead (s : State) (f : Chip → Chip) : (s.modChip f).ahead = s.ahead := rfl
@[simp] theorem State.modChip_dma (s : State) (f : Chip → Chip) : (s.modChip f).dma = s.dma := rfl
@[simp] theorem State.modChip_desc (s : State) (f : Chip → Chip) : (s.modChip f).desc = s.desc := rfl
@[simp] theorem State.modChip_boxes (s : State) (f : Chip → Chip) : (s.modChip f).boxes = s.boxes := rfl
@[simp] theorem State.modChip_eq (s : State) (f : Chip → Chip) : (s.modChip f).eq = s.eq := rfl
@[simp] theorem State.modChip_arcade (s : State) (f : Chip → Chip) : (s.modChip f).arcade = s.arcade := rfl
@[simp] theorem State.modChip_store (s : State) (f : Chip → Chip) : (s.modChip f).store = s.store := rfl
@[simp] theorem State.modChip_pwr (s : State) (f : Chip → Chip) : (s.modChip f).pwr = s.pwr := rfl
@[simp] theorem State.modChip_flt (s : State) (f : Chip → Chip) : (s.modChip f).flt = s.flt := rfl
@[simp] theorem State.modChip_misc (s : State) (f : Chip → Chip) : (s.modChip f).misc = s.misc := rfl
@[simp] theorem State.modChip_blk (s : State) (f : Chip → Chip) : (s.modChip f).blk = s.blk := rfl
@[simp] theorem State.modChip_shot (s : State) (f : Chip → Chip) : (s.modChip f).shot = s.shot := rfl
@[simp] theorem State.modChip_shots (s : State) (f : Chip → Chip) : (s.modChip f).shots = s.shots := rfl
@[simp] theorem State.modChip_land (s : State) (f : Chip → Chip) (k : Nat) : (s.modChip f).land k = s.land k := rfl
@[simp] theorem State.modChip_gal (s : State) (f : Chip → Chip) (k : Nat) : (s.modChip f).gal k = s.gal k := rfl
@[simp] theorem State.modChip_port (s : State) (f : Chip → Chip) (k : Nat) : (s.modChip f).port k = s.port k := rfl
@[simp] theorem State.modChip_ch (s : State) (f : Chip → Chip) (k : Nat) : (s.modChip f).ch k = s.ch k := rfl
@[simp] theorem State.modChip_box (s : State) (f : Chip → Chip) (k : Nat) : (s.modChip f).box k = s.box k := rfl
@[simp] theorem State.modChip_hall (s : State) (f : Chip → Chip) (k : Nat) : (s.modChip f).hall k = s.hall k := rfl
@[simp] theorem State.modChip_chip (s : State) (f : Chip → Chip) : (s.modChip f).chip = f s.chip := rfl

/-! ## `State.modMisc` -/

@[simp] theorem State.modMisc_pending (s : State) (f : Misc → Misc) : (s.modMisc f).pending = s.pending := rfl
@[simp] theorem State.modMisc_chip (s : State) (f : Misc → Misc) : (s.modMisc f).chip = s.chip := rfl
@[simp] theorem State.modMisc_cfg (s : State) (f : Misc → Misc) : (s.modMisc f).cfg = s.cfg := rfl
@[simp] theorem State.modMisc_landings (s : State) (f : Misc → Misc) : (s.modMisc f).landings = s.landings := rfl
@[simp] theorem State.modMisc_galleries (s : State) (f : Misc → Misc) : (s.modMisc f).galleries = s.galleries := rfl
@[simp] theorem State.modMisc_ports (s : State) (f : Misc → Misc) : (s.modMisc f).ports = s.ports := rfl
@[simp] theorem State.modMisc_sent (s : State) (f : Misc → Misc) : (s.modMisc f).sent = s.sent := rfl
@[simp] theorem State.modMisc_halls (s : State) (f : Misc → Misc) : (s.modMisc f).halls = s.halls := rfl
@[simp] theorem State.modMisc_epochs (s : State) (f : Misc → Misc) : (s.modMisc f).epochs = s.epochs := rfl
@[simp] theorem State.modMisc_windows (s : State) (f : Misc → Misc) : (s.modMisc f).windows = s.windows := rfl
@[simp] theorem State.modMisc_away (s : State) (f : Misc → Misc) : (s.modMisc f).away = s.away := rfl
@[simp] theorem State.modMisc_ahead (s : State) (f : Misc → Misc) : (s.modMisc f).ahead = s.ahead := rfl
@[simp] theorem State.modMisc_dma (s : State) (f : Misc → Misc) : (s.modMisc f).dma = s.dma := rfl
@[simp] theorem State.modMisc_desc (s : State) (f : Misc → Misc) : (s.modMisc f).desc = s.desc := rfl
@[simp] theorem State.modMisc_boxes (s : State) (f : Misc → Misc) : (s.modMisc f).boxes = s.boxes := rfl
@[simp] theorem State.modMisc_eq (s : State) (f : Misc → Misc) : (s.modMisc f).eq = s.eq := rfl
@[simp] theorem State.modMisc_arcade (s : State) (f : Misc → Misc) : (s.modMisc f).arcade = s.arcade := rfl
@[simp] theorem State.modMisc_store (s : State) (f : Misc → Misc) : (s.modMisc f).store = s.store := rfl
@[simp] theorem State.modMisc_pwr (s : State) (f : Misc → Misc) : (s.modMisc f).pwr = s.pwr := rfl
@[simp] theorem State.modMisc_flt (s : State) (f : Misc → Misc) : (s.modMisc f).flt = s.flt := rfl
@[simp] theorem State.modMisc_blk (s : State) (f : Misc → Misc) : (s.modMisc f).blk = s.blk := rfl
@[simp] theorem State.modMisc_shot (s : State) (f : Misc → Misc) : (s.modMisc f).shot = s.shot := rfl
@[simp] theorem State.modMisc_shots (s : State) (f : Misc → Misc) : (s.modMisc f).shots = s.shots := rfl
@[simp] theorem State.modMisc_land (s : State) (f : Misc → Misc) (k : Nat) : (s.modMisc f).land k = s.land k := rfl
@[simp] theorem State.modMisc_gal (s : State) (f : Misc → Misc) (k : Nat) : (s.modMisc f).gal k = s.gal k := rfl
@[simp] theorem State.modMisc_port (s : State) (f : Misc → Misc) (k : Nat) : (s.modMisc f).port k = s.port k := rfl
@[simp] theorem State.modMisc_ch (s : State) (f : Misc → Misc) (k : Nat) : (s.modMisc f).ch k = s.ch k := rfl
@[simp] theorem State.modMisc_box (s : State) (f : Misc → Misc) (k : Nat) : (s.modMisc f).box k = s.box k := rfl
@[simp] theorem State.modMisc_now (s : State) (f : Misc → Misc) : (s.modMisc f).now = s.now := rfl
@[simp] theorem State.modMisc_tread (s : State) (f : Misc → Misc) : (s.modMisc f).tread = s.tread := rfl
@[simp] theorem State.modMisc_hall (s : State) (f : Misc → Misc) (k : Nat) : (s.modMisc f).hall k = s.hall k := rfl
@[simp] theorem State.modMisc_misc (s : State) (f : Misc → Misc) : (s.modMisc f).misc = f s.misc := rfl

/-! ## `State.modPwr` -/

@[simp] theorem State.modPwr_pending (s : State) (f : Pwr → Pwr) : (s.modPwr f).pending = s.pending := rfl
@[simp] theorem State.modPwr_chip (s : State) (f : Pwr → Pwr) : (s.modPwr f).chip = s.chip := rfl
@[simp] theorem State.modPwr_cfg (s : State) (f : Pwr → Pwr) : (s.modPwr f).cfg = s.cfg := rfl
@[simp] theorem State.modPwr_landings (s : State) (f : Pwr → Pwr) : (s.modPwr f).landings = s.landings := rfl
@[simp] theorem State.modPwr_galleries (s : State) (f : Pwr → Pwr) : (s.modPwr f).galleries = s.galleries := rfl
@[simp] theorem State.modPwr_ports (s : State) (f : Pwr → Pwr) : (s.modPwr f).ports = s.ports := rfl
@[simp] theorem State.modPwr_sent (s : State) (f : Pwr → Pwr) : (s.modPwr f).sent = s.sent := rfl
@[simp] theorem State.modPwr_halls (s : State) (f : Pwr → Pwr) : (s.modPwr f).halls = s.halls := rfl
@[simp] theorem State.modPwr_epochs (s : State) (f : Pwr → Pwr) : (s.modPwr f).epochs = s.epochs := rfl
@[simp] theorem State.modPwr_windows (s : State) (f : Pwr → Pwr) : (s.modPwr f).windows = s.windows := rfl
@[simp] theorem State.modPwr_away (s : State) (f : Pwr → Pwr) : (s.modPwr f).away = s.away := rfl
@[simp] theorem State.modPwr_ahead (s : State) (f : Pwr → Pwr) : (s.modPwr f).ahead = s.ahead := rfl
@[simp] theorem State.modPwr_dma (s : State) (f : Pwr → Pwr) : (s.modPwr f).dma = s.dma := rfl
@[simp] theorem State.modPwr_desc (s : State) (f : Pwr → Pwr) : (s.modPwr f).desc = s.desc := rfl
@[simp] theorem State.modPwr_boxes (s : State) (f : Pwr → Pwr) : (s.modPwr f).boxes = s.boxes := rfl
@[simp] theorem State.modPwr_eq (s : State) (f : Pwr → Pwr) : (s.modPwr f).eq = s.eq := rfl
@[simp] theorem State.modPwr_arcade (s : State) (f : Pwr → Pwr) : (s.modPwr f).arcade = s.arcade := rfl
@[simp] theorem State.modPwr_store (s : State) (f : Pwr → Pwr) : (s.modPwr f).store = s.store := rfl
@[simp] theorem State.modPwr_flt (s : State) (f : Pwr → Pwr) : (s.modPwr f).flt = s.flt := rfl
@[simp] theorem State.modPwr_misc (s : State) (f : Pwr → Pwr) : (s.modPwr f).misc = s.misc := rfl
@[simp] theorem State.modPwr_blk (s : State) (f : Pwr → Pwr) : (s.modPwr f).blk = s.blk := rfl
@[simp] theorem State.modPwr_shot (s : State) (f : Pwr → Pwr) : (s.modPwr f).shot = s.shot := rfl
@[simp] theorem State.modPwr_shots (s : State) (f : Pwr → Pwr) : (s.modPwr f).shots = s.shots := rfl
@[simp] theorem State.modPwr_land (s : State) (f : Pwr → Pwr) (k : Nat) : (s.modPwr f).land k = s.land k := rfl
@[simp] theorem State.modPwr_gal (s : State) (f : Pwr → Pwr) (k : Nat) : (s.modPwr f).gal k = s.gal k := rfl
@[simp] theorem State.modPwr_port (s : State) (f : Pwr → Pwr) (k : Nat) : (s.modPwr f).port k = s.port k := rfl
@[simp] theorem State.modPwr_ch (s : State) (f : Pwr → Pwr) (k : Nat) : (s.modPwr f).ch k = s.ch k := rfl
@[simp] theorem State.modPwr_box (s : State) (f : Pwr → Pwr) (k : Nat) : (s.modPwr f).box k = s.box k := rfl
@[simp] theorem State.modPwr_now (s : State) (f : Pwr → Pwr) : (s.modPwr f).now = s.now := rfl
@[simp] theorem State.modPwr_tread (s : State) (f : Pwr → Pwr) : (s.modPwr f).tread = s.tread := rfl
@[simp] theorem State.modPwr_hall (s : State) (f : Pwr → Pwr) (k : Nat) : (s.modPwr f).hall k = s.hall k := rfl
@[simp] theorem State.modPwr_pwr (s : State) (f : Pwr → Pwr) : (s.modPwr f).pwr = f s.pwr := rfl

/-! ## `State.modFlt` -/

@[simp] theorem State.modFlt_pending (s : State) (f : Flt → Flt) : (s.modFlt f).pending = s.pending := rfl
@[simp] theorem State.modFlt_chip (s : State) (f : Flt → Flt) : (s.modFlt f).chip = s.chip := rfl
@[simp] theorem State.modFlt_cfg (s : State) (f : Flt → Flt) : (s.modFlt f).cfg = s.cfg := rfl
@[simp] theorem State.modFlt_landings (s : State) (f : Flt → Flt) : (s.modFlt f).landings = s.landings := rfl
@[simp] theorem State.modFlt_galleries (s : State) (f : Flt → Flt) : (s.modFlt f).galleries = s.galleries := rfl
@[simp] theorem State.modFlt_ports (s : State) (f : Flt → Flt) : (s.modFlt f).ports = s.ports := rfl
@[simp] theorem State.modFlt_sent (s : State) (f : Flt → Flt) : (s.modFlt f).sent = s.sent := rfl
@[simp] theorem State.modFlt_halls (s : State) (f : Flt → Flt) : (s.modFlt f).halls = s.halls := rfl
@[simp] theorem State.modFlt_epochs (s : State) (f : Flt → Flt) : (s.modFlt f).epochs = s.epochs := rfl
@[simp] theorem State.modFlt_windows (s : State) (f : Flt → Flt) : (s.modFlt f).windows = s.windows := rfl
@[simp] theorem State.modFlt_away (s : State) (f : Flt → Flt) : (s.modFlt f).away = s.away := rfl
@[simp] theorem State.modFlt_ahead (s : State) (f : Flt → Flt) : (s.modFlt f).ahead = s.ahead := rfl
@[simp] theorem State.modFlt_dma (s : State) (f : Flt → Flt) : (s.modFlt f).dma = s.dma := rfl
@[simp] theorem State.modFlt_desc (s : State) (f : Flt → Flt) : (s.modFlt f).desc = s.desc := rfl
@[simp] theorem State.modFlt_boxes (s : State) (f : Flt → Flt) : (s.modFlt f).boxes = s.boxes := rfl
@[simp] theorem State.modFlt_eq (s : State) (f : Flt → Flt) : (s.modFlt f).eq = s.eq := rfl
@[simp] theorem State.modFlt_arcade (s : State) (f : Flt → Flt) : (s.modFlt f).arcade = s.arcade := rfl
@[simp] theorem State.modFlt_store (s : State) (f : Flt → Flt) : (s.modFlt f).store = s.store := rfl
@[simp] theorem State.modFlt_pwr (s : State) (f : Flt → Flt) : (s.modFlt f).pwr = s.pwr := rfl
@[simp] theorem State.modFlt_misc (s : State) (f : Flt → Flt) : (s.modFlt f).misc = s.misc := rfl
@[simp] theorem State.modFlt_blk (s : State) (f : Flt → Flt) : (s.modFlt f).blk = s.blk := rfl
@[simp] theorem State.modFlt_shot (s : State) (f : Flt → Flt) : (s.modFlt f).shot = s.shot := rfl
@[simp] theorem State.modFlt_shots (s : State) (f : Flt → Flt) : (s.modFlt f).shots = s.shots := rfl
@[simp] theorem State.modFlt_land (s : State) (f : Flt → Flt) (k : Nat) : (s.modFlt f).land k = s.land k := rfl
@[simp] theorem State.modFlt_gal (s : State) (f : Flt → Flt) (k : Nat) : (s.modFlt f).gal k = s.gal k := rfl
@[simp] theorem State.modFlt_port (s : State) (f : Flt → Flt) (k : Nat) : (s.modFlt f).port k = s.port k := rfl
@[simp] theorem State.modFlt_ch (s : State) (f : Flt → Flt) (k : Nat) : (s.modFlt f).ch k = s.ch k := rfl
@[simp] theorem State.modFlt_box (s : State) (f : Flt → Flt) (k : Nat) : (s.modFlt f).box k = s.box k := rfl
@[simp] theorem State.modFlt_now (s : State) (f : Flt → Flt) : (s.modFlt f).now = s.now := rfl
@[simp] theorem State.modFlt_tread (s : State) (f : Flt → Flt) : (s.modFlt f).tread = s.tread := rfl
@[simp] theorem State.modFlt_hall (s : State) (f : Flt → Flt) (k : Nat) : (s.modFlt f).hall k = s.hall k := rfl
@[simp] theorem State.modFlt_flt (s : State) (f : Flt → Flt) : (s.modFlt f).flt = f s.flt := rfl

/-! ## `State.bumpL` -/

@[simp] theorem State.bumpL_pending (s : State) (i off c : Nat) : (s.bumpL i off c).pending = s.pending := rfl
@[simp] theorem State.bumpL_chip (s : State) (i off c : Nat) : (s.bumpL i off c).chip = s.chip := rfl
@[simp] theorem State.bumpL_cfg (s : State) (i off c : Nat) : (s.bumpL i off c).cfg = s.cfg := rfl
@[simp] theorem State.bumpL_galleries (s : State) (i off c : Nat) : (s.bumpL i off c).galleries = s.galleries := rfl
@[simp] theorem State.bumpL_ports (s : State) (i off c : Nat) : (s.bumpL i off c).ports = s.ports := rfl
@[simp] theorem State.bumpL_sent (s : State) (i off c : Nat) : (s.bumpL i off c).sent = s.sent := rfl
@[simp] theorem State.bumpL_halls (s : State) (i off c : Nat) : (s.bumpL i off c).halls = s.halls := rfl
@[simp] theorem State.bumpL_epochs (s : State) (i off c : Nat) : (s.bumpL i off c).epochs = s.epochs := rfl
@[simp] theorem State.bumpL_windows (s : State) (i off c : Nat) : (s.bumpL i off c).windows = s.windows := rfl
@[simp] theorem State.bumpL_away (s : State) (i off c : Nat) : (s.bumpL i off c).away = s.away := rfl
@[simp] theorem State.bumpL_ahead (s : State) (i off c : Nat) : (s.bumpL i off c).ahead = s.ahead := rfl
@[simp] theorem State.bumpL_dma (s : State) (i off c : Nat) : (s.bumpL i off c).dma = s.dma := rfl
@[simp] theorem State.bumpL_desc (s : State) (i off c : Nat) : (s.bumpL i off c).desc = s.desc := rfl
@[simp] theorem State.bumpL_boxes (s : State) (i off c : Nat) : (s.bumpL i off c).boxes = s.boxes := rfl
@[simp] theorem State.bumpL_eq (s : State) (i off c : Nat) : (s.bumpL i off c).eq = s.eq := rfl
@[simp] theorem State.bumpL_arcade (s : State) (i off c : Nat) : (s.bumpL i off c).arcade = s.arcade := rfl
@[simp] theorem State.bumpL_store (s : State) (i off c : Nat) : (s.bumpL i off c).store = s.store := rfl
@[simp] theorem State.bumpL_pwr (s : State) (i off c : Nat) : (s.bumpL i off c).pwr = s.pwr := rfl
@[simp] theorem State.bumpL_flt (s : State) (i off c : Nat) : (s.bumpL i off c).flt = s.flt := rfl
@[simp] theorem State.bumpL_misc (s : State) (i off c : Nat) : (s.bumpL i off c).misc = s.misc := rfl
@[simp] theorem State.bumpL_blk (s : State) (i off c : Nat) : (s.bumpL i off c).blk = s.blk := rfl
@[simp] theorem State.bumpL_shot (s : State) (i off c : Nat) : (s.bumpL i off c).shot = s.shot := rfl
@[simp] theorem State.bumpL_shots (s : State) (i off c : Nat) : (s.bumpL i off c).shots = s.shots := rfl
@[simp] theorem State.bumpL_gal (s : State) (i off c : Nat) (k : Nat) : (s.bumpL i off c).gal k = s.gal k := rfl
@[simp] theorem State.bumpL_port (s : State) (i off c : Nat) (k : Nat) : (s.bumpL i off c).port k = s.port k := rfl
@[simp] theorem State.bumpL_ch (s : State) (i off c : Nat) (k : Nat) : (s.bumpL i off c).ch k = s.ch k := rfl
@[simp] theorem State.bumpL_box (s : State) (i off c : Nat) (k : Nat) : (s.bumpL i off c).box k = s.box k := rfl
@[simp] theorem State.bumpL_now (s : State) (i off c : Nat) : (s.bumpL i off c).now = s.now := rfl
@[simp] theorem State.bumpL_tread (s : State) (i off c : Nat) : (s.bumpL i off c).tread = s.tread := rfl
@[simp] theorem State.bumpL_hall (s : State) (i off c : Nat) (k : Nat) : (s.bumpL i off c).hall k = s.hall k := rfl

/-! ## `State.bumpG` -/

@[simp] theorem State.bumpG_pending (s : State) (i off c : Nat) : (s.bumpG i off c).pending = s.pending := rfl
@[simp] theorem State.bumpG_chip (s : State) (i off c : Nat) : (s.bumpG i off c).chip = s.chip := rfl
@[simp] theorem State.bumpG_cfg (s : State) (i off c : Nat) : (s.bumpG i off c).cfg = s.cfg := rfl
@[simp] theorem State.bumpG_landings (s : State) (i off c : Nat) : (s.bumpG i off c).landings = s.landings := rfl
@[simp] theorem State.bumpG_ports (s : State) (i off c : Nat) : (s.bumpG i off c).ports = s.ports := rfl
@[simp] theorem State.bumpG_sent (s : State) (i off c : Nat) : (s.bumpG i off c).sent = s.sent := rfl
@[simp] theorem State.bumpG_halls (s : State) (i off c : Nat) : (s.bumpG i off c).halls = s.halls := rfl
@[simp] theorem State.bumpG_epochs (s : State) (i off c : Nat) : (s.bumpG i off c).epochs = s.epochs := rfl
@[simp] theorem State.bumpG_windows (s : State) (i off c : Nat) : (s.bumpG i off c).windows = s.windows := rfl
@[simp] theorem State.bumpG_away (s : State) (i off c : Nat) : (s.bumpG i off c).away = s.away := rfl
@[simp] theorem State.bumpG_ahead (s : State) (i off c : Nat) : (s.bumpG i off c).ahead = s.ahead := rfl
@[simp] theorem State.bumpG_dma (s : State) (i off c : Nat) : (s.bumpG i off c).dma = s.dma := rfl
@[simp] theorem State.bumpG_desc (s : State) (i off c : Nat) : (s.bumpG i off c).desc = s.desc := rfl
@[simp] theorem State.bumpG_boxes (s : State) (i off c : Nat) : (s.bumpG i off c).boxes = s.boxes := rfl
@[simp] theorem State.bumpG_eq (s : State) (i off c : Nat) : (s.bumpG i off c).eq = s.eq := rfl
@[simp] theorem State.bumpG_arcade (s : State) (i off c : Nat) : (s.bumpG i off c).arcade = s.arcade := rfl
@[simp] theorem State.bumpG_store (s : State) (i off c : Nat) : (s.bumpG i off c).store = s.store := rfl
@[simp] theorem State.bumpG_pwr (s : State) (i off c : Nat) : (s.bumpG i off c).pwr = s.pwr := rfl
@[simp] theorem State.bumpG_flt (s : State) (i off c : Nat) : (s.bumpG i off c).flt = s.flt := rfl
@[simp] theorem State.bumpG_misc (s : State) (i off c : Nat) : (s.bumpG i off c).misc = s.misc := rfl
@[simp] theorem State.bumpG_blk (s : State) (i off c : Nat) : (s.bumpG i off c).blk = s.blk := rfl
@[simp] theorem State.bumpG_shot (s : State) (i off c : Nat) : (s.bumpG i off c).shot = s.shot := rfl
@[simp] theorem State.bumpG_shots (s : State) (i off c : Nat) : (s.bumpG i off c).shots = s.shots := rfl
@[simp] theorem State.bumpG_land (s : State) (i off c : Nat) (k : Nat) : (s.bumpG i off c).land k = s.land k := rfl
@[simp] theorem State.bumpG_port (s : State) (i off c : Nat) (k : Nat) : (s.bumpG i off c).port k = s.port k := rfl
@[simp] theorem State.bumpG_ch (s : State) (i off c : Nat) (k : Nat) : (s.bumpG i off c).ch k = s.ch k := rfl
@[simp] theorem State.bumpG_box (s : State) (i off c : Nat) (k : Nat) : (s.bumpG i off c).box k = s.box k := rfl
@[simp] theorem State.bumpG_now (s : State) (i off c : Nat) : (s.bumpG i off c).now = s.now := rfl
@[simp] theorem State.bumpG_tread (s : State) (i off c : Nat) : (s.bumpG i off c).tread = s.tread := rfl
@[simp] theorem State.bumpG_hall (s : State) (i off c : Nat) (k : Nat) : (s.bumpG i off c).hall k = s.hall k := rfl

/-! ## `State.bumpB` -/

@[simp] theorem State.bumpB_pending (s : State) (a n : Nat) : (s.bumpB a n).pending = s.pending := rfl
@[simp] theorem State.bumpB_chip (s : State) (a n : Nat) : (s.bumpB a n).chip = s.chip := rfl
@[simp] theorem State.bumpB_cfg (s : State) (a n : Nat) : (s.bumpB a n).cfg = s.cfg := rfl
@[simp] theorem State.bumpB_landings (s : State) (a n : Nat) : (s.bumpB a n).landings = s.landings := rfl
@[simp] theorem State.bumpB_galleries (s : State) (a n : Nat) : (s.bumpB a n).galleries = s.galleries := rfl
@[simp] theorem State.bumpB_ports (s : State) (a n : Nat) : (s.bumpB a n).ports = s.ports := rfl
@[simp] theorem State.bumpB_sent (s : State) (a n : Nat) : (s.bumpB a n).sent = s.sent := rfl
@[simp] theorem State.bumpB_halls (s : State) (a n : Nat) : (s.bumpB a n).halls = s.halls := rfl
@[simp] theorem State.bumpB_epochs (s : State) (a n : Nat) : (s.bumpB a n).epochs = s.epochs := rfl
@[simp] theorem State.bumpB_windows (s : State) (a n : Nat) : (s.bumpB a n).windows = s.windows := rfl
@[simp] theorem State.bumpB_away (s : State) (a n : Nat) : (s.bumpB a n).away = s.away := rfl
@[simp] theorem State.bumpB_ahead (s : State) (a n : Nat) : (s.bumpB a n).ahead = s.ahead := rfl
@[simp] theorem State.bumpB_dma (s : State) (a n : Nat) : (s.bumpB a n).dma = s.dma := rfl
@[simp] theorem State.bumpB_desc (s : State) (a n : Nat) : (s.bumpB a n).desc = s.desc := rfl
@[simp] theorem State.bumpB_boxes (s : State) (a n : Nat) : (s.bumpB a n).boxes = s.boxes := rfl
@[simp] theorem State.bumpB_eq (s : State) (a n : Nat) : (s.bumpB a n).eq = s.eq := rfl
@[simp] theorem State.bumpB_arcade (s : State) (a n : Nat) : (s.bumpB a n).arcade = s.arcade := rfl
@[simp] theorem State.bumpB_store (s : State) (a n : Nat) : (s.bumpB a n).store = s.store := rfl
@[simp] theorem State.bumpB_pwr (s : State) (a n : Nat) : (s.bumpB a n).pwr = s.pwr := rfl
@[simp] theorem State.bumpB_flt (s : State) (a n : Nat) : (s.bumpB a n).flt = s.flt := rfl
@[simp] theorem State.bumpB_misc (s : State) (a n : Nat) : (s.bumpB a n).misc = s.misc := rfl
@[simp] theorem State.bumpB_shot (s : State) (a n : Nat) : (s.bumpB a n).shot = s.shot := rfl
@[simp] theorem State.bumpB_shots (s : State) (a n : Nat) : (s.bumpB a n).shots = s.shots := rfl
@[simp] theorem State.bumpB_land (s : State) (a n : Nat) (k : Nat) : (s.bumpB a n).land k = s.land k := rfl
@[simp] theorem State.bumpB_gal (s : State) (a n : Nat) (k : Nat) : (s.bumpB a n).gal k = s.gal k := rfl
@[simp] theorem State.bumpB_port (s : State) (a n : Nat) (k : Nat) : (s.bumpB a n).port k = s.port k := rfl
@[simp] theorem State.bumpB_ch (s : State) (a n : Nat) (k : Nat) : (s.bumpB a n).ch k = s.ch k := rfl
@[simp] theorem State.bumpB_box (s : State) (a n : Nat) (k : Nat) : (s.bumpB a n).box k = s.box k := rfl
@[simp] theorem State.bumpB_now (s : State) (a n : Nat) : (s.bumpB a n).now = s.now := rfl
@[simp] theorem State.bumpB_tread (s : State) (a n : Nat) : (s.bumpB a n).tread = s.tread := rfl
@[simp] theorem State.bumpB_hall (s : State) (a n : Nat) (k : Nat) : (s.bumpB a n).hall k = s.hall k := rfl

/-! ## `State.putLand` -/

@[simp] theorem State.putLand_pending (s : State) (i off : Nat) (v : W32) : (s.putLand i off v).pending = s.pending := rfl
@[simp] theorem State.putLand_chip (s : State) (i off : Nat) (v : W32) : (s.putLand i off v).chip = s.chip := rfl
@[simp] theorem State.putLand_cfg (s : State) (i off : Nat) (v : W32) : (s.putLand i off v).cfg = s.cfg := rfl
@[simp] theorem State.putLand_galleries (s : State) (i off : Nat) (v : W32) : (s.putLand i off v).galleries = s.galleries := rfl
@[simp] theorem State.putLand_ports (s : State) (i off : Nat) (v : W32) : (s.putLand i off v).ports = s.ports := rfl
@[simp] theorem State.putLand_sent (s : State) (i off : Nat) (v : W32) : (s.putLand i off v).sent = s.sent := rfl
@[simp] theorem State.putLand_halls (s : State) (i off : Nat) (v : W32) : (s.putLand i off v).halls = s.halls := rfl
@[simp] theorem State.putLand_epochs (s : State) (i off : Nat) (v : W32) : (s.putLand i off v).epochs = s.epochs := rfl
@[simp] theorem State.putLand_windows (s : State) (i off : Nat) (v : W32) : (s.putLand i off v).windows = s.windows := rfl
@[simp] theorem State.putLand_away (s : State) (i off : Nat) (v : W32) : (s.putLand i off v).away = s.away := rfl
@[simp] theorem State.putLand_ahead (s : State) (i off : Nat) (v : W32) : (s.putLand i off v).ahead = s.ahead := rfl
@[simp] theorem State.putLand_dma (s : State) (i off : Nat) (v : W32) : (s.putLand i off v).dma = s.dma := rfl
@[simp] theorem State.putLand_desc (s : State) (i off : Nat) (v : W32) : (s.putLand i off v).desc = s.desc := rfl
@[simp] theorem State.putLand_boxes (s : State) (i off : Nat) (v : W32) : (s.putLand i off v).boxes = s.boxes := rfl
@[simp] theorem State.putLand_eq (s : State) (i off : Nat) (v : W32) : (s.putLand i off v).eq = s.eq := rfl
@[simp] theorem State.putLand_arcade (s : State) (i off : Nat) (v : W32) : (s.putLand i off v).arcade = s.arcade := rfl
@[simp] theorem State.putLand_store (s : State) (i off : Nat) (v : W32) : (s.putLand i off v).store = s.store := rfl
@[simp] theorem State.putLand_pwr (s : State) (i off : Nat) (v : W32) : (s.putLand i off v).pwr = s.pwr := rfl
@[simp] theorem State.putLand_flt (s : State) (i off : Nat) (v : W32) : (s.putLand i off v).flt = s.flt := rfl
@[simp] theorem State.putLand_misc (s : State) (i off : Nat) (v : W32) : (s.putLand i off v).misc = s.misc := rfl
@[simp] theorem State.putLand_blk (s : State) (i off : Nat) (v : W32) : (s.putLand i off v).blk = s.blk := rfl
@[simp] theorem State.putLand_shot (s : State) (i off : Nat) (v : W32) : (s.putLand i off v).shot = s.shot := rfl
@[simp] theorem State.putLand_shots (s : State) (i off : Nat) (v : W32) : (s.putLand i off v).shots = s.shots := rfl
@[simp] theorem State.putLand_gal (s : State) (i off : Nat) (v : W32) (k : Nat) : (s.putLand i off v).gal k = s.gal k := rfl
@[simp] theorem State.putLand_port (s : State) (i off : Nat) (v : W32) (k : Nat) : (s.putLand i off v).port k = s.port k := rfl
@[simp] theorem State.putLand_ch (s : State) (i off : Nat) (v : W32) (k : Nat) : (s.putLand i off v).ch k = s.ch k := rfl
@[simp] theorem State.putLand_box (s : State) (i off : Nat) (v : W32) (k : Nat) : (s.putLand i off v).box k = s.box k := rfl
@[simp] theorem State.putLand_now (s : State) (i off : Nat) (v : W32) : (s.putLand i off v).now = s.now := rfl
@[simp] theorem State.putLand_tread (s : State) (i off : Nat) (v : W32) : (s.putLand i off v).tread = s.tread := rfl
@[simp] theorem State.putLand_hall (s : State) (i off : Nat) (v : W32) (k : Nat) : (s.putLand i off v).hall k = s.hall k := rfl

/-! ## `State.putGal` -/

@[simp] theorem State.putGal_pending (s : State) (i off : Nat) (v : W32) : (s.putGal i off v).pending = s.pending := rfl
@[simp] theorem State.putGal_chip (s : State) (i off : Nat) (v : W32) : (s.putGal i off v).chip = s.chip := rfl
@[simp] theorem State.putGal_cfg (s : State) (i off : Nat) (v : W32) : (s.putGal i off v).cfg = s.cfg := rfl
@[simp] theorem State.putGal_landings (s : State) (i off : Nat) (v : W32) : (s.putGal i off v).landings = s.landings := rfl
@[simp] theorem State.putGal_ports (s : State) (i off : Nat) (v : W32) : (s.putGal i off v).ports = s.ports := rfl
@[simp] theorem State.putGal_sent (s : State) (i off : Nat) (v : W32) : (s.putGal i off v).sent = s.sent := rfl
@[simp] theorem State.putGal_halls (s : State) (i off : Nat) (v : W32) : (s.putGal i off v).halls = s.halls := rfl
@[simp] theorem State.putGal_epochs (s : State) (i off : Nat) (v : W32) : (s.putGal i off v).epochs = s.epochs := rfl
@[simp] theorem State.putGal_windows (s : State) (i off : Nat) (v : W32) : (s.putGal i off v).windows = s.windows := rfl
@[simp] theorem State.putGal_away (s : State) (i off : Nat) (v : W32) : (s.putGal i off v).away = s.away := rfl
@[simp] theorem State.putGal_ahead (s : State) (i off : Nat) (v : W32) : (s.putGal i off v).ahead = s.ahead := rfl
@[simp] theorem State.putGal_dma (s : State) (i off : Nat) (v : W32) : (s.putGal i off v).dma = s.dma := rfl
@[simp] theorem State.putGal_desc (s : State) (i off : Nat) (v : W32) : (s.putGal i off v).desc = s.desc := rfl
@[simp] theorem State.putGal_boxes (s : State) (i off : Nat) (v : W32) : (s.putGal i off v).boxes = s.boxes := rfl
@[simp] theorem State.putGal_eq (s : State) (i off : Nat) (v : W32) : (s.putGal i off v).eq = s.eq := rfl
@[simp] theorem State.putGal_arcade (s : State) (i off : Nat) (v : W32) : (s.putGal i off v).arcade = s.arcade := rfl
@[simp] theorem State.putGal_store (s : State) (i off : Nat) (v : W32) : (s.putGal i off v).store = s.store := rfl
@[simp] theorem State.putGal_pwr (s : State) (i off : Nat) (v : W32) : (s.putGal i off v).pwr = s.pwr := rfl
@[simp] theorem State.putGal_flt (s : State) (i off : Nat) (v : W32) : (s.putGal i off v).flt = s.flt := rfl
@[simp] theorem State.putGal_misc (s : State) (i off : Nat) (v : W32) : (s.putGal i off v).misc = s.misc := rfl
@[simp] theorem State.putGal_blk (s : State) (i off : Nat) (v : W32) : (s.putGal i off v).blk = s.blk := rfl
@[simp] theorem State.putGal_shot (s : State) (i off : Nat) (v : W32) : (s.putGal i off v).shot = s.shot := rfl
@[simp] theorem State.putGal_shots (s : State) (i off : Nat) (v : W32) : (s.putGal i off v).shots = s.shots := rfl
@[simp] theorem State.putGal_land (s : State) (i off : Nat) (v : W32) (k : Nat) : (s.putGal i off v).land k = s.land k := rfl
@[simp] theorem State.putGal_port (s : State) (i off : Nat) (v : W32) (k : Nat) : (s.putGal i off v).port k = s.port k := rfl
@[simp] theorem State.putGal_ch (s : State) (i off : Nat) (v : W32) (k : Nat) : (s.putGal i off v).ch k = s.ch k := rfl
@[simp] theorem State.putGal_box (s : State) (i off : Nat) (v : W32) (k : Nat) : (s.putGal i off v).box k = s.box k := rfl
@[simp] theorem State.putGal_now (s : State) (i off : Nat) (v : W32) : (s.putGal i off v).now = s.now := rfl
@[simp] theorem State.putGal_tread (s : State) (i off : Nat) (v : W32) : (s.putGal i off v).tread = s.tread := rfl
@[simp] theorem State.putGal_hall (s : State) (i off : Nat) (v : W32) (k : Nat) : (s.putGal i off v).hall k = s.hall k := rfl

/-! ## `State.finish` -/

@[simp] theorem State.finish_pending (s : State) (i : Nat) (st : AStatus) (res : List W32) (pay : List Byte) : (s.finish i st res pay).pending = s.pending := rfl
@[simp] theorem State.finish_chip (s : State) (i : Nat) (st : AStatus) (res : List W32) (pay : List Byte) : (s.finish i st res pay).chip = s.chip := rfl
@[simp] theorem State.finish_cfg (s : State) (i : Nat) (st : AStatus) (res : List W32) (pay : List Byte) : (s.finish i st res pay).cfg = s.cfg := rfl
@[simp] theorem State.finish_landings (s : State) (i : Nat) (st : AStatus) (res : List W32) (pay : List Byte) : (s.finish i st res pay).landings = s.landings := rfl
@[simp] theorem State.finish_galleries (s : State) (i : Nat) (st : AStatus) (res : List W32) (pay : List Byte) : (s.finish i st res pay).galleries = s.galleries := rfl
@[simp] theorem State.finish_ports (s : State) (i : Nat) (st : AStatus) (res : List W32) (pay : List Byte) : (s.finish i st res pay).ports = s.ports := rfl
@[simp] theorem State.finish_sent (s : State) (i : Nat) (st : AStatus) (res : List W32) (pay : List Byte) : (s.finish i st res pay).sent = s.sent := rfl
@[simp] theorem State.finish_halls (s : State) (i : Nat) (st : AStatus) (res : List W32) (pay : List Byte) : (s.finish i st res pay).halls = s.halls := rfl
@[simp] theorem State.finish_epochs (s : State) (i : Nat) (st : AStatus) (res : List W32) (pay : List Byte) : (s.finish i st res pay).epochs = s.epochs := rfl
@[simp] theorem State.finish_windows (s : State) (i : Nat) (st : AStatus) (res : List W32) (pay : List Byte) : (s.finish i st res pay).windows = s.windows := rfl
@[simp] theorem State.finish_away (s : State) (i : Nat) (st : AStatus) (res : List W32) (pay : List Byte) : (s.finish i st res pay).away = s.away := rfl
@[simp] theorem State.finish_ahead (s : State) (i : Nat) (st : AStatus) (res : List W32) (pay : List Byte) : (s.finish i st res pay).ahead = s.ahead := rfl
@[simp] theorem State.finish_dma (s : State) (i : Nat) (st : AStatus) (res : List W32) (pay : List Byte) : (s.finish i st res pay).dma = s.dma := rfl
@[simp] theorem State.finish_desc (s : State) (i : Nat) (st : AStatus) (res : List W32) (pay : List Byte) : (s.finish i st res pay).desc = s.desc := rfl
@[simp] theorem State.finish_eq (s : State) (i : Nat) (st : AStatus) (res : List W32) (pay : List Byte) : (s.finish i st res pay).eq = s.eq := rfl
@[simp] theorem State.finish_arcade (s : State) (i : Nat) (st : AStatus) (res : List W32) (pay : List Byte) : (s.finish i st res pay).arcade = s.arcade := rfl
@[simp] theorem State.finish_store (s : State) (i : Nat) (st : AStatus) (res : List W32) (pay : List Byte) : (s.finish i st res pay).store = s.store := rfl
@[simp] theorem State.finish_pwr (s : State) (i : Nat) (st : AStatus) (res : List W32) (pay : List Byte) : (s.finish i st res pay).pwr = s.pwr := rfl
@[simp] theorem State.finish_flt (s : State) (i : Nat) (st : AStatus) (res : List W32) (pay : List Byte) : (s.finish i st res pay).flt = s.flt := rfl
@[simp] theorem State.finish_misc (s : State) (i : Nat) (st : AStatus) (res : List W32) (pay : List Byte) : (s.finish i st res pay).misc = s.misc := rfl
@[simp] theorem State.finish_blk (s : State) (i : Nat) (st : AStatus) (res : List W32) (pay : List Byte) : (s.finish i st res pay).blk = s.blk := rfl
@[simp] theorem State.finish_shot (s : State) (i : Nat) (st : AStatus) (res : List W32) (pay : List Byte) : (s.finish i st res pay).shot = s.shot := rfl
@[simp] theorem State.finish_shots (s : State) (i : Nat) (st : AStatus) (res : List W32) (pay : List Byte) : (s.finish i st res pay).shots = s.shots := rfl
@[simp] theorem State.finish_land (s : State) (i : Nat) (st : AStatus) (res : List W32) (pay : List Byte) (k : Nat) : (s.finish i st res pay).land k = s.land k := rfl
@[simp] theorem State.finish_gal (s : State) (i : Nat) (st : AStatus) (res : List W32) (pay : List Byte) (k : Nat) : (s.finish i st res pay).gal k = s.gal k := rfl
@[simp] theorem State.finish_port (s : State) (i : Nat) (st : AStatus) (res : List W32) (pay : List Byte) (k : Nat) : (s.finish i st res pay).port k = s.port k := rfl
@[simp] theorem State.finish_ch (s : State) (i : Nat) (st : AStatus) (res : List W32) (pay : List Byte) (k : Nat) : (s.finish i st res pay).ch k = s.ch k := rfl
@[simp] theorem State.finish_now (s : State) (i : Nat) (st : AStatus) (res : List W32) (pay : List Byte) : (s.finish i st res pay).now = s.now := rfl
@[simp] theorem State.finish_tread (s : State) (i : Nat) (st : AStatus) (res : List W32) (pay : List Byte) : (s.finish i st res pay).tread = s.tread := rfl
@[simp] theorem State.finish_hall (s : State) (i : Nat) (st : AStatus) (res : List W32) (pay : List Byte) (k : Nat) : (s.finish i st res pay).hall k = s.hall k := rfl

/-! ## `State.defer` -/

@[simp] theorem State.defer_pending (s : State) (d : Deferred) : (s.defer d).pending = s.pending := rfl
@[simp] theorem State.defer_chip (s : State) (d : Deferred) : (s.defer d).chip = s.chip := rfl
@[simp] theorem State.defer_cfg (s : State) (d : Deferred) : (s.defer d).cfg = s.cfg := rfl
@[simp] theorem State.defer_landings (s : State) (d : Deferred) : (s.defer d).landings = s.landings := rfl
@[simp] theorem State.defer_galleries (s : State) (d : Deferred) : (s.defer d).galleries = s.galleries := rfl
@[simp] theorem State.defer_ports (s : State) (d : Deferred) : (s.defer d).ports = s.ports := rfl
@[simp] theorem State.defer_sent (s : State) (d : Deferred) : (s.defer d).sent = s.sent := rfl
@[simp] theorem State.defer_halls (s : State) (d : Deferred) : (s.defer d).halls = s.halls := rfl
@[simp] theorem State.defer_epochs (s : State) (d : Deferred) : (s.defer d).epochs = s.epochs := rfl
@[simp] theorem State.defer_windows (s : State) (d : Deferred) : (s.defer d).windows = s.windows := rfl
@[simp] theorem State.defer_away (s : State) (d : Deferred) : (s.defer d).away = s.away := rfl
@[simp] theorem State.defer_ahead (s : State) (d : Deferred) : (s.defer d).ahead = s.ahead := rfl
@[simp] theorem State.defer_dma (s : State) (d : Deferred) : (s.defer d).dma = s.dma := rfl
@[simp] theorem State.defer_desc (s : State) (d : Deferred) : (s.defer d).desc = s.desc := rfl
@[simp] theorem State.defer_boxes (s : State) (d : Deferred) : (s.defer d).boxes = s.boxes := rfl
@[simp] theorem State.defer_eq (s : State) (d : Deferred) : (s.defer d).eq = s.eq := rfl
@[simp] theorem State.defer_arcade (s : State) (d : Deferred) : (s.defer d).arcade = s.arcade := rfl
@[simp] theorem State.defer_store (s : State) (d : Deferred) : (s.defer d).store = s.store := rfl
@[simp] theorem State.defer_pwr (s : State) (d : Deferred) : (s.defer d).pwr = s.pwr := rfl
@[simp] theorem State.defer_flt (s : State) (d : Deferred) : (s.defer d).flt = s.flt := rfl
@[simp] theorem State.defer_blk (s : State) (d : Deferred) : (s.defer d).blk = s.blk := rfl
@[simp] theorem State.defer_shot (s : State) (d : Deferred) : (s.defer d).shot = s.shot := rfl
@[simp] theorem State.defer_shots (s : State) (d : Deferred) : (s.defer d).shots = s.shots := rfl
@[simp] theorem State.defer_land (s : State) (d : Deferred) (k : Nat) : (s.defer d).land k = s.land k := rfl
@[simp] theorem State.defer_gal (s : State) (d : Deferred) (k : Nat) : (s.defer d).gal k = s.gal k := rfl
@[simp] theorem State.defer_port (s : State) (d : Deferred) (k : Nat) : (s.defer d).port k = s.port k := rfl
@[simp] theorem State.defer_ch (s : State) (d : Deferred) (k : Nat) : (s.defer d).ch k = s.ch k := rfl
@[simp] theorem State.defer_box (s : State) (d : Deferred) (k : Nat) : (s.defer d).box k = s.box k := rfl
@[simp] theorem State.defer_now (s : State) (d : Deferred) : (s.defer d).now = s.now := rfl
@[simp] theorem State.defer_tread (s : State) (d : Deferred) : (s.defer d).tread = s.tread := rfl
@[simp] theorem State.defer_hall (s : State) (d : Deferred) (k : Nat) : (s.defer d).hall k = s.hall k := rfl

/-! ## `State.putHall` -/

@[simp] theorem State.putHall_pending (s : State) (i : Nat) (x : Hall) : (s.putHall i x).pending = s.pending := rfl
@[simp] theorem State.putHall_chip (s : State) (i : Nat) (x : Hall) : (s.putHall i x).chip = s.chip := rfl
@[simp] theorem State.putHall_cfg (s : State) (i : Nat) (x : Hall) : (s.putHall i x).cfg = s.cfg := rfl
@[simp] theorem State.putHall_landings (s : State) (i : Nat) (x : Hall) : (s.putHall i x).landings = s.landings := rfl
@[simp] theorem State.putHall_galleries (s : State) (i : Nat) (x : Hall) : (s.putHall i x).galleries = s.galleries := rfl
@[simp] theorem State.putHall_ports (s : State) (i : Nat) (x : Hall) : (s.putHall i x).ports = s.ports := rfl
@[simp] theorem State.putHall_sent (s : State) (i : Nat) (x : Hall) : (s.putHall i x).sent = s.sent := rfl
@[simp] theorem State.putHall_epochs (s : State) (i : Nat) (x : Hall) : (s.putHall i x).epochs = s.epochs := rfl
@[simp] theorem State.putHall_windows (s : State) (i : Nat) (x : Hall) : (s.putHall i x).windows = s.windows := rfl
@[simp] theorem State.putHall_away (s : State) (i : Nat) (x : Hall) : (s.putHall i x).away = s.away := rfl
@[simp] theorem State.putHall_ahead (s : State) (i : Nat) (x : Hall) : (s.putHall i x).ahead = s.ahead := rfl
@[simp] theorem State.putHall_dma (s : State) (i : Nat) (x : Hall) : (s.putHall i x).dma = s.dma := rfl
@[simp] theorem State.putHall_desc (s : State) (i : Nat) (x : Hall) : (s.putHall i x).desc = s.desc := rfl
@[simp] theorem State.putHall_boxes (s : State) (i : Nat) (x : Hall) : (s.putHall i x).boxes = s.boxes := rfl
@[simp] theorem State.putHall_eq (s : State) (i : Nat) (x : Hall) : (s.putHall i x).eq = s.eq := rfl
@[simp] theorem State.putHall_arcade (s : State) (i : Nat) (x : Hall) : (s.putHall i x).arcade = s.arcade := rfl
@[simp] theorem State.putHall_store (s : State) (i : Nat) (x : Hall) : (s.putHall i x).store = s.store := rfl
@[simp] theorem State.putHall_pwr (s : State) (i : Nat) (x : Hall) : (s.putHall i x).pwr = s.pwr := rfl
@[simp] theorem State.putHall_flt (s : State) (i : Nat) (x : Hall) : (s.putHall i x).flt = s.flt := rfl
@[simp] theorem State.putHall_misc (s : State) (i : Nat) (x : Hall) : (s.putHall i x).misc = s.misc := rfl
@[simp] theorem State.putHall_blk (s : State) (i : Nat) (x : Hall) : (s.putHall i x).blk = s.blk := rfl
@[simp] theorem State.putHall_shot (s : State) (i : Nat) (x : Hall) : (s.putHall i x).shot = s.shot := rfl
@[simp] theorem State.putHall_shots (s : State) (i : Nat) (x : Hall) : (s.putHall i x).shots = s.shots := rfl
@[simp] theorem State.putHall_land (s : State) (i : Nat) (x : Hall) (k : Nat) : (s.putHall i x).land k = s.land k := rfl
@[simp] theorem State.putHall_gal (s : State) (i : Nat) (x : Hall) (k : Nat) : (s.putHall i x).gal k = s.gal k := rfl
@[simp] theorem State.putHall_port (s : State) (i : Nat) (x : Hall) (k : Nat) : (s.putHall i x).port k = s.port k := rfl
@[simp] theorem State.putHall_ch (s : State) (i : Nat) (x : Hall) (k : Nat) : (s.putHall i x).ch k = s.ch k := rfl
@[simp] theorem State.putHall_box (s : State) (i : Nat) (x : Hall) (k : Nat) : (s.putHall i x).box k = s.box k := rfl
@[simp] theorem State.putHall_now (s : State) (i : Nat) (x : Hall) : (s.putHall i x).now = s.now := rfl
@[simp] theorem State.putHall_tread (s : State) (i : Nat) (x : Hall) : (s.putHall i x).tread = s.tread := rfl

/-! ## `State.cfgReply` -/

@[simp] theorem State.cfgReply_pending (s : State) (w : W32) (e : Bool) : (s.cfgReply w e).pending = s.pending := rfl
@[simp] theorem State.cfgReply_chip (s : State) (w : W32) (e : Bool) : (s.cfgReply w e).chip = s.chip := rfl
@[simp] theorem State.cfgReply_landings (s : State) (w : W32) (e : Bool) : (s.cfgReply w e).landings = s.landings := rfl
@[simp] theorem State.cfgReply_galleries (s : State) (w : W32) (e : Bool) : (s.cfgReply w e).galleries = s.galleries := rfl
@[simp] theorem State.cfgReply_ports (s : State) (w : W32) (e : Bool) : (s.cfgReply w e).ports = s.ports := rfl
@[simp] theorem State.cfgReply_sent (s : State) (w : W32) (e : Bool) : (s.cfgReply w e).sent = s.sent := rfl
@[simp] theorem State.cfgReply_halls (s : State) (w : W32) (e : Bool) : (s.cfgReply w e).halls = s.halls := rfl
@[simp] theorem State.cfgReply_epochs (s : State) (w : W32) (e : Bool) : (s.cfgReply w e).epochs = s.epochs := rfl
@[simp] theorem State.cfgReply_windows (s : State) (w : W32) (e : Bool) : (s.cfgReply w e).windows = s.windows := rfl
@[simp] theorem State.cfgReply_away (s : State) (w : W32) (e : Bool) : (s.cfgReply w e).away = s.away := rfl
@[simp] theorem State.cfgReply_ahead (s : State) (w : W32) (e : Bool) : (s.cfgReply w e).ahead = s.ahead := rfl
@[simp] theorem State.cfgReply_dma (s : State) (w : W32) (e : Bool) : (s.cfgReply w e).dma = s.dma := rfl
@[simp] theorem State.cfgReply_desc (s : State) (w : W32) (e : Bool) : (s.cfgReply w e).desc = s.desc := rfl
@[simp] theorem State.cfgReply_boxes (s : State) (w : W32) (e : Bool) : (s.cfgReply w e).boxes = s.boxes := rfl
@[simp] theorem State.cfgReply_eq (s : State) (w : W32) (e : Bool) : (s.cfgReply w e).eq = s.eq := rfl
@[simp] theorem State.cfgReply_arcade (s : State) (w : W32) (e : Bool) : (s.cfgReply w e).arcade = s.arcade := rfl
@[simp] theorem State.cfgReply_store (s : State) (w : W32) (e : Bool) : (s.cfgReply w e).store = s.store := rfl
@[simp] theorem State.cfgReply_pwr (s : State) (w : W32) (e : Bool) : (s.cfgReply w e).pwr = s.pwr := rfl
@[simp] theorem State.cfgReply_flt (s : State) (w : W32) (e : Bool) : (s.cfgReply w e).flt = s.flt := rfl
@[simp] theorem State.cfgReply_misc (s : State) (w : W32) (e : Bool) : (s.cfgReply w e).misc = s.misc := rfl
@[simp] theorem State.cfgReply_blk (s : State) (w : W32) (e : Bool) : (s.cfgReply w e).blk = s.blk := rfl
@[simp] theorem State.cfgReply_shot (s : State) (w : W32) (e : Bool) : (s.cfgReply w e).shot = s.shot := rfl
@[simp] theorem State.cfgReply_shots (s : State) (w : W32) (e : Bool) : (s.cfgReply w e).shots = s.shots := rfl
@[simp] theorem State.cfgReply_land (s : State) (w : W32) (e : Bool) (k : Nat) : (s.cfgReply w e).land k = s.land k := rfl
@[simp] theorem State.cfgReply_gal (s : State) (w : W32) (e : Bool) (k : Nat) : (s.cfgReply w e).gal k = s.gal k := rfl
@[simp] theorem State.cfgReply_port (s : State) (w : W32) (e : Bool) (k : Nat) : (s.cfgReply w e).port k = s.port k := rfl
@[simp] theorem State.cfgReply_ch (s : State) (w : W32) (e : Bool) (k : Nat) : (s.cfgReply w e).ch k = s.ch k := rfl
@[simp] theorem State.cfgReply_box (s : State) (w : W32) (e : Bool) (k : Nat) : (s.cfgReply w e).box k = s.box k := rfl
@[simp] theorem State.cfgReply_now (s : State) (w : W32) (e : Bool) : (s.cfgReply w e).now = s.now := rfl
@[simp] theorem State.cfgReply_tread (s : State) (w : W32) (e : Bool) : (s.cfgReply w e).tread = s.tread := rfl
@[simp] theorem State.cfgReply_hall (s : State) (w : W32) (e : Bool) (k : Nat) : (s.cfgReply w e).hall k = s.hall k := rfl

/-! ## A unit read back -/

/-- A unit that has been set reads as set, where its number names one. -/
@[simp] theorem State.setLand_land_self (s : State) (i : Fin 12) (x : Landing) : (s.setLand i x).land i = x := by
  simp [State.setLand, State.land]

/-- Setting one unit leaves the others alone. -/
theorem State.setLand_land_ne (s : State) (i k : Nat) (x : Landing) (h : i ≠ k) : (s.setLand i x).land k = s.land k := by
  simp [State.setLand, State.land, h]

@[simp] theorem State.modLand_land_self (s : State) (i : Fin 12) (f : Landing → Landing) : (s.modLand i f).land i = f (s.land i) :=
  State.setLand_land_self s i _

theorem State.modLand_land_ne (s : State) (i k : Nat) (f : Landing → Landing) (h : i ≠ k) : (s.modLand i f).land k = s.land k :=
  State.setLand_land_ne s i k _ h

/-- A unit that has been set reads as set, where its number names one. -/
@[simp] theorem State.setGal_gal_self (s : State) (i : Fin 3) (x : Gallery) : (s.setGal i x).gal i = x := by
  simp [State.setGal, State.gal]

/-- Setting one unit leaves the others alone. -/
theorem State.setGal_gal_ne (s : State) (i k : Nat) (x : Gallery) (h : i ≠ k) : (s.setGal i x).gal k = s.gal k := by
  simp [State.setGal, State.gal, h]

@[simp] theorem State.modGal_gal_self (s : State) (i : Fin 3) (f : Gallery → Gallery) : (s.modGal i f).gal i = f (s.gal i) :=
  State.setGal_gal_self s i _

theorem State.modGal_gal_ne (s : State) (i k : Nat) (f : Gallery → Gallery) (h : i ≠ k) : (s.modGal i f).gal k = s.gal k :=
  State.setGal_gal_ne s i k _ h

/-- A unit that has been set reads as set, where its number names one. -/
@[simp] theorem State.setPort_port_self (s : State) (i : Fin 9) (x : Port) : (s.setPort i x).port i = x := by
  simp [State.setPort, State.port]

/-- Setting one unit leaves the others alone. -/
theorem State.setPort_port_ne (s : State) (i k : Nat) (x : Port) (h : i ≠ k) : (s.setPort i x).port k = s.port k := by
  simp [State.setPort, State.port, h]

@[simp] theorem State.modPort_port_self (s : State) (i : Fin 9) (f : Port → Port) : (s.modPort i f).port i = f (s.port i) :=
  State.setPort_port_self s i _

theorem State.modPort_port_ne (s : State) (i k : Nat) (f : Port → Port) (h : i ≠ k) : (s.modPort i f).port k = s.port k :=
  State.setPort_port_ne s i k _ h

/-- A unit that has been set reads as set, where its number names one. -/
@[simp] theorem State.setCh_ch_self (s : State) (i : Fin 8) (x : Dma) : (s.setCh i x).ch i = x := by
  simp [State.setCh, State.ch]

/-- Setting one unit leaves the others alone. -/
theorem State.setCh_ch_ne (s : State) (i k : Nat) (x : Dma) (h : i ≠ k) : (s.setCh i x).ch k = s.ch k := by
  simp [State.setCh, State.ch, h]

@[simp] theorem State.modCh_ch_self (s : State) (i : Fin 8) (f : Dma → Dma) : (s.modCh i f).ch i = f (s.ch i) :=
  State.setCh_ch_self s i _

theorem State.modCh_ch_ne (s : State) (i k : Nat) (f : Dma → Dma) (h : i ≠ k) : (s.modCh i f).ch k = s.ch k :=
  State.setCh_ch_ne s i k _ h

/-- A unit that has been set reads as set, where its number names one. -/
@[simp] theorem State.setBox_box_self (s : State) (i : Fin 9) (x : Mailbox) : (s.setBox i x).box i = x := by
  simp [State.setBox, State.box]

/-- Setting one unit leaves the others alone. -/
theorem State.setBox_box_ne (s : State) (i k : Nat) (x : Mailbox) (h : i ≠ k) : (s.setBox i x).box k = s.box k := by
  simp [State.setBox, State.box, h]

@[simp] theorem State.modBox_box_self (s : State) (i : Fin 9) (f : Mailbox → Mailbox) : (s.modBox i f).box i = f (s.box i) :=
  State.setBox_box_self s i _

theorem State.modBox_box_ne (s : State) (i k : Nat) (f : Mailbox → Mailbox) (h : i ≠ k) : (s.modBox i f).box k = s.box k :=
  State.setBox_box_ne s i k _ h

@[simp] theorem State.modArb_land_self (s : State) (l : LandingId) (f : Arb → Arb) :
    (s.modArb l f).land l = { s.land l with arb := f (s.land l).arb } :=
  State.modLand_land_self s l _

theorem State.modArb_land_ne (s : State) (i k : Nat) (f : Arb → Arb) (h : i ≠ k) : (s.modArb i f).land k = s.land k :=
  State.modLand_land_ne s i k _ h

@[simp] theorem State.modSeq_land_self (s : State) (l : LandingId) (f : Seq → Seq) :
    (s.modSeq l f).land l = { s.land l with seq := f (s.land l).seq } :=
  State.modLand_land_self s l _

theorem State.modSeq_land_ne (s : State) (i k : Nat) (f : Seq → Seq) (h : i ≠ k) : (s.modSeq i f).land k = s.land k :=
  State.modLand_land_ne s i k _ h

@[simp] theorem State.modMnt_land_self (s : State) (l : LandingId) (f : Mnt → Mnt) :
    (s.modMnt l f).land l = { s.land l with mnt := f (s.land l).mnt } :=
  State.modLand_land_self s l _

theorem State.modMnt_land_ne (s : State) (i k : Nat) (f : Mnt → Mnt) (h : i ≠ k) : (s.modMnt i f).land k = s.land k :=
  State.modLand_land_ne s i k _ h

@[simp] theorem State.modPhy_land_self (s : State) (l : LandingId) (f : Phy → Phy) :
    (s.modPhy l f).land l = { s.land l with phy := f (s.land l).phy } :=
  State.modLand_land_self s l _

theorem State.modPhy_land_ne (s : State) (i k : Nat) (f : Phy → Phy) (h : i ≠ k) : (s.modPhy i f).land k = s.land k :=
  State.modLand_land_ne s i k _ h

@[simp] theorem State.modCal_land_self (s : State) (l : LandingId) (f : Cal → Cal) :
    (s.modCal l f).land l = { s.land l with cal := f (s.land l).cal } :=
  State.modLand_land_self s l _

theorem State.modCal_land_ne (s : State) (i k : Nat) (f : Cal → Cal) (h : i ≠ k) : (s.modCal i f).land k = s.land k :=
  State.modLand_land_ne s i k _ h

@[simp] theorem State.modSbd_land_self (s : State) (l : LandingId) (f : Sbd → Sbd) :
    (s.modSbd l f).land l = { s.land l with sbd := f (s.land l).sbd } :=
  State.modLand_land_self s l _

theorem State.modSbd_land_ne (s : State) (i k : Nat) (f : Sbd → Sbd) (h : i ≠ k) : (s.modSbd i f).land k = s.land k :=
  State.modLand_land_ne s i k _ h

end Sys2Proof.Machine
end

