-- ==== Sys2Proof/Laws/Ops.lean ====
section
/-! SUPPORT. The shared operations, each by one lemma that says all it can do: the CFG gate, the beginning and the end of a mailbox
command, Event Queue posts, the fault history, periodic schedules, halls by number and stamps. -/

namespace Sys2Proof.Machine

/-! ## The CFG gate -/

/-- All that a CFG write can come to: not taken, waiting behind a stalled pop, ignored with CFG_ERR or without, or its effect. -/
theorem cfgWrite_cases (s : State) (a : Nat) (w : CfgWord) (f : State → State) :
    (s.cfgAlive = false ∧ s.cfgWrite a w f = s) ∨
    (s.cfgAlive = true ∧ s.cfgWaits = true ∧ s.cfgWrite a w f = { s with cfg := { s.cfg with
      queue := s.cfg.queue ++ [{ write := true, addr := a, strb := w.strb, data := w.data, counts := [] }] } }) ∨
    (s.cfgAlive = true ∧ s.cfgWaits = false ∧ w.strb ≠ 0xF ∧ s.cfgWrite a w f = s.cfgReply 0 true) ∨
    (s.cfgAlive = true ∧ s.cfgWaits = false ∧ w.strb = 0xF ∧ s.absentAt a = true ∧ s.cfgWrite a w f = s.cfgReply 0 false) ∨
    (s.cfgAlive = true ∧ s.cfgWaits = false ∧ w.strb = 0xF ∧ s.absentAt a = false ∧ s.domainDown a = true ∧
      s.cfgWrite a w f = s.cfgReply 0 true) ∨
    (s.cfgAlive = true ∧ s.cfgWaits = false ∧ w.strb = 0xF ∧ s.absentAt a = false ∧ s.domainDown a = false ∧
      s.cfgWrite a w f = (f s).cfgReply 0 false) := by
  unfold State.cfgWrite State.cfgRequest State.writeGate
  cases h1 : s.cfgAlive <;> cases h2 : s.cfgWaits <;> by_cases h3 : w.strb = 15#4 <;> cases h4 : s.absentAt a <;>
    cases h5 : s.domainDown a <;> simp [h1, h2, h3, h4, h5]

/-- A whole-word write at an address of a unit that is present and on has its effect at once. -/
theorem cfgWrite_open {s : State} {a : Nat} (d : W32) (f : State → State) (h1 : s.cfgAlive = true) (h2 : s.cfgWaits = false)
    (h4 : s.absentAt a = false) (h5 : s.domainDown a = false) : s.cfgWrite a ⟨0xF, d⟩ f = (f s).cfgReply 0 false := by
  simp [State.cfgWrite, State.cfgRequest, State.writeGate, h1, h2, h4, h5]

/-- All that the gate of a read can come to past the port. -/
theorem readGate_cases (s : State) (a : Nat) (strb : BitVec 4) (f : State → W32 × State) :
    (s.absentAt a = true ∧ s.readGate a strb f = s.cfgReply 0 (decide (strb ≠ 0xF))) ∨
    (s.absentAt a = false ∧ s.domainDown a = true ∧ s.readGate a strb f = s.cfgReply 0 true) ∨
    (s.absentAt a = false ∧ s.domainDown a = false ∧ s.readGate a strb f = (f s).2.cfgReply (f s).1 (decide (strb ≠ 0xF))) := by
  unfold State.readGate
  cases h4 : s.absentAt a <;> cases h5 : s.domainDown a <;> simp [h4, h5]

/-- A read that CFG takes acts at once. -/
theorem cfgRead_free {s : State} (a : Nat) (strb : BitVec 4) (f : State → State) (h1 : s.cfgAlive = true) (h2 : s.cfgWaits = false) :
    s.cfgRead a strb f = f s := by
  simp [State.cfgRead, State.cfgRequest, h1, h2]

/-- A read that CFG does not take does nothing. -/
theorem cfgRead_dead {s : State} (a : Nat) (strb : BitVec 4) (f : State → State) (h : s.cfgAlive = false) : s.cfgRead a strb f = s := by
  simp [State.cfgRead, State.cfgRequest, h]

/-! ## Mailbox commands -/

/-- All that the beginning of a mailbox command can come to: it waits, is refused in Halt or outside P0, or has its effect. -/
theorem amiom_cases (s : State) (m opc : Nat) (f : State → State) :
    s.amiom m opc f = .next s ∨ s.amiom m opc f = .next (s.finishS m .halted) ∨ s.amiom m opc f = .next (s.finishS m .badState) ∨
      s.amiom m opc f = .next (f s).pump := by
  unfold State.amiom
  dsimp only
  by_cases h : ((s.box m).state == .busy && !(s.box m).started && (s.box m).opc == opc && s.chip.fwReady && s.mayStart m) = true
  · rw [if_pos h]
    split
    · exact .inr (.inl rfl)
    · split
      · exact .inr (.inr (.inl rfl))
      · exact .inr (.inr (.inr rfl))
  · exact .inl (if_neg h)

/-- A command that firmware may begin, that works in the present state of Halt and power, has its effect. -/
theorem amiom_begins {s : State} {m opc : Nat} (f : State → State) (h1 : (s.box m).state = .busy) (h2 : (s.box m).started = false)
    (h3 : (s.box m).opc = opc) (h4 : s.chip.fwReady = true) (h5 : s.mayStart m = true)
    (h6 : s.chip.halted = false ∨ ((opcodeRow opc).map (·.2)).getD false = true)
    (h7 : needsDram opc = false ∨ (s.inP0 = true ∧ s.pwr.pend = none)) : s.amiom m opc f = .next (f s).pump := by
  unfold State.amiom
  simp only [h1, h2, h3, h4, h5]
  rcases h6 with h | h <;> rcases h7 with g | ⟨g, g'⟩ <;> simp [*]

/-- A completed command is DONE, holds no object, and its response names its status. -/
@[simp] theorem Mailbox.finish_state (b : Mailbox) (st : AStatus) (res : List W32) (pay : List Byte) : (b.finish st res pay).state = .done := rfl
@[simp] theorem Mailbox.finish_started (b : Mailbox) (st : AStatus) (res : List W32) (pay : List Byte) :
    (b.finish st res pay).started = false := rfl
@[simp] theorem Mailbox.finish_cmd (b : Mailbox) (st : AStatus) (res : List W32) (pay : List Byte) : (b.finish st res pay).cmd = b.cmd := rfl

/-- Completing the command of one mailbox leaves the others alone. -/
@[simp] theorem State.finish_box_self (s : State) (m : MailboxId) (st : AStatus) (res : List W32) (pay : List Byte) :
    (s.finish m st res pay).box m = (s.box m).finish st res pay := State.modBox_box_self s m _

theorem State.finish_box_ne (s : State) (m k : Nat) (st : AStatus) (res : List W32) (pay : List Byte) (h : m ≠ k) :
    (s.finish m st res pay).box k = s.box k := State.modBox_box_ne s m k _ h

/-! ## Event Queue posts -/

/-- Serving a stalled pop moves the Event Queue and CFG only. -/
theorem State.serveEvent_frame (s : State) : ∃ q c, s.serveEvent = { s with eq := q, cfg := c } := by
  unfold State.serveEvent
  split
  · split
    · exact ⟨s.eq, s.cfg, rfl⟩
    · next k _ _ =>
      have pop : ∃ q, s.popEvent.2 = { s with eq := q } := by
        unfold State.popEvent
        split <;> exact ⟨_, rfl⟩
      obtain ⟨q, hq⟩ := pop
      refine ⟨q, ({ s.cfg with stalled := none } : Cfg).answer s.popEvent.1 k.partialStrb, ?_⟩
      show s.popEvent.2.endStall s.popEvent.1 k = _
      rw [hq]
      rfl
  · exact ⟨s.eq, s.cfg, rfl⟩

/-- A post moves the Event Queue, CFG and the STATUS1 pulse only. -/
theorem State.post_frame (s : State) (type prio : Nat) (data : List W32) :
    ∃ q c p, s.post type prio data = { s with eq := q, cfg := c, chip := { s.chip with status1Pulse := p } } := by
  unfold State.post
  dsimp only
  split
  · exact ⟨_, s.cfg, s.chip.status1Pulse, rfl⟩
  · have hold : ∀ k, ∃ p, s.status1Hold k = { s with chip := { s.chip with status1Pulse := p } } := by
      intro k
      unfold State.status1Hold
      split
      · split
        · exact ⟨true, rfl⟩
        · exact ⟨s.chip.status1Pulse, rfl⟩
      · exact ⟨s.chip.status1Pulse, rfl⟩
    split
    · obtain ⟨p, hp⟩ := hold 5
      rw [hp]
      obtain ⟨q, c, h⟩ := State.serveEvent_frame _
      exact ⟨q, c, p, h.trans rfl⟩
    · obtain ⟨q, c, h⟩ := State.serveEvent_frame _
      exact ⟨q, c, s.chip.status1Pulse, h.trans rfl⟩

/-! ## The fault history -/

/-- A history entry joins the Record Store as its newest item; nothing but the items and the mark of a change moves. -/
theorem State.history_frame (s : State) (r : Record) :
    ∃ items, s.history r = { s with store := { s.store with items := items ++ [r], changed := true } } := ⟨_, rfl⟩

/-! ## Periodic work -/

/-- The next instance is due neither before its grid time nor before the floor after the start (R33). -/
theorem schedStart_next (period pull floor start : Nat) (c : Sched) :
    (schedStart period pull floor start c).ideal ≤ (schedStart period pull floor start c).next ∧
      start + floor ≤ (schedStart period pull floor start c).next := by
  simp only [schedStart]
  omega

/-- An instance that starts on its grid time keeps the grid (R33). -/
theorem schedStart_onTime (period pull floor : Nat) (c : Sched) (h : c.merged = 0) (hf : floor ≤ period) :
    (schedStart period pull floor c.ideal c).next = c.ideal + period := by
  simp only [schedStart, h]
  omega

/-! ## Halls by number -/

theorem lookupN_putN_self {α : Type} (k : Nat) (v : α) : ∀ m : List (Nat × α), lookupN (putN m k v) k = some v
  | [] => by simp [putN, lookupN]
  | (j, w) :: m => by
    unfold putN
    split
    · simp [lookupN]
    · split
      · simp [lookupN]
      · next h => simpa [lookupN, Ne.symm h] using lookupN_putN_self k v m

theorem lookupN_putN_ne {α : Type} {k i : Nat} (v : α) (h : i ≠ k) : ∀ m : List (Nat × α), lookupN (putN m k v) i = lookupN m i
  | [] => by simp [putN, lookupN, Ne.symm h]
  | (j, w) :: m => by
    unfold putN
    split
    · simp [lookupN, Ne.symm h]
    · split
      · next h1 => subst h1; simp [lookupN, Ne.symm h]
      · by_cases hj : j = i
        · simp [lookupN, hj]
        · simpa [lookupN, hj] using lookupN_putN_ne v h m

@[simp] theorem State.putHall_hall_self (s : State) (n : Nat) (x : Hall) : (s.putHall n x).hall n = some x := lookupN_putN_self n x s.halls

theorem State.putHall_hall_ne (s : State) {n k : Nat} (x : Hall) (h : k ≠ n) : (s.putHall n x).hall k = s.hall k :=
  lookupN_putN_ne x h s.halls

/-! ## Stamps -/

/-- No stamp is nearer than itself. -/
@[simp] theorem nearer_self (a : BitVec 32) : nearer a a = false := by simp [nearer]

/-- Of two stamps at most one is the nearer. -/
theorem nearer_asymm (a b : BitVec 32) (h : nearer a b = true) : nearer b a = false := by
  simp only [nearer, Bool.and_eq_true, Bool.and_eq_false_iff, decide_eq_true_eq, decide_eq_false_iff_not, BitVec.toNat_sub] at h ⊢
  have ha := a.isLt
  have hb := b.isLt
  omega

end Sys2Proof.Machine
end

