-- ==== Sys2Proof/Machine/Flit.lean ====
section
/-! DEFINITION. The request header on a port's lanes (R69–R74): from the 128-bit header word with its data flit and byte enables
to the command that it is. -/

namespace Sys2Proof.Machine

/-- The fields of a request header (R71); bits [127:82] are ignored. -/
def headerOf (w : BitVec 128) : Header :=
  { tag := w.extractLsb' 6 12, ldid := w.extractLsb' 18 4, due := w.extractLsb' 22 12, addr := w.extractLsb' 34 46
    lock := w.getLsbD 80 }

/-- The header word of the fields, with reserved bits 0. -/
def headerWord (opc : BitVec 6) (h : Header) (poison : Bool) : BitVec 128 :=
  BitVec.ofNat 128 (opc.toNat + h.tag.toNat * 2 ^ 6 + h.ldid.toNat * 2 ^ 18 + h.due.toNat * 2 ^ 22 + h.addr.toNat * 2 ^ 34 +
    b2n h.lock * 2 ^ 80 + b2n poison * 2 ^ 81)

/-- The command that a message on a port's M2S lanes is (R73, R74). `BE` counts only with MWRP, the data flit and `POISON` only
with MWR and MWRP. -/
def flitOf (p : PortId) (w : BitVec 128) (data : BitVec 512) (be : BitVec 64) : Instr :=
  let h := headerOf w
  let opc := w.extractLsb' 0 6
  let poison := w.getLsbD 81
  match opc.toNat with
  | 0x01 => .mrd p h
  | 0x02 => .mrds p h
  | 0x03 => .unlk p h
  | 0x11 => .mwr p h poison data
  | 0x12 => .mwrp p h poison data be
  | o => if o = 0 ∨ 0x20 ≤ o then .classlessOpcode p h opc else .malformedOpcode p h opc

end Sys2Proof.Machine
end

