-- ==== Sys2Proof/Machine/Lanes.lean ====
section
/-! DEFINITION. What the values of a PHY macro's registers mean at its lanes (R271, R277, R282, R286–R293): placements, receive
references, equaliser taps, transmit weights, drive and termination, as the last burst's delay set gives them. Placements are in
steps of 0.15 ps (`FINE`) with whole unit intervals apart. -/

namespace Sys2Proof.Machine

/-- The unit intervals of a delay code (R277). -/
def delayUi (code : Nat) : Nat := code / 4096
/-- Its placement on the delay line, in steps of 0.15 ps. -/
def delayFine (code : Nat) : Nat := code % 4096

/-- The raw code that a lane with a delay code stands at on CK edge `e` (R278, R282). -/
def State.laneRaw (s : State) (l code e : Nat) : Nat :=
  let p := (s.land l).phy
  laneCode p.inForce (delayFine code) p.leaving e

/-- The transmit and the receive delay code of a DQ, as loaded for the subchannel's last burst (R286, R287). -/
def State.dqTx (s : State) (l sub b : Nat) : Nat := fld (s.laneWord l sub (4 * b)) 15 0
def State.dqRx (s : State) (l sub b : Nat) : Nat := fld (s.laneWord l sub (4 * b)) 31 16
/-- The transmit delay code and the receive-enable gate of a strobe (R286, R289). -/
def State.dqsTx (s : State) (l sub k : Nat) : Nat := fld (s.laneWord l sub (0x140 + 4 * k)) 15 0
def State.dqsGate (s : State) (l sub k : Nat) : Nat := fld (s.laneWord l sub (0x140 + 4 * k)) 31 16

/-- The gate of a strobe for a read issued on CK edge `e`: the edge at which the read preamble is expected, from `SEQ_T_LAT.RL`, and
the code of the delay from there; none for a strobe whose receiver is off (R43, R288, R289). -/
def State.gateOpens (s : State) (l sub k e : Nat) : Option (Nat × Nat) :=
  if (s.land l).strobeOn k then some (e + fld (s.lv l 0x8C0) 7 0, s.dqsGate l sub k) else none

/-- The receive reference of a DQ, in hundredths of a percent of VDDQP (R290). -/
def State.dqVref (s : State) (l sub b : Nat) : Nat := 4000 + 25 * fld (s.laneWord l sub (0xA0 + 4 * b)) 7 0

/-- A two's complement field as a number. -/
def signedFld (w : W32) (hi lo : Nat) : Int :=
  let v := fld w hi lo
  if v < 2 ^ (hi - lo) then (v : Int) else (v : Int) - (2 ^ (hi + 1 - lo) : Nat)

/-- The four DFE taps of a DQ in mV; all 0 with `PHY_CTL.DFE_EN` = 0 (R291). -/
def State.dqTaps (s : State) (l sub b : Nat) : List Int :=
  let w := s.laneWord l sub (0xA0 + 4 * b)
  if (s.lv l 0x1000).getLsbD 2 then [signedFld w 14 8, signedFld w 19 15, signedFld w 24 20, signedFld w 29 25] else [0, 0, 0, 0]

/-- The weights of the transmit equaliser in percent: pre-cursor, main cursor, post-cursor; the main cursor alone with
`PHY_CTL.FFE_EN` = 0 (R292). -/
def State.ffe (s : State) (l sub : Nat) : Nat × Nat × Nat :=
  let w := s.laneWord l sub 0x168
  let pre := 2 * fld w 2 0
  let post := 2 * fld w 6 3
  if (s.lv l 0x1000).getLsbD 3 then (pre, 100 - pre - post, post) else (0, 100, 0)

/-- Legs of 240 Ω in parallel for a drive strength of `PHY_CTL`: 34, 40 or 48 Ω (R293). -/
def driveLegs (code : Nat) : Nat := 7 - code
/-- Legs in parallel for a termination of `PHY_CTL`: none, or 240, 120, 80, 60, 48, 40 or 34 Ω (R293). -/
def odtLegs (code : Nat) : Nat := code

/-- The delay code of a command lane, shared by every rank and both slots (R272): 0 to 6 DCA, 7 DPAR, 8 and 9 DCS_N. -/
def State.caDelay (s : State) (l sub i : Nat) : Nat := fld (s.lv l (0x1300 + 0x40 * sub + 4 * i)) 15 0
/-- The delay code of a slot's DCK pair (R272). -/
def State.dckDelay (s : State) (l slot : Nat) : Nat := fld (s.lv l (0x1380 + 4 * slot)) 15 0

end Sys2Proof.Machine
end

