-- ==== Sys2Proof/WellFormed.lean ====
section
/-! DEFINITION. Which commands are well formed: operands that the manual's encodings can carry. `exec` takes every command; an ill-formed
one names no event of the hardware. -/

namespace Sys2Proof

/-- An `OPC` that consumes a credit and is answered `MALFORMED` (R74): 04h to 10h and 13h to 1Fh. -/
def malformedOpc (opc : BitVec 6) : Bool := (decide (0x04 ≤ opc.toNat) && decide (opc.toNat ≤ 0x10)) || (decide (0x13 ≤ opc.toNat) && decide (opc.toNat ≤ 0x1F))

/-- An `OPC` that names no credit class (R74): 00h and 20h to 3Fh. -/
def classlessOpc (opc : BitVec 6) : Bool := decide (opc.toNat = 0) || decide (0x20 ≤ opc.toNat)

/-- A raw delay-line code has 14 bits (R280). -/
def rawCode (n : Nat) : Bool := decide (n < 2 ^ 14)

/-- No two modules of a probe stand in one slot (R300). -/
def distinctSlots (found : List FoundModule) : Bool :=
  (found.map fun f => (f.landing.val, f.slot.val)).Pairwise (· ≠ ·) |> decide

/-- The operands are such as the manual's encodings carry. -/
def Instr.wf : Instr → Bool
  | .malformedOpcode _ _ opc => malformedOpc opc
  | .classlessOpcode _ _ opc => classlessOpc opc
  | .stringerInstanceDone _ zero full code _ _ => rawCode zero && rawCode full && rawCode code
  | .stringerFullMeasurementDone _ zero full codes => rawCode zero && rawCode full && codes.all rawCode && decide (codes.length = 63)
  | .impedanceSearchDone _ pu pd => decide (pu < 128) && decide (pd < 128)
  | .sidebandTransactionDone _ data => decide (data.length ≤ 1024)
  | .discover _ found => distinctSlots found
  | .faultReport r => decide (r.subsys < 32) && decide (r.code < 256) && decide (r.inst < 16)
  | .pprProgramDone _ _ holdNs => decide (holdNs < 2 ^ 32)
  | .lowWordRead addr _ => decide (addr.toNat % 4 = 0)
  | .registerWrite addr _ => decide (addr.toNat % 4 = 0)
  | _ => true

end Sys2Proof
end

