-- ==== Sys2Proof/Tests/Slice0.lean ====
section
/-! SUPPORT. The model's own tests: a smoke test that each check of well-formedness refuses, for every statement with hypotheses a
witness of each of its clauses, and one step of some commands against what the manual gives. The states are built by the helpers below. -/

namespace Sys2Proof.Tests

open Sys2Proof Sys2Proof.Machine Sys2Proof.Slice

set_option Elab.async false

/-! ## States -/

/-- A block that runs: every domain on, module power good, firmware ready, 2 ms after the end of its reset. -/
def up : State := State.reset.modChip fun c =>
  { c with cycle := 4000000, fwReady := true, aliveOn := true, pwrEn := true, pwrGood := true, galOn := Vector.replicate 3 true
           phyOn := Vector.replicate 12 true, nextFlight := 125000 }

/-- One rank of x4 RDIMM devices at 4,800 MT/s. -/
def geo : Geom := { valid := true, mrd := false, dpc2 := false, rankBits := 0, x8 := false, bank4 := true, rowBits := 0, rate := 4800 }

/-- One granule on Landing 0, plain. -/
def plain : Hall :=
  { set := 1, size := 1, enc := false, integ := false, cmp := false, elastic := false, dl := false, dbgv := false, dma := 0, w := 0
    ext := [[0]], tagExt := [], mapExt := [], keyLoaded := false, key := [], check := 0, unbacked := [], pages := [], heat := []
    heatSize := 0, phase := .ready, zeroPos := [0], zeroOut := [], metaPos := [], metaOut := [] }

/-- The contents of an SPD hub: one rank of x4 RDIMM devices of 16 Gb, 32 GiB. -/
def spd0 : Spd :=
  { crcOk := true, type := .rdimm, busOk := true, ioWidth := 4, densityGb := 16, capacityGib := 32, bankGroups := 8, banksPerGroup := 4, rowBits := 16
    columnsOk := true, ranks := 1, tckMinPs := 416, tckMaxPs := 1010, cas := [40], taaMinPs := 16000, timing := [], pracTiming := [], nck := []
    jedecMin := [], rfm := false, rfmRequired := false, rfmSameBank := false, rfmImt := 0, rfmMmt := 0, rfmDec := 0, drfm := false
    drfmRequired := false, prac := false, pracRequired := false, pracNrfm := 0, thermalSensor := true, i3c := false, manufacturer := 0
    serial := 0, parityLatencyCk := 0, rcdDelayCk := none, bufferDelayCk := none, hintWriteProtected := false, raw := [] }

/-- A module that discovery has read. -/
def mod0 : Machine.Module :=
  { spd := spd0, temp := 60, pmic := 0, pmicBad := false, hintUsed := false, hintWritten := false, hintWp := false, rcd := none, rails := none }

/-- Landing 0 serves: started, in RUN, its PLL locked; hall 1 stands on it, and port HP0 has a window to it. -/
def served : State :=
  let s := (up.modLand 0 fun x => { x with sbd := { x.sbd with started := true, reached := true }, seq := { x.seq with lstate := .run, geom := geo }
                                           granules := 8 }).modGal 0 fun g => { g with pllLock := true }
  let s := s.modPort 0 fun p => { p with state := .opened, req := 4, wrq := 4, cpl := 4, dat := 4 }
  { s with halls := [(1, plain)], windows := [{ num := 0, hall := 1, port := 0, ldid := 0, base := 0, rw := true, active := true }] }

/-- `served` with one mailbox taken and not begun: the words of its command. -/
def taken (s : State) (m : Nat) (words : List Nat) : State :=
  s.modBox m fun b => { b with state := .busy, cmd := (words.zipIdx).foldl (fun ws e => setW 0 ws e.2 (BitVec.ofNat 32 e.1)) [] }

/-- A read of Landing 0 by HP0. -/
def rd0 : Access :=
  { id := 7, client := .host 0 7, req := 0, stamp := beStamp up.now, dl := false, emergency := false, op := .read, addr := 0, hall := some 1
    data := 0, be := 0, stored := 0, poison := false, tag := none, tagAt := none, off := 0, ready := true, opens := none, closes := none
    inside := none, first := none, stale := false, acc := stampOf up.now, entered := true, adm := 0, yields := false }

/-- A header for hall offset 0, without a deadline. -/
def hdr0 : Header := { tag := 5, ldid := 0, due := 0xFFF, addr := 0, lock := false }

/-- `served` in Halt. -/
def halted0 : State := served.modChip fun c => { c with halted := true }

/-- `served` in Bring-up mode. -/
def bringup0 : State := served.modChip fun c => { c with bringup := true }

/-- Landing 0's module in slot 1. -/
def sensed : State := served.modLand 0 fun x => { x with sbd := { x.sbd with slots := x.sbd.slots.setIfInBounds 1 (some mod0) } }

/-- An outstanding read with the header's tag. -/
def txn0 : Txn := acceptedTxn served 0 .mrd hdr0 false 0 0 1 0

/-- A fence of Landing 0, settled or not. -/
def fence0 (settled : Bool) : Fence :=
  { up.landFence [0] (repL 4 2 0 0) with id := 3, active := true, settled := settled, settledAt := 4000000 - 64, time := 2000000, shadow := true }

/-! ## Witnesses: the machine as a whole -/

theorem witness_EmptyQueueStepIsOneCycle :
    (up.pending = [] ∧ up.chip.phase ≠ .cold ∧ up.pwr.state ≠ .p4 ∧ up.chip.cpOn = true) ∧
    (let s : State := { up with pwr := { up.pwr with state := .p3 }, chip := { up.chip with coreOn := false, cpOn := false } }
     s.pending = [] ∧ s.pwr.state = .p3 ∧ s.chip.phase ≠ .cold) ∧
    ({ up with pwr := { up.pwr with state := .p4 } } : State).pending = [] := by decide +kernel

theorem witness_StepKeepsQueueOrderAndPart : (step { up with pending := [.status1PulseEnd, .coldReset] } matches .next _) = true := by
  decide +kernel

theorem witness_StepKeepsDescriptorMemoryCanonical :
    up.desc.wf = true ∧ (step { up with pending := [.treadBoundary] } matches .next _) = true := by decide +kernel

theorem witness_BlockTimeNeverFallsOutsideResets : ∃ s t : State, step s = .next t ∧
    (∀ c rest, s.pending = c :: rest → c ≠ .coldReset ∧ c ≠ .warmResetEnd ∧ (∀ b h, c ≠ .powerOnSequence b h) ∧
      (s.chip.railWait = true → ∀ pin, c ≠ .pgInputRise pin)) ∧ s.pending = [.status1PulseEnd] := by
  refine ⟨{ up with pending := [.status1PulseEnd] }, _, rfl, ?_, rfl⟩
  rintro c rest ⟨⟩
  simp

theorem witness_ByteMemoryReadsBackAndStaysCanonical : Memory.wf [(0, 1), (5, 255)] = true := by decide

theorem witness_StampsCompareInSerialArithmetic : ∃ t u : Nat, t < u + 2 ^ 31 ∧ u < t + 2 ^ 31 ∧ t = 2 ^ 32 - 1 ∧ u = 2 ^ 32 + 2 ^ 31 - 2 ∧
    nearer (BitVec.ofNat 32 t) (BitVec.ofNat 32 u) = true := ⟨2 ^ 32 - 1, 2 ^ 32 + 2 ^ 31 - 2, by decide⟩

theorem witness_ClockPeriodIsTruncated : 0 < (1 : Nat) ∧ (served.land (0 : LandingId)).seq.geom.valid = true := by decide +kernel

theorem witness_WatermarkCrossingSurvivesItsClear : (Wm.mk false true 255).above = false ∧ (Wm.mk false true 255).count = 255 := by decide

theorem witness_AddressesNameEachLineOnce :
    (2 ^ 35 - 64) % 64 = 0 ∧ 2 ^ 35 - 64 < 2 ^ (6 + 5 + (if geo.x8 then 5 else 6) + (if geo.bank4 then 2 else 1) + geo.rankBits + (16 + geo.rowBits)) ∧
    0 < ([3, 5] : List Nat).length ∧ 255 < 256 := by decide

/-! ## Witnesses: resets, power-up and boot -/

/-- A block in cold reset whose rails are good or not. -/
def cold (cp core : Bool) : State := up.modChip fun c => { c with phase := .cold, pgCp := cp, pgCore := core, railWait := true }

theorem witness_ColdResetClearsAndPowerOnSamples :
    ((cold true true).chip.phase = .cold ∧ (cold true true).chip.pgCore = true ∧ (cold true true).chip.pgCp = true) ∧
    ((cold true false).chip.pgCore = false ∧ (cold true false).chip.phase = .cold) ∧
    ((cold true false).chip.railWait = true ∧ (cold true false).chip.pgCp = true) ∧
    ((cold false false).chip.railWait = true ∧ (cold false false).chip.pgCp = false) ∧
    ((cold false true).chip.railWait = true ∧ (cold false true).chip.pgCore = true) ∧
    up.chip.phase ≠ .cold ∧ up.chip.cycle ≠ 0 := by decide +kernel

/-- A warm reset in which Landing 0 still drains. -/
def warm : State := (served.modChip fun c => { c with phase := .warm }).modSeq 0 fun q => { q with lstate := .drain }

/-- A warm reset with every Landing at rest. -/
def warmRest : State := up.modChip fun c => { c with phase := .warm }

theorem witness_WarmResetStopsDrainsAndEnds :
    (up.chip.phase = .out ∧ up.pwr.state ≠ .p4) ∧ warm.chip.phase ≠ .out ∧
    (warm.chip.phase = .warm ∧ (warm.land (0 : LandingId)).seq.lstate.quiet = false) ∧
    (warm.land (1 : LandingId)).seq.lstate.quiet = true ∧
    (warmRest.chip.phase = .warm ∧ ((List.range warmRest.nLand).all fun l => (warmRest.land l).seq.lstate.quiet) = true) ∧
    ((List.range warm.nLand).all fun l => (warm.land l).seq.lstate.quiet) = false := by decide +kernel

/-- The boot ROM waits for a command of LBA. -/
def rom (words : List Nat) : State :=
  (State.reset.modChip fun c => { c with bootsel := true, rootKeyHash := 1 }).modBox 8 fun b =>
    { b with state := .pending, cmd := (words.zipIdx).foldl (fun ws e => setW 0 ws e.2 (BitVec.ofNat 32 e.1)) [] }

theorem witness_BootRomKeepsImageAndStartsIt :
    (State.reset.inRom = true ∧ State.reset.chip.verified = none) ∧
    ((rom [0x0F01, 4096, 0]).romCommand 0x0F01 = true ∧ ((rom [0x0F01, 4096, 0]).box 8).plen ≠ 0 ∧
      ((rom [0x0F01, 4096, 0]).box 8).plen ≤ 4096 ∧ (((rom [0x0F01, 4096, 0]).box 8).word 2).toNat % 4096 = 0 ∧
      (((rom [0x0F01, 4096, 0]).box 8).word 2).toNat + ((rom [0x0F01, 4096, 0]).box 8).plen ≤ imageLimit) ∧
    ((rom [0x0F01, 4096, imageLimit / 4096 * 4096]).romCommand 0x0F01 = true ∧
      imageLimit < (((rom [0x0F01, 4096, imageLimit / 4096 * 4096]).box 8).word 2).toNat + ((rom [0x0F01, 4096, imageLimit / 4096 * 4096]).box 8).plen) ∧
    ((rom [0x0F01, 0, 0]).romCommand 0x0F01 = true ∧ ((rom [0x0F01, 0, 0]).box 8).plen = 0) ∧
    ((rom [0x0F01, 8, 1]).romCommand 0x0F01 = true ∧ (((rom [0x0F01, 8, 1]).box 8).word 2).toNat % 4096 ≠ 0) ∧
    (rom [0x0F02, 0, 4]).romCommand 0x0F02 = true ∧
    (let s := State.reset.modChip fun c => { c with verified := some (5, 0) }
     s.chip.verified = some (5, 0) ∧ s.inRom = true) := by decide +kernel

theorem witness_WatchdogRestartsFirmware :
    up.chip.phase = .out ∧ up.chip.cpOn = true ∧ up.pwr.state ≠ .p4 ∧ ((taken up 2 [3]).box (2 : MailboxId)).state = .busy ∧
    (∀ w ∈ up.misc.cpuWork, w.mapLine = true → w.mailbox = none) := by decide +kernel

/-! ## Witnesses: pins, reports, fences -/

theorem witness_PinsReportReturnAndToggle :
    (up.awake = true ∧ up.chip.pgCp = true ∧ up.chip.pgCore = true ∧ up.chip.aliveOn = true ∧ up.faultState = false ∧
      up.chip.halted = false ∧ up.chip.thermN = true ∧ up.chip.pwrEn = true ∧ up.chip.pwrGood = true ∧ up.chip.coreOn = true ∧
      up.chip.cpOn = true ∧ up.chip.galOn[(2 : GalleryId).val] = true ∧ up.chip.pgGal[(2 : GalleryId).val] = true) ∧
    (served.awake = true ∧ served.chip.phyOn[(0 : LandingId).val] = true ∧ served.chip.pgPhy[(0 : LandingId).val] = true ∧
      (served.land (0 : LandingId)).sbd.started = true) ∧
    (({ up with pwr := { up.pwr with state := .p4 } } : State).awake = false ∧ up.chip.railWait = false) ∧
    ({ up with flt := { up.flt with active := up.flt.active.set 1 true } } : State).faultState = true := by decide +kernel

/-- `served` with a fence of Landing 0 whose shadow is in force. -/
def fenced (settled : Bool) : State := { served with flt := { served.flt with fences := [fence0 settled] } }

/-- `fenced` with the Landing at rest under its fence. -/
def fencedQuiet : State := (fenced false).modSeq 0 fun q => { q with lstate := .fenced }

theorem witness_ReportsLatchFenceAndHalt :
    (up.consequential (rep 16 1 0 0) = false ∧ 1 ≤ (rep 16 1 0 0).cls ∧ (rep 16 1 0 0).cls ≤ 3 ∧
      (up.flt.first[(rep 16 1 0 0).cls - 1]?).getD none = none) ∧
    (let s : State := { up with flt := { up.flt with first := Vector.replicate 3 (some ⟨0, 0, 0⟩) } }
     s.consequential (rep 16 1 0 0) = false ∧ (s.flt.first[(rep 16 1 0 0).cls - 1]?).getD none = some ⟨0, 0, 0⟩) ∧
    (let s : State := { served with flt := { served.flt with fences := [{ fence0 false with time := 3999999 }] } }
     s.consequential (repL 4 2 0 0) = true ∧ s.chip.coreOn = true) ∧
    (up.chip.coreOn = true ∧ up.halt = false ∧ up.fencedAlready (fence0 false) = false) ∧
    (fenced false).fencedAlready (fence0 false) = true := by decide +kernel

theorem witness_FaultReportReachesItsReaction :
    (srcExists 16 1 = true ∧ up.chip.phase ≠ .cold ∧ up.pwr.state ≠ .p4) ∧ srcExists 0 0 = false := by decide +kernel

theorem witness_FencesSettleAndClassesRecover :
    (fencedQuiet.fenceOf 3 = some (fence0 false) ∧ (fence0 false).settled = false ∧ fencedQuiet.fenceQuiet (fence0 false) = true) ∧
    ((fenced false).fenceOf 3 = some (fence0 false) ∧ (fence0 false).shadow = true ∧ (fence0 false).time + 2000000 ≤ (fenced false).chip.cycle) ∧
    (let f : Fence := { fence0 false with time := 2000001 }
     let s : State := { served with flt := { served.flt with fences := [f] } }
     s.fenceOf 3 = some f ∧ s.chip.cycle < f.time + 2000000) ∧
    ((fenced true).fenceOf 3 = some (fence0 true) ∧ (fence0 true).settled = true ∧ (fence0 true).shadow = true ∧
      (fence0 true).settledAt + 64 ≤ (fenced true).chip.cycle ∧ ((fenced true).flt.levels.filter fun r => (fence0 true).echo r) = []) ∧
    (let f : Fence := { fence0 true with settledAt := 4000000 - 63 }
     let s : State := { served with flt := { served.flt with fences := [f] } }
     s.fenceOf 3 = some f ∧ s.chip.cycle < f.settledAt + 64) ∧
    (let s : State := { up with flt := { up.flt with service := true, active := up.flt.active.set 1 true }, chip := { up.chip with cycle := 20000000 } }
     s.flt.service = true ∧ s.flt.active[classIndex .u]? = some true ∧ (s.flt.levels.any fun r => r.cls == classIndex .u + 1) = false ∧
      max ((s.flt.lastReport[classIndex .u]?).getD 0) s.flt.switched + 1000000 * s.flt.quietMs ≤ s.now) := by decide +kernel

/-! ## Witnesses: time and the arbiter -/

/-- P3 with CORE off. -/
def asleep3 : State := { up with pwr := { up.pwr with state := .p3 }, chip := { up.chip with coreOn := false, cpOn := false } }

theorem witness_BoundariesAdvanceTheClockAndPlansFollow :
    (up.clocked = true ∧ up.slowClock = false) ∧ (asleep3.clocked = true ∧ asleep3.slowClock = true) ∧
    ({ up with pwr := { up.pwr with state := .p4 } } : State).clocked = false ∧
    (up.chip.coreOn = true ∧ up.chip.phase = .out ∧ up.chip.nextFlight ≤ up.tread) ∧ served.plans (0 : LandingId) = true := by decide +kernel

/-- An emergency refresh of Landing 0, and a lock at a hold count. -/
def urgent0 : Access := { rd0 with id := 9, client := .own, req := 11, op := .claim (.refAb 0 0), emergency := true }
def lockAt (t : Nat) : State :=
  served.modArb 0 fun a => { a with lock := some { owner := 0, cause := .bpp 0 0, addr := 0, treads := t, suspended := false, wasSuspended := false } }
def lockMax : Nat := fld (served.lv (0 : LandingId) 0) 15 8
def old0 : Access := { rd0 with stamp := stampOf up.now - 1000001 }

theorem witness_ArbiterGrantsAndTimes :
    (let s := served.modArb 0 fun a => { a with staging := [rd0, urgent0] }
     (s.land (0 : LandingId)).admits = true ∧ s.chip.halted = false ∧ (s.land (0 : LandingId)).seq.held = [] ∧
      (∀ x ∈ (s.land (0 : LandingId)).arb.staging, x.entered = true) ∧ (s.land (0 : LandingId)).arb.grantNext = none ∧
      s.presents (0 : LandingId) 11 = some urgent0 ∧ urgent0.emergency = true) ∧
    (let s := served.modArb 0 fun a => { a with staging := [rd0] }
     (s.land (0 : LandingId)).arb.lock = none ∧ s.presents (0 : LandingId) (0 : RequesterId) = some rd0 ∧
      ∀ k : RequesterId, k ≠ 0 → s.presents (0 : LandingId) k = none) ∧
    (let s := served.modArb 0 fun a => { a with backoff := a.backoff.setIfInBounds 2 (some 4000000) }
     ((s.land (0 : LandingId)).arb.backoff[(2 : RequesterId).val]?).getD none = some 4000000 ∧ 4000000 ≤ s.chip.cycle) ∧
    (let s := served.modArb 0 fun a => { a with staging := [old0] }
     (0 : RequesterId).val ≠ 12 ∧ (s.land (0 : LandingId)).arb.staging = [old0] ∧ old0.req = (0 : RequesterId).val ∧ old0.entered = true ∧
      nearer old0.stamp (stampOf s.now) = true ∧ 1000000 < (stampOf s.now - old0.stamp).toNat ∧ (s.land (0 : LandingId)).arb.starved = []) ∧
    (((lockAt lockMax).land (0 : LandingId)).arb.lock.isSome = true ∧ fld ((lockAt lockMax).lv (0 : LandingId) 0) 15 8 ≤ lockMax) ∧
    (((lockAt (lockMax - 1)).land (0 : LandingId)).arb.lock.isSome = true ∧
      lockMax - 1 < fld ((lockAt (lockMax - 1)).lv (0 : LandingId) 0) 15 8) := by decide +kernel

/-! ## Witnesses: the host ports -/

theorem witness_RequestsAreAcceptedAndStamped :
    ((served.port (0 : PortId)).state = .opened ∧ served.chip.coreOn = true ∧ served.chip.halted = false ∧
      (served.port (0 : PortId)).tagUsed hdr0.tag = false ∧ 0 < (served.port (0 : PortId)).req ∧ 0 < (served.port (0 : PortId)).wrq ∧
      served.lookup (0 : PortId) hdr0 (Opc.mrd.right hdr0.lock) = .ok 1 0 ∧ served.malformed (0 : PortId) .mrd hdr0 (some (1, 0)) = false ∧
      served.lookup (0 : PortId) hdr0 .readWrite = .ok 1 0 ∧ hdr0.lock = false) ∧
    (let s := served.modPort 0 fun p => { p with seqs := [{ ldid := 0, dpa := 0, active := true, hall := 1, off := 0, landing := 0, addr := 0, broken := false }] }
     s.lookup (0 : PortId) hdr0 .read = .ok 1 0 ∧ s.malformed (0 : PortId) .unlk hdr0 (some (1, 0)) = false ∧
      (s.port (0 : PortId)).tagUsed hdr0.tag = false) ∧
    ((served.port (0 : PortId)).txns = [] ∧ 0 < (served.port (0 : PortId)).cpl ∧ 0 < (served.port (0 : PortId)).dat ∧
      halted0.chip.halted = true ∧ (halted0.port (0 : PortId)).txns = []) ∧
    (served.lookup (0 : PortId) { hdr0 with addr := BitVec.ofNat 46 (2 ^ 22) } .read = .bad .unmapped ∧
      served.lookup (0 : PortId) { hdr0 with addr := BitVec.ofNat 46 (2 ^ 22) } .readWrite = .bad .unmapped) ∧
    ((served.modPort 0 fun p => { p with txns := [txn0] }).port (0 : PortId)).tagUsed hdr0.tag = true := by decide +kernel

theorem witness_HintsCreditsAndUntakenFlitsLeaveNoTransaction :
    (served.takes (0 : PortId) false = true ∧ served.chip.halted = false ∧ hdr0.lock = false ∧ served.hostServes = true ∧
      served.lookup (0 : PortId) hdr0 .read = .ok 1 0) ∧
    halted0.chip.halted = true ∧ (served.port (0 : PortId)).state ≠ .closed ∧ (served.port (1 : PortId)).state = .closed ∧
    served.takes (1 : PortId) false = false ∧ served.takes (1 : PortId) true = false ∧
    (let s := served.modPort 0 fun p => { p with req := 0, wrq := 0 }
     s.takes (0 : PortId) false = false ∧ s.takes (0 : PortId) true = false) := by decide +kernel

theorem witness_MalformedAndRefusedAnswersCarryNothing :
    (served.takes (0 : PortId) ((0x04 : BitVec 6).getLsbD 4) = true ∧ served.takes (0 : PortId) ((0x1F : BitVec 6).getLsbD 4) = true ∧
      served.chip.halted = false ∧ (served.port (0 : PortId)).txns = [] ∧ 0 < (served.port (0 : PortId)).cpl ∧
      0 < (served.port (0 : PortId)).dat) ∧
    served.takes (0 : PortId) ((0x20 : BitVec 6).getLsbD 4) = true ∧ txn0.landing = none := by decide +kernel

theorem witness_PortCloseEndsWithTheLastAnswer :
    (let s := (taken (served.modPort 0 fun p => { p with state := .closing }) 3 [0x0102, 0, 0]).modBox 3 fun b => { b with started := true }
     (s.port (0 : Fin 8)).state = .closing ∧ (s.port (0 : Fin 8)).txns = [] ∧ (s.box (3 : MailboxId)).state = .busy ∧
      (s.box (3 : MailboxId)).started = true ∧ (s.box (3 : MailboxId)).opc = 0x0102 ∧
      fld ((s.box (3 : MailboxId)).word 2) 2 0 = (0 : Fin 8).val ∧ (s.box (2 : MailboxId)).opc ≠ 0x0102) := by decide +kernel

/-! ## Witnesses: the line path, zeroing and drains -/

/-- A tagged hall, and a read of it that waits for its tag check. -/
def tagged : Hall := { plain with integ := true, tagExt := [[1]] }
def rdTag : Access := { rd0 with tagAt := some (granuleBytes, 0) }
/-- The tag line of the read stands in the cache and holds `word` for every line. -/
def tagState (word : Nat) : State :=
  let s := (served.modSeq 0 fun q => { q with checking := [(rdTag, 5, false)] }).modGal 0 fun g =>
    { g with tagLines := 64, cache := [{ kind := .tag, lpa := granuleBytes, hall := some 1, data := BitVec.ofNat 512 word, dirty := false }] }
  { s with halls := [(1, tagged)] }
def tagWord : Nat := ((tagState 0).tagOf 1 tagged 0 0 5).toNat
/-- A tag line has come back. -/
def fillState : State :=
  (served.modSeq 0 fun q => { q with checking := [({ rd0 with client := .fill 0 .tag granuleBytes, addr := granuleBytes }, 5, false)] }).modGal 0 fun g =>
    { g with tagLines := 16 }
def fetch0 : MetaFetch :=
  { kind := .tag, lpa := granuleBytes, hall := some 1, stamp := 0, started := false, req := 0, dl := false, adds := [] }

theorem witness_LinesAreDecodedCheckedAndCached :
    (let s := served.modSeq 0 fun q => { q with inflight := [rd0] }
     ((s.land (0 : LandingId)).seq.inflight.find? fun a => a.id == 7) = some rd0 ∧ (s.land (0 : LandingId)).seq.discards 7 = false) ∧
    (((((tagState (tagWord + 1)).land (0 : LandingId)).seq.checking.find? fun e => e.1.id == 7) = some (rdTag, 5, false)) ∧
      rdTag.client = .host 0 7 ∧ rdTag.poison = false ∧ rdTag.hall = some 1 ∧ (tagState (tagWord + 1)).hall 1 = some tagged ∧
      tagged.integ = true ∧ (tagState (tagWord + 1)).chip.variant.cipher = true ∧ (tagState (tagWord + 1)).chip.coreOn = true ∧
      ((tagState (tagWord + 1)).storedTag rdTag).isSome = true ∧
      (tagState (tagWord + 1)).storedTag rdTag ≠ some ((tagState (tagWord + 1)).tagOf 1 tagged 0 0 5)) ∧
    (tagState tagWord).storedTag rdTag = some ((tagState tagWord).tagOf 1 tagged (0 : LandingId) rdTag.addr 5) ∧
    (((fillState.land (lpaLanding granuleBytes)).seq.checking.find? fun e => e.1.client == .fill (0 : GalleryId) .tag granuleBytes).isSome = true ∧
      (∀ f ∈ (fillState.gal (0 : GalleryId)).fetches, f.adds = []) ∧ (fillState.gal (0 : GalleryId)).cache = [] ∧
      16 ≤ (fillState.gal (0 : GalleryId)).tagLines) ∧
    (((served.modGal 0 fun g => { g with fetches := [fetch0] }).gal (0 : GalleryId)).fetches = [fetch0] ∧ fetch0.kind = .tag ∧
      fetch0.started = false) := by decide +kernel

def ahead0 (done : Bool) : Ahead := { hall := 1, region := 0, done := done, stamp := 0, low := 0, pos := [0] }
/-- The region that the watermark has passed. -/
def passed : State := { served with halls := [(1, { plain with w := regionBytes })], ahead := [ahead0 true] }

theorem witness_ZeroingFillsLinesAndFreesEntries :
    (served.hall (1 : HallId) = some plain ∧ plain.members.idxOf? (0 : LandingId).val = some 0 ∧ plain.phase = .ready ∧ served.ahead = [] ∧
      served.mayZero (0 : LandingId) = true ∧ 64 * plain.zeroPos.getD 0 0 < plain.reach / max 1 plain.members.length ∧
      served.spotFenced (plain.homeSpot (plain.zeroOff 0 (plain.zeroPos.getD 0 0))) = false) ∧
    (let h : Hall := { plain with phase := .releasing }
     ({ served with halls := [(1, h)] } : State).hall (1 : HallId) = some h ∧ h.phase = .releasing) ∧
    (let s : State := { served with ahead := [ahead0 false] }
     s.aheadOf (1 : HallId) 0 = some (ahead0 false) ∧ s.hall (1 : HallId) = some plain ∧ (ahead0 false).done = false ∧
      plain.zeroingIn 0 = false) ∧
    (passed.aheadOf (1 : HallId) 0 = some (ahead0 true) ∧ passed.hall (1 : HallId) = some { plain with w := regionBytes } ∧
      (ahead0 true).done = true ∧ (0 + 1) * regionBytes ≤ ({ plain with w := regionBytes } : Hall).w) := by decide +kernel

/-- Landing 0 drains since a cycle, in Halt. -/
def draining (t : Nat) : State :=
  (halted0.modSeq 0 fun q => { q with lstate := .drain }).modLand 0 fun x => { x with drainFrom := some t }

theorem witness_DrainsEndAtRestOrAbandonTheirWrites :
    ((draining (4000000 - 40000)).chip.halted = true ∧ ((draining (4000000 - 40000)).land (0 : LandingId)).seq.lstate = .drain ∧
      ((draining (4000000 - 40000)).land (0 : LandingId)).drainFrom = some (4000000 - 40000) ∧
      4000000 - 40000 + 40000 ≤ (draining (4000000 - 40000)).chip.cycle) ∧
    (draining (4000000 - 39999)).chip.cycle < 4000000 - 39999 + 40000 ∧
    (((draining 0).land (0 : LandingId)).seq.drained = true ∧ ((draining 0).gal ((0 : LandingId) / 4)).pllLock = true) ∧
    (up.gal ((0 : LandingId) / 4)).pllLock = false := by decide +kernel

/-! ## Witnesses: the Maintenance Unit -/

/-- `served` with the refresh of rank 0 of subchannel 0 due at a tread. -/
def refAt (next ideal : Nat) (two : Option Nat) (sb : Bool) : State :=
  served.modMnt 0 fun m => { m with
    ref := m.ref.setIfInBounds 0 { sched := { ideal := ideal, next := next, debt := 0, merged := 0 }, partTwo := two, presented := false }
    sameBank := sb }

theorem witness_RefreshIsPresented :
    (((refAt 125000 125000 none false).refOf (0 : LandingId) (0 : Fin 2) (0 : Fin 8)).isSome = true ∧
      (∀ r ∈ (refAt 125000 125000 none false).refOf (0 : LandingId) (0 : Fin 2) (0 : Fin 8),
        (refAt 125000 125000 none false).refreshReady (0 : LandingId) (0 : Fin 2) (0 : Fin 8) r = true) ∧
      (refAt 125000 125000 none false).windowFree (0 : LandingId) = true ∧
      ((refAt 125000 125000 none false).land (0 : LandingId)).mnt.sameBank = false) ∧
    ((∀ r ∈ (refAt 125000 125000 none true).refOf (0 : LandingId) (0 : Fin 2) (0 : Fin 8),
        (refAt 125000 125000 none true).refreshReady (0 : LandingId) (0 : Fin 2) (0 : Fin 8) r = true) ∧
      ((refAt 125000 125000 none true).land (0 : LandingId)).mnt.sameBank = true) ∧
    ((refAt 125000 (125000 - 732) none false).mntServes (0 : LandingId) = true ∧
      (0 : Fin 8).val < ((refAt 125000 (125000 - 732) none false).land (0 : LandingId)).seq.geom.ranks ∧
      ∀ r ∈ (refAt 125000 (125000 - 732) none false).refOf (0 : LandingId) (0 : Fin 2) (0 : Fin 8),
        4 ≤ (schedOwe ((refAt 125000 (125000 - 732) none false).land (0 : LandingId)).mnt.flight
          (refAt 125000 (125000 - 732) none false).tread r.sched).debt ∧ r.presented = false ∧ r.partTwo = none) ∧
    ((refAt 125122 125122 (some 125000) true).mntServes (0 : LandingId) = true ∧
      (refAt 125122 125122 (some 125000) true).windowFree (0 : LandingId) = true ∧
      (0, 0) ∈ ((refAt 125122 125122 (some 125000) true).land (0 : LandingId)).rankList ∧
      ((refAt 125122 125122 (some 125000) true).refOf (0 : LandingId) 0 0).bind (·.partTwo) = some 125000 ∧
      125000 ≤ (refAt 125122 125122 (some 125000) true).tread) := by decide +kernel

theorem witness_MaintenanceWorkIsOwedAndPaced :
    (let s := (served.loadLand 0 0x600 8).modMnt 0 fun m => { m with raa := [((0, 0, 1, 2), 1023)] }
     (s.lv (0 : LandingId) 0x600).getLsbD 3 = true ∧
      fld (s.lv (0 : LandingId) 0x610) 9 0 ≤ (s.land (0 : LandingId)).mnt.raaOf ((0 : Fin 2).val, (0 : Fin 8).val, (1 : Fin 8).val, (2 : Fin 4).val) ∧
      ((s.land (0 : LandingId)).mnt.owedRfm.any fun e => e.1 == ((0 : Fin 2).val, (0 : Fin 8).val, (1 : Fin 8).val, (2 : Fin 4).val)) = false) ∧
    (let s := served.modMnt 0 fun m => { m with zq := { m.zq with next := 125000 } }
     s.mntRuns (0 : LandingId) = true ∧ (s.land (0 : LandingId)).mnt.zq.next ≤ s.tread) ∧
    (let s := served.modMnt 0 fun m => { m with zqOpen := [(0, 0, 4000000)] }
     s.windowFree (0 : LandingId) = true ∧ s.windowClaimed (0 : LandingId) = false ∧
      (s.land (0 : LandingId)).mnt.zqOpen = [((0 : Fin 2).val, (0 : Fin 8).val, 4000000)] ∧ 4000000 ≤ s.chip.cycle ∧
      ((s.land (0 : LandingId)).claimed fun k => k == .zqLatch (0 : Fin 2) (0 : Fin 8)) = false) ∧
    (let s := (served.loadLand 0 0x61C 1).modMnt 0 fun m => { m with scrubOn := true, scrub := { m.scrub with next := 125000 } }
     s.mntRuns (0 : LandingId) = true ∧ (s.land (0 : LandingId)).mnt.scrubOn = true ∧ (s.land (0 : LandingId)).mnt.scrub.next ≤ s.tread ∧
      fld (s.lv (0 : LandingId) 0x61C) 15 0 ≠ 0 ∧ s.scrubGranules (0 : LandingId) ≠ []) ∧
    (up.chip.variant.cmpTier = true ∧ up.chip.coreOn = true ∧ up.chip.phase = .out ∧ up.chip.halted = false ∧
      (up.modMisc fun m => { m with heat := { m.heat with next := 125000 } }).misc.heat.next ≤ up.tread) ∧
    (let s := served.loadLand 0 0x600 0x40
     s.mntRuns (0 : LandingId) = true ∧ s.ecsOn (0 : LandingId) = true ∧ s.windowFree (0 : LandingId) = true ∧
      s.windowClaimed (0 : LandingId) = false ∧ (s.land (0 : LandingId)).mnt.ecsNext ≤ s.chip.flight) ∧
    (up.chip.flight < (up.gal (0 : GalleryId)).leakAt + 64 * fld (up.gv (0 : GalleryId) 0x2000) 23 16 ∧
      (up.gal (0 : GalleryId)).leakAt + 64 * fld (up.gv (0 : GalleryId) 0x2000) 23 16 ≤
        (up.modChip fun c => { c with flight := 64 * fld (up.gv (0 : GalleryId) 0x2000) 23 16 }).chip.flight) := by decide +kernel

/-! ## Witnesses: wakes, rails and PLLs -/

/-- Asleep in P1 with every wake source enabled and a timer of 5 µs that has just run out. -/
def asleep : State :=
  let s := served.modPort 0 fun p => { p with txns := [{ txn0 with wait := .wake }] }
  { s with pwr := { s.pwr with state := .p1, wakeEn := 0x1F, timer := 5, reachedAt := 2000000 - 5000 }
           flt := { s.flt with active := s.flt.active.set 1 true } }

theorem witness_EnabledSourcesWakeTheBlock :
    ((asleep.pwr.state = .p1 ∨ asleep.pwr.state = .p2 ∨ asleep.pwr.state = .p3) ∧ asleep.pwr.trans = none ∧ asleep.chip.phase = .out ∧
      asleep.chip.halted = false) ∧
    (asleep.wakeEnabled 0 = true ∧ asleep.wakeEnabled 1 = true ∧ asleep.wakeEnabled 2 = true ∧ asleep.wakeEnabled 3 = true ∧
      asleep.wakeEnabled 4 = true) ∧
    (asleep.pwr.timer ≠ 0 ∧ asleep.pwr.reachedAt + 1000 * asleep.pwr.timer.toNat ≤ asleep.now) ∧
    ({ asleep with pwr := { asleep.pwr with reachedAt := 2000000 - 4999 } } : State).now < 2000000 - 4999 + 1000 * asleep.pwr.timer.toNat ∧
    ({ asleep with pwr := { asleep.pwr with wakeEn := 0 } } : State).wakeEnabled 0 = false ∧
    asleep.faultState = true ∧ (up.faultState = false ∧ up.flt.heldP3 = none) ∧ asleep.chip.coreOn = true ∧
    ({ txn0 with wait := .wake } ∈ (asleep.port (0 : PortId)).txns ∧ ({ txn0 with wait := .wake } : Txn).resp = none) ∧
    asleep3.chip.coreOn = false := by decide +kernel

/-- Discovery waits for module power, Landing 0 with it. -/
def powerless (wait : Bool) : State :=
  ((served.modChip fun c => { c with pwrGood := false }).modMisc fun m => { m with discovery := { m.discovery with waitPower := wait } }).modSbd 0
    fun b => { b with waiting := true }

theorem witness_ModulePowerAndPllsComeAndGo :
    ((powerless false).awake = true ∧ (powerless false).chip.pwrEn = true ∧ (powerless false).chip.pwrGood = false ∧
      (powerless false).misc.discovery.waitPower = false) ∧
    ((powerless true).awake = true ∧ (powerless true).misc.discovery.waitPower = true ∧ (0 : LandingId).val < (powerless true).nLand ∧
      ((powerless true).land (0 : LandingId)).sbd.waiting = true) ∧
    (up.chip.galOn[(1 : GalleryId).val] = true ∧ up.chip.coreOn = true ∧ up.chip.phase ≠ .cold) ∧
    ((served.gal (0 : GalleryId)).pllLock = true ∧ (served.land (4 * (0 : GalleryId).val + 0)).seq.lstate ≠ .sr) ∧
    (let s := served.modSeq 0 fun q => { q with lstate := .sr }
     (s.gal (0 : GalleryId)).pllLock = true ∧ ∀ i, i < 4 → (s.land (4 * (0 : GalleryId).val + i)).seq.lstate = .sr) := by decide +kernel

/-! ## Witnesses: the PHY, training and calibration -/

/-- Landing 0 measures with a straight table; `waits` while it is being started. -/
def phy0 (measured running waits : Bool) : State :=
  (served.loadLand 0 0x1000 3).modLand 0 fun x => { x with
    sbd := { x.sbd with started := !waits, waiting := waits }
    phy := { x.phy with mode := if waits then .deep else .active, measured := measured, running := running, zero := 100, full := 8292, nextK := 1, rejRun := 2,
                        firstSpan := false, strValid := true, shape := (List.range 65).map (· * 1024), accepted := some 100000
                        sched := { x.phy.sched with next := 125000 } } }

theorem witness_StringerAndImpedanceKeepTheirValues :
    ((phy0 true false false).macroRuns (0 : LandingId) = true ∧ (phy0 true false false).strEnabled (0 : LandingId) = true ∧
      ((phy0 true false false).land (0 : LandingId)).phy.measured = true ∧ ((phy0 true false false).land (0 : LandingId)).phy.running = false ∧
      ((phy0 true false false).land (0 : LandingId)).cal.run = none ∧ ((phy0 true false false).land (0 : LandingId)).sbd.waiting = false ∧
      (phy0 true false false).chip.halted = false ∧
      ((phy0 true false false).land (0 : LandingId)).phy.sched.next ≤ (phy0 true false false).tread) ∧
    (((phy0 true true false).land (0 : LandingId)).phy.running = true ∧
      ((phy0 true true false).land (0 : LandingId)).phy.accepts 100 8292 (shapeOf 228 100 8292) = true ∧
      ((phy0 true true false).land (0 : LandingId)).phy.accepts 15 8292 (shapeOf 228 15 8292) = false ∧
      ((phy0 true true false).land (0 : LandingId)).phy.rejRun = 2) ∧
    (4 < (phy0 true true false).strAge (0 : LandingId) ∧
      ((phy0 true true false).modPhy 0 fun p => { p with accepted := some 125000 }).strAge (0 : LandingId) ≤ 4) ∧
    ((phy0 false false true).macroRuns (0 : LandingId) = true ∧ (phy0 false false true).bringsUp (0 : LandingId) = true ∧
      ((phy0 false false true).land (0 : LandingId)).phy.measured = false ∧
      ((phy0 false false true).land (0 : LandingId)).sbd.waiting = true ∧
      ((phy0 false false true).land (0 : LandingId)).sbd.started = false) ∧
    up.macroRuns (0 : LandingId) = false ∧ (phy0 true false false).bringsUp (0 : LandingId) = false := by decide +kernel

/-- A run, placed or not, of retraining or of the margin check. -/
def run0 (margin placed : Bool) : CalRun :=
  { margin := margin, step := 0, startTemp := 60, words := [], fails := [], due := 3900000, placed := placed }
/-- Landing 0 with a run or a commit, at a temperature. -/
def cal0 (run : Option CalRun) (staged : Option Staged) (want : Bool) : State :=
  (served.loadLand 0 0x3800 1).modLand 0 fun x => { x with
    phy := { x.phy with mode := .active, strValid := true }
    mnt := { x.mnt with temp := 60 }
    cal := { x.cal with run := run, staged := staged, marginWant := want, pending := run.isNone && staged.isNone, sched := { x.cal.sched with next := 125000 } } }
/-- The same, with no run pending. -/
def calM : State := (cal0 none none false).modLand 0 fun x => { x with cal := { x.cal with pending := false, tRef := 255 } }

theorem witness_CalibrationRunsGoOnOrEnd :
    ((calM.land (0 : LandingId)).sbd.started = true ∧ calM.chip.coreOn = true ∧ calM.chip.phase = .out ∧
      (calM.land (0 : LandingId)).cal.sched.next ≤ calM.tread ∧ (calM.land (0 : LandingId)).cal.run = none ∧
      (calM.land (0 : LandingId)).cal.staged = none ∧ calM.moved (0 : LandingId) = true ∧ (calM.land (0 : LandingId)).cal.pending = false ∧
      (calM.lv (0 : LandingId) 0x3800).getLsbD 0 = true ∧ calM.chip.bringup = false ∧ calM.calBlock (0 : LandingId) = none) ∧
    ((cal0 none none true).windowFree (0 : LandingId) = true ∧ (cal0 none none true).calBlock (0 : LandingId) = none ∧
      ((cal0 none none true).land (0 : LandingId)).cal.marginWant = true ∧ ((cal0 none none false).land (0 : LandingId)).cal.marginWant = false ∧
      (cal0 none none false).mayRun (0 : LandingId) = true) ∧
    (((cal0 (some (run0 false false)) none false).land (0 : LandingId)).cal.run = some (run0 false false) ∧
      (cal0 (some (run0 false false)) none false).wakeRun (0 : LandingId) = false ∧
      ((cal0 (some (run0 false true)) none false).land (0 : LandingId)).cal.run = some (run0 false true) ∧
      (cal0 (some (run0 false true)) none false).calBlock (0 : LandingId) = none) ∧
    (let s := (cal0 (some (run0 false true)) none false).modGal 0 fun g => { g with pllLock := false }
     (s.land (0 : LandingId)).cal.run = some (run0 false true) ∧ s.calBlock (0 : LandingId) = some 4) ∧
    (let s := (cal0 (some (run0 true true)) none false).modGal 0 fun g => { g with pllLock := false }
     (s.land (0 : LandingId)).cal.run = some (run0 true true) ∧ s.calBlock (0 : LandingId) = some 4) ∧
    (let g : Staged := { words := [], temp := 60, placed := some 125000, margins := [], due := 3999000 }
     ((cal0 none (some g) false).land (0 : LandingId)).cal.staged = some g ∧ g.placed = some 125000 ∧ 125000 ≤ (cal0 none (some g) false).tread) ∧
    (served.land (0 : LandingId)).cal.staged = none ∧
    (((cal0 (some (run0 true true)) none false).land (0 : LandingId)).cal.run = some (run0 true true) ∧
      (cal0 (some (run0 true true)) none false).calBlock (0 : LandingId) = none) ∧
    (let s := (taken served 2 [0x0301]).modBox 2 fun b => { b with started := true }
     (s.box (2 : MailboxId)).state = .busy ∧ (s.box (2 : MailboxId)).started = true ∧ (s.box (2 : MailboxId)).opc = 0x0301) := by decide +kernel

/-- What boot training finds, every limit kept. -/
def trained : TrainResult :=
  { failedStep := none, pu := 40, pd := 40, rcdWords := [], dramParts := [], hardened := true
    measure := { words := [], caWindow := 600, levelEdge := 100, gateDeviation := 100, eyeWidth := 600, eyeHeight := 100 }
    periodic := { words := [], caWindow := 600, levelEdge := 100, gateDeviation := 100, eyeWidth := 600, eyeHeight := 100 }
    margins := (List.range 2).map fun sub => { sub := Fin.ofNat 2 sub, rank := 0, rdPs := 60, wrPs := 60, rdMv := 60 } }
/-- Landing 0 waits for its training; its devices are on MRDIMMs or not. -/
def trains (mrd : Bool) : State :=
  ((phy0 true false true).modLand 0 fun x => { x with
    seq := { x.seq with lstate := .sr, geom := { geo with mrd := mrd, rankBits := if mrd then 1 else 0 } }
    sbd := { x.sbd with hold := false } })

theorem witness_BootTrainingStartsOrFailsTheLanding :
    ((trains false).trains (0 : LandingId) = true ∧ ((trains false).land (0 : LandingId)).buffersDone = true ∧
      ((trains false).land (0 : LandingId)).sbd.started = false ∧ ((trains false).land (0 : LandingId)).cal.dbFail = [] ∧
      ((trains false).land (0 : LandingId)).cal.held = Vector.replicate 2 none ∧ zqOk trained.pu = true ∧ zqOk trained.pd = true ∧
      (trains false).bootFault (0 : LandingId) trained = 0) ∧
    (((trains false).land (0 : LandingId)).sbd.waiting = true ∧ ((trains false).land (0 : LandingId)).sbd.hold = false ∧
      (trains false).misc.discovery.waitPower = false ∧ (trains false).starting (0 : LandingId) = true) ∧
    (((trains true).land (0 : LandingId)).sbd.waiting = true ∧ ((trains true).land (0 : LandingId)).seq.geom.mrd = true ∧
      ((trains true).land (0 : LandingId)).cal.dbDone.contains ((7 : Fin 8).val / 2 * 2) = false ∧
      ((trains true).land (0 : LandingId)).cal.dbFail.contains ((7 : Fin 8).val / 2 * 2) = false) := by decide +kernel

/-! ## Witnesses: CFG -/

/-- The same, with CFG behind a stalled pop. -/
def stallAt (arcade : Bool) (t : Nat) : State :=
  { served with cfg := { served.cfg with stalled := some { arcade := arcade, began := t, partialStrb := false } } }

theorem witness_CfgWritesPassTheGate :
    ((.arbClrLongest 7 0xF, { write := true, addr := landAddr 7 0x00C, strb := 0xF, data := 1, counts := [] }) : Instr × CfgReq) ∈
      cfgRows (0 : MailboxId) 7 (0 : ChannelId) 0 0 0 0xF [] ∧
    (up.modChip fun c => { c with phase := .cold }).cfgAlive = false ∧ (stallAt true 0).cfgAlive = true ∧ (stallAt true 0).cfgWaits = true ∧ CfgFree served ∧
    (let s := served.modChip fun c => { c with variant := .hjr8B }
     CfgFree s ∧ s.absentAt (landAddr (11 : LandingId) 0x00C) = true) ∧
    served.absentAt (landAddr (7 : LandingId) 0x00C) = false ∧
    (let s := served.modChip fun c => { c with galOn := Vector.replicate 3 false }
     CfgFree s ∧ s.absentAt (landAddr (7 : LandingId) 0x00C) = false ∧ s.domainDown (landAddr (7 : LandingId) 0x00C) = true) := by decide +kernel

theorem witness_RegistersTakeTheirWritesAndReads :
    (CfgOpen bringup0 (landAddr (0 : LandingId) (0x800 + 4 * (63 : Fin 64).val)) ∧ CfgOpen bringup0 (landAddr (0 : LandingId) (0x800 + 4 * (0 : Fin 64).val)) ∧
      bringup0.chip.bringup = true ∧ isTiming (0x800 + 4 * (0 : Fin 64).val) = true ∧
      (bringup0.landTry (0 : LandingId) (0x800 + 4 * (0 : Fin 64).val) 0x3200).isSome = true ∧
      bringup0.landTry (0 : LandingId) (0x800 + 4 * (0 : Fin 64).val) 0xFFFFFFFF = none ∧
      ((bringup0.land (homeLand (0 : LandingId) (0x800 + 4 * (0 : Fin 64).val))).page.regs.Pairwise fun a b => a.1 < b.1)) ∧
    (CfgOpen served (landAddr (0 : LandingId) (0x800 + 4 * (0 : Fin 64).val)) ∧ served.chip.bringup = false) ∧
    (let s := bringup0.modSeq 0 fun q => { q with lstate := .sr }
     CfgOpen s (landAddr (0 : LandingId) 0x1008) ∧ s.chip.bringup = true ∧ s.pllFree ((0 : LandingId) / 4) = true ∧
      (s.landTry (0 : LandingId) 0x1008 0x1E).isSome = true ∧ ((s.land ((0 : LandingId).val / 4 * 4)).page.regs.Pairwise fun a b => a.1 < b.1)) ∧
    (let s := bringup0.modSbd 0 fun d => { d with slots := Vector.replicate 2 (some mod0) }
     CfgOpen s (landAddr (0 : LandingId) 0x1008) ∧ s.pllFree ((0 : LandingId) / 4) = false) ∧
    CfgOpen served (landAddr (11 : LandingId) 0x00C) ∧
    (let s := served.loadLand 0 0x600 0x40
     CfgOpen s (landAddr (0 : LandingId) 0x62C) ∧ (1 : W32).getLsbD 0 = true ∧ s.ecsOn (0 : LandingId) = true ∧
      s.mntRuns (0 : LandingId) = true ∧ s.windowClaimed (0 : LandingId) = false) ∧
    (CfgFree served ∧ CfgOpen served 0x2008) ∧
    (let s := taken served 8 [0x0101]
     CfgOpen s (boxBase (8 : MailboxId) + 4 * (63 : Fin 64).val) ∧ (s.box (8 : MailboxId)).state = .busy) ∧
    (0x18000 ≤ (0x1FFFC : BitVec 21).toNat ∧ (0x1FFFC : BitVec 21).toNat < 0x20000 ∧ CfgOpen served (wordAddr (0x1FFFC : BitVec 21)) ∧
      served.desc.wf = true) ∧
    ((stallAt false 0).cfgAlive = true ∧ (stallAt false 0).cfgWaits = true) ∧ (up.modChip fun c => { c with phase := .cold }).cfgAlive = false := by
  refine ⟨?_, ?_, ?_, ?_, ?_, ?_, ?_, ?_, ?_, ?_, ?_⟩ <;> decide +kernel

/-- Landing 0's Gallery and the Event Queue with one wide item of priority 2. -/
def item0 : EqItem := { type := 2, prio := 2, lost := false, seq := 0, time := 3000000, data := [1, 2, 3, 4, 5] }

theorem witness_LobbyAnswersItsRegisters :
    (CfgOpen served (boxBase (8 : MailboxId) + 0x200) ∧ CfgOpen served (boxBase (0 : MailboxId) + 0x200) ∧ (served.box (8 : MailboxId)).state = .idle ∧
      served.chip.fwReady = true) ∧
    (let s := taken served 3 [0x0101]
     CfgOpen s (boxBase (3 : MailboxId) + 0x200) ∧ (s.box (3 : MailboxId)).state = .busy) ∧
    CfgOpen served (boxBase (3 : MailboxId) + 0x204) ∧
    (CfgFree served ∧ served.domainDown 0xC000 = false ∧ served.eq.urgent = none ∧ served.eq.stall ≠ 0) ∧
    (let s : State := { served with eq := { served.eq with items := served.eq.items.setIfInBounds 2 [item0] } }
     CfgFree s ∧ s.domainDown 0xC000 = false ∧ s.eq.urgent = some (2, item0)) ∧
    (served.domainDown 0xC100 = false ∧ served.arcade.next = none) ∧
    (let s : State := { served with arcade := ({ served.arcade with words := List.replicate 8 1 } : Arcade) }
     CfgFree s ∧ s.domainDown 0xC100 = false ∧ s.arcade.next.isSome = true) ∧
    ((stallAt true 0).cfgAlive = true ∧ (stallAt true 0).cfgWaits = true) ∧
    (let k : Stall := { arcade := false, began := 4000000, partialStrb := false }
     (stallAt false 4000000).cfg.stalled = some k ∧ (stallAt false 4000000).chip.cycle < k.began + 2 * (stallAt false 4000000).eq.stall.toNat) ∧
    (let k : Stall := { arcade := false, began := 0, partialStrb := false }
     (stallAt false 0).cfg.stalled = some k ∧ k.began + 2 * (stallAt false 0).eq.stall.toNat ≤ (stallAt false 0).chip.cycle ∧
      k.arcade = false ∧ (stallAt false 0).eq.urgent = none) ∧
    (let k : Stall := { arcade := true, began := 0, partialStrb := false }
     (stallAt true 0).cfg.stalled = some k ∧ k.began + 2 * (stallAt true 0).eq.stall.toNat ≤ (stallAt true 0).chip.cycle ∧
      k.arcade = true ∧ (stallAt true 0).arcade.next = none) ∧
    CfgOpen served 0xC144 ∧
    (let s := served.modMisc fun m => { m with claims := [{ res := 2, which := 7, param := 1, holder := 8 }] }
     (s.claimOf 2 (7 : BitVec 8).toNat).isSome = true ∧ s.chip.coreOn = true ∧ s.chip.phase = .out ∧ s.cfg.stalled = none) ∧
    served.claimOf 2 (0 : BitVec 8).toNat = none := by decide +kernel

/-! ## Witnesses: DMA -/

/-- `served` with channel 0 changed. -/
def dmaAt (f : Dma → Dma) : State := served.modCh 0 f
/-- A descriptor that ended, with an error or without. -/
def dmaRun0 (err : Option (Nat × Bool × Nat × Nat)) : DmaRun :=
  { words := List.replicate 8 0, due := 0xFFF, skip := false, srcs := [], dsts := [], err := err }

theorem witness_DmaCommandsMoveTheChannel :
    CfgOpen served (0x1000C + 0x1000 * (0 : ChannelId)) ∧ CfgOpen served (0x1000C + 0x1000 * (7 : ChannelId)) ∧
    CfgOpen served (0x10008 + 0x1000 * (0 : ChannelId)) ∧ (served.ch (0 : ChannelId)).state = .idle ∧
    ((dmaAt fun d => { d with state := .stopped }).ch (0 : ChannelId)).tailDone = false ∧
    ((dmaAt fun d => { d with state := .resetting }).ch (0 : ChannelId)).state = .resetting ∧
    (∀ r ∈ ((dmaAt fun d => { d with state := .resetting }).ch (0 : ChannelId)).run, r.answered = true) := by decide +kernel

theorem witness_DescriptorsAreCheckedAndWrittenBack :
    (let s := dmaAt fun d => { d with state := .running, toStart := true }
     (s.ch (0 : ChannelId)).toStart = true ∧ (s.ch (0 : ChannelId)).state = .running ∧ s.dmaStarts = true ∧ s.chip.coreOn = true ∧
      s.chip.phase = .out ∧ (s.ch (0 : ChannelId)).bind = none) ∧
    (let s := dmaAt fun d => { d with state := .running, toStart := true, bind := some (1, 0) }
     let ws := (List.range 8).map (s.descWord (s.ch (0 : ChannelId)).cur)
     (s.ch (0 : ChannelId)).bind ≠ none ∧ ws.length = 8) ∧
    descBad [0xF0000000, 0, 0, 0, 0, 0, 0, 0] = true ∧
    ((dmaAt fun d => { d with state := .stopping, toStart := true }).ch (0 : ChannelId)).toStart = true ∧
    (let s := dmaAt fun d => { d with state := .running, run := some (dmaRun0 none) }
     (s.ch (0 : ChannelId)).run = some (dmaRun0 none) ∧ (dmaRun0 none).over_ = true ∧ s.desc.wf = true ∧
      (s.descWord (s.ch (0 : ChannelId)).cur 0).getLsbD 12 = false) ∧
    ((dmaRun0 (some (4, false, 1, 0))).over_ = true ∧ (dmaRun0 (some (4, false, 1, 0))).err = some (4, false, 1, 0) ∧
      (dmaRun0 (some (4, false, 1, 0))).skip = false) := by decide +kernel

/-! ## Witnesses: alerts, idle ranks, sensors -/

/-- A retry since a cycle. -/
def retry0 (fall : Nat) (rising : Option Nat) (parity : Bool) (tries : Nat) : Retry :=
  { fall := fall, window := [], tries := tries, rising := rising, done := none, back := .run, parity := parity }
def retryAt (r : Retry) : State := served.modSeq 0 fun q => { q with lstate := .retry, retry := some r }
def aboAt (a : Abo) : State := served.modMnt 0 fun m => { m with abo := some a }
def abo0 (fall : Nat) (presented risen : Bool) : Abo := { fall := fall, presented := presented, actStopped := false, risen := risen }

theorem witness_AlertsAreRetriedOrServed :
    ((served.land (0 : LandingId)).sbd.started = true ∧ served.chip.coreOn = true ∧ (served.land (0 : LandingId)).seq.retry = none ∧
      (served.land (0 : LandingId)).mnt.abo = none ∧ (served.land (0 : LandingId)).seq.lstate = .run ∧
      ((served.modSeq 0 fun q => { q with lstate := .sr }).land (0 : LandingId)).seq.lstate = .sr) ∧
    (((retryAt (retry0 3999990 none false 0)).land (0 : LandingId)).seq.retry = some (retry0 3999990 none false 0) ∧
      (retryAt (retry0 3999990 none false 0)).parityLength (0 : LandingId) 3999990 = true ∧
      (retryAt (retry0 3990000 none false 0)).parityLength (0 : LandingId) 3990000 = false ∧
      (retry0 3999990 none false 0).tries < (retryAt (retry0 3999990 none false 0)).parMax (0 : LandingId) ∧
      (retryAt (retry0 3999990 none false 15)).parMax (0 : LandingId) ≤ (retry0 3999990 none false 15).tries) ∧
    (((aboAt (abo0 3000000 false false)).land (0 : LandingId)).seq.retry = none ∧
      ((aboAt (abo0 3000000 false false)).land (0 : LandingId)).mnt.abo = some (abo0 3000000 false false)) ∧
    (let r := retry0 3999000 (some 3999010) true 0
     ((retryAt r).land (0 : LandingId)).seq.retry = some r ∧ r.rising.isSome = true ∧ r.done = none ∧ r.parity = true ∧
      ((retryAt r).land (0 : LandingId)).seq.lstate = .retry ∧ r.tries < (retryAt r).parMax (0 : LandingId)) ∧
    (let s := aboAt (abo0 3000000 false false)
     s.mntServes (0 : LandingId) = true ∧ 3000000 + 2 * fld (s.lv (0 : LandingId) 0x618) 15 8 ≤ s.chip.cycle ∧
      3000000 + 2 * fld (s.lv (0 : LandingId) 0x618) 7 0 ≤ s.chip.cycle) ∧
    (let s := (aboAt (abo0 4000000 false false)).loadLand 0 0x618 0x4040
     s.chip.cycle < 4000000 + 2 * fld (s.lv (0 : LandingId) 0x618) 15 8 ∧ s.chip.cycle < 4000000 + 2 * fld (s.lv (0 : LandingId) 0x618) 7 0) ∧
    (let s := aboAt (abo0 3000000 true true)
     (s.land (0 : LandingId)).mnt.abo = some (abo0 3000000 true true) ∧ (s.land (0 : LandingId)).claimed ClaimKind.isAbo = false ∧
      s.rfmsOver (0 : LandingId) = true) ∧
    (let s := aboAt (abo0 3000000 true false)
     s.rfmsOld (0 : LandingId) = true ∧ s.levelHolds 5 2 (0 : LandingId) = false) := by decide +kernel

/-- Landing 0 keeps bank 0's row open since a tread. -/
def rowAt0 (used : Nat) : State :=
  (served.loadLand 0 0x400 (at_ 0 2 ||| at_ 2 1 ||| at_ 3 1 ||| at_ 4 4 ||| at_ 8 16)).modSeq 0 fun q => { q with
    rows := [{ sub := 0, rank := 0, bg := 0, bank := 0, row := 9, used := used }] }
/-- Landing 0 with power-down and hints enabled, idle. -/
def idle0 : State :=
  (served.loadLand 0 0x400 (at_ 2 1 ||| at_ 3 1 ||| at_ 4 4)).modSeq 0 fun q => { q with idle := [(0, 0, 4)] }

theorem witness_IdleRanksRowsAndHintsAreLetGo :
    ((idle0.lv (0 : LandingId) 0x400).getLsbD 3 = true ∧ idle0.dlMode (0 : LandingId) = false ∧
      fld (idle0.lv (0 : LandingId) 0x400) 7 4 ≤ (idle0.land (0 : LandingId)).seq.idleOf (0 : Fin 2) (0 : Fin 8) ∧
      (idle0.land (0 : LandingId)).seq.lstate = .run ∧ (idle0.land (0 : LandingId)).seq.geom.valid = true ∧
      (0 : Fin 8).val < (idle0.land (0 : LandingId)).seq.geom.ranks ∧
      (idle0.land (0 : LandingId)).seq.banksIdle (0 : Fin 2) (0 : Fin 8)
        (firstEdge (idle0.land (0 : LandingId)).seq.geom.rate (idle0.tread + 1)) = true ∧
      (idle0.land (0 : LandingId)).seq.hasWork (0 : Fin 2) (0 : Fin 8) = false ∧
      (idle0.land (0 : LandingId)).seq.pd.contains ((0 : Fin 2).val, (0 : Fin 8).val) = false ∧
      (idle0.ownEdge (0 : LandingId) (rankWant .pdEnter ((0 : Fin 2).val, (0 : Fin 8).val))).isSome = true) ∧
    ((idle0.modSeq 0 fun q => { q with rq := [rd0] }).land (0 : LandingId)).seq.hasWork (0 : Fin 2) (0 : Fin 8) = true ∧
    (let o : OpenRow := { sub := 0, rank := 0, bg := 0, bank := 0, row := 9, used := 100 }
     let s := rowAt0 100
     (s.land (0 : LandingId)).seq.rowAt (0 : Fin 2) (0 : Fin 8) (0 : Fin 8) (0 : Fin 4) = some o ∧ fld (s.lv (0 : LandingId) 0x400) 1 0 = 2 ∧
      (s.land (0 : LandingId)).seq.lstate = .run ∧ o.used + fld (s.lv (0 : LandingId) 0x400) 15 8 ≤ s.tread ∧
      (s.ownEdge (0 : LandingId)
        { cmd := .pre, sub := (0 : Fin 2).val, rank := (0 : Fin 8).val, bg := (0 : Fin 8).val, bank := (0 : Fin 4).val, row := o.row, col := 0 }).isSome = true) ∧
    (rowAt0 125000).tread < 125000 + fld ((rowAt0 125000).lv (0 : LandingId) 0x400) 15 8 ∧ fld (idle0.lv (0 : LandingId) 0x400) 1 0 ≠ 2 ∧
    (let s := idle0.modSeq 0 fun q => { q with hints := [rd0] }
     ((s.land (0 : LandingId)).seq.hints.find? fun e => e.id == 7) = some rd0 ∧ (s.land (0 : LandingId)).seq.hintPlans 7 < 2 ∧
      s.hintStands (0 : LandingId) rd0 = true) ∧
    (let s := idle0.modSeq 0 fun q => { q with hints := [rd0], hintAge := [(7, 2)] }
     2 ≤ (s.land (0 : LandingId)).seq.hintPlans 7) := by decide +kernel

/-- A transaction of mailbox 0 on bus 0. -/
def job0 (tries : Nat) : SbdJob :=
  { bus := 0, prio := 2, landing := 0, slot := 0, tries := tries, mailbox := some 0, page := 0, data := [] }
def xfer (tries : Nat) : State := (taken served 0 [0x0107, 0, 0x10000, 4]).modMisc fun m => { m with sbdBusy := [job0 tries] }

theorem witness_SensorsAndSidebandReport :
    ((sensed.land (0 : LandingId)).sbd.moduleAt (1 : Fin 2) = some mod0 ∧ sensed.busPaused (0 : LandingId) = false ∧
      sensed.chip.coreOn = true ∧ ((sensed.land (0 : LandingId)).mnt.fails[(1 : Fin 2).val]?) = some 0) ∧
    ((sensed.modMnt 0 fun m => { m with fails := m.fails.setIfInBounds 1 1 }).land (0 : LandingId)).mnt.fails[(1 : Fin 2).val]? = some 1 ∧
    ((xfer 0).sbdRunning (0 : Fin 6) = some (job0 0) ∧ (job0 0).mailbox = some (0 : MailboxId).val ∧
      ((xfer 0).box (0 : MailboxId)).state = .busy ∧ ((xfer 0).box (0 : MailboxId)).opc = 0x0107 ∧ (job0 0).tries < 2) ∧
    ((xfer 2).sbdRunning (0 : Fin 6) = some (job0 2) ∧ 2 ≤ (job0 2).tries) ∧ served.sbdRunning (5 : Fin 6) = none := by decide +kernel

/-! ## Witnesses: taking commands, the Record Store, power -/

/-- Mailboxes 3 and 8 rung. -/
def rung (m : Nat) (words : List Nat) : State := (taken served m words).modBox m fun b => { b with state := .pending }

theorem witness_FirmwareTakesCommandsInOrder :
    ((rung 3 [0x0001]).chip.fwReady = true ∧ (rung 3 [0x0001]).chip.phase = .out ∧ (rung 3 [0x0001]).chip.coreOn = true ∧
      (rung 3 [0x0001]).nextBox = some (3 : MailboxId).val ∧ (rung 3 [0x0001]).takeRefusal (3 : MailboxId) ((rung 3 [0x0001]).box (3 : MailboxId)) = none) ∧
    (rung 3 [0x0A03]).takeRefusal (3 : MailboxId) ((rung 3 [0x0A03]).box (3 : MailboxId)) = some .denied ∧
    served.nextBox = none ∧ ((rung 8 [0x0001]).box 8).state = .pending ∧
    4096 < ((rung 3 [0x0001, 4097]).box (3 : MailboxId)).plen ∧
    (((rung 3 [0x0FFF, 4096]).box (3 : MailboxId)).plen ≤ 4096 ∧ opcodeRow ((rung 3 [0x0FFF, 4096]).box (3 : MailboxId)).opc = none) := by decide +kernel

/-- The Record Store has changed; bank B or A is the one taken. -/
def storeAt (b : Bool) : State :=
  let s := (taken served 3 [0x0A02]).modBox 3 fun b => { b with started := true }
  { s with store := { s.store with changed := true, taken := some b, lastCommit := none } }

theorem witness_RecordStoreCommitsToTheOtherBank :
    ((storeAt false).chip.fwReady = true ∧ (storeAt false).store.changed = true ∧ (storeAt false).store.lastCommit = none ∧
      (storeAt false).store.taken = some false ∧ (storeAt true).store.taken = some true ∧
      ((storeAt false).box (3 : MailboxId)).state = .busy ∧ ((storeAt false).box (3 : MailboxId)).started = true ∧
      ((storeAt false).box (3 : MailboxId)).opc = 0x0A02) ∧
    (let s : State := { served with store := { served.store with lastCommit := some 1999999 } }
     s.store.lastCommit = some 1999999 ∧ s.now < 1999999 + 1000000000) := by decide +kernel

/-- A transition at a stage. -/
def trans0 (target from_ : PState) (stage : PwrStage) (agreed : List Nat) : Transition :=
  { target := target, from_ := from_, stage := stage, began := 1900000, stoppedDma := [], agreed := agreed, delays := 0, refuser := 0, src := 6 }
def moving (t : Transition) : State := served.modPwr fun p => { p with trans := some t }

theorem witness_PowerRequestsAreTakenOrRefused :
    CfgFree served ∧ 4 < fld (5 : W32) 2 0 ∧ fld (4 : W32) 2 0 ≤ 4 ∧ served.chip.phase = .out ∧ served.chip.halted = false ∧
    served.pwr.trans = none ∧ pstateOf (fld (0 : W32) 2 0) = served.pwr.state ∧ pstateOf (fld (3 : W32) 2 0) ≠ served.pwr.state ∧
    pstateOf (fld (3 : W32) 2 0) = .p3 ∧ served.chip.fwReady = true ∧ (∀ p : Fin 8, (up.port p).state = .closed) ∧
    (served.port (0 : Fin 8)).state ≠ .closed ∧ (CfgFree halted0 ∧ halted0.chip.halted = true) ∧
    (CfgFree (moving (trans0 .p2 .p0 .quiesce [])) ∧ (moving (trans0 .p2 .p0 .quiesce [])).chip.phase = .out ∧ fld (1 : W32) 2 0 ≤ 2 ∧
      (moving (trans0 .p2 .p0 .quiesce [])).pwr.trans = some (trans0 .p2 .p0 .quiesce []) ∧
      (moving (trans0 .p2 .p0 .quiesce [])).pwr.pend = none ∧ (trans0 .p2 .p0 .quiesce []).target ≠ pstateOf (fld (1 : W32) 2 0)) := by decide +kernel

theorem witness_TransitionsEndInTheirState :
    (let t := trans0 .p1 .p0 .drain []
     (moving t).pwr.trans = some t ∧ t.stage = .drain ∧ (moving t).pwr.pend = none ∧ (moving t).serves.all ((moving t).entered t.target) = true) ∧
    (let t := trans0 .p2 .p0 .drain []
     (moving t).serves.all ((moving t).entered t.target) = false) ∧
    (let t := trans0 .p3 .p0 .drain []
     let s := (moving t).modSeq 0 fun q => { q with lstate := .sr }
     s.serves.all (s.entered t.target) = true ∧ s.chip.fwReady = true ∧ ∀ m : MailboxId, (s.box m).state = .idle ∨ (s.box m).state = .done) ∧
    (let t := trans0 .p0 .p1 .wake []
     (moving t).pwr.trans = some t ∧ t.stage = .wake ∧ (moving t).serves.all ((moving t).mayServe t.from_) = true ∧ t.from_ = .p1 ∧
      t.target = .p0 ∧ (moving t).pwr.pend = none) ∧
    (let t := trans0 .p0 .p2 .wake []
     (moving t).serves.all ((moving t).mayServe t.from_) = false) ∧
    (let t := trans0 .p1 .p0 (.ask 3) []
     (moving t).pwr.trans = some t ∧ (moving t).misc.sbdBusy = [] ∧ t.delays + 1 ≤ fld (moving t).pwr.leg 15 0) ∧
    (let t := { trans0 .p1 .p0 (.ask 3) [] with delays := 0xFFFF }
     fld (moving t).pwr.leg 15 0 < t.delays + 1) ∧
    (xfer 0).misc.sbdBusy ≠ [] ∧ (trans0 .p1 .p0 .rollback [3]).agreed = [3] ∧ (trans0 .p1 .p0 .rollback []).agreed = [] ∧
    (moving (trans0 .p1 .p0 .rollback [])).pwr.pend = none := by decide +kernel

/-! ## Witnesses: tiering, halls -/

/-- A compressed hall whose page-map and heat lines stand in the caches; page 0's entry is `e`. -/
def packed : Hall :=
  { plain with cmp := true, w := granuleBytes, mapExt := [[1]], heat := [(0, 0)], heatSize := 1 }
/-- `served` with `TIER_CTL` in force. -/
def tierOn (ctl : W32) : State := served.modGal 0 fun g => { g with page := g.page.load (galDefault 0x5000) 0x5000 ctl }
def tierState (e : PageEntry) : State :=
  let s := (tierOn 1).modGal 0 fun g => { g with
    cache := (packed.heatAt 0 0).map (fun a => ({ kind := .heat, lpa := g.heatLpa 0 a.line, hall := none, data := 0, dirty := false } : CacheLine)) ++
      [{ kind := .pageMap, lpa := (packed.mapLpa 0).1, hall := some 1, data := setEntry 0 (packed.mapLpa 0).2 e, dirty := false }] }
  { s with halls := [(1, packed)] }
/-- A write waits for the promotion of page 0. -/
def waiting (e : PageEntry) : State :=
  (tierState e).modPort 0 fun p => { p with txns := [{ txn0 with wait := .promotion, hall := some 1, off := 0, opc := .mwr }] }
/-- A segment fetch that has `k` of its two lines, and a move that has written all its lines. -/
def seg0 (k : Nat) : SegFetch :=
  { id := 5, hall := 1, page := 0, seg := 0, stamp := 0, first := 0, lines := (List.range k).map fun i => (i, 0), need := 2, bad := false
    frame := 0, stale := [], waiters := [], dmaWaiters := [], move := none }
def move0 (demote : Bool) : Move :=
  { id := 6, demote := demote, write := !demote, hall := 1, page := 0, stamp := 0, toFrame := demote, frame := 2, start := 0, count := 3
    offs := [8, 16, 24], lines := [], poisoned := [], written := if demote then 32 else 64, total := if demote then 32 else 64, abandoned := false }
def moves0 (demote : Bool) (e : PageEntry) : State := (tierState e).modGal 0 fun g => { g with moves := [move0 demote] }
def pooled : PageEntry := { homeEntry with loc := 1, count := 3, frame := 2, off1 := 8, off2 := 16, off3 := 24 }

theorem witness_TierMovesStartAndSwitch :
    halted0.tierRuns = false ∧
    ((tierState homeEntry).tierRuns = true ∧ (tierState homeEntry).hall (1 : HallId) = some packed ∧ packed.home 0 = (0 : GalleryId).val ∧
      0 * 4096 < packed.bytes ∧ (((tierState homeEntry).scanLines (0 : GalleryId) (1 : HallId) packed 0).soundEntry packed (1 : HallId) 0).1 = some homeEntry ∧
      (((tierState homeEntry).scanLines (0 : GalleryId) (1 : HallId) packed 0).soundEntry packed (1 : HallId) 0).2.pageHeat (0 : GalleryId) (1 : HallId) 0 = some 0 ∧
      (((tierState homeEntry).scanLines (0 : GalleryId) (1 : HallId) packed 0).soundEntry packed (1 : HallId) 0).2.regionHeat (0 : GalleryId) packed 0 = some 0 ∧
      (((tierState homeEntry).scanLines (0 : GalleryId) (1 : HallId) packed 0).soundEntry packed (1 : HallId) 0).2.candidate (0 : GalleryId) (1 : HallId) packed 0
        homeEntry 0 0 = true) ∧
    (((waiting lostEntry).gal (0 : GalleryId)).moves = [] ∧ (waiting lostEntry).waitingWrites (1 : HallId) 0 ≠ [] ∧
      ((waiting lostEntry).gal (0 : GalleryId)).hot = [] ∧ packed.elastic = false ∧ packed.unbacked = [] ∧
      ((waiting lostEntry).moveEntry packed (1 : HallId) 0
        ((nearest (((waiting lostEntry).waitingWrites (1 : HallId) 0).map (·.1) ++ (waiting lostEntry).waitingInner (1 : HallId) 0)).getD
          (beStamp (waiting lostEntry).now))).1 = some lostEntry ∧ lostEntry.loc = 2) ∧
    ((moves0 true homeEntry).moveOf (0 : GalleryId) 6 = some (move0 true) ∧ (move0 true).abandoned = false ∧
      (moves0 true homeEntry).chip.halted = false ∧ (moves0 true homeEntry).hall (move0 true).hall = some packed ∧
      ((moves0 true homeEntry).moveEntry packed (move0 true).hall (move0 true).page (move0 true).stamp).1 = some homeEntry ∧
      (move0 true).demote = true ∧ 0 < (move0 true).total ∧ (move0 true).written = (move0 true).total ∧ homeEntry.loc ≠ 2) ∧
    ((moves0 false pooled).moveOf (0 : GalleryId) 6 = some (move0 false) ∧ (move0 false).demote = false ∧ (move0 false).total = 64 ∧
      ((moves0 false pooled).moveEntry packed (move0 false).hall (move0 false).page (move0 false).stamp).1 = some pooled ∧
      (move0 false).written = 64 ∧ (move0 false).toFrame = false) ∧
    halted0.chip.halted = true ∧
    (let h : Hall := { packed with pages := [(0, granuleBytes / 4096, 0)] }
     let s := ((tierOn 5).modGal 0 fun g => { g with poolMax := 4 })
     let s : State := { s with halls := [(1, h)] }
     s.hall (1 : HallId) = some h ∧ s.tierRuns = true ∧ s.mayUnback (1 : HallId) h 0 = true) ∧
    (let s := (tierState homeEntry).modGal 0 fun g => { g with segs := [seg0 1] }
     s.segOf (0 : GalleryId) 5 = some (seg0 1) ∧ s.chip.halted = false ∧ (seg0 1).lines.length < (seg0 1).need) ∧
    (let s := (tierState homeEntry).modGal 0 fun g => { g with segs := [seg0 2] }
     s.segOf (0 : GalleryId) 5 = some (seg0 2) ∧ (seg0 2).need ≤ (seg0 2).lines.length ∧
      ∀ x ∈ (s.gal (0 : GalleryId)).segs, x.id ≠ 5 → x.need ≤ x.lines.length →
        nearer x.stamp (seg0 2).stamp = false ∧ (x.stamp = (seg0 2).stamp → 5 ≤ x.id)) := by decide +kernel

/-- Hall 1 in a phase, with mailbox 3 running command `opc` on it. -/
def hallAt (p : HallPhase) (opc : Nat) (out : List (Nat × Nat)) : State :=
  let s := (taken served 3 [opc, 0, 1]).modBox 3 fun b => { b with started := true }
  { s with halls := [(1, { plain with phase := p, metaOut := out })] }
/-- A repair of mailbox 3 whose row has been read. -/
def repair0 : Repair :=
  { mailbox := 3, landing := 0, coord := { sub := 0, rank := 0, bg := 0, bank := 0, row := 5, col := 0 }, dev := 0, hard := false, serial := 0
    own := true, staged := (List.range 128).map fun i => (64 * i, 0, false), back := none, left := [] }
def repairing : State := ((taken served 3 [0x0602, 0, 0]).modMisc fun m => { m with repairs := [repair0] })

theorem witness_HallWorkCompletesItsCommand :
    (let s := hallAt .creating 0x0402 []
     s.hall (1 : HallId) = some { plain with phase := .creating } ∧ s.runner 0x0402 (1 : HallId) = some (3 : MailboxId).val ∧
      ({ plain with phase := .creating } : Hall).metaOut = [] ∧ s.chip.halted = false) ∧
    (let s := hallAt (.growing 2) 0x0403 []
     s.hall (1 : HallId) = some { plain with phase := .growing 2 } ∧ s.runner 0x0403 (1 : HallId) = some (3 : MailboxId).val) ∧
    (let s := hallAt (.shrinking 0) 0x0403 []
     let h : Hall := { plain with phase := .shrinking 0 }
     s.hall (1 : HallId) = some h ∧ s.hallBusy (1 : HallId) h (0 * granuleBytes) (h.beyondSize 0) = false) ∧
    (let s := (hallAt (.shrinking 0) 0x0403 []).modSeq 0 fun q => { q with rq := [rd0] }
     let h : Hall := { plain with phase := .shrinking 0 }
     s.hallBusy (1 : HallId) h (0 * granuleBytes) (h.beyondSize 0) = true) ∧
    ({ plain with phase := .growing 2, metaOut := [(0, 0)] } : Hall).metaOut ≠ [] ∧
    (let s := hallAt .releasing 0x0404 []
     let h : Hall := { plain with phase := .releasing }
     s.hall (1 : HallId) = some h ∧ s.runner 0x0404 (1 : HallId) = some (3 : MailboxId).val ∧ s.hallBusy (1 : HallId) h 0 h.allGranules = false) ∧
    (repairing.repairOf (0 : LandingId) = some repair0 ∧ repair0.mailbox = (3 : MailboxId).val ∧
      (repairing.land (0 : LandingId)).seq.geom.rowLines ≤ repair0.staged.length ∧ repair0.back = none ∧ repairing.chip.halted = false ∧
      (repairing.liftRow (0 : LandingId) repair0.coord).writeBarred (0 : LandingId) repair0.coord = false) ∧
    (let f : Fence := { fence0 true with grain := .bank, landing := 0, coord := repair0.coord, rows := [5, 6] }
     let s := repairing.modFlt fun x => { x with fences := [f] }
     (s.liftRow (0 : LandingId) repair0.coord).writeBarred (0 : LandingId) repair0.coord = true) := by decide +kernel

/-! ## Witnesses: the Amiom commands -/

/-- `served` with a command waiting in mailbox 3, or in LBA. -/
def waits (words : List Nat) : State := taken served 3 words
def waitsA (words : List Nat) : State := taken served 8 words
/-- A claim of a window by mailbox 5, of a feature by mailbox 3. -/
def claims0 (s : State) (l : List (Nat × Nat × Nat × Nat)) : State :=
  s.modMisc fun m => { m with claims := l.map fun e => { res := e.1, which := e.2.1, param := e.2.2.1, holder := e.2.2.2 } }

theorem witness_CommandsBeginOnlyWhenTheyMay :
    ((.queryCaps (3 : MailboxId), 0x0001) ∈ amiomRows (3 : MailboxId) true [] ∧ (.rsDrop (3 : MailboxId), 0x0A03) ∈ amiomRows (3 : MailboxId) true []) ∧
    ¬ Waits served (3 : MailboxId) 0x0001 ∧
    (let s := taken halted0 3 [0x0402]
     Waits s (3 : MailboxId) 0x0402 ∧ s.chip.halted = true ∧ worksInHalt.contains 0x0402 = false) ∧
    (let s := (waits [0x0402]).modPwr fun p => { p with pend := some .p1 }
     Waits s (3 : MailboxId) 0x0402 ∧ s.chip.halted = false ∧ ¬ Awake s) ∧
    (let s := (waits [0x0402]).modPwr fun p => { p with state := .p2 }
     Waits s (3 : MailboxId) 0x0402 ∧ ¬ Awake s) := by decide +kernel

theorem witness_GeneralCommandsHaveTheirEffect :
    (Begins (waits [0x0001]) (3 : MailboxId) 0x0001 ∧ Begins (waits [0x0002, 0, 1]) (3 : MailboxId) 0x0002 ∧
      Begins (taken halted0 3 [0x0003]) (3 : MailboxId) 0x0003) ∧
    (let s := waits [0x0003, 0, 0xFFFFFFFF]
     Begins s (3 : MailboxId) 0x0003 ∧ s.claimNamed ((s.box (3 : MailboxId)).word 2) = none) ∧
    (let s := claims0 (waits [0x0003, 0, 0x100]) [(1, 0, 0, 5)]
     Begins s (3 : MailboxId) 0x0003 ∧ s.claimNamed ((s.box (3 : MailboxId)).word 2) = some (1, 0) ∧ (s.claimOf 1 0).isSome = true ∧
      (∀ c ∈ s.claimOf 1 0, c.holder ≠ (3 : MailboxId).val)) ∧
    (let s := waits [0x0003, 0, 0x100]
     s.claimNamed ((s.box (3 : MailboxId)).word 2) = some (1, 0) ∧ s.claimOf 1 0 = none) ∧
    (let s := waits [0x0003, 0, 0x200, 16]
     s.claimNamed ((s.box (3 : MailboxId)).word 2) = some (2, 0) ∧ s.claimOf 2 0 = none ∧ fld ((s.box (3 : MailboxId)).word 3) 3 0 = 0) ∧
    (let s := waits [0x0003, 0, 0x200, 15]
     fld ((s.box (3 : MailboxId)).word 3) 3 0 ≠ 0 ∧ s.sharesBut 0 + fld ((s.box (3 : MailboxId)).word 3) 3 0 ≤ 16) ∧
    (let s := claims0 (waits [0x0003, 0, 0x200, 15]) [(2, 7, 2, 5)]
     s.claimNamed ((s.box (3 : MailboxId)).word 2) = some (2, 0) ∧ s.claimOf 2 0 = none ∧
      16 < s.sharesBut 0 + fld ((s.box (3 : MailboxId)).word 3) 3 0) ∧
    (let s := waits [0x0004, 0, 0x100]
     Begins s (3 : MailboxId) 0x0004 ∧ s.claimNamed ((s.box (3 : MailboxId)).word 2) = some (1, 0) ∧ s.claimOf 1 0 = none) ∧
    (let s := claims0 (waits [0x0004, 0, 0x100]) [(1, 0, 0, 3)]
     (s.claimOf 1 0).map (·.holder) = some (3 : MailboxId).val) ∧
    (let s := claims0 (waits [0x0004, 0, 0x100]) [(1, 0, 0, 5)]
     (s.claimOf 1 0).map (·.holder) = some (5 : MailboxId).val) ∧
    (let s := waits [0x0101, 0, 0]
     Begins s (3 : MailboxId) 0x0101 ∧ fld ((s.box (3 : MailboxId)).word 2) 2 0 = (0 : PortId).val ∧ (s.port (0 : PortId)).state ≠ .closed) ∧
    (let s := waits [0x0101, 0, 7]
     Begins s (3 : MailboxId) 0x0101 ∧ fld ((s.box (3 : MailboxId)).word 2) 2 0 = (7 : PortId).val ∧ (s.port (7 : PortId)).state = .closed ∧
      s.portFence (7 : PortId) = none) ∧
    (let s := waits [0x0102, 0, 0]
     Begins s (3 : MailboxId) 0x0102 ∧ (s.port (0 : PortId)).state = .opened ∧ (s.port (7 : PortId)).state = .closed ∧
      ((s.modPort 0 fun p => { p with state := .closing }).port (0 : PortId)).state = .closing) ∧
    (let s := waits [0x0108, 0, 0x10107]
     Begins s (3 : MailboxId) 0x0108 ∧ fld ((s.box (3 : MailboxId)).word 2) 2 0 = (7 : ChannelId).val ∧ (s.ch (7 : ChannelId)).state = .idle ∧
      ((s.modCh 7 fun d => { d with state := .halted }).ch (7 : ChannelId)).state = .halted) ∧
    (let s := waits [0x0109, 0, 0x80000000]
     Begins s (3 : MailboxId) 0x0109 ∧ ((s.box (3 : MailboxId)).word 2).getLsbD 31 = true) ∧
    (let s := waits [0x0109, 0, 1]
     ((s.box (3 : MailboxId)).word 2).getLsbD 31 = false ∧ s.hallStands (fld ((s.box (3 : MailboxId)).word 2) 9 0) = true) ∧
    (let s := waits [0x0109, 0, 2]
     s.hallStands (fld ((s.box (3 : MailboxId)).word 2) 9 0) = false) := by
  refine ⟨?_, ?_, ?_, ?_, ?_, ?_, ?_, ?_, ?_, ?_, ?_, ?_, ?_, ?_, ?_, ?_, ?_⟩ <;> decide +kernel

theorem witness_DiscoveryAndQueriesAnswer :
    (let s := (waits [0x0103, 0, 0]).modMisc fun m => { m with discovery := { m.discovery with done := true } }
     Begins s (3 : MailboxId) 0x0103 ∧ Awake s ∧ s.misc.discovery.done = true) ∧
    (let s := waits [0x0103, 0, 4801]
     s.misc.discovery.done = false ∧ fld ((s.box (3 : MailboxId)).word 2) 15 0 ≠ 0 ∧ isBin (fld ((s.box (3 : MailboxId)).word 2) 15 0) = false) ∧
    (let s := waits [0x0103, 0, 4800]
     Begins s (3 : MailboxId) 0x0103 ∧ Awake s ∧ isBin (fld ((s.box (3 : MailboxId)).word 2) 15 0) = true) ∧
    (let s := (waits [0x0104, 0, 2]).modSbd 1 fun d => { d with hold := true, waiting := true }
     Begins s (3 : MailboxId) 0x0104 ∧ Awake s ∧ ∀ l : LandingId, ((s.box (3 : MailboxId)).word 2).getLsbD l = true → (s.land l).sbd.hold = true) ∧
    (let s := waits [0x0104, 0, 1]
     Begins s (3 : MailboxId) 0x0104 ∧ ∃ l : LandingId, ((s.box (3 : MailboxId)).word 2).getLsbD l = true ∧ (s.land l).sbd.hold = false) ∧
    (let s := waits [0x0105, 0, 12]
     Begins s (3 : MailboxId) 0x0105 ∧ fld ((s.box (3 : MailboxId)).word 2) 3 0 = (12 : Fin 16).val ∧ s.nLand ≤ (12 : Fin 16).val) ∧
    (let s := waits [0x0105, 0, 11]
     Begins s (3 : MailboxId) 0x0105 ∧ fld ((s.box (3 : MailboxId)).word 2) 3 0 = (11 : Fin 16).val ∧ (11 : Fin 16).val < s.nLand) ∧
    (let s := waits [0x0106, 0, 0]
     Begins s (3 : MailboxId) 0x0106 ∧ ((s.seen (3 : MailboxId)).land (fld ((s.box (3 : MailboxId)).word 2) 3 0)).sbd.moduleAt (fld ((s.box (3 : MailboxId)).word 2) 4 4) = none) ∧
    (let s := ({ taken sensed 3 [0x0106, 0, 0x10] with shots := [(3, { sensed.shot with landings := sensed.landings })] } : State)
     ((s.seen (3 : MailboxId)).land (fld ((s.box (3 : MailboxId)).word 2) 3 0)).sbd.moduleAt (fld ((s.box (3 : MailboxId)).word 2) 4 4) = some mod0) ∧
    (let s := waits [0x0107, 0, 0x10000, 4]
     Begins s (3 : MailboxId) 0x0107 ∧ s.chip.bringup = false) ∧
    (let s := taken bringup0 3 [0x0107, 0, 0x10005, 1024]
     s.chip.bringup = true ∧ 2 * fld ((s.box (3 : MailboxId)).word 2) 2 0 < s.nLand ∧ 0 < fld ((s.box (3 : MailboxId)).word 3) 10 0 ∧
      ((s.box (3 : MailboxId)).word 2).getLsbD 16 = true ∧ fld ((s.box (3 : MailboxId)).word 3) 10 0 ≤ 1024) ∧
    (let s := taken bringup0 3 [0x0107, 0, 0x10006, 1024]
     ¬ (2 * fld ((s.box (3 : MailboxId)).word 2) 2 0 < s.nLand)) := by
  (repeat' apply And.intro) <;> decide +kernel

/-- A payload in mailbox 3. -/
def paid (s : State) (pay : List Byte) : State :=
  s.modBox 3 fun b => { b with pay := writeBytes [] 0 pay, cmd := setW 0 b.cmd 1 (BitVec.ofNat 32 pay.length) }

theorem paid_pay (s : State) (pay : List Byte) : ((paid s pay).box 3).pay = writeBytes [] 0 pay := by
  simp [paid, State.modBox, State.setBox, State.box]

theorem witness_SettingCommandsWriteEveryTarget :
    ((.arbSet (3 : MailboxId), 0x0201, false, arbNames) ∈ setRows (3 : MailboxId)) ∧ (setRows (3 : MailboxId)).length = 8 ∧
    (Begins (waits [0x0201, 0, 1, 1, 0, 0xFF]) (3 : MailboxId) 0x0201 ∧ Begins (waits [0x0208]) (3 : MailboxId) 0x0208 ∧
      arbNames (fld (((waits [0x0201, 0, 1, 1, 0, 0xFF]).box (3 : MailboxId)).word 3) 15 0) = false) ∧
    (let s := waits [0x0201, 0, 2, 0, 0x0, 0x1]
     arbNames (fld ((s.box (3 : MailboxId)).word 3) 15 0) = true ∧
      (s.box (3 : MailboxId)).word 5 &&& ~~~landMask (fld ((s.box (3 : MailboxId)).word 3) 15 0) = 0 ∧
      (∃ t ∈ (List.range 12).filter fun t => ((s.box (3 : MailboxId)).word 2).getLsbD t, s.setTarget false t = false)) ∧
    (let s := waits [0x0201, 0, 1, 0, 0x1, 0x1]
     (∀ t ∈ (List.range 12).filter fun t => ((s.box (3 : MailboxId)).word 2).getLsbD t, s.setTarget false t = true) ∧
      (∃ t ∈ (List.range 12).filter fun t => ((s.box (3 : MailboxId)).word 2).getLsbD t,
        s.setRefused 0x0201 t 0 ((s.box (3 : MailboxId)).word 5) (s.setNew false t 0 ((s.box (3 : MailboxId)).word 4) ((s.box (3 : MailboxId)).word 5)).1 = true)) ∧
    (let s := waits [0x0202, 0, 1, 0x400, 0x4, 0x4]
     Begins s (3 : MailboxId) 0x0202 ∧ seqNames (fld ((s.box (3 : MailboxId)).word 3) 15 0) = true ∧
      (∀ t ∈ (List.range 12).filter fun t => ((s.box (3 : MailboxId)).word 2).getLsbD t,
        s.setTarget false t = true ∧ (s.setNew false t 0x400 ((s.box (3 : MailboxId)).word 4) ((s.box (3 : MailboxId)).word 5)).2 = true ∧
        s.setRefused 0x0202 t 0x400 ((s.box (3 : MailboxId)).word 5) (s.setNew false t 0x400 ((s.box (3 : MailboxId)).word 4) ((s.box (3 : MailboxId)).word 5)).1 = false) ∧
      (∀ l : Fin 12, (s.land l).page.regs.Pairwise fun a b => a.1 < b.1) ∧ (∀ g : Fin 3, (s.gal g).page.regs.Pairwise fun a b => a.1 < b.1)) ∧
    (let s := waits [0x0208, 0, 1, 0x5000, 0x1, 0x1]
     tierNames (fld ((s.box (3 : MailboxId)).word 3) 15 0) = true ∧
      (∀ t ∈ (List.range 3).filter fun t => ((s.box (3 : MailboxId)).word 2).getLsbD t,
        s.setTarget true t = true ∧ (s.setNew true t 0x5000 ((s.box (3 : MailboxId)).word 4) ((s.box (3 : MailboxId)).word 5)).2 = true)) := by
  refine ⟨by simp [setRows], rfl, ?_⟩
  (repeat' apply And.intro) <;> decide +kernel

/-- Landing 0 rests in SR, discovered and not started, with its own record in mailbox 3. -/
def resting : State :=
  ((served.loadLand 0 0x1010 0x2828).modSeq 0 fun q => { q with lstate := .sr }).modSbd 0 fun d => { d with started := false }
def restoring : State := paid (taken resting 3 [0x0303]) (resting.calRecord 0 0)

theorem calRecord_split (s : State) (l sub : Nat) : ∃ body, s.calRecord l sub = body ++ leBytes 4 (crc32c body).toNat := ⟨_, rfl⟩

theorem leNat_leBytes4 (v : Nat) (h : v < 2 ^ 32) : leNat (leBytes 4 v) = v := by
  simp [leBytes, leNat, List.range_succ]; omega

theorem test_record_length : (resting.calRecord 0 0).length = 544 := by decide +kernel

theorem restoring_payload : (restoring.box 3).payload = resting.calRecord 0 0 := by
  have hn : (restoring.box 3).plen = (resting.calRecord 0 0).length := by rw [test_record_length]; decide +kernel
  have hp : (restoring.box 3).pay = writeBytes [] 0 (resting.calRecord 0 0) := paid_pay _ _
  rw [Mailbox.payload, hn, hp]
  exact readBytes_writeBytes _ 0 rfl

theorem restoring_crc : numAt (resting.calRecord 0 0) 540 4 = (crc32c ((resting.calRecord 0 0).take 540)).toNat := by
  obtain ⟨body, h⟩ := calRecord_split resting 0 0
  have hl := test_record_length
  have hb : body.length = 540 := by rw [h] at hl; simpa [leBytes] using hl
  rw [h, ← hb]
  simp [numAt, leNat_leBytes4 _ (crc32c body).isLt, show List.take 4 (leBytes 4 (crc32c body).toNat) = leBytes 4 (crc32c body).toNat from rfl]

theorem restoring_ok : restoring.recordOk 0 0 (restoring.box 3).payload = true := by
  rw [restoring_payload]
  simp only [State.recordOk, test_record_length, Bool.and_eq_true, beq_iff_eq, decide_eq_true_eq]
  refine ⟨⟨⟨⟨⟨⟨?_, ?_⟩, ?_⟩, restoring_crc⟩, ?_⟩, ?_⟩, ?_⟩ <;> decide +kernel

theorem witness_CalibrationAndEccCommandsHaveTheirEffect :
    (let s := waits [0x0301, 0, 1, 0]
     Begins s (3 : MailboxId) 0x0301 ∧ Awake s ∧ fld ((s.box (3 : MailboxId)).word 3) 9 0 < 1) ∧
    1000 < fld (((waits [0x0301, 0, 1, 1001]).box (3 : MailboxId)).word 3) 9 0 ∧
    (let s := waits [0x0301, 0, 2, 1000]
     fld ((s.box (3 : MailboxId)).word 3) 9 0 ≤ 1000 ∧ ∃ l : LandingId, ((s.box (3 : MailboxId)).word 2).getLsbD l = true ∧ (s.land l).sbd.started = false) ∧
    (let s := taken (cal0 none none false) 3 [0x0301, 0, 1, 1]
     Begins s (3 : MailboxId) 0x0301 ∧ Awake s ∧ 1 ≤ fld ((s.box (3 : MailboxId)).word 3) 9 0 ∧
      (∀ l : LandingId, ((s.box (3 : MailboxId)).word 2).getLsbD l = true → (s.land l).sbd.started = true) ∧
      ((s.box (3 : MailboxId)).word 2).getLsbD 16 = false ∧ s.calBlock (0 : LandingId) = none ∧ (s.land (0 : LandingId)).cal.run = none ∧
      (s.land (0 : LandingId)).cal.staged = none) ∧
    (let s := (taken (cal0 none none false) 3 [0x0301, 0, 1, 1]).modFlt fun x => { x with fences := [fence0 true] }
     s.landFenced (0 : LandingId) = true) ∧
    (let s := waits [0x0302, 0, 0]
     Begins s (3 : MailboxId) 0x0302 ∧ fld ((s.box (3 : MailboxId)).word 2) 3 0 = (0 : LandingId).val ∧ (s.land (0 : LandingId)).sbd.started = true ∧
      ((s.box (3 : MailboxId)).word 2).getLsbD 8 = false) ∧
    (let s := waits [0x0302, 0, 11]
     fld ((s.box (3 : MailboxId)).word 2) 3 0 = (11 : LandingId).val ∧ (s.land (11 : LandingId)).sbd.started = false) ∧
    (Begins restoring (3 : MailboxId) 0x0303 ∧ numAt (restoring.box (3 : MailboxId)).payload 5 1 = (0 : LandingId).val ∧
      numAt (restoring.box (3 : MailboxId)).payload 6 1 = (0 : Fin 2).val ∧ (0 : LandingId).val < restoring.nLand ∧
      (restoring.land (0 : LandingId)).sbd.reached = true ∧ (restoring.land (0 : LandingId)).sbd.started = false ∧
      (restoring.land (0 : LandingId)).seq.lstate = .sr ∧
      restoring.recordOk (0 : LandingId) (0 : Fin 2) (restoring.box (3 : MailboxId)).payload = true) ∧
    (let s := paid (taken served 3 [0x0303]) [0, 0, 0, 0, 0, 0, 1]
     Begins s (3 : MailboxId) 0x0303 ∧ numAt (s.box (3 : MailboxId)).payload 5 1 = (0 : LandingId).val ∧
      numAt (s.box (3 : MailboxId)).payload 6 1 = (1 : Fin 2).val ∧ (s.land (0 : LandingId)).sbd.started = true) ∧
    (let s := waits [0x0601, 0, 0xA000]
     Begins s (3 : MailboxId) 0x0601 ∧ fld ((s.box (3 : MailboxId)).word 2) 3 0 = (0 : LandingId).val ∧
      ¬ fld ((s.box (3 : MailboxId)).word 2) 15 12 ≤ 9) ∧
    (let s := waits [0x0601, 0, 0x9010]
     (s.land (0 : LandingId)).seq.geom.valid = true ∧ fld ((s.box (3 : MailboxId)).word 2) 10 8 < (s.land (0 : LandingId)).seq.geom.ranks ∧
      fld ((s.box (3 : MailboxId)).word 2) 15 12 ≤ 9 ∧
      s.erased (0 : LandingId) { sub := fld ((s.box (3 : MailboxId)).word 2) 4 4, rank := fld ((s.box (3 : MailboxId)).word 2) 10 8, bg := 0, bank := 0, row := 0, col := 0 } = none) ∧
    (let s := waits [0x0602, 0, 0, 5, 0]
     Begins s (3 : MailboxId) 0x0602 ∧ Awake s ∧ fld ((s.box (3 : MailboxId)).word 2) 3 0 = (0 : LandingId).val ∧
      (s.land (0 : LandingId)).sbd.started = true ∧
      s.badRepair (0 : LandingId) (s.box (3 : MailboxId)).repairCoord (fld ((s.box (3 : MailboxId)).word 4) 3 0) (((s.box (3 : MailboxId)).word 2).getLsbD 31) true = false ∧
      s.badRepair (0 : LandingId) (s.box (3 : MailboxId)).repairCoord (fld ((s.box (3 : MailboxId)).word 4) 3 0) (((s.box (3 : MailboxId)).word 2).getLsbD 31) false = true ∧
      s.claimOf 1 (0 : LandingId) = none ∧ s.repairOf (0 : LandingId) = none ∧ s.landFenced (0 : LandingId) = false) ∧
    (let s := waits [0x0602, 0, 11, 5, 0]
     fld ((s.box (3 : MailboxId)).word 2) 3 0 = (11 : LandingId).val ∧ (s.land (11 : LandingId)).sbd.started = false) ∧
    (let s := waits [0x0603, 0, 0xFFF, 0x22380001]
     Begins s (3 : MailboxId) 0x0603 ∧ 1 ≤ fld ((s.box (3 : MailboxId)).word 3) 31 16 ∧ fld ((s.box (3 : MailboxId)).word 3) 31 16 = 8760 ∧
      ((s.box (3 : MailboxId)).word 3).getLsbD 0 = true ∧
      ∀ l : LandingId, ((s.box (3 : MailboxId)).word 2).getLsbD l = true → l.val < s.nLand) ∧
    8760 < fld (((waits [0x0603, 0, 1, 0x22390001]).box (3 : MailboxId)).word 3) 31 16 := by
  have h := restoring_ok
  (repeat' apply And.intro) <;> first | decide +kernel | (rw [show (restoring.box (3 : MailboxId)).payload = _ from restoring_payload]; decide +kernel) | exact h

/-- A key-encryption key, and the key of a hall: K1, K2 and KG. -/
def kek0 : List Byte := List.replicate 32 7
def key0 : List Byte := (List.range 96).map (BitVec.ofNat 8)
/-- The key check value (R363) against AES outside the model. -/
theorem test_key_check : keyCheck key0 = 0x1de499e9 := by decide +kernel

/-- Hall 1 is encrypted, its key known by `check` and not loaded. -/
def locked0 (check : BitVec 32) (phase : HallPhase) : Hall := { plain with enc := true, check := check, phase := phase }
def keyed (check : BitVec 32) (pay : List Byte) : State :=
  let s := (paid (waits [0x0406, 0, 1]) pay).modMisc fun m => { m with kek := some kek0 }
  { s with halls := [(1, locked0 check .ready)] }

theorem witness_HallCommandsHaveTheirEffect :
    (let s := paid (waits [0x0401, 0, 1]) kek0
     Begins s (3 : MailboxId) 0x0401 ∧ s.misc.kekLock = false ∧ (s.box (3 : MailboxId)).plen = 32) ∧
    (let s := (waits [0x0401]).modMisc fun m => { m with kekLock := true }
     Begins s (3 : MailboxId) 0x0401 ∧ s.misc.kekLock = true) ∧ ((waits [0x0401]).box (3 : MailboxId)).plen ≠ 32 ∧
    (let s := waits [0x0402, 0, 1, 1, 1, 0]
     Begins s (3 : MailboxId) 0x0402 ∧ Awake s ∧ s.hall (fld ((s.box (3 : MailboxId)).word 2) 9 0) = some plain) ∧
    (let s := waits [0x0402, 0, 2, 1, 1, 2]
     let h := newHall (BitVec.ofNat 12 (fld ((s.box (3 : MailboxId)).word 3) 11 0)) ((s.box (3 : MailboxId)).word 5)
     s.hall (fld ((s.box (3 : MailboxId)).word 2) 9 0) = none ∧
      s.badProperties h (fld ((s.box (3 : MailboxId)).word 4) 15 0) ((s.box (3 : MailboxId)).word 5) (s.box (3 : MailboxId)).plen = true) ∧
    (let s := waits [0x0402, 0, 2, 1, 1, 0]
     let h := newHall (BitVec.ofNat 12 (fld ((s.box (3 : MailboxId)).word 3) 11 0)) ((s.box (3 : MailboxId)).word 5)
     s.badProperties h (fld ((s.box (3 : MailboxId)).word 4) 15 0) ((s.box (3 : MailboxId)).word 5) (s.box (3 : MailboxId)).plen = false ∧
      s.roomFor h.members (perLanding h.integ h.cmp 1 h.members.length) (perCommit h.integ h.cmp h.elastic 1 h.members.length) = true ∧
      s.roomFor h.members (perLanding h.integ h.cmp 8 h.members.length) (perCommit h.integ h.cmp h.elastic 8 h.members.length) = false ∧
      s.heatFor { h with heatSize := 1 } ≠ none) ∧
    (let s := waits [0x0403, 0, 1, 2]
     Begins s (3 : MailboxId) 0x0403 ∧ Awake s ∧ s.hallStands (fld ((s.box (3 : MailboxId)).word 2) 9 0) = true ∧
      s.hall (fld ((s.box (3 : MailboxId)).word 2) 9 0) = some plain ∧ plain.phase ≠ .releasing ∧ ¬ 0 ≥ plain.members.length ∧
      plain.members.length ≤ 2 ∧ 2 % max 1 plain.members.length = 0 ∧ plain.size < 2 ∧ s.windowClash 1 2 = false ∧ plain.heatSize < 2 ∧
      ((State.setSteps { s with halls := putN s.halls 1 plain.settled } plain.members).heatFor { plain.settled with heatSize := 2 }).isNone = false ∧
      State.roomFor (State.setSteps { s with halls := putN s.halls 1 plain.settled } plain.members) plain.members
        (perLanding plain.integ plain.cmp 2 plain.members.length - perLanding plain.integ plain.cmp plain.size plain.members.length)
        (perCommit plain.integ plain.cmp plain.elastic 2 plain.members.length - perCommit plain.integ plain.cmp plain.elastic plain.size plain.members.length) = true) ∧
    ((waits [0x0403, 0, 2, 2]).hallStands (fld (((waits [0x0403, 0, 2, 2]).box (3 : MailboxId)).word 2) 9 0) = false ∧ 1 < 2) ∧
    (let s := waits [0x0404, 0, 1]
     Begins s (3 : MailboxId) 0x0404 ∧ Awake s ∧ s.hall (fld ((s.box (3 : MailboxId)).word 2) 9 0) ≠ none ∧ s.hall 2 = none) ∧
    (let s : State := { waits [0x0405, 0, 1] with shots := [(3, { served.shot with halls := served.halls })] }
     Begins s (3 : MailboxId) 0x0405 ∧ (s.seen (3 : MailboxId)).hallStands (fld ((s.box (3 : MailboxId)).word 2) 9 0) = true ∧
      (s.seen (3 : MailboxId)).hall (fld ((s.box (3 : MailboxId)).word 2) 9 0) = some plain ∧ (s.seen (3 : MailboxId)).hallStands 2 = false) ∧
    (let s := keyed 0x1de499e9 (List.replicate 104 0)
     Begins s (3 : MailboxId) 0x0406 ∧ Awake s ∧ s.hallStands (fld ((s.box (3 : MailboxId)).word 2) 9 0) = true ∧
      s.hall (fld ((s.box (3 : MailboxId)).word 2) 9 0) = some (locked0 0x1de499e9 .ready) ∧ (locked0 0x1de499e9 .ready).enc = true ∧
      (locked0 0x1de499e9 .ready).keyLoaded = false ∧ (s.box (3 : MailboxId)).plen = 104) ∧
    plain.enc = false ∧ ((waits [0x0406]).box (3 : MailboxId)).plen ≠ 104 ∧ (waits [0x0406, 0, 2]).hallStands 2 = false := by
  (repeat' apply And.intro) <;> decide +kernel

theorem witness_WindowAndPoolCommandsHaveTheirEffect :
    (let s := waits [0x0407, 0, 1, 0x111, 0, 0]
     Begins s (3 : MailboxId) 0x0407 ∧ s.hallStands (fld ((s.box (3 : MailboxId)).word 2) 9 0) = true ∧
      s.hall (fld ((s.box (3 : MailboxId)).word 2) 9 0) = some plain ∧ plain.phase ≠ .releasing ∧ plain.enc = false ∧
      windowBase ((s.box (3 : MailboxId)).word 4) ((s.box (3 : MailboxId)).word 5) % granuleBytes = 0 ∧
      windowBase ((s.box (3 : MailboxId)).word 4) ((s.box (3 : MailboxId)).word 5) + plain.bytes ≤ 2 ^ 52 ∧
      s.overlaps (fld ((s.box (3 : MailboxId)).word 3) 2 0) (fld ((s.box (3 : MailboxId)).word 3) 7 4) 0 plain.bytes = false ∧ s.windows.length < 4096 ∧
      s.overlaps 0 0 0 plain.bytes = true) ∧
    (let s := waits [0x0407, 0, 1, 0, 64, 0]
     windowBase ((s.box (3 : MailboxId)).word 4) ((s.box (3 : MailboxId)).word 5) % granuleBytes ≠ 0) ∧
    (waits [0x0407, 0, 2]).hallStands 2 = false ∧
    (let s : State := { waits [0x0407, 0, 1] with windows := (List.range 4096).map fun i => { num := i, hall := 1, port := 0, ldid := 0, base := 0, rw := true, active := true } }
     4096 ≤ s.windows.length ∧ s.overlaps 1 0 0 plain.bytes = false) ∧
    (let s := waits [0x0408, 0, 0]
     Begins s (3 : MailboxId) 0x0408 ∧ (∃ w ∈ s.windows, w.num = fld ((s.box (3 : MailboxId)).word 2) 11 0)) ∧
    (∀ w ∈ (waits [0x0408, 0, 4095]).windows, w.num ≠ fld (((waits [0x0408, 0, 4095]).box (3 : MailboxId)).word 2) 11 0) ∧
    (let s := waits [0x0501, 0, 2, 0, 1]
     Begins s (3 : MailboxId) 0x0501 ∧ Awake s ∧ fld ((s.box (3 : MailboxId)).word 2) 1 0 = (2 : GalleryId).val ∧
      ((s.box (3 : MailboxId)).word 3).toNat < ((s.box (3 : MailboxId)).word 4).toNat) ∧
    (let s := waits [0x0501, 0, 0, 0, 0]
     (0 : GalleryId).val < s.nGal ∧ 0 = (s.gal (0 : GalleryId)).poolExt.length ∧ s.auxSets (0 : GalleryId) 0 ≤ (s.gal (0 : GalleryId)).auxExt.length) ∧
    (let s := (List.range 4).foldl (fun s l => s.modLand l fun x => { x with granules := 64, sbd := { x.sbd with started := true } }) (waits [0x0501, 0, 0, 1, 1])
     (s.gal (0 : GalleryId)).poolExt.length ≤ 1 ∧
      s.roomFor ((List.range 4).map fun i => 4 * (0 : GalleryId).val + i)
        (1 - (s.gal (0 : GalleryId)).poolExt.length + (s.auxSets (0 : GalleryId) 1 - (s.gal (0 : GalleryId)).auxExt.length))
        (1 - (s.gal (0 : GalleryId)).poolExt.length + (s.auxSets (0 : GalleryId) 1 - (s.gal (0 : GalleryId)).auxExt.length)) = true) := by
  (repeat' apply And.intro) <;> decide +kernel

theorem witness_ServiceCommandsHaveTheirEffect :
    (Begins (waits [0x0701]) (3 : MailboxId) 0x0701 ∧ (waits [0x0701]).pwr.trans = none ∧ (waits [0x0701]).pwr.pend = none ∧
      (moving (trans0 .p1 .p0 .drain [])).pwr.trans.isSome = true) ∧
    Begins (taken halted0 3 [0x0801]) (3 : MailboxId) 0x0801 ∧
    (let s := (waits [0x0802, 0, 7]).modFlt fun x => { x with service := false, active := Vector.replicate 3 true }
     Begins s (3 : MailboxId) 0x0802 ∧ s.flt.service = false ∧
      ∀ k, k < 3 → ((s.box (3 : MailboxId)).word 2).getLsbD k = true → s.causePersists k = false) ∧
    (let s := (waits [0x0802, 0, 2]).modFlt fun x => { x with service := false, levels := [repL 5 2 0 0] }
     ∃ k, k < 3 ∧ ((s.box (3 : MailboxId)).word 2).getLsbD k = true ∧ s.causePersists k = true) ∧
    (let s := waits [0x0803, 0, 0, 10000, 1000000]
     Begins s (3 : MailboxId) 0x0803 ∧ ((s.box (3 : MailboxId)).word 3).toNat = 10000 ∧ ((s.box (3 : MailboxId)).word 4).toNat = 1000000) ∧
    ((waits [0x0803, 0, 0, 10001, 100]).box (3 : MailboxId)).word 3 = 10001 ∧
    (let s := waits [0x0901, 0, 0x02]
     Begins s (3 : MailboxId) 0x0901 ∧ fld ((s.box (3 : MailboxId)).word 2) 1 0 < s.nGal ∧
      countable (fld ((s.box (3 : MailboxId)).word 2) 1 0) (fld ((s.box (3 : MailboxId)).word 2) 31 16) = true ∧
      ((s.box (3 : MailboxId)).word 2).getLsbD 8 = false) ∧
    (let s := waits [0x0901, 0, 0x170]
     ((s.box (3 : MailboxId)).word 2).getLsbD 8 = true ∧ fld ((s.box (3 : MailboxId)).word 2) 6 4 = 7) ∧
    Begins (waits [0x0902, 0, 0xFF]) (3 : MailboxId) 0x0902 ∧
    (let k : Bank := { seq := 1, recs := [.background 1 64] }
     let s : State := { waits [0x0A01, 0, 6, 0] with store := { served.store with taken := some false, bankA := some k } }
     Begins s (3 : MailboxId) 0x0A01 ∧ s.store.bank = some k) ∧
    Begins (waits [0x0A02]) (3 : MailboxId) 0x0A02 ∧ Begins (waitsA [0x0A03, 0, 1]) (8 : MailboxId) 0x0A03 ∧
    fld (((waitsA [0x0A03, 0, 3]).box (8 : MailboxId)).word 2) 7 0 ≠ 1 := by
  (repeat' apply And.intro) <;> decide +kernel

theorem witness_QuietBlockDoesNotMove :
    (∀ p : PortId, (State.reset.port p).txns = []) ∧ (∀ n : ChannelId, (State.reset.ch n).run = none) ∧
      ∀ g : GalleryId, (State.reset.gal g).moves = [] := by decide +kernel

/-! ## Well-formedness: each check refuses an ill-formed command -/

theorem test_wf_refuses_each_ill_formed_command :
    ([ .malformedOpcode 0 hdr0 0x01, .malformedOpcode 0 hdr0 0x11, .classlessOpcode 0 hdr0 0x1F
     , .stringerInstanceDone 0 16384 8292 228 0 0, .stringerInstanceDone 0 100 16384 228 0 0, .stringerInstanceDone 0 100 8292 16384 0 0
     , .stringerFullMeasurementDone 0 100 8292 (List.replicate 62 228), .stringerFullMeasurementDone 0 16384 8292 (List.replicate 63 228)
     , .impedanceSearchDone 0 128 20, .impedanceSearchDone 0 20 128, .sidebandTransactionDone 0 (List.replicate 1025 0)
     , .discover 3 [{ landing := 0, slot := 1, spd := spd0 }, { landing := 0, slot := 1, spd := spd0 }]
     , .faultReport { subsys := 32, code := 1, inst := 0, detail := 0, place := 0 }
     , .pprProgramDone 0 true (2 ^ 32), .lowWordRead 0x12 0xF, .registerWrite 0x1011 ⟨0xF, 0⟩ ] : List Instr).all (fun i => !i.wf) = true := by
  decide +kernel

theorem test_wf_takes_their_well_formed_neighbours :
    ([ .malformedOpcode 0 hdr0 0x04, .malformedOpcode 0 hdr0 0x1F, .classlessOpcode 0 hdr0 0x20, .stringerInstanceDone 0 100 16383 228 0 0
     , .stringerFullMeasurementDone 0 100 8292 (List.replicate 63 228), .impedanceSearchDone 0 127 20
     , .discover 3 [{ landing := 0, slot := 0, spd := spd0 }, { landing := 0, slot := 1, spd := spd0 }]
     , .pprProgramDone 0 true (2 ^ 32 - 1), .registerWrite 0x1010 ⟨0xF, 0⟩ ] : List Instr).all Instr.wf = true := by decide +kernel

/-! ## The manual's worked examples -/

/-- `BLK_CAPS` of an HJR-8S (00_scope.md, the example of R4). -/
theorem test_caps_of_hjr8S : (up.modChip fun c => { c with variant := .hjr8S }).caps = 0x80B := by decide +kernel

/-- Hall 37 of 04_halls_and_address_map.md: Landings L4 to L9, with granule 17 of L5 as its local granule 0. -/
def hall37 : Hall := { plain with set := 0x3F0, size := 24, ext := [[0, 1, 2, 3], [17, 1, 2, 3], [0, 1, 2, 3], [0, 1, 2, 3], [0, 1, 2, 3], [0, 1, 2, 3]] }

/-- Its example of a write: the Landing, the Landing address, and the place in DRAM. -/
theorem test_hall37_decodes_as_the_manual :
    hall37.homeSpot 0x12345680 = { l := 5, addr := 0x11308B980, tagAt := none } ∧
    coordOf { geo with rankBits := 1 } 0x11308B980 = { sub := 0, rank := 1, bg := 1, bank := 2, row := 4400, col := 47 } := by decide +kernel

/-- The late Stringer measurement of 01_architecture.md (R33). -/
theorem test_late_instances_catch_up :
    let s0 : Sched := { ideal := 1000, next := 1000, debt := 1, merged := 0 }
    let s1 := schedStart 244 61 122 1150 s0
    let s2 := schedStart 244 61 122 1333 s1
    let s3 := schedStart 244 61 122 1516 s2
    s1.next = 1333 ∧ s2.next = 1516 ∧ s3.next = 1732 ∧ (schedStart 244 61 122 1732 s3).next = 1976 := by decide

/-- The conversions of 07_timing_rule_registers.md at 156 ps (R196). -/
theorem test_conversions_at_mrdimm12800 :
    convertRule 14056 0 156 = 90 ∧ convertRule (7500 ||| at_ 16 24) 0 156 = 48 ∧ convertRule (at_ 16 16) 0 156 = (16 ||| at_ 16 1) ∧
    convertRule 295 1 156 = 1886 ∧ convertRule 15000 0 156 = 96 ∧ flightOf 3900 = 244 := by decide +kernel

/-- One symbol of device 3 flipped, as in 09_ecc_and_poison.md: byte 41 of a zero line read with bit 6 set. -/
theorem test_flip_is_corrected :
    (decodeLine true false none (encodeLine false false 0 ^^^ lineBurst (BitVec.ofNat 512 (64 * 2 ^ (8 * 41))))).1 = .corrected ∧
    (decodeLine true false none (encodeLine false false 0 ^^^ lineBurst (BitVec.ofNat 512 (64 * 2 ^ (8 * 41))))).2.1 = 0 ∧
    (decodeLine true false none (encodeLine false false 0 ^^^ lineBurst (BitVec.ofNat 512 (64 * 2 ^ (8 * 41))))).2.2[45]? = some 4 := by decide +kernel

/-- The raw codes of 10_banister_phy.md for `FINE` 1,000 (R282). -/
theorem test_raw_codes_of_fine_1000 :
    Machine.rawCode (List.replicate 15 0 ++ [2103, 2226]) 1000 = 2180 ∧ Machine.rawCode (List.replicate 15 0 ++ [1830, 1937]) 1000 = 1897 := by decide +kernel

/-- The entry of 14_compression.md (R376), and the run lines of its segment 2. -/
theorem test_page_entry_reads_as_the_manual :
    pageEntryOf 0x0122C50012345689 =
      { loc := 1, count := 2, start := 4, frame := 0x123456, incomp := false, off1 := 5, off2 := 11, off3 := 18 } ∧
    (pageEntryOf 0x0122C50012345689).ok = true ∧ (pageEntryOf 0x0122C50012345689).segment 2 = (11, 18) := by decide +kernel

/-- The CFG address of 22_register_map.md: `PHY_DQ_RXEQ` 17 of rank 1 on subchannel B of L6. -/
theorem test_register_stands_where_the_manual_puts_it : landAddr 6 (0x1800 + 0x200 * (8 * 1 + 1) + 0x0A0 + 4 * 17) = 0x15AAE4 := by decide

/-- CRC-32C of the check string "123456789" (the polynomial's published check value). -/
theorem test_crc32c_check_value : crc32c ((List.range 9).map fun i => BitVec.ofNat 8 (0x31 + i)) = 0xE3069283 := by decide +kernel

/-- The header word's fields (R71, R73): `OPC` 01h with `TAG` 005h and `DUE` FFFh is an MRD. -/
theorem test_flit_of_an_mrd : flitOf 2 (BitVec.ofNat 128 (1 + 5 * 2 ^ 6 + 0xFFF * 2 ^ 22 + 2 ^ 80 * 0)) 0 0 = .mrd 2 hdr0 := by decide +kernel

/-! ## Single steps -/

/-- A step of `served` with one command in front. -/
def one (c : Instr) (s : State) : Option State :=
  match step { s with pending := [c] } with
  | .next t => some t
  | _ => none

/-- A malformed opcode is answered `MALFORMED` with its tag (R74). -/
theorem test_malformed_opcode_is_answered :
    (one (.malformedOpcode 0 hdr0 0x04) served).map (fun t => (t.port 0).txns.length) = some 0 ∧
    (one (.malformedOpcode 0 hdr0 0x04) served).map (fun t => (t.port 0).cpl + (t.port 0).dat) = some 7 := by decide +kernel

/-- A read reaches the arbiter of its line's Landing (R107, R127). -/
theorem test_mrd_reaches_its_landing :
    (one (.mrd 0 hdr0) { served with halls := [(1, { plain with w := granuleBytes })] }).map (fun t => ((t.land 0).arb.staging ++ (t.land 0).seq.rq).map (fun a => (a.op, a.addr, a.client))) =
      some [(.read, 0, .host 0 served.chip.nextId)] := by decide +kernel

/-- A doorbell on an idle mailbox makes its command pending (R439). -/
theorem test_doorbell_pends :
    (one (.lbyDbRing 3 0xF) served).map (fun t => (t.box 3).state) = some .pending ∧
    (one (.lbyDbRing 3 0x7) served).map (fun t => (t.box 3).state) = some .idle := by decide +kernel

/-- An empty queue: one cycle of CCLK, half a nanosecond (R27). -/
theorem test_idle_is_one_cycle :
    (match step served with | .next t => t.chip.cycle | _ => 0) = 4000001 := by decide +kernel

end Sys2Proof.Tests
end

/-! SUPPORT. What no command moves: the queue of waiting commands, the variant of the part, outside resets and tread boundaries the clock, and but
for the rows that write it the descriptor memory. One lemma per function of the model, in the model's order. -/

namespace Sys2Proof.Machine

/-! ## The kept part of a state -/

/-- What no command but a reset, the clock and the descriptor rows moves: the queue, the variant, the clock and the descriptor memory. -/
structure Kept where
  pending : List Instr
  variant : Variant
  cycle : Nat
  desc : Memory

/-- The kept part of a state. -/
def State.kept (s : State) : Kept := ⟨s.pending, s.chip.variant, s.chip.cycle, s.desc⟩

/-- A state rebuilt around the same chip, queue and descriptor memory keeps them. -/
@[simp ↓] theorem State.kept_mk (s : State) (cfg lands gals ports sent halls epochs windows away ahead dma boxes eq arcade store pwr flt misc blk
      shot shots) :
    (State.mk s.pending s.chip cfg lands gals ports sent halls epochs windows away ahead dma s.desc boxes eq arcade store pwr flt misc blk
      shot shots).kept = s.kept := rfl

/-- A change of the chip that leaves its variant and its clock keeps them. -/
@[simp ↓] theorem State.modChip_kept (s : State) (f : Chip → Chip) (hv : ∀ c, (f c).variant = c.variant) (hc : ∀ c, (f c).cycle = c.cycle) :
    (s.modChip f).kept = s.kept := by
  simp [State.kept, State.modChip, hv, hc]

/-- A choice between two states that keep the same keeps it. -/
@[simp ↓] theorem ite_kept {c : Prop} [Decidable c] (a b : State) : (if c then a else b).kept = if c then a.kept else b.kept :=
  apply_ite State.kept c a b

theorem kept_of_ite {c : Prop} [Decidable c] {a b : State} {k : Kept} (ha : a.kept = k) (hb : b.kept = k) : (if c then a else b).kept = k := by
  rw [ite_kept, ha, hb, ite_self]

/-- A fold keeps what each of its steps keeps. -/
@[simp ↓] theorem foldl_kept {α : Type} {f : State → α → State} (h : ∀ s x, (f s x).kept = s.kept) (l : List α) (s : State) :
    (l.foldl f s).kept = s.kept := by
  induction l generalizing s with
  | nil => rfl
  | cons x l ih => rw [List.foldl_cons, ih, h]

/-- A fold that carries more than the state keeps what each of its steps keeps. -/
theorem foldl_fst_kept {α β : Type} {f : State × β → α → State × β} (h : ∀ r x, (f r x).1.kept = r.1.kept) (l : List α) (r : State × β) :
    (l.foldl f r).1.kept = r.1.kept := by
  induction l generalizing r with
  | nil => rfl
  | cons x l ih => rw [List.foldl_cons, ih, h]

/-- A fold that may give up keeps what each of its steps keeps. -/
theorem foldl_bind_kept {α : Type} {f : State → α → Option State} (h : ∀ s x t, f s x = some t → t.kept = s.kept) (l : List α) {s t : State}
    (ht : l.foldl (fun o x => o.bind fun s => f s x) (some s) = some t) : t.kept = s.kept := by
  have none_stays : ∀ l : List α, l.foldl (fun o x => o.bind fun s => f s x) none = none := by
    intro l
    induction l with
    | nil => rfl
    | cons x l ih => exact ih
  induction l generalizing s with
  | nil => cases ht; rfl
  | cons x l ih =>
    rw [List.foldl_cons, Option.bind_some] at ht
    cases hx : f s x with
    | none => rw [hx, none_stays] at ht; cases ht
    | some u => rw [hx] at ht; exact (ih ht).trans (h s x u hx)

@[simp ↓] theorem eachBelow_kept (n : Nat) (f : Nat → State → State) (s : State) (h : ∀ i s, (f i s).kept = s.kept) :
    (eachBelow n f s).kept = s.kept := foldl_kept (fun s i => h i s) (List.range n) s


@[simp ↓] theorem ite_fst_kept {α : Type} {c : Prop} [Decidable c] (a b : State × α) :
    (if c then a else b).1.kept = if c then a.1.kept else b.1.kept := apply_ite (fun x : State × α => x.1.kept) c a b

@[simp ↓] theorem ite_snd_kept {α : Type} {c : Prop} [Decidable c] (a b : α × State) :
    (if c then a else b).2.kept = if c then a.2.kept else b.2.kept := apply_ite (fun x : α × State => x.2.kept) c a b

/-- A function that answers a pair is the pair of its two halves. -/
theorem halves_four {A B C D X Y : Type} (f : A → B → C → D → X × Y) :
    ∃ (x : A → B → C → D → X) (y : A → B → C → D → Y), f = fun a b c d => (x a b c d, y a b c d) := ⟨_, _, rfl⟩

/-- The same with one argument more. -/
theorem halves_five {A B C D E X Y : Type} (f : A → B → C → D → E → X × Y) :
    ∃ (x : A → B → C → D → E → X) (y : A → B → C → D → E → Y), f = fun a b c d e => (x a b c d e, y a b c d e) := ⟨_, _, rfl⟩

/-- The state of a pair holds the same kept part. -/
def SecondKeeps {α : Type} (s : State) (r : α × State) : Prop := r.2.kept = s.kept

/-- The state of a pair holds the same kept part. -/
def FirstKeeps {α : Type} (s : State) (r : State × α) : Prop := r.1.kept = s.kept

theorem FirstKeeps.ite {α : Type} {s : State} {c : Prop} [Decidable c] {a b : State × α} (ha : FirstKeeps s a) (hb : FirstKeeps s b) :
    FirstKeeps s (if c then a else b) := by
  split
  · exact ha
  · exact hb

/-- The answer is a next state, which holds the same kept part. -/
def Keeps (s : State) (o : Out) : Prop := ∃ t, o = .next t ∧ t.kept = s.kept

@[simp ↓] theorem keeps_next (s t : State) : Keeps s (.next t) ↔ t.kept = s.kept := by simp [Keeps]

@[simp ↓] theorem keeps_ite {c : Prop} [Decidable c] (s : State) (a b : Out) :
    Keeps s (if c then a else b) ↔ if c then Keeps s a else Keeps s b := by split <;> rfl

/-- What every step keeps: the queue, the variant and the canonical form of the descriptor memory. -/
structure Follows (s t : State) : Prop where
  pending : t.pending = s.pending
  variant : t.chip.variant = s.chip.variant
  desc : s.desc.wf = true → t.desc.wf = true

/-- What a step keeps that writes the descriptor memory and leaves the clock. -/
structure Rewrites (s t : State) : Prop extends Follows s t where
  cycle : t.chip.cycle = s.chip.cycle

theorem Rewrites.of_kept {s t : State} (h : t.kept = s.kept) : Rewrites s t := by
  injection h with pending variant cycle desc
  exact { pending, variant, cycle, desc := by simp [desc] }

/-- A change of the descriptor memory alone, to a canonical one. -/
theorem Rewrites.of_desc {s t : State} {d : Memory} (h : t.kept = { s.kept with desc := d }) (hd : s.desc.wf = true → d.wf = true) :
    Rewrites s t := by
  injection h with pending variant cycle desc
  exact { pending, variant, cycle, desc := by simpa [desc] using hd }

theorem Follows.trans {s t u : State} (h : Follows s t) (k : Follows t u) : Follows s u where
  pending := k.pending.trans h.pending
  variant := k.variant.trans h.variant
  desc := k.desc ∘ h.desc

theorem Rewrites.trans {s t u : State} (h : Rewrites s t) (k : Rewrites t u) : Rewrites s u where
  toFollows := h.toFollows.trans k.toFollows
  cycle := k.cycle.trans h.cycle

/-- A step that keeps the kept part after one that rewrites the descriptor memory. -/
theorem Rewrites.then_kept {s t u : State} (h : Rewrites s t) (k : u.kept = t.kept) : Rewrites s u := h.trans (.of_kept k)

theorem Rewrites.ite {c : Prop} [Decidable c] {s t u : State} (ht : Rewrites s t) (hu : Rewrites s u) : Rewrites s (if c then t else u) := by
  split
  · exact ht
  · exact hu

/-- A fold rewrites what each of its steps rewrites. -/
theorem foldl_rewrites {α : Type} {f : State → α → State} (h : ∀ s x, Rewrites s (f s x)) (l : List α) (s : State) :
    Rewrites s (l.foldl f s) := by
  induction l generalizing s with
  | nil => exact .of_kept rfl
  | cons x l ih => exact (h s x).trans (ih (f s x))

/-! ## The functions of the model -/

/-! ### Ops -/

@[simp ↓] theorem State.setLand_kept (s : State) (l : Nat) (x : Landing) : (s.setLand l x).kept = s.kept := by simp [State.setLand]
@[simp ↓] theorem State.setGal_kept (s : State) (g : Nat) (x : Gallery) : (s.setGal g x).kept = s.kept := by simp [State.setGal]
@[simp ↓] theorem State.setPort_kept (s : State) (p : Nat) (x : Port) : (s.setPort p x).kept = s.kept := by simp [State.setPort]
@[simp ↓] theorem State.setCh_kept (s : State) (n : Nat) (x : Dma) : (s.setCh n x).kept = s.kept := by simp [State.setCh]
@[simp ↓] theorem State.setBox_kept (s : State) (m : Nat) (x : Mailbox) : (s.setBox m x).kept = s.kept := by simp [State.setBox]

@[simp ↓] theorem State.modLand_kept (s : State) (l : Nat) (f : Landing → Landing) :
    (s.modLand l f).kept = s.kept := by simp [State.modLand]

@[simp ↓] theorem State.modGal_kept (s : State) (g : Nat) (f : Gallery → Gallery) : (s.modGal g f).kept = s.kept := by simp [State.modGal]
@[simp ↓] theorem State.modPort_kept (s : State) (p : Nat) (f : Port → Port) : (s.modPort p f).kept = s.kept := by simp [State.modPort]
@[simp ↓] theorem State.modCh_kept (s : State) (n : Nat) (f : Dma → Dma) : (s.modCh n f).kept = s.kept := by simp [State.modCh]
@[simp ↓] theorem State.modBox_kept (s : State) (m : Nat) (f : Mailbox → Mailbox) : (s.modBox m f).kept = s.kept := by simp [State.modBox]
@[simp ↓] theorem State.modArb_kept (s : State) (l : Nat) (f : Arb → Arb) : (s.modArb l f).kept = s.kept := rfl
@[simp ↓] theorem State.modSeq_kept (s : State) (l : Nat) (f : Seq → Seq) : (s.modSeq l f).kept = s.kept := rfl
@[simp ↓] theorem State.modMnt_kept (s : State) (l : Nat) (f : Mnt → Mnt) : (s.modMnt l f).kept = s.kept := rfl
@[simp ↓] theorem State.modPhy_kept (s : State) (l : Nat) (f : Phy → Phy) : (s.modPhy l f).kept = s.kept := rfl
@[simp ↓] theorem State.modCal_kept (s : State) (l : Nat) (f : Cal → Cal) : (s.modCal l f).kept = s.kept := rfl
@[simp ↓] theorem State.modSbd_kept (s : State) (l : Nat) (f : Sbd → Sbd) : (s.modSbd l f).kept = s.kept := rfl
@[simp ↓] theorem State.modMisc_kept (s : State) (f : Misc → Misc) : (s.modMisc f).kept = s.kept := by simp [State.modMisc]
@[simp ↓] theorem State.modPwr_kept (s : State) (f : Pwr → Pwr) : (s.modPwr f).kept = s.kept := by simp [State.modPwr]
@[simp ↓] theorem State.modFlt_kept (s : State) (f : Flt → Flt) : (s.modFlt f).kept = s.kept := by simp [State.modFlt]
@[simp ↓] theorem State.putLand_kept (s : State) (l off : Nat) (v : W32) : (s.putLand l off v).kept = s.kept := by simp [State.putLand]
@[simp ↓] theorem State.loadLand_kept (s : State) (l off : Nat) (v : W32) : (s.loadLand l off v).kept = s.kept := by simp [State.loadLand]
@[simp ↓] theorem State.putGal_kept (s : State) (g off : Nat) (v : W32) : (s.putGal g off v).kept = s.kept := by simp [State.putGal]
@[simp ↓] theorem State.bumpL_kept (s : State) (l off n : Nat) : (s.bumpL l off n).kept = s.kept := by simp [State.bumpL]
@[simp ↓] theorem State.bumpG_kept (s : State) (g off n : Nat) : (s.bumpG g off n).kept = s.kept := by simp [State.bumpG]
@[simp ↓] theorem State.bumpB_kept (s : State) (a n : Nat) : (s.bumpB a n).kept = s.kept := by simp [State.bumpB]

@[simp ↓] theorem State.status1Hold_kept (s : State) (code : Nat) : (s.status1Hold code).kept = s.kept := by
  fun_cases State.status1Hold s code <;> simp

@[simp ↓] theorem State.popEvent_kept (s : State) : (s.popEvent).2.kept = s.kept := by
  fun_cases State.popEvent s <;> simp

@[simp ↓] theorem State.cfgReply_kept (s : State) (data : W32) (err : Bool) :
    (s.cfgReply data err).kept = s.kept := by simp [State.cfgReply]

@[simp ↓] theorem State.endStall_kept (s : State) (data : W32) (k : Stall) : (s.endStall data k).kept = s.kept := by simp [State.endStall]
@[simp ↓] theorem State.dropStall_kept (s : State) : (s.dropStall).kept = s.kept := by simp [State.dropStall]

@[simp ↓] theorem State.serveEvent_kept (s : State) : (s.serveEvent).kept = s.kept := by
  unfold State.serveEvent
  split <;> simp

@[simp ↓] theorem State.post_kept (s : State) (type prio : Nat) (data : List W32) :
    (s.post type prio data).kept = s.kept := by simp [State.post]

@[simp ↓] theorem State.history_kept (s : State) (r : Record) : (s.history r).kept = s.kept := by simp [State.history]
@[simp ↓] theorem State.defer_kept (s : State) (d : Deferred) : (s.defer d).kept = s.kept := by simp [State.defer]

@[simp ↓] theorem State.finish_kept (s : State) (m : Nat) (st : AStatus) (res : List W32) (pay : List Byte) :
    (s.finish m st res pay).kept = s.kept := by simp [State.finish]

@[simp ↓] theorem State.finishS_kept (s : State) (m : Nat) (st : AStatus) : (s.finishS m st).kept = s.kept := by simp [State.finishS]
@[simp ↓] theorem State.capture_kept (s : State) : (s.capture).kept = s.kept := by simp [State.capture]
@[simp ↓] theorem State.fresh_kept (s : State) : (s.fresh).2.kept = s.kept := by simp [State.fresh]
@[simp ↓] theorem State.draw_kept (s : State) (e : Nat) : (s.draw e).2.kept = s.kept := by simp [State.draw]

/-! ### Operands -/

@[simp ↓] theorem State.putHall_kept (s : State) (h : Nat) (x : Hall) : (s.putHall h x).kept = s.kept := by simp [State.putHall]

@[simp ↓] theorem State.modHall_kept (s : State) (h : Nat) (f : Hall → Hall) : (s.modHall h f).kept = s.kept := by
  fun_cases State.modHall s h f <;> simp

@[simp ↓] theorem State.setStep_kept (s : State) (l : Nat) : (s.setStep l).kept = s.kept := by simp [State.setStep]
@[simp ↓] theorem State.setSteps_kept (s : State) (ls : List Nat) : (s.setSteps ls).kept = s.kept := by simp [State.setSteps]

/-! ### Cmd -/

@[simp ↓] theorem State.unplace_kept (s : State) (l : Nat) (c : PlanCmd) : (s.unplace l c).kept = s.kept := by simp [State.unplace]

@[simp ↓] theorem State.unplaceAll_kept (s : State) (l : Nat) (cs : List PlanCmd) :
    (s.unplaceAll l cs).kept = s.kept := by simp [State.unplaceAll]

/-! ### Arcade -/

@[simp ↓] theorem State.popWide_kept (s : State) : (s.popWide).2.kept = s.kept := by
  fun_cases State.popWide s <;> simp

@[simp ↓] theorem State.serveWide_kept (s : State) : (s.serveWide).kept = s.kept := by
  unfold State.serveWide
  split <;> simp

@[simp ↓] theorem State.modArcade_kept (s : State) (f : Arcade → Arcade) : (s.modArcade f).kept = s.kept := by simp [State.modArcade]

/-! ### Faults -/

@[simp ↓] theorem State.snapshot_kept (s : State) (r : Rep) : (s.snapshot r).kept = s.kept := by simp [State.snapshot]

@[simp ↓] theorem State.reportAt_kept (s : State) (r : Rep) (grain time : Nat) :
    (s.reportAt r grain time).kept = s.kept := by simp [State.reportAt]

@[simp ↓] theorem State.report_kept (s : State) (r : Rep) (grain : Nat) : (s.report r grain).kept = s.kept := by simp [State.report]
@[simp ↓] theorem State.levelOn_kept (s : State) (r : Rep) : (s.levelOn r).kept = s.kept := by simp [State.levelOn]

@[simp ↓] theorem State.levelOff_kept (s : State) (subsys code inst : Nat) :
    (s.levelOff subsys code inst).kept = s.kept := by simp [State.levelOff]

@[simp ↓] theorem State.endClass_kept (s : State) (k : Nat) : (s.endClass k).kept = s.kept := by
  unfold State.endClass
  split <;> simp

/-! ### Ports -/

@[simp ↓] theorem State.modTxn_kept (s : State) (p id : Nat) (f : Txn → Txn) : (s.modTxn p id f).kept = s.kept := by simp [State.modTxn]

@[simp ↓] theorem State.countLate_kept (s : State) (p : Nat) (t : Txn) : (s.countLate p t).kept = s.kept := by
  unfold State.countLate
  dsimp only
  split
  · simp
  · split <;> simp

@[simp ↓] theorem State.send_kept (s : State) (p : Nat) (t : Txn) (r : Resp) : (s.send p t r).kept = s.kept := by simp [State.send]

@[simp ↓] theorem State.trySend_kept (s : State) (p n : Nat) : (s.trySend p n).kept = s.kept := by
  induction n generalizing s with
  | zero => rfl
  | succ n ih =>
    unfold State.trySend
    split
    · simp
    · split <;> simp [ih]

@[simp ↓] theorem State.flushPort_kept (s : State) (p : Nat) : (s.flushPort p).kept = s.kept := by simp [State.flushPort]

@[simp ↓] theorem State.form_kept (s : State) (p id : Nat) (st : Status) (poison : Bool) (data : BitVec 512) :
    (s.form p id st poison data).kept = s.kept := by
  fun_cases State.form s p id st poison data <;> simp

@[simp ↓] theorem State.formS_kept (s : State) (p id : Nat) (st : Status) : (s.formS p id st).kept = s.kept := by simp [State.formS]
@[simp ↓] theorem State.excuseAll_kept (s : State) (l : Nat) : (s.excuseAll l).kept = s.kept := by simp [State.excuseAll]
@[simp ↓] theorem State.excuse_kept (s : State) (l : Nat) : (s.excuse l).kept = s.kept := by simp [State.excuse]

@[simp ↓] theorem State.unlockLine_kept (s : State) (l addr : Nat) (mine : LockCause → Bool) :
    (s.unlockLine l addr mine).kept = s.kept := by simp [State.unlockLine]

@[simp ↓] theorem State.endSeq_kept (s : State) (p ldid : Nat) : (s.endSeq p ldid).kept = s.kept := by
  unfold State.endSeq
  split <;> simp

@[simp ↓] theorem State.dropAccess_kept (s : State) (l id : Nat) : (s.dropAccess l id).kept = s.kept := by simp [State.dropAccess]

@[simp ↓] theorem State.breakSeq_kept (s : State) (p ldid : Nat) (st : Status) : (s.breakSeq p ldid st).kept = s.kept := by
  unfold State.breakSeq
  dsimp only
  split
  · rfl
  · split
    · rfl
    · split <;> simp

/-! ### Line -/

@[simp ↓] theorem State.demote_kept (s : State) (p id : Nat) (stamp : BitVec 32) : (s.demote p id stamp).kept = s.kept := by
  fun_cases State.demote s p id stamp <;> simp

@[simp ↓] theorem State.noteStamp_kept (s : State) (old new : Access) : (s.noteStamp old new).kept = s.kept := by
  fun_cases State.noteStamp s old new <;> simp

@[simp ↓] theorem State.enterStaging_kept (s : State) (l : Nat) (a : Access) :
    (s.enterStaging l a).kept = s.kept := by simp [State.enterStaging]

@[simp ↓] theorem State.refill_kept (s : State) (l : Nat) : (s.refill l).kept = s.kept := by simp [State.refill]
@[simp ↓] theorem State.stage_kept (s : State) (l : Nat) (a : Access) : (s.stage l a).kept = s.kept := by simp [State.stage]

@[simp ↓] theorem State.touch_kept (s : State) (g : Nat) (k : MetaKind) (lpa : Nat) :
    (s.touch g k lpa).kept = s.kept := by simp [State.touch]

@[simp ↓] theorem State.ownPut_kept (s : State) (l addr : Nat) (stamp : BitVec 32) (hall : Option Nat) (stored : BitVec 512)
    (poison yields : Bool) :
    (s.ownPut l addr stamp hall stored poison yields).kept = s.kept := by simp [State.ownPut]

@[simp ↓] theorem State.ownWrite_kept (s : State) (l addr : Nat) (stamp : BitVec 32) (hall : Option Nat) (stored : BitVec 512)
    (poison : Bool) :
    (s.ownWrite l addr stamp hall stored poison).kept = s.kept := by simp [State.ownWrite]

@[simp ↓] theorem State.rewrite_kept (s : State) (l : Nat) (a : Access) (stored : BitVec 512) (poison : Bool) :
    (s.rewrite l a stored poison).kept = s.kept := by simp [State.rewrite]

@[simp ↓] theorem State.writeBack_kept (s : State) (g : Nat) (c : CacheLine) : (s.writeBack g c).kept = s.kept := by simp [State.writeBack]

@[simp ↓] theorem State.insertMeta_kept (s : State) (g : Nat) (c : CacheLine) : (s.insertMeta g c).kept = s.kept := by
  unfold State.insertMeta
  dsimp only
  split
  · rfl
  · split
    · rfl
    · split <;> simp

@[simp ↓] theorem State.editMeta_kept (s : State) (g : Nat) (k : MetaKind) (lpa : Nat) (f : BitVec 512 → BitVec 512) :
    (s.editMeta g k lpa f).kept = s.kept := by simp [State.editMeta]

@[simp ↓] theorem State.issueFetch_kept (s : State) (g : Nat) (k : MetaKind) (lpa : Nat) (hall : Option Nat) (stamp : BitVec 32)
    (dl : Bool) (req : Nat) :
    (s.issueFetch g k lpa hall stamp dl req).kept = s.kept := by simp [State.issueFetch]

@[simp ↓] theorem State.needMeta_kept (s : State) (g : Nat) (k : MetaKind) (lpa : Nat) (hall : Option Nat) (stamp : BitVec 32)
    (dl : Bool) (req : Nat) :
    (s.needMeta g k lpa hall stamp dl req).2.kept = s.kept := by
  unfold State.needMeta
  dsimp only
  split <;> simp

@[simp ↓] theorem State.awaitTag_kept (s : State) (lpa : Nat) (a : Access) : (s.awaitTag lpa a).kept = s.kept := by simp [State.awaitTag]
@[simp ↓] theorem State.spillMeta_kept (s : State) (l : Nat) : (s.spillMeta l).kept = s.kept := by simp [State.spillMeta]
@[simp ↓] theorem State.dropMeta_kept (s : State) (l : Nat) : (s.dropMeta l).kept = s.kept := by simp [State.dropMeta]

@[simp ↓] theorem State.poisonWrite_kept (s : State) (l : Nat) (a : Access) :
    (s.poisonWrite l a).kept = s.kept := by simp [State.poisonWrite]

/-! ### Deliver -/

@[simp ↓] theorem State.dmaArrive_kept (s : State) (ch : Nat) (wr : Bool) (i : Nat) (a : Arrival) :
    (s.dmaArrive ch wr i a).kept = s.kept := by simp [State.dmaArrive]

@[simp ↓] theorem State.modSeg_kept (s : State) (g id : Nat) (f : SegFetch → SegFetch) :
    (s.modSeg g id f).kept = s.kept := by simp [State.modSeg]

@[simp ↓] theorem State.modMove_kept (s : State) (g id : Nat) (f : Move → Move) :
    (s.modMove g id f).kept = s.kept := by simp [State.modMove]

@[simp ↓] theorem State.answerSeg_kept (s : State) (f : SegFetch) (ans : Nat → Arrival) : (s.answerSeg f ans).kept = s.kept := by
  simp only [State.answerSeg, foldl_kept, State.dmaArrive_kept, implies_true]
  exact foldl_kept (fun s w => by split <;> simp) f.waiters s

@[simp ↓] theorem State.abandonMove_kept (s : State) (g id : Nat) : (s.abandonMove g id).kept = s.kept := by simp [State.abandonMove]

@[simp ↓] theorem State.moveArrive_kept (s : State) (g id i : Nat) (wr : Bool) (a : Arrival) :
    (s.moveArrive g id i wr a).kept = s.kept := by simp [State.moveArrive]

@[simp ↓] theorem State.advance_kept (s : State) (n : Nat) (old new : Hall) : (s.advance n old new).kept = s.kept := by simp [State.advance]

@[simp ↓] theorem State.advanceW_kept (s : State) (n : Nat) (old new : Hall) :
    (s.advanceW n old new).kept = s.kept := by simp [State.advanceW]

@[simp ↓] theorem State.zeroEnds_kept (s : State) (n off : Nat) (ok : Bool) : (s.zeroEnds n off ok).kept = s.kept := by
  unfold State.zeroEnds
  dsimp only
  (repeat' split) <;> simp

@[simp ↓] theorem State.zeroMetaEnds_kept (s : State) (l n i : Nat) (ok : Bool) :
    (s.zeroMetaEnds l n i ok).kept = s.kept := by simp [State.zeroMetaEnds]

@[simp ↓] theorem State.drainRepair_kept (s : State) (r : Repair) : (s.drainRepair r).kept = s.kept := by simp [State.drainRepair]
@[simp ↓] theorem State.drainRepairs_kept (s : State) : (s.drainRepairs).kept = s.kept := by simp [State.drainRepairs]
@[simp ↓] theorem State.dropRepair_kept (s : State) (r : Repair) : (s.dropRepair r).kept = s.kept := by simp [State.dropRepair]
@[simp ↓] theorem State.endRepairs_kept (s : State) : (s.endRepairs).kept = s.kept := by simp [State.endRepairs]

@[simp ↓] theorem State.failRepair_kept (s : State) (l : Nat) : (s.failRepair l).kept = s.kept := by
  fun_cases State.failRepair s l <;> simp

@[simp ↓] theorem State.endRepair_kept (s : State) (r : Repair) (ok : Bool) (holdNs : Nat) :
    (s.endRepair r ok holdNs).kept = s.kept := by simp [State.endRepair]

@[simp ↓] theorem State.repairWrote_kept (s : State) (l addr : Nat) : (s.repairWrote l addr).kept = s.kept := by
  unfold State.repairWrote
  dsimp only
  split
  · simp
  · split <;> simp

@[simp ↓] theorem State.cpuEnds_kept (s : State) (w : Nat) (r : Arrival) : (s.cpuEnds w r).kept = s.kept := by
  unfold State.cpuEnds
  split
  · rfl
  · next k _ =>
    cases k.mailbox <;> cases r <;> simp

@[simp ↓] theorem State.deliver_kept (s : State) (l : Nat) (a : Access) (r : Arrival) : (s.deliver l a r).kept = s.kept := by
  unfold State.deliver
  dsimp only
  (repeat' split) <;> simp

/-! ### React -/

@[simp ↓] theorem State.refuseOne_kept (s : State) (l : Nat) (a : Access) (st : Status) :
    (s.refuseOne l a st).kept = s.kept := by simp [State.refuseOne]

@[simp ↓] theorem State.refuseWhere_kept (s : State) (l : Nat) (c : Access → Bool) (st : Status) :
    (s.refuseWhere l c st).kept = s.kept := by simp [State.refuseWhere]

@[simp ↓] theorem State.breakLocks_kept (s : State) (l : Nat) (c : Nat → Bool) (st : Status) :
    (s.breakLocks l c st).kept = s.kept := by simp [State.breakLocks]

@[simp ↓] theorem State.queueOwn_kept (s : State) (l : Nat) : (s.queueOwn l).kept = s.kept := by simp [State.queueOwn]
@[simp ↓] theorem State.finishCalRuns_kept (s : State) : (s.finishCalRuns).kept = s.kept := by simp [State.finishCalRuns]
@[simp ↓] theorem State.calOutcome_kept (s : State) (l code : Nat) : (s.calOutcome l code).kept = s.kept := by simp [State.calOutcome]
@[simp ↓] theorem State.checkOutcome_kept (s : State) (l code : Nat) : (s.checkOutcome l code).kept = s.kept := by simp [State.checkOutcome]
@[simp ↓] theorem State.abortCal_kept (s : State) (l cause : Nat) : (s.abortCal l cause).kept = s.kept := by simp [State.abortCal]
@[simp ↓] theorem State.startDrain_kept (s : State) (l : Nat) : (s.startDrain l).kept = s.kept := by simp [State.startDrain]
@[simp ↓] theorem State.abandonWrites_kept (s : State) (l : Nat) : (s.abandonWrites l).kept = s.kept := by simp [State.abandonWrites]
@[simp ↓] theorem State.startFence_kept (s : State) (f : Fence) : (s.startFence f).kept = s.kept := by simp [State.startFence]

@[simp ↓] theorem State.fenceStorage_kept (s : State) (l : Nat) (hit : Nat → Bool) (writes : Bool) :
    (s.fenceStorage l hit writes).kept = s.kept := by simp [State.fenceStorage]

@[simp ↓] theorem State.fenceTags_kept (s : State) : (s.fenceTags).kept = s.kept := by simp [State.fenceTags]
@[simp ↓] theorem State.breakMerges_kept (s : State) (p : Nat) : (s.breakMerges p).kept = s.kept := by simp [State.breakMerges]
@[simp ↓] theorem State.closePort_kept (s : State) (p : Nat) : (s.closePort p).kept = s.kept := by simp [State.closePort]
@[simp ↓] theorem State.fenceCmp_kept (s : State) (g : Nat) : (s.fenceCmp g).kept = s.kept := by simp [State.fenceCmp]
@[simp ↓] theorem State.fenceTier_kept (s : State) : (s.fenceTier).kept = s.kept := by simp [State.fenceTier]

@[simp ↓] theorem State.applyFence_kept (s : State) (f : Fence) : (s.applyFence f).kept = s.kept := by
  unfold State.applyFence
  split <;> simp

@[simp ↓] theorem State.haltPort_kept (s : State) (p : Nat) : (s.haltPort p).kept = s.kept := by simp [State.haltPort]

@[simp ↓] theorem State.haltLanding_kept (s : State) (l : Nat) : (s.haltLanding l).kept = s.kept := by
  unfold State.haltLanding
  dsimp only
  split <;> simp

@[simp ↓] theorem State.pwrResult_kept (s : State) (code : Nat) (target : PState) (unit : Nat) :
    (s.pwrResult code target unit).kept = s.kept := by
  unfold State.pwrResult
  dsimp only
  (repeat' split) <;> simp

@[simp ↓] theorem State.haltPower_kept (s : State) : (s.haltPower).kept = s.kept := by
  unfold State.haltPower
  dsimp only
  (repeat' split) <;> simp

@[simp ↓] theorem State.haltCommands_kept (s : State) : (s.haltCommands).kept = s.kept := by simp [State.haltCommands]
@[simp ↓] theorem State.enterHalt_kept (s : State) : (s.enterHalt).kept = s.kept := by simp [State.enterHalt]
@[simp ↓] theorem State.breakCpu_kept (s : State) : (s.breakCpu).kept = s.kept := by simp [State.breakCpu]
@[simp ↓] theorem State.cpReset_kept (s : State) : (s.cpReset).kept = s.kept := by simp [State.cpReset]

@[simp ↓] theorem State.raise_kept (s : State) (r : Rep) (f : Option Fence) : (s.raise r f).kept = s.kept := by
  unfold State.raise
  dsimp only
  (repeat' split) <;> simp

@[simp ↓] theorem State.raiseAll_kept (s : State) (rs : List (Rep × Option Fence)) :
    (s.raiseAll rs).kept = s.kept := by simp [State.raiseAll]

@[simp ↓] theorem State.portFault_kept (s : State) (p code : Nat) : (s.portFault p code).kept = s.kept := by simp [State.portFault]
@[simp ↓] theorem State.raiseUE_kept (s : State) (l : Nat) (c : Coord) : (s.raiseUE l c).kept = s.kept := by simp [State.raiseUE]
@[simp ↓] theorem State.askMargin_kept (s : State) (l : Nat) : (s.askMargin l).kept = s.kept := by simp [State.askMargin]

/-! ### Heat -/

@[simp ↓] theorem State.hotCheck_kept (s : State) (g n p : Nat) : (s.hotCheck g n p).kept = s.kept := by
  fun_cases State.hotCheck s g n p <;> simp

@[simp ↓] theorem State.raiseHeat_kept (s : State) (g lpa : Nat) (a : HeatAt) : (s.raiseHeat g lpa a).kept = s.kept := by
  unfold State.raiseHeat
  split <;> simp

@[simp ↓] theorem State.halveCached_kept (s : State) (g lpa width : Nat) :
    (s.halveCached g lpa width).kept = s.kept := by simp [State.halveCached]

@[simp ↓] theorem State.sampleAt_kept (s : State) (g n : Nat) (h : Hall) (p : Nat) (read : Bool) :
    (s.sampleAt g n h p read).kept = s.kept := by
  unfold State.sampleAt
  split
  · rfl
  · have spots (l : List HeatAt) (f : State → HeatAt → State) (hf : ∀ s a, (f s a).kept = s.kept) :
        (if read then (l.foldl f s).hotCheck g n p else l.foldl f s).kept = s.kept := by
      split <;> simp [hf]
    dsimp only
    split
    · simp
    · exact spots _ _ fun s a => by split <;> simp

@[simp ↓] theorem State.heatSample_kept (s : State) (n : Nat) (h : Hall) (off req : Nat) (read : Bool) :
    (s.heatSample n h off req read).kept = s.kept := by simp [State.heatSample]

@[simp ↓] theorem State.countPage_kept (s : State) (n p g : Nat) (dPool dCmp : Int) :
    (s.countPage n p g dPool dCmp).kept = s.kept := by simp [State.countPage]

@[simp ↓] theorem State.countResv_kept (s : State) (n p g : Nat) (d : Int) : (s.countResv n p g d).kept = s.kept := by
  fun_cases State.countResv s n p g d <;> simp

@[simp ↓] theorem State.setPageEntry_kept (s : State) (h : Hall) (p : Nat) (e : PageEntry) :
    (s.setPageEntry h p e).kept = s.kept := by simp [State.setPageEntry]

@[simp ↓] theorem State.setAway_kept (s : State) (n p : Nat) (e : PageEntry) : (s.setAway n p e).kept = s.kept := by simp [State.setAway]
@[simp ↓] theorem State.dropDecoded_kept (s : State) (g n p : Nat) : (s.dropDecoded g n p).kept = s.kept := by simp [State.dropDecoded]

@[simp ↓] theorem State.decodeError_kept (s : State) (g kind n p seg : Nat) :
    (s.decodeError g kind n p seg).kept = s.kept := by simp [State.decodeError]

@[simp ↓] theorem State.unreserve_kept (s : State) (g n p : Nat) : (s.unreserve g n p).kept = s.kept := by simp [State.unreserve]
@[simp ↓] theorem State.losePage_kept (s : State) (n p : Nat) (h : Hall) : (s.losePage n p h).kept = s.kept := by simp [State.losePage]

/-- The branches are read off the unapplied definition with the entry as a variable: the kernel would otherwise compute the entry. -/
@[simp ↓] theorem State.soundEntry_kept (s : State) (h : Hall) (n p : Nat) : (s.soundEntry h n p).2.kept = s.kept := by
  suffices SecondKeeps s (s.soundEntry h n p) from this
  generalize hf : @State.soundEntry = f
  delta State.soundEntry at hf
  subst hf
  beta_reduce
  generalize State.entryOf = entry
  split
  · rfl
  · split <;> simp [SecondKeeps]

/-! ### Route -/

@[simp ↓] theorem State.askMeta_kept (s : State) (k : Ask) (kind : MetaKind) (lpa : Nat) (stamp : BitVec 32) (dl : Bool) :
    (s.askMeta k kind lpa stamp dl).2.kept = s.kept := by
  unfold State.askMeta
  dsimp only
  split <;> simp

@[simp ↓] theorem State.placeSeq_kept (s : State) (k : Ask) (l addr : Nat) (active : Bool) :
    (s.placeSeq k l addr active).kept = s.kept := by
  fun_cases State.placeSeq s k l addr active <;> simp

@[simp ↓] theorem State.stageAt_kept (s : State) (k : Ask) (sp : Spot) (h : Hall) : (s.stageAt k sp h).1.kept = s.kept := by
  unfold State.stageAt
  dsimp only
  (repeat' split) <;> simp

theorem State.lockHome_kept {s : State} {k : Ask} {h : Hall} {t : State} (ht : s.lockHome k h = some t) : t.kept = s.kept := by
  unfold State.lockHome at ht
  dsimp only at ht
  (repeat' split at ht) <;> cases ht <;> simp

theorem State.fetchSegment_kept {s t : State} {g n : Nat} {h : Hall} {p : Nat} {e : PageEntry} {seg : Nat} {stamp acc : BitVec 32} {dl : Bool}
    {req : Nat} {join : SegFetch → SegFetch} (ht : s.fetchSegment g n h p e seg stamp acc dl req join = some t) : t.kept = s.kept := by
  unfold State.fetchSegment at ht
  dsimp only at ht
  split at ht
  · simp at ht
  · rw [Option.some.injEq] at ht
    rw [← ht, foldl_kept]
    · simp
    · intro s sp
      split <;> simp

@[simp ↓] theorem State.readCompressed_kept (s : State) (k : Ask) (h : Hall) (g p : Nat) (e : PageEntry) :
    (s.readCompressed k h g p e).1.kept = s.kept := by
  unfold State.readCompressed
  dsimp only
  split
  · simp
  · split
    · simp
    · split
      · next t ht => simpa using State.fetchSegment_kept ht
      · simp

@[simp ↓] theorem State.awaitPromotion_kept (s : State) (k : Ask) (h : Hall) (g p : Nat) (e : PageEntry) :
    (s.awaitPromotion k h g p e).1.kept = s.kept := by
  fun_cases State.awaitPromotion s k h g p e <;> simp

/-- The branches are read off the unapplied definition, as for `State.soundEntry_kept`. -/
@[simp ↓] theorem State.routeMapped_kept (s : State) (k : Ask) (h : Hall) : (s.routeMapped k h).1.kept = s.kept := by
  suffices FirstKeeps s (s.routeMapped k h) from this
  generalize hf : @State.routeMapped = f
  delta State.routeMapped at hf
  subst hf
  beta_reduce
  extract_lets p g lpa
  split
  · rfl
  · have ha := State.askMeta_kept s k .pageMap lpa k.stamp k.dl
    generalize s.askMeta k .pageMap lpa k.stamp k.dl = r at ha ⊢
    obtain ⟨hit, t⟩ := r
    have hr : (if hit then t.soundEntry h k.hall p else (none, t)).2.kept = s.kept := by
      split
      · exact (State.soundEntry_kept t h k.hall p).trans ha
      · exact ha
    dsimp only
    generalize (if hit then t.soundEntry h k.hall p else (none, t)) = r at hr ⊢
    obtain ⟨e, u⟩ := r
    dsimp only at hr
    cases e with
    | none => exact hr
    | some e =>
      have stay : ∀ x : Routed, FirstKeeps s (u, x) := fun _ => hr
      have plain : ∀ sp, FirstKeeps s (u.stageAt k sp h) := fun sp => (State.stageAt_kept u k sp h).trans hr
      have promo : FirstKeeps s (u.awaitPromotion k h g p e) := (State.awaitPromotion_kept u k h g p e).trans hr
      refine .ite (plain _) (.ite ?lost (.ite (.ite (stay _) (plain _)) (.ite (stay _) (.ite (stay _) (.ite (stay _) (.ite (stay _)
        (.ite ?locked promo)))))))
      case lost =>
        split
        · exact stay _
        · exact stay _
        · exact promo
      case locked =>
        split
        · next v hv => exact (State.readCompressed_kept v k h g p e).trans ((State.lockHome_kept hv).trans hr)
        · exact stay _

@[simp ↓] theorem State.routeAsk_kept (s : State) (k : Ask) : (s.routeAsk k).1.kept = s.kept := by
  fun_cases State.routeAsk s k <;> simp

@[simp ↓] theorem State.cpuIssue_kept (s : State) (w : CpuWork) : (s.cpuIssue w).kept = s.kept := by
  unfold State.cpuIssue
  dsimp only
  (repeat' split) <;> simp

@[simp ↓] theorem State.cpuPump_kept (s : State) : (s.cpuPump).kept = s.kept := by simp [State.cpuPump]

@[simp ↓] theorem State.closeBroken_kept (s : State) (p : Nat) (t : Txn) (n : Nat) :
    (s.closeBroken p t n).1.kept = s.kept := by simp [State.closeBroken]

@[simp ↓] theorem State.routeTxn_kept (s : State) (p : Nat) (t : Txn) : (s.routeTxn p t).kept = s.kept := by
  unfold State.routeTxn
  dsimp only
  (repeat' split) <;> simp

@[simp ↓] theorem State.pumpPort_kept (s : State) (p : Nat) : (s.pumpPort p).kept = s.kept := by
  unfold State.pumpPort
  split
  · rfl
  · exact foldl_kept (fun s id => by split <;> simp) _ s

@[simp ↓] theorem State.dmaIssueLine_kept (s : State) (ch : Nat) (r : DmaRun) (wr : Bool) (i : Nat) (ln : DmaLine) :
    (s.dmaIssueLine ch r wr i ln).kept = s.kept := by
  unfold State.dmaIssueLine
  dsimp only
  (repeat' split) <;> simp

@[simp ↓] theorem State.dmaPump_kept (s : State) (ch : Nat) : (s.dmaPump ch).kept = s.kept := by
  unfold State.dmaPump
  dsimp only
  split
  · rfl
  · split
    · rfl
    · rw [foldl_kept, foldl_kept, foldl_kept]
      · intro s i
        split
        · rfl
        · split <;> simp
      · intro s i
        split <;> simp
      · intro s i
        split
        · rfl
        · split
          · split
            · rfl
            · split <;> simp
          · rfl

/-! ### Moves -/

@[simp ↓] theorem State.putPool_kept (s : State) (g f : Nat) (e : PoolEntry) : (s.putPool g f e).kept = s.kept := by simp [State.putPool]

@[simp ↓] theorem State.takeAlcoves_kept (s : State) (g f hall start n : Nat) :
    (s.takeAlcoves g f hall start n).kept = s.kept := by simp [State.takeAlcoves]

@[simp ↓] theorem State.freeAlcoves_kept (s : State) (g f start n : Nat) :
    (s.freeAlcoves g f start n).kept = s.kept := by simp [State.freeAlcoves]

@[simp ↓] theorem State.dropMoveAccesses_kept (s : State) (g id : Nat) : (s.dropMoveAccesses g id).kept = s.kept :=
  eachBelow_kept 12 _ s fun l s => State.modArb_kept s l _

@[simp ↓] theorem State.markIncomp_kept (s : State) (n p : Nat) : (s.markIncomp n p).kept = s.kept := by
  fun_cases State.markIncomp s n p <;> simp

@[simp ↓] theorem State.dropMove_kept (s : State) (g : Nat) (m : Move) : (s.dropMove g m).kept = s.kept := by simp [State.dropMove]

@[simp ↓] theorem State.stageMove_kept (s : State) (g : Nat) (m : Move) (i : Nat) (op : AccOp) (sp : Spot) (data : BitVec 512)
    (poison : Bool) :
    (s.stageMove g m i op sp data poison).kept = s.kept := by
  unfold State.stageMove
  split <;> simp

@[simp ↓] theorem State.encodeMove_kept (s : State) (g : Nat) (m : Move) : (s.encodeMove g m).kept = s.kept := by
  unfold State.encodeMove
  dsimp only
  (repeat' split) <;> simp

@[simp ↓] theorem State.writePromotion_kept (s : State) (g : Nat) (m : Move) : (s.writePromotion g m).kept = s.kept := by
  unfold State.writePromotion
  split <;> simp

@[simp ↓] theorem State.moveOn_kept (s : State) (g id : Nat) : (s.moveOn g id).kept = s.kept := by
  fun_cases State.moveOn s g id <;> simp

@[simp ↓] theorem State.movePump_kept (s : State) : (s.movePump).kept = s.kept := by simp [State.movePump]

@[simp ↓] theorem State.tagLossStep_kept (s : State) (g : Nat) (e : LostTag) : (s.tagLossStep g e).kept = s.kept := by
  unfold State.tagLossStep
  dsimp only
  (repeat' split) <;> simp

@[simp ↓] theorem State.tagLosses_kept (s : State) : (s.tagLosses).kept = s.kept := by simp [State.tagLosses]
@[simp ↓] theorem State.pump_kept (s : State) : (s.pump).kept = s.kept := by simp [State.pump]

/-! ### Decoder -/

@[simp ↓] theorem State.eccLog_kept (s : State) (l : Nat) (c : Coord) (kind mask : Nat) (scrub : Bool) :
    (s.eccLog l c kind mask scrub).kept = s.kept := by simp [State.eccLog]

@[simp ↓] theorem State.countDevice_kept (s : State) (l : Nat) (c : Coord) (d : Nat) :
    (s.countDevice l c d).kept = s.kept := by simp [State.countDevice]

@[simp ↓] theorem State.eccCount_kept (s : State) (l : Nat) (a : Access) (o : EccOutcome) (errs : List Nat) :
    (s.eccCount l a o errs).kept = s.kept := by
  unfold State.eccCount
  dsimp only
  (repeat' split) <;> simp

@[simp ↓] theorem State.declareOn_kept (s : State) (l sub rank d : Nat) :
    (s.declareOn l sub rank d).kept = s.kept := by simp [State.declareOn]

@[simp ↓] theorem State.declare_kept (s : State) (l sub rank d : Nat) : (s.declare l sub rank d).kept = s.kept := by simp [State.declare]

@[simp ↓] theorem State.poisonCovered_kept (s : State) (lpa : Nat) (stamp : BitVec 32) : (s.poisonCovered lpa stamp).kept = s.kept := by
  unfold State.poisonCovered
  split
  · rfl
  · simp only [State.modGal_kept, State.insertMeta_kept]
    refine foldl_fst_kept (fun acc e => ?_) _ _
    split
    · rfl
    · split
      · rfl
      · split <;> simp

@[simp ↓] theorem State.loseTagLine_kept (s : State) (lpa : Nat) (stamp : BitVec 32) :
    (s.loseTagLine lpa stamp).kept = s.kept := by simp [State.loseTagLine]

@[simp ↓] theorem State.losePageMap_kept (s : State) (lpa n i : Nat) (stamp : BitVec 32) : (s.losePageMap lpa n i stamp).kept = s.kept := by
  unfold State.losePageMap
  split <;> simp

@[simp ↓] theorem State.resetHeat_kept (s : State) (lpa h : Nat) (stamp : BitVec 32) :
    (s.resetHeat lpa h stamp).kept = s.kept := by simp [State.resetHeat]

@[simp ↓] theorem State.losePoolMap_kept (s : State) (lpa j : Nat) : (s.losePoolMap lpa j).kept = s.kept := by simp [State.losePoolMap]

@[simp ↓] theorem State.loseMeta_kept (s : State) (l addr : Nat) (stamp : BitVec 32) : (s.loseMeta l addr stamp).kept = s.kept := by
  fun_cases State.loseMeta s l addr stamp <;> simp

@[simp ↓] theorem State.scrubbed_kept (s : State) (l : Nat) (a : Access) (o : EccOutcome) (stored : BitVec 512) :
    (s.scrubbed l a o stored).kept = s.kept := by
  unfold State.scrubbed
  dsimp only
  (repeat' split) <;> simp

@[simp ↓] theorem State.readFails_kept (s : State) (l : Nat) (a : Access) : (s.readFails l a).kept = s.kept := by
  unfold State.readFails
  dsimp only
  split <;> simp

@[simp ↓] theorem State.pprLine_kept (s : State) (l : Nat) (a : Access) (o : EccOutcome) (stored : BitVec 512) :
    (s.pprLine l a o stored).kept = s.kept := by
  unfold State.pprLine
  dsimp only
  split <;> simp

@[simp ↓] theorem State.settle_kept (s : State) (l : Nat) (a : Access) (o : EccOutcome) (stored : BitVec 512) :
    (s.settle l a o stored).kept = s.kept := by
  unfold State.settle
  dsimp only
  (repeat' split) <;> simp

@[simp ↓] theorem State.decodeBurst_kept (s : State) (l : Nat) (a : Access) (burst : BitVec 640) :
    (s.decodeBurst l a burst).kept = s.kept := by simp [State.decodeBurst]

/-! ### Check -/

@[simp ↓] theorem State.integrityFail_kept (s : State) (l : Nat) (a : Access) (corrected : Bool) :
    (s.integrityFail l a corrected).kept = s.kept := by simp [State.integrityFail]

@[simp ↓] theorem State.abandonPage_kept (s : State) (n p : Nat) : (s.abandonPage n p).kept = s.kept := by simp [State.abandonPage]

@[simp ↓] theorem State.pageWritten_kept (s : State) (n p : Nat) : (s.pageWritten n p).kept = s.kept := by
  fun_cases State.pageWritten s n p <;> simp

@[simp ↓] theorem State.staleSegs_kept (s : State) (l addr : Nat) : (s.staleSegs l addr).kept = s.kept := by
  fun_cases State.staleSegs s l addr <;> simp

@[simp ↓] theorem State.writeAdmitted_kept (s : State) (l : Nat) (a : Access) : (s.writeAdmitted l a).kept = s.kept := by
  unfold State.writeAdmitted
  split <;> simp

@[simp ↓] theorem State.closeIf_kept (s : State) (a : Access) : (s.closeIf a).kept = s.kept := by
  fun_cases State.closeIf s a <;> simp

@[simp ↓] theorem State.mergeRmw_kept (s : State) (l : Nat) (a : Access) (h : Hall) (plain : BitVec 512) :
    (s.mergeRmw l a h plain).kept = s.kept := by simp [State.mergeRmw]

@[simp ↓] theorem State.release_kept (s : State) (l : Nat) (a : Access) (h : Option Hall) (stored : BitVec 512) :
    (s.release l a h stored).kept = s.kept := by
  unfold State.release
  split <;> simp

@[simp ↓] theorem State.checkLine_kept (s : State) (l : Nat) (a : Access) (stored : BitVec 512) (corrected : Bool) :
    (s.checkLine l a stored corrected).kept = s.kept := by
  fun_cases State.checkLine s l a stored corrected <;> simp

@[simp ↓] theorem State.fillMeta_kept (s : State) (g : Nat) (k : MetaKind) (lpa : Nat) : (s.fillMeta g k lpa).kept = s.kept := by
  unfold State.fillMeta
  extract_lets l
  split
  · rfl
  · rw [foldl_kept]
    · simp
    · intro s e
      split <;> simp

@[simp ↓] theorem State.startFetch_kept (s : State) (g : Nat) (k : MetaKind) : (s.startFetch g k).kept = s.kept := by
  unfold State.startFetch
  dsimp only
  split
  · simp
  · split <;> simp

@[simp ↓] theorem State.zeroTags_kept (s : State) (n : Nat) (h : Hall) (region low : Nat) :
    (s.zeroTags n h region low).kept = s.kept := by simp [State.zeroTags]

@[simp ↓] theorem execLineDecode_keeps (l : LandingId) (id : Nat) (burst : BitVec 640) (s : State) :
    Keeps s (execLineDecode l id burst s) := by
  unfold execLineDecode
  split <;> simp

@[simp ↓] theorem execTagCheck_keeps (l : LandingId) (id : Nat) (s : State) : Keeps s (execTagCheck l id s) := by
  fun_cases execTagCheck l id s <;> simp

@[simp ↓] theorem execHaltDrainTimeout_keeps (l : LandingId) (s : State) :
    Keeps s (execHaltDrainTimeout l s) := by simp [execHaltDrainTimeout]

@[simp ↓] theorem execTagLineFill_keeps (g : GalleryId) (k : MetaKind) (lpa : Nat) (s : State) :
    Keeps s (execTagLineFill g k lpa s) := by simp [execTagLineFill]

@[simp ↓] theorem execTagFetchStart_keeps (g : GalleryId) (k : MetaKind) (s : State) :
    Keeps s (execTagFetchStart g k s) := by simp [execTagFetchStart]

@[simp ↓] theorem execAheadZeroingDone_keeps (h : HallId) (region : Nat) (s : State) : Keeps s (execAheadZeroingDone h region s) := by
  unfold execAheadZeroingDone
  split <;> simp

@[simp ↓] theorem execAheadEntryFree_keeps (h : HallId) (region : Nat) (s : State) : Keeps s (execAheadEntryFree h region s) := by
  fun_cases execAheadEntryFree h region s <;> simp

/-! ### Arbiter -/

@[simp ↓] theorem State.admitWrite_kept (s : State) (l : Nat) (a : Access) : (s.admitWrite l a).kept = s.kept := by simp [State.admitWrite]

@[simp ↓] theorem State.admitRead_kept (s : State) (l : Nat) (a : Access) : (s.admitRead l a).kept = s.kept := by
  fun_cases State.admitRead s l a <;> simp

@[simp ↓] theorem State.admitRmw_kept (s : State) (l : Nat) (a : Access) : (s.admitRmw l a).kept = s.kept := by
  unfold State.admitRmw
  split <;> simp

@[simp ↓] theorem State.admitLine_kept (s : State) (l : Nat) (a : Access) : (s.admitLine l a).kept = s.kept := by
  unfold State.admitLine
  dsimp only
  (repeat' split) <;> simp

@[simp ↓] theorem State.readmit_kept (s : State) (l : Nat) : (s.readmit l).kept = s.kept := by simp [State.readmit]
@[simp ↓] theorem State.admitHint_kept (s : State) (l : Nat) (a : Access) : (s.admitHint l a).kept = s.kept := by simp [State.admitHint]

@[simp ↓] theorem State.admitGranted_kept (s : State) (l : Nat) (a : Access) : (s.admitGranted l a).kept = s.kept := by
  fun_cases State.admitGranted s l a <;> simp

@[simp ↓] theorem State.grant_kept (s : State) (l : Nat) (a : Access) : (s.grant l a).kept = s.kept := by simp [State.grant]
@[simp ↓] theorem State.loses_kept (s : State) (l : Nat) (a : Access) : (s.loses l a).kept = s.kept := by simp [State.loses]

@[simp ↓] theorem State.chooseWinner_kept (s : State) (l : Nat) : (s.chooseWinner l).kept = s.kept := by
  unfold State.chooseWinner
  dsimp only
  split <;> simp

@[simp ↓] theorem State.arbitrate_kept (s : State) (l : Nat) : (s.arbitrate l).kept = s.kept := by
  unfold State.arbitrate
  dsimp only
  split
  · simp
  · split <;> simp

@[simp ↓] theorem State.stageZero_kept (s : State) (n : Nat) (h : Hall) (off : Nat) (stamp : BitVec 32) :
    (s.stageZero n h off stamp).kept = s.kept := by
  unfold State.stageZero
  dsimp only
  split <;> simp

@[simp ↓] theorem State.zeroMeta_kept (s : State) (l n : Nat) (h : Hall) (slot : Nat) : (s.zeroMeta l n h slot).kept = s.kept := by
  unfold State.zeroMeta
  dsimp only
  split <;> simp

@[simp ↓] theorem State.zeroNext_kept (s : State) (l n : Nat) : (s.zeroNext l n).kept = s.kept := by
  unfold State.zeroNext
  dsimp only
  (repeat' split) <;> simp

@[simp ↓] theorem State.expireLock_kept (s : State) (l : Nat) : (s.expireLock l).kept = s.kept := by
  unfold State.expireLock
  dsimp only
  (repeat' split) <;> simp

@[simp ↓] theorem State.lockTread_kept (s : State) (l : Nat) : (s.lockTread l).kept = s.kept := by
  unfold State.lockTread
  split <;> simp

@[simp ↓] theorem execBackoffExpiry_keeps (l : LandingId) (r : RequesterId) (s : State) :
    Keeps s (execBackoffExpiry l r s) := by simp [execBackoffExpiry]

@[simp ↓] theorem execStarvation_keeps (l : LandingId) (r : RequesterId) (s : State) : Keeps s (execStarvation l r s) := by
  unfold execStarvation
  dsimp only
  split <;> simp

@[simp ↓] theorem execLockExpiry_keeps (l : LandingId) (s : State) : Keeps s (execLockExpiry l s) := by
  fun_cases execLockExpiry l s <;> simp

@[simp ↓] theorem execInitZeroWrite_keeps (l : LandingId) (h : HallId) (s : State) :
    Keeps s (execInitZeroWrite l h s) := by simp [execInitZeroWrite]

@[simp ↓] theorem State.clrLongest_kept (s : State) (l : Nat) : (s.clrLongest l).kept = s.kept := by simp [State.clrLongest]

/-! ### Gate -/

@[simp ↓] theorem State.writeGate_kept (s : State) (a : Nat) (strb : BitVec 4) (f : State → State) (h : (f s).kept = s.kept) :
    (s.writeGate a strb f).kept = s.kept := by simp [State.writeGate, h]

/-- A CFG write rewrites what its effect rewrites. -/
theorem State.writeGate_rewrites (s : State) (a : Nat) (strb : BitVec 4) (f : State → State) (h : Rewrites s (f s)) :
    Rewrites s (s.writeGate a strb f) := by
  unfold State.writeGate
  split_ifs
  · exact .of_kept (by simp)
  · exact .of_kept (by simp)
  · exact .of_kept (by simp)
  · exact h.then_kept (by simp)

@[simp ↓] theorem State.readGate_kept (s : State) (a : Nat) (strb : BitVec 4) (f : State → W32 × State) (h : (f s).2.kept = s.kept) :
    (s.readGate a strb f).kept = s.kept := by simp [State.readGate, h]

@[simp ↓] theorem State.cfgRequest_kept (s : State) (r : CfgReq) (f : State → State) (h : (f s).kept = s.kept) :
    (s.cfgRequest r f).kept = s.kept := by simp [State.cfgRequest, h]

@[simp ↓] theorem State.cfgWrite_kept (s : State) (a : Nat) (w : CfgWord) (f : State → State) (h : (f s).kept = s.kept) :
    (s.cfgWrite a w f).kept = s.kept := by simp [State.cfgWrite, h]

@[simp ↓] theorem State.cfgRead_kept (s : State) (a : Nat) (strb : BitVec 4) (f : State → State) (h : (f s).kept = s.kept) :
    (s.cfgRead a strb f).kept = s.kept := by simp [State.cfgRead, h]

/-! ### Pins -/

@[simp ↓] theorem State.levelReport_kept (s : State) (r : Rep) (f : Option Fence) :
    (s.levelReport r f).kept = s.kept := by simp [State.levelReport]

@[simp ↓] theorem execThermNAssert_keeps (s : State) : Keeps s (execThermNAssert s) := by simp [execThermNAssert]
@[simp ↓] theorem execThermNRelease_keeps (s : State) : Keeps s (execThermNRelease s) := by simp [execThermNRelease]
@[simp ↓] theorem execPwrGoodFall_keeps (s : State) : Keeps s (execPwrGoodFall s) := by simp [execPwrGoodFall]

@[simp ↓] theorem State.pgFall_kept (s : State) (pin : PgPin) : (s.pgFall pin).kept = s.kept := by
  have pg : ∀ c : Chip, (c.setPg pin false).variant = c.variant ∧ (c.setPg pin false).cycle = c.cycle := by
    intro c
    cases pin <;> exact ⟨rfl, rfl⟩
  unfold State.pgFall
  split <;> simp [pg]

@[simp ↓] theorem execPgInputFall_keeps (pin : PgPin) (s : State) : Keeps s (execPgInputFall pin s) := by simp [execPgInputFall]

theorem Chip.setPg_variant (c : Chip) (pin : PgPin) (b : Bool) : (c.setPg pin b).variant = c.variant := by cases pin <;> rfl
theorem Chip.setPg_cycle (c : Chip) (pin : PgPin) (b : Bool) : (c.setPg pin b).cycle = c.cycle := by cases pin <;> rfl

/-- With the always-on domain awake the rise of a rail leaves the clock alone (R47, R65). -/
theorem execPgInputRise_keeps (pin : PgPin) (s : State) (h : s.awake = true) : Keeps s (execPgInputRise pin s) := by
  unfold execPgInputRise
  rw [h]
  cases pin <;> simp [Chip.setPg_variant, Chip.setPg_cycle]

theorem execPgInputRise_follows (pin : PgPin) (s : State) : ∃ t, execPgInputRise pin s = .next t ∧ Follows s t := by
  cases h : s.awake with
  | true => exact (execPgInputRise_keeps pin s h).imp fun t ht => ⟨ht.1, (Rewrites.of_kept ht.2).toFollows⟩
  | false =>
    unfold execPgInputRise
    rw [h]
    refine ⟨_, rfl, { pending := rfl, variant := ?_, desc := id }⟩
    simp only [State.modChip]
    split
    · exact Chip.setPg_variant _ _ _
    · exact Chip.setPg_variant _ _ _

@[simp ↓] theorem execRefclkStop_keeps (s : State) : Keeps s (execRefclkStop s) := by simp [execRefclkStop]
@[simp ↓] theorem execAliveToggle_keeps (s : State) : Keeps s (execAliveToggle s) := by simp [execAliveToggle]
@[simp ↓] theorem execStatus1PulseEnd_keeps (s : State) : Keeps s (execStatus1PulseEnd s) := by simp [execStatus1PulseEnd]

/-! ### Store -/

@[simp ↓] theorem State.commitStore_kept (s : State) (checkOk : Bool) : (s.commitStore checkOk).kept = s.kept := by simp [State.commitStore]
@[simp ↓] theorem State.applyDrops_kept (s : State) : (s.applyDrops).kept = s.kept := by simp [State.applyDrops]

@[simp ↓] theorem State.answerStore_kept (s was : State) (checkOk : Bool) :
    (s.answerStore was checkOk).kept = s.kept := by simp [State.answerStore]

@[simp ↓] theorem execRecordStoreCommit_keeps (checkOk : Bool) (s : State) :
    Keeps s (execRecordStoreCommit checkOk s) := by simp [execRecordStoreCommit]

/-! ### Resets -/

@[simp ↓] theorem State.dropUnacked_kept (s : State) (l : Nat) : (s.dropUnacked l).kept = s.kept := by simp [State.dropUnacked]

@[simp ↓] theorem State.warmLanding_kept (s : State) (l : Nat) : (s.warmLanding l).kept = s.kept := by
  fun_cases State.warmLanding s l <;> simp

@[simp ↓] theorem State.abandonTransition_kept (s : State) : (s.abandonTransition).kept = s.kept := by
  fun_cases State.abandonTransition s <;> simp

@[simp ↓] theorem State.warm_kept (s : State) : (s.warm).kept = s.kept := by simp [State.warm]
@[simp ↓] theorem State.loadImage_kept (s : State) (img : List Byte) : (s.loadImage img).kept = s.kept := by simp [State.loadImage]

@[simp ↓] theorem State.bootRom_kept (s : State) (f : FlashView) : (s.bootRom f).kept = s.kept := by
  fun_cases State.bootRom s f <;> simp

@[simp ↓] theorem State.openDbg_kept (s : State) : (s.openDbg).kept = s.kept := by simp [State.openDbg]

@[simp ↓] theorem State.restoreHalls_kept (s : State) : s.restoreHalls.kept = s.kept := by
  unfold State.restoreHalls
  split
  · rfl
  · exact foldl_kept (fun s r => by split <;> rfl) _ s

@[simp ↓] theorem State.askMapLine_kept (s : State) (n p : Nat) : (s.askMapLine n p).kept = s.kept := by
  unfold State.askMapLine
  split <;> simp

@[simp ↓] theorem State.rebuildPools_kept (s : State) : (s.rebuildPools).kept = s.kept := by simp [State.rebuildPools]

@[simp ↓] theorem State.restoreEpochs_kept (s : State) : s.restoreEpochs.kept = s.kept := by
  unfold State.restoreEpochs
  split
  · rfl
  · exact foldl_kept (fun s r => by split <;> rfl) _ s

@[simp ↓] theorem State.startFirmware_kept (s : State) (v : W32) (slot : Nat) :
    (s.startFirmware v slot).kept = s.kept := by simp [State.startFirmware]

@[simp ↓] theorem State.takeChunk_kept (s : State) : (s.takeChunk).kept = s.kept := by simp [State.takeChunk]
@[simp ↓] theorem State.bootGo_kept (s : State) : (s.bootGo).kept = s.kept := by simp [State.bootGo]

theorem execColdReset_follows (s : State) : ∃ t, execColdReset s = .next t ∧ Follows s t :=
  ⟨s.cold, rfl, { pending := rfl, variant := rfl, desc := fun _ => rfl }⟩

theorem execPowerOnSequence_follows (bootsel : Bool) (hash : BitVec 384) (s : State) :
    ∃ t, execPowerOnSequence bootsel hash s = .next t ∧ Follows s t := by
  unfold execPowerOnSequence
  dsimp only
  split
  · refine ⟨_, rfl, { pending := rfl, variant := ?_, desc := id }⟩
    simp only [State.modChip]
    split <;> rfl
  · exact ⟨s, rfl, (Rewrites.of_kept rfl).toFollows⟩

@[simp ↓] theorem execWarmReset_keeps (s : State) : Keeps s (execWarmReset s) := by simp [execWarmReset]

theorem execWarmResetEnd_follows (s : State) : ∃ t, execWarmResetEnd s = .next t ∧ Follows s t := by
  unfold execWarmResetEnd
  split
  · exact ⟨s.warmEnd, rfl, { pending := rfl, variant := rfl, desc := id }⟩
  · exact ⟨s, rfl, (Rewrites.of_kept rfl).toFollows⟩

@[simp ↓] theorem execWarmResetDrainTimeout_keeps (l : LandingId) (s : State) :
    Keeps s (execWarmResetDrainTimeout l s) := by simp [execWarmResetDrainTimeout]

@[simp ↓] theorem execBoot_keeps (f : FlashView) (s : State) : Keeps s (execBoot f s) := by simp [execBoot]

@[simp ↓] theorem execFirmwareStart_keeps (s : State) : Keeps s (execFirmwareStart s) := by
  fun_cases execFirmwareStart s <;> simp

@[simp ↓] theorem execBootChunk_keeps (s : State) : Keeps s (execBootChunk s) := by simp [execBootChunk]
@[simp ↓] theorem execBootGo_keeps (s : State) : Keeps s (execBootGo s) := by simp [execBootGo]
@[simp ↓] theorem execWatchdogExpiry_keeps (s : State) : Keeps s (execWatchdogExpiry s) := by simp [execWatchdogExpiry]

/-! ### Timing -/

@[simp ↓] theorem State.issueOwn_kept (s : State) (l : Nat) (w : Want) : (s.issueOwn l w).kept = s.kept := by simp [State.issueOwn]

/-! ### Power -/

@[simp ↓] theorem State.stopDma_kept (s : State) : (s.stopDma).kept = s.kept := by simp [State.stopDma]
@[simp ↓] theorem State.drainLanding_kept (s : State) (l : Nat) : (s.drainLanding l).kept = s.kept := by simp [State.drainLanding]
@[simp ↓] theorem State.closeRank_kept (s : State) (l : Nat) (e : Nat × Nat) : (s.closeRank l e).kept = s.kept := by simp [State.closeRank]
@[simp ↓] theorem State.gateLanding_kept (s : State) (l : Nat) : (s.gateLanding l).kept = s.kept := by simp [State.gateLanding]

@[simp ↓] theorem State.pwrAdvance_kept (s : State) : (s.pwrAdvance).kept = s.kept := by
  unfold State.pwrAdvance
  split <;> simp

theorem State.enterP3_kept (s : State) :
    s.enterP3.kept = { s.kept with desc := writeBytes [] 0 ((Config.lostBytes s.chip.free).take 131072) } := by
  have h := State.dropStall_kept s
  injection h with pending variant cycle _
  simp only [State.kept, State.enterP3, State.modChip, State.modPwr, pending, variant, cycle]

@[simp ↓] theorem State.enterP4_kept (s : State) : s.enterP4.kept = s.kept := by
  have h : ∀ s : State, ({ s with
    chip := { s.chip with coreOn := false, cpOn := false, pwrEn := false, drstN := Vector.replicate 12 false
                          galOn := Vector.replicate 3 false, phyOn := Vector.replicate 12 false, alive := false }
    ports := s.ports.map fun _ => Port.reset
    cfg := { s.cfg with stalled := none, queue := [] } } : State).kept = s.kept := fun _ => rfl
  unfold State.enterP4
  simp [h]

@[simp ↓] theorem State.wakeDomains_kept (s : State) : (s.wakeDomains).kept = s.kept := by
  unfold State.wakeDomains
  dsimp only
  split
  · split <;> simp
  · simp

@[simp ↓] theorem State.beginTransition_kept (s : State) (target : PState) (began src : Nat) :
    (s.beginTransition target began src).kept = s.kept := by simp [State.beginTransition]

@[simp ↓] theorem State.startPending_kept (s : State) : (s.startPending).kept = s.kept := by
  unfold State.startPending
  split <;> simp

@[simp ↓] theorem State.powerRequest_kept (s : State) (target : PState) (src : Nat) : (s.powerRequest target src).kept = s.kept := by
  unfold State.powerRequest
  dsimp only
  (repeat' split) <;> simp

@[simp ↓] theorem State.reached_kept (s : State) (t : Transition) : (s.reached t).kept = s.kept := by simp [State.reached]
@[simp ↓] theorem State.pllsOff_kept (s : State) : (s.pllsOff).kept = s.kept := by simp [State.pllsOff]

theorem State.entryDone_rewrites (s : State) (t : Transition) : Rewrites s (s.entryDone t) := by
  unfold State.entryDone
  split
  · exact .of_kept rfl
  · split
    · exact .of_kept (by simp)
    · have off : Rewrites s s.pllsOff := .of_kept (by simp)
      dsimp only
      split
      · split
        · have p3 : Rewrites s.pllsOff s.pllsOff.enterP3 := .of_desc (State.enterP3_kept _) fun _ => writeBytes_wf _ _ rfl
          exact (off.trans p3).then_kept (by simp)
        · exact off
      · split <;> exact off.then_kept (by simp)

@[simp ↓] theorem State.wakeFrom_kept (s : State) (src : Nat) : (s.wakeFrom src).kept = s.kept := by simp [State.wakeFrom]
@[simp ↓] theorem State.restartGrids_kept (s : State) (l t : Nat) : (s.restartGrids l t).kept = s.kept := by simp [State.restartGrids]
@[simp ↓] theorem State.leaveSr_kept (s : State) (l : Nat) : (s.leaveSr l).kept = s.kept := by simp [State.leaveSr]
@[simp ↓] theorem State.askWakeCal_kept (s : State) (l : Nat) : (s.askWakeCal l).kept = s.kept := by simp [State.askWakeCal]

@[simp ↓] theorem State.awakeAgain_kept (s : State) (t : Transition) : (s.awakeAgain t).kept = s.kept := by
  unfold State.awakeAgain
  split <;> simp

@[simp ↓] theorem State.dropImage_kept (s : State) : (s.dropImage).kept = s.kept := by simp [State.dropImage]
@[simp ↓] theorem State.askStop_kept (s : State) (target : PState) (u : Nat) : (s.askStop target u).kept = s.kept := by simp [State.askStop]
@[simp ↓] theorem State.setTrans_kept (s : State) (t : Transition) : (s.setTrans t).kept = s.kept := by simp [State.setTrans]

@[simp ↓] theorem State.refuseUnit_kept (s : State) (t : Transition) (u : Nat) :
    (s.refuseUnit t u).kept = s.kept := by simp [State.refuseUnit]

@[simp ↓] theorem State.askUnit_kept (s : State) (t : Transition) (u : Nat) : (s.askUnit t u).kept = s.kept := by
  unfold State.askUnit
  dsimp only
  split <;> simp

@[simp ↓] theorem State.restartUnit_kept (s : State) (t : Transition) (u : Nat) :
    (s.restartUnit t u).kept = s.kept := by simp [State.restartUnit]

@[simp ↓] theorem execPwrReq_keeps (w : CfgWord) (s : State) : Keeps s (execPwrReq w s) := by simp [execPwrReq]

theorem execPowerTransitionDone_rewrites (s : State) : ∃ t, execPowerTransitionDone s = .next t ∧ Rewrites s t := by
  have h : Rewrites s s.pwrAdvance := .of_kept (by simp)
  unfold execPowerTransitionDone
  dsimp only
  split
  · split
    · exact ⟨_, rfl, h.trans (State.entryDone_rewrites _ _)⟩
    · exact ⟨_, rfl, h⟩
  · exact ⟨_, rfl, h⟩

@[simp ↓] theorem execWake_keeps (src : WakeSource) (s : State) : Keeps s (execWake src s) := by simp [execWake]

@[simp ↓] theorem execWakeComplete_keeps (s : State) : Keeps s (execWakeComplete s) := by
  fun_cases execWakeComplete s <;> simp

@[simp ↓] theorem execPwrTimerExpiry_keeps (s : State) : Keeps s (execPwrTimerExpiry s) := by simp [execPwrTimerExpiry]
@[simp ↓] theorem execWakeNAssert_keeps (s : State) : Keeps s (execWakeNAssert s) := by simp [execWakeNAssert]

@[simp ↓] theorem execLegacyAsk_keeps (s : State) : Keeps s (execLegacyAsk s) := by
  unfold execLegacyAsk
  dsimp only
  split
  · split <;> simp
  · simp

@[simp ↓] theorem execLegacyRollbackRestart_keeps (s : State) : Keeps s (execLegacyRollbackRestart s) := by
  unfold execLegacyRollbackRestart
  dsimp only
  (repeat' split) <;> simp

/-! ### Tier -/

/-- As for `State.soundEntry_kept`. -/
@[simp ↓] theorem State.scanLines_kept (s : State) (g n : Nat) (h : Hall) (p : Nat) : (s.scanLines g n h p).kept = s.kept := by
  generalize hf : @State.scanLines = f
  delta State.scanLines at hf
  subst hf
  beta_reduce
  generalize h.mapLpa p = r
  obtain ⟨lpa, i⟩ := r
  dsimp only
  split <;> simp

/-- As for `State.soundEntry_kept`. -/
@[simp ↓] theorem State.startDemotion_kept (s : State) (g n p : Nat) : (s.startDemotion g n p).kept = s.kept := by
  have hs := State.soundEntry_kept
  generalize hf : @State.startDemotion = f
  delta State.startDemotion at hf
  subst hf
  beta_reduce
  generalize State.soundEntry = sound at hs ⊢
  obtain ⟨entry, next, rfl⟩ := halves_four sound
  dsimp only at hs ⊢
  split
  · rfl
  · split
    · rfl
    · split <;> simp [hs]

@[simp ↓] theorem State.freeOld_kept (s : State) (g : Nat) (e : PageEntry) : (s.freeOld g e).kept = s.kept := by simp [State.freeOld]
@[simp ↓] theorem State.endMove_kept (s : State) (g id : Nat) : (s.endMove g id).kept = s.kept := by simp [State.endMove]

/-- As for `State.soundEntry_kept`. -/
@[simp ↓] theorem State.moveEntry_kept (s : State) (h : Hall) (n p : Nat) (stamp : BitVec 32) :
    (s.moveEntry h n p stamp).2.kept = s.kept := by
  suffices SecondKeeps s (s.moveEntry h n p stamp) from this
  generalize hf : @State.moveEntry = f
  delta State.moveEntry at hf
  subst hf
  beta_reduce
  generalize h.mapLpa p = r
  obtain ⟨lpa, i⟩ := r
  dsimp only
  have hn := State.needMeta_kept s (metaGal lpa) .pageMap lpa (some n) stamp false 9
  generalize s.needMeta (metaGal lpa) .pageMap lpa (some n) stamp false 9 = r at hn ⊢
  exact (State.soundEntry_kept r.2 h n p).trans hn

/-- As for `State.soundEntry_kept`. -/
@[simp ↓] theorem State.switchDemotion_kept (s : State) (g : Nat) (m : Move) : (s.switchDemotion g m).kept = s.kept := by
  have hm := State.moveEntry_kept
  generalize hf : @State.switchDemotion = f
  delta State.switchDemotion at hf
  subst hf
  beta_reduce
  generalize State.moveEntry = move at hm ⊢
  obtain ⟨entry, next, rfl⟩ := halves_five move
  dsimp only at hm ⊢
  split
  · rfl
  · split <;> simp [hm]

theorem State.readPromotion_kept {s : State} {g : Nat} {m : Move} {h : Hall} {e : PageEntry} {t : State}
    (ht : s.readPromotion g m h e = some t) : t.kept = s.kept := by
  unfold State.readPromotion at ht
  split at ht
  · cases ht
    simp
  · refine foldl_bind_kept (fun u seg v hv => ?_) _ ht
    split at hv
    · cases hv
      simp
    · exact State.fetchSegment_kept hv

@[simp ↓] theorem State.refuseWaiting_kept (s : State) (n p : Nat) (st : Status) :
    (s.refuseWaiting n p st).kept = s.kept := by simp [State.refuseWaiting]

theorem State.promoTarget_kept {s : State} {g : Nat} {m m' : Move} {h : Hall} {t : State} (ht : s.promoTarget g m h = some (m', t)) :
    t.kept = s.kept := by
  unfold State.promoTarget at ht
  split at ht
  · cases ht
    rfl
  · split at ht
    · cases ht
    · cases ht
      simp

/-- As for `State.soundEntry_kept`. -/
@[simp ↓] theorem State.startPromotion_kept (s : State) (g n p : Nat) : (s.startPromotion g n p).kept = s.kept := by
  have hm := State.moveEntry_kept
  generalize hf : @State.startPromotion = f
  delta State.startPromotion at hf
  subst hf
  beta_reduce
  generalize State.moveEntry = move at hm ⊢
  obtain ⟨entry, next, rfl⟩ := halves_five move
  have hm : ∀ s h n p st, (next s h n p st).kept = s.kept := hm
  split
  · rfl
  · next h _ =>
    extract_lets stamps hot write
    split
    · rfl
    · split
      · rfl
      · split
        · rfl
        · dsimp only
          generalize entry _ _ _ _ _ = e
          generalize hx : next _ _ _ _ _ = u
          have hu : u.kept = s.kept := by rw [← hx, hm, State.modGal_kept]
          split
          · exact hu
          · split
            · exact hu
            · split
              · exact hu
              · split
                · simp [hu]
                · next m t ht =>
                  have kt : t.kept = s.kept := (State.promoTarget_kept ht).trans (by simp [hu])
                  split
                  · next v hv =>
                    rw [State.readPromotion_kept hv]
                    simp [kt]
                  · simp [hu]

@[simp ↓] theorem State.relockPage_kept (s : State) (n p : Nat) (place : Nat → Spot) :
    (s.relockPage n p place).kept = s.kept := by simp [State.relockPage]

/-- As for `State.soundEntry_kept`. -/
@[simp ↓] theorem State.switchPromotion_kept (s : State) (g : Nat) (m : Move) : (s.switchPromotion g m).kept = s.kept := by
  have hm := State.moveEntry_kept
  generalize hf : @State.switchPromotion = f
  delta State.switchPromotion at hf
  subst hf
  beta_reduce
  generalize State.moveEntry = move at hm ⊢
  obtain ⟨entry, next, rfl⟩ := halves_five move
  dsimp only at hm ⊢
  split
  · rfl
  · split <;> simp [hm]

@[simp ↓] theorem State.unback_kept (s : State) (n group : Nat) : (s.unback n group).kept = s.kept := by
  unfold State.unback
  split <;> simp

@[simp ↓] theorem State.bufferSegment_kept (s : State) (g : Nat) (f : SegFetch) (bytes : List Byte) :
    (s.bufferSegment g f bytes).kept = s.kept := by simp [State.bufferSegment]

@[simp ↓] theorem State.segToMove_kept (s : State) (g : Nat) (f : SegFetch) (bytes : Option (List Byte)) :
    (s.segToMove g f bytes).kept = s.kept := by
  fun_cases State.segToMove s g f bytes <;> simp

@[simp ↓] theorem State.poisonSegment_kept (s : State) (g : Nat) (f : SegFetch) : (s.poisonSegment g f).kept = s.kept := by
  fun_cases State.poisonSegment s g f <;> simp

@[simp ↓] theorem State.segFails_kept (s : State) (g : Nat) (f : SegFetch) (kind : Option Nat) : (s.segFails g f kind).kept = s.kept := by
  unfold State.segFails
  split <;> simp

@[simp ↓] theorem State.decodeSegment_kept (s : State) (g : Nat) (f : SegFetch) : (s.decodeSegment g f).kept = s.kept := by
  unfold State.decodeSegment
  dsimp only
  (repeat' split) <;> simp

@[simp ↓] theorem execTierDemotionStart_keeps (g : GalleryId) (h : HallId) (page : Nat) (s : State) :
    Keeps s (execTierDemotionStart g h page s) := by simp [execTierDemotionStart]

@[simp ↓] theorem execTierDemotionSwitch_keeps (g : GalleryId) (move : Nat) (s : State) : Keeps s (execTierDemotionSwitch g move s) := by
  fun_cases execTierDemotionSwitch g move s <;> simp

@[simp ↓] theorem execTierPromotionStart_keeps (g : GalleryId) (h : HallId) (page : Nat) (s : State) :
    Keeps s (execTierPromotionStart g h page s) := by simp [execTierPromotionStart]

@[simp ↓] theorem execTierPromotionSwitch_keeps (g : GalleryId) (move : Nat) (s : State) : Keeps s (execTierPromotionSwitch g move s) := by
  fun_cases execTierPromotionSwitch g move s <;> simp

@[simp ↓] theorem execTierUnback_keeps (h : HallId) (group : Nat) (s : State) : Keeps s (execTierUnback h group s) := by
  fun_cases execTierUnback h group s <;> simp

@[simp ↓] theorem execSegmentDecode_keeps (g : GalleryId) (fetch : Nat) (s : State) : Keeps s (execSegmentDecode g fetch s) := by
  fun_cases execSegmentDecode g fetch s <;> simp

/-! ### Tread -/

@[simp ↓] theorem State.counterStep_kept (s : State) (g : Nat) : (s.counterStep g).kept = s.kept := by simp [State.counterStep]
@[simp ↓] theorem State.convert_kept (s : State) (l : Nat) : (s.convert l).kept = s.kept := by simp [State.convert]
@[simp ↓] theorem State.breakOn_kept (s : State) (h : Nat) (c : Nat → Nat → Bool) : (s.breakOn h c).kept = s.kept := by simp [State.breakOn]
@[simp ↓] theorem State.dropWindow_kept (s : State) (num : Nat) : (s.dropWindow num).kept = s.kept := by simp [State.dropWindow]
@[simp ↓] theorem State.beginRelease_kept (s : State) (h : Nat) : (s.beginRelease h).kept = s.kept := by simp [State.beginRelease]

@[simp ↓] theorem State.applyDeferred_kept (s : State) (d : Deferred) : (s.applyDeferred d).kept = s.kept := by
  fun_cases State.applyDeferred s d <;> simp

@[simp ↓] theorem State.reserveStep_kept (s : State) (l : Nat) : (s.reserveStep l).kept = s.kept := by simp [State.reserveStep]
@[simp ↓] theorem State.idleStep_kept (s : State) (l : Nat) : (s.idleStep l).kept = s.kept := by simp [State.idleStep]
@[simp ↓] theorem State.debtStep_kept (s : State) (l : Nat) : (s.debtStep l).kept = s.kept := by simp [State.debtStep]
@[simp ↓] theorem State.mergeStep_kept (s : State) (l : Nat) : (s.mergeStep l).kept = s.kept := by simp [State.mergeStep]

@[simp ↓] theorem State.loadStaged_kept (s : State) (l : Nat) : (s.loadStaged l).kept = s.kept := by
  unfold State.loadStaged
  split <;> simp

@[simp ↓] theorem State.startScrub_kept (s : State) (l : Nat) : (s.startScrub l).kept = s.kept := by simp [State.startScrub]
@[simp ↓] theorem State.scrubSwitch_kept (s : State) (l : Nat) : (s.scrubSwitch l).kept = s.kept := by simp [State.scrubSwitch]
@[simp ↓] theorem State.scrubSpent_kept (s : State) (l : Nat) : (s.scrubSpent l).kept = s.kept := by simp [State.scrubSpent]

@[simp ↓] theorem State.endRetry_kept (s : State) (l : Nat) : (s.endRetry l).kept = s.kept := by
  fun_cases State.endRetry s l <;> simp

@[simp ↓] theorem State.landStep_kept (s : State) (l : Nat) : (s.landStep l).kept = s.kept := by simp [State.landStep]
@[simp ↓] theorem State.zoneStep_kept (s : State) (g : Nat) : (s.zoneStep g).kept = s.kept := by simp [State.zoneStep]
@[simp ↓] theorem State.mergeHeat_kept (s : State) : (s.mergeHeat).kept = s.kept := by simp [State.mergeHeat]

@[simp ↓] theorem State.countSwitches_kept (s : State) (l : Nat) : (s.countSwitches l).kept = s.kept :=
  foldl_kept (fun s c => by dsimp only; split <;> simp) _ s

@[simp ↓] theorem State.boundary_kept (s : State) : (s.boundary).kept = s.kept := by simp [State.boundary]
@[simp ↓] theorem State.flightLanding_kept (s : State) (l : Nat) : (s.flightLanding l).kept = s.kept := by simp [State.flightLanding]
@[simp ↓] theorem State.flightGallery_kept (s : State) (g : Nat) : (s.flightGallery g).kept = s.kept := by simp [State.flightGallery]
@[simp ↓] theorem State.flightBoundary_kept (s : State) : (s.flightBoundary).kept = s.kept := by simp [State.flightBoundary]
@[simp ↓] theorem execBlockFlightBoundary_keeps (s : State) : Keeps s (execBlockFlightBoundary s) := by simp [execBlockFlightBoundary]

/-! ### Plan -/

@[simp ↓] theorem State.record_kept (s : State) (l k n : Nat) (w : Want) (v : Served) :
    (s.record l k n w v).kept = s.kept := by simp [State.record]

@[simp ↓] theorem State.countAct_kept (s : State) (l : Nat) (w : Want) : (s.countAct l w).2.2.kept = s.kept := by
  unfold State.countAct
  dsimp only
  split <;> simp

@[simp ↓] theorem State.recordAct_kept (s : State) (l k n : Nat) (w : Want) (v : Served) :
    (s.recordAct l k n w v).kept = s.kept := by simp [State.recordAct]

@[simp ↓] theorem State.startRefresh_kept (s : State) (l sub rank : Nat) (emergency : Bool) :
    (s.startRefresh l sub rank emergency).kept = s.kept := by
  unfold State.startRefresh
  dsimp only
  split <;> simp

@[simp ↓] theorem State.startZq_kept (s : State) (l : Nat) : (s.startZq l).kept = s.kept := by simp [State.startZq]

@[simp ↓] theorem State.claimPlaced_kept (s : State) (l k : Nat) (emergency : Bool) (kind : ClaimKind) :
    (s.claimPlaced l k emergency kind).kept = s.kept := by
  fun_cases State.claimPlaced s l k emergency kind <;> simp

@[simp ↓] theorem State.noteWindow_kept (s : State) (l n : Nat) (a : Access) :
    (s.noteWindow l n a).kept = s.kept := by simp [State.noteWindow]

@[simp ↓] theorem State.placeClaim_kept (s : State) (l k n : Nat) (a : Access) (kind : ClaimKind) (w : Want) :
    (s.placeClaim l k n a kind w).kept = s.kept := by simp [State.placeClaim]

@[simp ↓] theorem State.addCost_kept (s : State) (l : Nat) (a : Access) (ck : Nat) :
    (s.addCost l a ck).kept = s.kept := by simp [State.addCost]

@[simp ↓] theorem State.faceBus_kept (s : State) (l sub : Nat) (dir : Bool) : (s.faceBus l sub dir).kept = s.kept := by simp [State.faceBus]

@[simp ↓] theorem State.scrubPlaced_kept (s : State) (l : Nat) (a : Access) :
    (s.scrubPlaced l a).kept = s.kept := by simp [State.scrubPlaced]

@[simp ↓] theorem State.placeCas_kept (s : State) (l k n : Nat) (x : Cand) : (s.placeCas l k n x).kept = s.kept := by
  unfold State.placeCas
  dsimp only
  split
  · split <;> simp
  · simp

@[simp ↓] theorem State.placeEntry_kept (s : State) (l k n from_ : Nat) (x : Cand) :
    (s.placeEntry l k n from_ x).kept = s.kept := by simp [State.placeEntry]

@[simp ↓] theorem State.chargeWaits_kept (s : State) (l lo hi : Nat) : (s.chargeWaits l lo hi).kept = s.kept := by simp [State.chargeWaits]

@[simp ↓] theorem State.turnAt_kept (s : State) (l sub : Nat) (entries now : List Cand) :
    (s.turnAt l sub entries now).kept = s.kept := by simp [State.turnAt]

@[simp ↓] theorem State.placeHint_kept (s : State) (l k n hi sub : Nat) : (s.placeHint l k n hi sub).kept = s.kept := by
  unfold State.placeHint
  dsimp only
  split <;> simp

@[simp ↓] theorem State.fillEdge_kept (s : State) (l n from_ hi k sub : Nat) : (s.fillEdge l n from_ hi k sub).kept = s.kept := by
  unfold State.fillEdge
  dsimp only
  (repeat' split) <;> simp

@[simp ↓] theorem State.quietUntil_kept (s : State) (l t : Nat) : (s.quietUntil l t).kept = s.kept := by simp [State.quietUntil]
@[simp ↓] theorem State.wholeClaims_kept (s : State) (l n : Nat) : (s.wholeClaims l n).kept = s.kept := by simp [State.wholeClaims]

@[simp ↓] theorem State.fetchTags_kept (s : State) (l : Nat) : (s.fetchTags l).kept = s.kept :=
  foldl_kept (fun s a => by split <;> simp) _ s

@[simp ↓] theorem State.closeWindow_kept (s : State) (l n : Nat) : (s.closeWindow l n).kept = s.kept := by simp [State.closeWindow]
@[simp ↓] theorem State.buildPlan_kept (s : State) (l n : Nat) : (s.buildPlan l n).kept = s.kept := by simp [State.buildPlan]

@[simp ↓] theorem State.placeUrgent_kept (s : State) (l k last limit : Nat) (a : Access) (fuel : Nat) :
    (s.placeUrgent l k last limit a fuel).kept = s.kept := by
  induction fuel generalizing s with
  | zero => rfl
  | succ fuel ih =>
    unfold State.placeUrgent
    split
    · rfl
    · extract_lets q ck free e
      split
      · rfl
      · split
        · rw [ih, State.unplaceAll_kept]
        · rename_i n t _ _ _
          rw [ih]
          simp only [t]
          split <;> simp

@[simp ↓] theorem State.placeEmergency_kept (s : State) (l : Nat) (a : Access) :
    (s.placeEmergency l a).kept = s.kept := by simp [State.placeEmergency]

@[simp ↓] theorem execTreadPlan_keeps (l : LandingId) (s : State) : Keeps s (execTreadPlan l s) := by simp [execTreadPlan]
@[simp ↓] theorem State.breakStep_kept (s : State) (l : Nat) : (s.breakStep l).kept = s.kept := by simp [State.breakStep]

@[simp ↓] theorem execArbDecision_keeps (l : LandingId) (s : State) : Keeps s (execArbDecision l s) := by
  unfold execArbDecision
  dsimp only
  split <;> simp

/-! ### Maint -/

@[simp ↓] theorem State.present_kept (s : State) (l : Nat) (k : ClaimKind) (stamp : BitVec 32) (emergency : Bool) :
    (s.present l k stamp emergency).kept = s.kept := by simp [State.present]

@[simp ↓] theorem State.urge_kept (s : State) (l : Nat) (p : ClaimKind → Bool) : (s.urge l p).kept = s.kept := by simp [State.urge]
@[simp ↓] theorem State.openWindow_kept (s : State) (l : Nat) : (s.openWindow l).kept = s.kept := by simp [State.openWindow]
@[simp ↓] theorem State.holdWindow_kept (s : State) (l ck : Nat) : (s.holdWindow l ck).kept = s.kept := by simp [State.holdWindow]

@[simp ↓] theorem State.modRef_kept (s : State) (l sub rank : Nat) (f : RefSched → RefSched) :
    (s.modRef l sub rank f).kept = s.kept := by simp [State.modRef]

@[simp ↓] theorem State.presentInstance_kept (s : State) (l sub rank : Nat) (r : RefSched) (emergency : Bool) :
    (s.presentInstance l sub rank r emergency).kept = s.kept := by simp [State.presentInstance]

@[simp ↓] theorem State.presentPartTwo_kept (s : State) (l sub rank at_ : Nat) (emergency : Bool) :
    (s.presentPartTwo l sub rank at_ emergency).kept = s.kept := by simp [State.presentPartTwo]

@[simp ↓] theorem State.presentRefresh_kept (s : State) (l sub rank : Nat) : (s.presentRefresh l sub rank).kept = s.kept := by
  fun_cases State.presentRefresh s l sub rank <;> simp

@[simp ↓] theorem State.presentPartsTwo_kept (s : State) (l : Nat) : (s.presentPartsTwo l).kept = s.kept := by
  unfold State.presentPartsTwo
  split
  · rfl
  · exact foldl_kept (fun s e => by split <;> simp) _ s

@[simp ↓] theorem State.placeUrged_kept (s : State) (l : Nat) (p : ClaimKind → Bool) :
    (s.placeUrged l p).kept = s.kept := by simp [State.placeUrged]

@[simp ↓] theorem State.refreshEmergency_kept (s : State) (l sub rank : Nat) : (s.refreshEmergency l sub rank).kept = s.kept := by
  unfold State.refreshEmergency
  dsimp only
  (repeat' split) <;> simp

@[simp ↓] theorem State.enterSr_kept (s : State) (l : Nat) (e : Nat × Nat) : (s.enterSr l e).kept = s.kept := by simp [State.enterSr]
@[simp ↓] theorem State.intoSelfRefresh_kept (s : State) (l : Nat) : (s.intoSelfRefresh l).kept = s.kept := by simp [State.intoSelfRefresh]
@[simp ↓] theorem State.presentRows_kept (s : State) (l : Nat) : (s.presentRows l).kept = s.kept := by simp [State.presentRows]
@[simp ↓] theorem State.presentZq_kept (s : State) (l : Nat) : (s.presentZq l).kept = s.kept := by simp [State.presentZq]

@[simp ↓] theorem State.presentLatch_kept (s : State) (l sub rank : Nat) : (s.presentLatch l sub rank).kept = s.kept := by
  fun_cases State.presentLatch s l sub rank <;> simp

@[simp ↓] theorem State.presentScrub_kept (s : State) (l : Nat) : (s.presentScrub l).kept = s.kept := by
  unfold State.presentScrub
  extract_lets m
  split
  · rfl
  · split
    · rfl
    · extract_lets want
      generalize s.scrubLines l _ _ _ _ _ _ = r
      obtain ⟨lines, pos, passes⟩ := r
      simp

@[simp ↓] theorem State.scrubDue_kept (s : State) (l : Nat) : (s.scrubDue l).kept = s.kept := by simp [State.scrubDue]

@[simp ↓] theorem State.presentCal_kept (s : State) (l : Nat) : (s.presentCal l).kept = s.kept := by
  fun_cases State.presentCal s l <;> simp

@[simp ↓] theorem State.noteLeft_kept (s : State) (l : Nat) : (s.noteLeft l).kept = s.kept := by simp [State.noteLeft]
@[simp ↓] theorem State.takeLeft_kept (s : State) (l : Nat) : (s.takeLeft l).kept = s.kept := by simp [State.takeLeft]

@[simp ↓] theorem State.maintenanceWindow_kept (s : State) (l : Nat) :
    (s.maintenanceWindow l).kept = s.kept := by simp [State.maintenanceWindow]

@[simp ↓] theorem State.ecsReadout_kept (s : State) (l due : Nat) (counts : List (Fin 2 × Fin 8 × Fin 10 × Nat × Nat)) :
    (s.ecsReadout l due counts).kept = s.kept := by simp [State.ecsReadout]

@[simp ↓] theorem State.halveLine_kept (s : State) (g h : Nat) : (s.halveLine g h).kept = s.kept := by
  unfold State.halveLine
  dsimp only
  split <;> simp

@[simp ↓] theorem State.heatDecay_kept (s : State) : s.heatDecay.kept = s.kept := by
  unfold State.heatDecay
  dsimp only
  rw [foldl_kept fun s i => eachBelow_kept _ _ s fun g s => by simp]
  simp

@[simp ↓] theorem execRefreshDue_keeps (l : LandingId) (sub : Fin 2) (rank : Fin 8) (s : State) :
    Keeps s (execRefreshDue l sub rank s) := by
  fun_cases execRefreshDue l sub rank s <;> simp

@[simp ↓] theorem execRefreshEmergency_keeps (l : LandingId) (sub : Fin 2) (rank : Fin 8) (s : State) :
    Keeps s (execRefreshEmergency l sub rank s) := by simp [execRefreshEmergency]

@[simp ↓] theorem execRefreshPartTwo_keeps (l : LandingId) (s : State) : Keeps s (execRefreshPartTwo l s) := by simp [execRefreshPartTwo]

@[simp ↓] theorem execMaintenanceWindow_keeps (l : LandingId) (s : State) :
    Keeps s (execMaintenanceWindow l s) := by simp [execMaintenanceWindow]

@[simp ↓] theorem execRfmOwed_keeps (l : LandingId) (sub : Fin 2) (rank bg : Fin 8) (bank : Fin 4) (s : State) :
    Keeps s (execRfmOwed l sub rank bg bank s) := by simp [execRfmOwed]

@[simp ↓] theorem execZqDue_keeps (l : LandingId) (s : State) : Keeps s (execZqDue l s) := by simp [execZqDue]

@[simp ↓] theorem execZqLatch_keeps (l : LandingId) (sub : Fin 2) (rank : Fin 8) (s : State) : Keeps s (execZqLatch l sub rank s) := by
  fun_cases execZqLatch l sub rank s <;> simp

@[simp ↓] theorem execScrubStepDue_keeps (l : LandingId) (s : State) : Keeps s (execScrubStepDue l s) := by simp [execScrubStepDue]
@[simp ↓] theorem execHeatDecayDue_keeps (s : State) : Keeps s (execHeatDecayDue s) := by simp [execHeatDecayDue]

@[simp ↓] theorem execEcsReadoutDue_keeps (l : LandingId) (counts : List (Fin 2 × Fin 8 × Fin 10 × Nat × Nat)) (s : State) :
    Keeps s (execEcsReadoutDue l counts s) := by simp [execEcsReadoutDue]

@[simp ↓] theorem execEccLeak_keeps (g : GalleryId) (s : State) : Keeps s (execEccLeak g s) := by simp [execEccLeak]

/-! ### Stringer -/

@[simp ↓] theorem State.strAccept_kept (s : State) (l zer full shape : Nat) :
    (s.strAccept l zer full shape).kept = s.kept := by simp [State.strAccept]

@[simp ↓] theorem State.strReject_kept (s : State) (l : Nat) : (s.strReject l).kept = s.kept := by simp [State.strReject]

@[simp ↓] theorem State.setZq_kept (s : State) (l : Nat) (pu pd : Int) (cls : Nat) :
    (s.setZq l pu pd cls).kept = s.kept := by simp [State.setZq]

@[simp ↓] theorem State.trackZq_kept (s : State) (l : Nat) (pu pd : Int) : (s.trackZq l pu pd).kept = s.kept := by simp [State.trackZq]
@[simp ↓] theorem execStringerDue_keeps (l : LandingId) (s : State) : Keeps s (execStringerDue l s) := by simp [execStringerDue]

@[simp ↓] theorem execStringerInstanceDone_keeps (l : LandingId) (zer full code : Nat) (pu pd : Int) (s : State) :
    Keeps s (execStringerInstanceDone l zer full code pu pd s) := by simp [execStringerInstanceDone]

@[simp ↓] theorem execStrSlewDone_keeps (l : LandingId) (s : State) : Keeps s (execStrSlewDone l s) := by simp [execStrSlewDone]

@[simp ↓] theorem execStringerAgeExpiry_keeps (l : LandingId) (s : State) :
    Keeps s (execStringerAgeExpiry l s) := by simp [execStringerAgeExpiry]

@[simp ↓] theorem execStringerFullMeasurementDone_keeps (l : LandingId) (zer full : Nat) (codes : List Nat) (s : State) :
    Keeps s (execStringerFullMeasurementDone l zer full codes s) := by simp [execStringerFullMeasurementDone]

/-! ### Modules -/

@[simp ↓] theorem State.loadTimed_kept (s : State) (l off : Nat) (w : W32) :
    (s.loadTimed l off w).kept = s.kept := by simp [State.loadTimed]

@[simp ↓] theorem State.populate_kept (s : State) (l rate : Nat) : (s.populate l rate).kept = s.kept := by simp [State.populate]

/-! ### CalRecord -/

@[simp ↓] theorem State.storeSnapshot_kept (s : State) (l sub : Nat) :
    (s.storeSnapshot l sub).kept = s.kept := by simp [State.storeSnapshot]

@[simp ↓] theorem State.sbdStart_kept (s : State) (bus : Nat) : (s.sbdStart bus).kept = s.kept := by
  fun_cases State.sbdStart s bus <;> simp

@[simp ↓] theorem State.sbdAsk_kept (s : State) (j : SbdJob) : (s.sbdAsk j).kept = s.kept := by simp [State.sbdAsk]

@[simp ↓] theorem State.writeHints_kept (s : State) (l : Nat) : (s.writeHints l).kept = s.kept :=
  eachBelow_kept 2 _ s fun slot s => by split <;> simp

/-! ### Training -/

@[simp ↓] theorem State.probeLanding_kept (s : State) (found : List FoundModule) (l : Nat) :
    (s.probeLanding found l).kept = s.kept := by simp [State.probeLanding]

@[simp ↓] theorem State.probeDomains_kept (s : State) (found : List FoundModule) :
    (s.probeDomains found).kept = s.kept := by simp [State.probeDomains]

@[simp ↓] theorem State.refuseLanding_kept (s : State) (l code : Nat) :
    (s.refuseLanding l code).kept = s.kept := by simp [State.refuseLanding]

@[simp ↓] theorem State.chooseRate_kept (s : State) (g cap : Nat) : (s.chooseRate g cap).kept = s.kept := by simp [State.chooseRate]
@[simp ↓] theorem State.clearOldRecords_kept (s : State) : (s.clearOldRecords).kept = s.kept := by simp [State.clearOldRecords]

@[simp ↓] theorem State.programRails_kept (s : State) : s.programRails.kept = s.kept :=
  eachBelow_kept s.nLand _ s fun l s => State.modSbd_kept s l _

@[simp ↓] theorem State.probe_kept (s : State) (found : List FoundModule) (cap : Nat) (hold : Bool) (m : Nat) :
    (s.probe found cap hold m).kept = s.kept := by simp [State.probe]

@[simp ↓] theorem State.fenceUnstarted_kept (s : State) : (s.fenceUnstarted).kept = s.kept := by simp [State.fenceUnstarted]

@[simp ↓] theorem State.endStarts_kept (s : State) : (s.endStarts).kept = s.kept := by
  unfold State.endStarts
  dsimp only
  (repeat' split) <;> simp

@[simp ↓] theorem State.backToSr_kept (s : State) (l : Nat) : (s.backToSr l).kept = s.kept := by simp [State.backToSr]
@[simp ↓] theorem State.programRcds_kept (s : State) (l rate : Nat) : (s.programRcds l rate).kept = s.kept := by simp [State.programRcds]
@[simp ↓] theorem State.readyLanding_kept (s : State) (l rate : Nat) : (s.readyLanding l rate).kept = s.kept := by simp [State.readyLanding]
@[simp ↓] theorem State.setPll_kept (s : State) (g rate : Nat) : (s.setPll g rate).kept = s.kept := by simp [State.setPll]
@[simp ↓] theorem State.beginTraining_kept (s : State) (l : Nat) : (s.beginTraining l).kept = s.kept := by simp [State.beginTraining]
@[simp ↓] theorem State.offerSnapshots_kept (s : State) (l : Nat) : (s.offerSnapshots l).kept = s.kept := by simp [State.offerSnapshots]
@[simp ↓] theorem State.checkRails_kept (s : State) : (s.checkRails).kept = s.kept := by simp [State.checkRails]
@[simp ↓] theorem State.powerUp_kept (s : State) : (s.powerUp).kept = s.kept := by simp [State.powerUp]

@[simp ↓] theorem State.raiseTurns_kept (s : State) (l : Nat) (ws : List (Nat × W32)) :
    (s.raiseTurns l ws).kept = s.kept := by simp [State.raiseTurns]

@[simp ↓] theorem State.applyRecords_kept (s : State) (l : Nat) (hardened : Bool) : (s.applyRecords l hardened).kept = s.kept := by
  unfold State.applyRecords
  dsimp only
  split
  · rw [State.kept_mk]
    exact foldl_kept (fun s r => by split <;> simp) _ s
  · exact foldl_kept (fun s r => by split <;> simp) _ s

@[simp ↓] theorem State.bootCommit_kept (s : State) (l : Nat) (hardened : Bool) (margins : List Margin) :
    (s.bootCommit l hardened margins).kept = s.kept := by simp [State.bootCommit]

@[simp ↓] theorem State.fullCommit_kept (s : State) (l : Nat) (r : TrainResult) :
    (s.fullCommit l r).kept = s.kept := by simp [State.fullCommit]

@[simp ↓] theorem State.loadRecords_kept (s : State) (l : Nat) : (s.loadRecords l).kept = s.kept :=
  foldl_kept (fun s b => by split <;> simp) _ s

@[simp ↓] theorem State.retrainAt_kept (s : State) (g rate : Nat) (ls : List Nat) :
    (s.retrainAt g rate ls).kept = s.kept := by simp [State.retrainAt]

@[simp ↓] theorem State.bootFailed_kept (s : State) (l : Nat) : (s.bootFailed l).kept = s.kept := by simp [State.bootFailed]
@[simp ↓] theorem State.trainFail_kept (s : State) (l step : Nat) : (s.trainFail l step).kept = s.kept := by simp [State.trainFail]
@[simp ↓] theorem State.stepFail_kept (s : State) (l step : Nat) : (s.stepFail l step).kept = s.kept := by simp [State.stepFail]

@[simp ↓] theorem State.judgeBoot_kept (s : State) (l : Nat) (r : TrainResult) : (s.judgeBoot l r).kept = s.kept := by
  unfold State.judgeBoot
  simp

@[simp ↓] theorem execBootTraining_keeps (l : LandingId) (r : TrainResult) (s : State) :
    Keeps s (execBootTraining l r s) := by simp [execBootTraining]

@[simp ↓] theorem execBootTrainingTimeout_keeps (l : LandingId) (s : State) :
    Keeps s (execBootTrainingTimeout l s) := by simp [execBootTrainingTimeout]

@[simp ↓] theorem execDbTrainingDone_keeps (l : LandingId) (rank : Fin 8) (ok : Bool) (s : State) :
    Keeps s (execDbTrainingDone l rank ok s) := by simp [execDbTrainingDone]

@[simp ↓] theorem execDbTrainingTimeout_keeps (l : LandingId) (rank : Fin 8) (s : State) :
    Keeps s (execDbTrainingTimeout l rank s) := by simp [execDbTrainingTimeout]

@[simp ↓] theorem execImpedanceSearchDone_keeps (l : LandingId) (pu pd : Nat) (s : State) :
    Keeps s (execImpedanceSearchDone l pu pd s) := by
  unfold execImpedanceSearchDone
  split <;> simp

@[simp ↓] theorem execPwrGoodRise_keeps (s : State) : Keeps s (execPwrGoodRise s) := by simp [execPwrGoodRise]

@[simp ↓] theorem execPwrGoodTimeout_keeps (pmicFaults : List LandingId) (s : State) :
    Keeps s (execPwrGoodTimeout pmicFaults s) := by simp [execPwrGoodTimeout]

/-! ### Calib -/

@[simp ↓] theorem State.startRun_kept (s : State) (l : Nat) (margin : Bool) :
    (s.startRun l margin).kept = s.kept := by simp [State.startRun]

@[simp ↓] theorem State.requestRun_kept (s : State) (l : Nat) : (s.requestRun l).kept = s.kept := by
  fun_cases State.requestRun s l <;> simp

@[simp ↓] theorem State.startWaiting_kept (s : State) (l : Nat) : (s.startWaiting l).kept = s.kept := by simp [State.startWaiting]

@[simp ↓] theorem State.rejectRun_kept (s : State) (l : Nat) (fails : List (Nat × Nat)) :
    (s.rejectRun l fails).kept = s.kept := by simp [State.rejectRun]

@[simp ↓] theorem State.endRun_kept (s : State) (l : Nat) (r : CalRun) (margins : List RankMargin) :
    (s.endRun l r margins).kept = s.kept := by simp [State.endRun]

@[simp ↓] theorem State.retrainStep_kept (s : State) (l : Nat) (r : CalRun) (m : TrainMeasure) (margins : List RankMargin) :
    (s.retrainStep l r m margins).kept = s.kept := by
  fun_cases State.retrainStep s l r m margins <;> simp

@[simp ↓] theorem State.marginDone_kept (s : State) (l : Nat) (ms : List RankMargin) :
    (s.marginDone l ms).kept = s.kept := by simp [State.marginDone]

@[simp ↓] theorem State.placeCommit_kept (s : State) (l : Nat) : (s.placeCommit l).kept = s.kept := by
  unfold State.placeCommit
  dsimp only
  split
  · simp
  · split <;> simp

@[simp ↓] theorem execCalCheck_keeps (l : LandingId) (s : State) : Keeps s (execCalCheck l s) := by simp [execCalCheck]
@[simp ↓] theorem execCalRunStart_keeps (l : LandingId) (s : State) : Keeps s (execCalRunStart l s) := by simp [execCalRunStart]

@[simp ↓] theorem execCalRetrainStep_keeps (l : LandingId) (m : TrainMeasure) (margins : List RankMargin) (s : State) :
    Keeps s (execCalRetrainStep l m margins s) := by
  fun_cases execCalRetrainStep l m margins s <;> simp

@[simp ↓] theorem execCalibrationCommit_keeps (l : LandingId) (s : State) :
    Keeps s (execCalibrationCommit l s) := by simp [execCalibrationCommit]

@[simp ↓] theorem execMarginCheckDone_keeps (l : LandingId) (margins : List RankMargin) (s : State) :
    Keeps s (execMarginCheckDone l margins s) := by
  fun_cases execMarginCheckDone l margins s <;> simp

@[simp ↓] theorem execCalRunTimeLimit_keeps (m : MailboxId) (s : State) : Keeps s (execCalRunTimeLimit m s) := by simp [execCalRunTimeLimit]

/-! ### Alert -/

@[simp ↓] theorem State.discardPlans_kept (s : State) (l k : Nat) : (s.discardPlans l k).kept = s.kept := by simp [State.discardPlans]

@[simp ↓] theorem State.rearmAbo_kept (s : State) (l : Nat) (gone : List PlanCmd) :
    (s.rearmAbo l gone).kept = s.kept := by simp [State.rearmAbo]

@[simp ↓] theorem State.alertFall_kept (s : State) (l : Nat) : (s.alertFall l).kept = s.kept := by simp [State.alertFall]
@[simp ↓] theorem State.dropStep_kept (s : State) (l cause : Nat) : (s.dropStep l cause).kept = s.kept := by simp [State.dropStep]

@[simp ↓] theorem State.takeAbo_kept (s : State) (l : Nat) (r : Retry) (risen : Bool) :
    (s.takeAbo l r risen).kept = s.kept := by simp [State.takeAbo]

@[simp ↓] theorem State.replayAt_kept (s : State) (l lo : Nat) (w : Want) (v : Served) : (s.replayAt l lo w v).kept = s.kept := by
  unfold State.replayAt
  dsimp only
  split <;> simp

@[simp ↓] theorem State.replayOne_kept (s : State) (l lo : Nat) (c : PlanCmd) : (s.replayOne l lo c).kept = s.kept := by
  unfold State.replayOne
  dsimp only
  (repeat' split) <;> simp

@[simp ↓] theorem State.replayAbo_kept (s : State) (l lo : Nat) : (s.replayAbo l lo).kept = s.kept := by
  unfold State.replayAbo
  dsimp only
  split <;> simp

@[simp ↓] theorem State.parityRetry_kept (s : State) (l : Nat) (r : Retry) (rise : Nat) :
    (s.parityRetry l r rise).kept = s.kept := by simp [State.parityRetry]

@[simp ↓] theorem execAlertNFall_keeps (l : LandingId) (s : State) : Keeps s (execAlertNFall l s) := by
  fun_cases execAlertNFall l s <;> simp

@[simp ↓] theorem execAlertNRise_keeps (l : LandingId) (s : State) : Keeps s (execAlertNRise l s) := by
  unfold execAlertNRise
  split <;> simp

@[simp ↓] theorem execAlertClassifyTimeout_keeps (l : LandingId) (s : State) : Keeps s (execAlertClassifyTimeout l s) := by
  fun_cases execAlertClassifyTimeout l s <;> simp

@[simp ↓] theorem execParityRetry_keeps (l : LandingId) (s : State) : Keeps s (execParityRetry l s) := by
  fun_cases execParityRetry l s <;> simp

@[simp ↓] theorem execAboPresent_keeps (l : LandingId) (s : State) : Keeps s (execAboPresent l s) := by
  unfold execAboPresent
  split <;> simp

@[simp ↓] theorem execAboActWindowEnd_keeps (l : LandingId) (s : State) : Keeps s (execAboActWindowEnd l s) := by simp [execAboActWindowEnd]

@[simp ↓] theorem execAboEnd_keeps (l : LandingId) (s : State) : Keeps s (execAboEnd l s) := by
  fun_cases execAboEnd l s <;> simp

@[simp ↓] theorem execAlertStuck_keeps (l : LandingId) (s : State) : Keeps s (execAlertStuck l s) := by
  fun_cases execAlertStuck l s <;> simp

theorem State.placeOwn_kept {s t : State} {l : Nat} {w : Want} (ht : s.placeOwn l w = some t) : t.kept = s.kept := by
  obtain ⟨k, -, rfl⟩ := Option.map_eq_some_iff.mp ht
  simp

theorem execPowerDownEntry_keeps (l : LandingId) (sub : Fin 2) (rank : Fin 8) (s : State) : Keeps s (execPowerDownEntry l sub rank s) := by
  unfold execPowerDownEntry
  split
  · split
    · next t ht => simp [State.placeOwn_kept ht]
    · simp
  · simp

theorem execPageTimeout_keeps (l : LandingId) (sub : Fin 2) (rank : Fin 8) (bg : Fin 8) (bank : Fin 4) (s : State) :
    Keeps s (execPageTimeout l sub rank bg bank s) := by
  have place : ∀ w, ((s.placeOwn l w).getD s).kept = s.kept := by
    intro w
    cases h : s.placeOwn l w with
    | none => rfl
    | some t => exact State.placeOwn_kept h
  unfold execPageTimeout
  dsimp only
  split <;> simp [place]

@[simp ↓] theorem execHintDrop_keeps (l : LandingId) (access : Nat) (s : State) : Keeps s (execHintDrop l access s) := by
  fun_cases execHintDrop l access s <;> simp

/-! ### Sideband -/

@[simp ↓] theorem State.levelEnd_kept (s : State) (r : Rep) : (s.levelEnd r).kept = s.kept := by simp [State.levelEnd]
@[simp ↓] theorem State.judgeHeat_kept (s : State) (l : Nat) : (s.judgeHeat l).kept = s.kept := by simp [State.judgeHeat]

@[simp ↓] theorem execThermalRead_keeps (l : LandingId) (slot : Fin 2) (reading : Option Nat) (s : State) :
    Keeps s (execThermalRead l slot reading s) := by
  unfold execThermalRead
  dsimp only
  (repeat' split) <;> simp

@[simp ↓] theorem execPmicStatusRead_keeps (l : LandingId) (slot : Fin 2) (status : W32) (warning fault : Bool) (s : State) :
    Keeps s (execPmicStatusRead l slot status warning fault s) := by
  unfold execPmicStatusRead
  split <;> simp

@[simp ↓] theorem State.sbdFree_kept (s : State) (bus : Nat) : (s.sbdFree bus).kept = s.kept := by simp [State.sbdFree]

@[simp ↓] theorem State.hintReadBack_kept (s : State) (j : SbdJob) (data : List Byte) :
    (s.hintReadBack j data).kept = s.kept := by simp [State.hintReadBack]

@[simp ↓] theorem execSidebandTransactionDone_keeps (bus : Fin 6) (data : List Byte) (s : State) :
    Keeps s (execSidebandTransactionDone bus data s) := by
  unfold execSidebandTransactionDone
  dsimp only
  split
  · simp
  · split <;> simp

@[simp ↓] theorem execSidebandTimeout_keeps (bus : Fin 6) (s : State) : Keeps s (execSidebandTimeout bus s) := by
  unfold execSidebandTimeout
  dsimp only
  (repeat' split) <;> simp

@[simp ↓] theorem execPllLock_keeps (g : GalleryId) (s : State) : Keeps s (execPllLock g s) := by simp [execPllLock]
@[simp ↓] theorem execPllLockLoss_keeps (g : GalleryId) (s : State) : Keeps s (execPllLockLoss g s) := by simp [execPllLockLoss]

@[simp ↓] theorem execLandingDrainComplete_keeps (l : LandingId) (s : State) :
    Keeps s (execLandingDrainComplete l s) := by simp [execLandingDrainComplete]

/-! ### Flags -/

@[simp ↓] theorem State.readWordAt_kept (s : State) (a : Nat) : (s.readWordAt a).2.kept = s.kept := by
  fun_cases State.readWordAt s a <;> simp

/-! ### Report -/

@[simp ↓] theorem State.poisonTxn_kept (s : State) (p id : Nat) : (s.poisonTxn p id).kept = s.kept :=
  (eachBelow_kept 12 _ _ fun l s => State.modArb_kept s l _).trans (State.modTxn_kept s p id _)

@[simp ↓] theorem State.loseCached_kept (s : State) (g : Nat) (k : MetaKind) (lpa : Nat) (r : Rep) :
    (s.loseCached g k lpa r).kept = s.kept := by
  unfold State.loseCached
  dsimp only
  (repeat' split) <;> simp

@[simp ↓] theorem State.dmaWord_kept (s : State) (ch place : Nat) : (s.dmaWord ch place).kept = s.kept := by simp [State.dmaWord]
@[simp ↓] theorem State.dropItem_kept (s : State) (place : Nat) : (s.dropItem place).kept = s.kept := by simp [State.dropItem]

@[simp ↓] theorem State.zeroCount_kept (s : State) (a : Nat) : (s.zeroCount a).kept = s.kept := by
  unfold State.zeroCount
  dsimp only
  split
  · split
    · simp
    · split <;> simp
  · split
    · rw [State.modCh_kept]
      rfl
    · rfl

@[simp ↓] theorem State.react_kept (s : State) (w : ReportWord) : (s.react w).kept = s.kept := by
  have level : (if srcLevel w.subsys w.code then s.levelOn (reportRep w) else s).kept = s.kept := by simp
  unfold State.react
  dsimp only
  generalize (if srcLevel w.subsys w.code then s.levelOn (reportRep w) else s) = t at level ⊢
  rw [← level]
  iterate 9 refine kept_of_ite (by simp) ?_
  refine kept_of_ite (by split <;> simp) ?_
  iterate 5 refine kept_of_ite (by simp) ?_
  simp

@[simp ↓] theorem State.modFence_kept (s : State) (id : Nat) (f : Fence → Fence) :
    (s.modFence id f).kept = s.kept := by simp [State.modFence]

@[simp ↓] theorem State.repeatLevels_kept (s : State) (f : Fence) : (s.repeatLevels f).kept = s.kept := by simp [State.repeatLevels]
@[simp ↓] theorem State.endShadow_kept (s : State) (f : Fence) : (s.endShadow f).kept = s.kept := by simp [State.endShadow]
@[simp ↓] theorem execFaultReport_keeps (w : ReportWord) (s : State) : Keeps s (execFaultReport w s) := by simp [execFaultReport]

@[simp ↓] theorem execFenceSettled_keeps (i : Nat) (s : State) : Keeps s (execFenceSettled i s) := by
  fun_cases execFenceSettled i s <;> simp

@[simp ↓] theorem execFenceSettleTimeout_keeps (i : Nat) (s : State) : Keeps s (execFenceSettleTimeout i s) := by
  fun_cases execFenceSettleTimeout i s <;> simp

@[simp ↓] theorem execShadowEnd_keeps (i : Nat) (s : State) : Keeps s (execShadowEnd i s) := by
  fun_cases execShadowEnd i s <;> simp

@[simp ↓] theorem execQuietPeriodEnd_keeps (cls : FaultClass) (s : State) :
    Keeps s (execQuietPeriodEnd cls s) := by simp [execQuietPeriodEnd]

/-! ### Dma -/

@[simp ↓] theorem State.putDesc_kept (s : State) (i k : Nat) (w : W32) :
    (s.putDesc i k w).kept = { s.kept with desc := writeBytes s.desc (32 * i + 4 * k) (wordBytes w) } := rfl

@[simp ↓] theorem State.dmaRing_kept (s : State) (n : Nat) : (s.dmaRing n).kept = s.kept := by simp [State.dmaRing]
@[simp ↓] theorem State.dmaStop_kept (s : State) (n : Nat) : (s.dmaStop n).kept = s.kept := by simp [State.dmaStop]
@[simp ↓] theorem State.breakDma_kept (s : State) (n : Nat) : (s.breakDma n).kept = s.kept := by simp [State.breakDma]
@[simp ↓] theorem State.dmaReset_kept (s : State) (n : Nat) : (s.dmaReset n).kept = s.kept := by simp [State.dmaReset]
@[simp ↓] theorem State.dmaCmd_kept (s : State) (n : Nat) (w : W32) : (s.dmaCmd n w).kept = s.kept := by simp [State.dmaCmd]
@[simp ↓] theorem State.dmaHead_kept (s : State) (n : Nat) (w : W32) : (s.dmaHead n w).kept = s.kept := by simp [State.dmaHead]
@[simp ↓] theorem State.dmaNext_kept (s : State) (n : Nat) : (s.dmaNext n).kept = s.kept := by simp [State.dmaNext]

theorem State.dmaComplete_rewrites (s : State) (n : Nat) (r : DmaRun) : Rewrites s (s.dmaComplete n r) := by
  have put : Rewrites s (s.putDesc (s.ch n).cur 7 (endWord r.err)) := .of_desc (State.putDesc_kept _ _ _ _) (writeBytes_wf _ _)
  refine put.then_kept ?_
  unfold State.dmaComplete
  dsimp only
  split
  · simp only [State.dmaNext_kept, State.bumpB_kept, State.modCh_kept]
  · split
    · simp only [State.dmaNext_kept, State.bumpB_kept, State.modCh_kept]
    · simp only [State.modCh_kept]

@[simp ↓] theorem execDmaRing_keeps (n : ChannelId) (strb : BitVec 4) (s : State) : Keeps s (execDmaRing n strb s) := by simp [execDmaRing]
@[simp ↓] theorem execDmaStop_keeps (n : ChannelId) (strb : BitVec 4) (s : State) : Keeps s (execDmaStop n strb s) := by simp [execDmaStop]

@[simp ↓] theorem execDmaReset_keeps (n : ChannelId) (strb : BitVec 4) (s : State) :
    Keeps s (execDmaReset n strb s) := by simp [execDmaReset]

@[simp ↓] theorem execDmaResetDone_keeps (n : ChannelId) (s : State) : Keeps s (execDmaResetDone n s) := by simp [execDmaResetDone]

@[simp ↓] theorem execDmaChHeadWrite_keeps (n : ChannelId) (w : CfgWord) (s : State) :
    Keeps s (execDmaChHeadWrite n w s) := by simp [execDmaChHeadWrite]

@[simp ↓] theorem execDescriptorStart_keeps (n : ChannelId) (s : State) : Keeps s (execDescriptorStart n s) := by simp [execDescriptorStart]

theorem execDescriptorComplete_rewrites (n : ChannelId) (s : State) : ∃ t, execDescriptorComplete n s = .next t ∧ Rewrites s t := by
  unfold execDescriptorComplete
  dsimp only
  split
  · next r _ =>
    split
    · exact ⟨_, rfl, (State.dmaComplete_rewrites s n r).then_kept (by simp)⟩
    · exact ⟨_, rfl, .of_kept rfl⟩
  · exact ⟨_, rfl, .of_kept rfl⟩

/-! ### Lobby -/

@[simp ↓] theorem State.ring_kept (s : State) (m : Nat) : (s.ring m).kept = s.kept := by simp [State.ring]
@[simp ↓] theorem State.ackBox_kept (s : State) (m : Nat) : (s.ackBox m).kept = s.kept := by simp [State.ackBox]

@[simp ↓] theorem State.amiom_keeps (s : State) (m opc : Nat) (f : State → State) (h : (f s).kept = s.kept) :
    Keeps s (s.amiom m opc f) := by
  rcases amiom_cases s m opc f with e | e | e | e <;> simp [e, h]

@[simp ↓] theorem State.goesOn_kept (s : State) (m : Nat) : (s.goesOn m).kept = s.kept := by simp [State.goesOn]
@[simp ↓] theorem State.takeActs_kept (s : State) (m : Nat) : (s.takeActs m).kept = s.kept := by simp [State.takeActs]

@[simp ↓] theorem execCommandTake_keeps (s : State) : Keeps s (execCommandTake s) := by
  unfold execCommandTake
  dsimp only
  (repeat' split) <;> simp

@[simp ↓] theorem execLbyDbRing_keeps (m : MailboxId) (strb : BitVec 4) (s : State) :
    Keeps s (execLbyDbRing m strb s) := by simp [execLbyDbRing]

@[simp ↓] theorem execLbyStsAck_keeps (m : MailboxId) (strb : BitVec 4) (s : State) :
    Keeps s (execLbyStsAck m strb s) := by simp [execLbyStsAck]

@[simp ↓] theorem State.stallOr_kept (s : State) (arcade empty : Bool) (r : W32 × State) (strb : BitVec 4) (h : r.2.kept = s.kept) :
    (s.stallOr arcade empty r strb).kept = s.kept := by simp [State.stallOr, h]

@[simp ↓] theorem State.pop_kept (s : State) (a : Nat) (strb : BitVec 4) (arcade : Bool) :
    (s.pop a strb arcade).kept = s.kept := by simp [State.pop]

@[simp ↓] theorem execLbyEqPop_keeps (strb : BitVec 4) (s : State) : Keeps s (execLbyEqPop strb s) := by simp [execLbyEqPop]
@[simp ↓] theorem execLbyArPop_keeps (strb : BitVec 4) (s : State) : Keeps s (execLbyArPop strb s) := by simp [execLbyArPop]
@[simp ↓] theorem State.arCommand_kept (s : State) (w : W32) : (s.arCommand w).kept = s.kept := by simp [State.arCommand]
@[simp ↓] theorem execFlush_keeps (strb : BitVec 4) (s : State) : Keeps s (execFlush strb s) := by simp [execFlush]
@[simp ↓] theorem execMark_keeps (strb : BitVec 4) (s : State) : Keeps s (execMark strb s) := by simp [execMark]
@[simp ↓] theorem execRewind_keeps (strb : BitVec 4) (s : State) : Keeps s (execRewind strb s) := by simp [execRewind]
@[simp ↓] theorem execClear_keeps (strb : BitVec 4) (s : State) : Keeps s (execClear strb s) := by simp [execClear]

@[simp ↓] theorem execArcadePacketClose_keeps (src : BitVec 8) (body : List W32) (s : State) :
    Keeps s (execArcadePacketClose src body s) := by
  fun_cases execArcadePacketClose src body s <;> simp

/-! ### Cfg -/

@[simp ↓] theorem State.timingMark_kept (s : State) (l off : Nat) (ok : Bool) :
    (s.timingMark l off ok).kept = s.kept := by simp [State.timingMark]

@[simp ↓] theorem State.rwlLand_kept (s : State) (l off : Nat) (w : W32) : (s.rwlLand l off w).kept = s.kept := by simp [State.rwlLand]
@[simp ↓] theorem State.rwlGal_kept (s : State) (g off : Nat) (w : W32) : (s.rwlGal g off w).kept = s.kept := by simp [State.rwlGal]

@[simp ↓] theorem State.ecsRead_kept (s : State) (l : Nat) (w : W32) (counts : List (Fin 2 × Fin 8 × Fin 10 × Nat × Nat)) :
    (s.ecsRead l w counts).kept = s.kept := by simp [State.ecsRead]

@[simp ↓] theorem State.writeLand_kept (s : State) (l off : Nat) (w : W32) :
    (s.writeLand l off w).kept = s.kept := by simp [State.writeLand]

@[simp ↓] theorem State.writeGal_kept (s : State) (g off : Nat) (w : W32) : (s.writeGal g off w).kept = s.kept := by simp [State.writeGal]
@[simp ↓] theorem State.writeBox_kept (s : State) (m o : Nat) (w : W32) : (s.writeBox m o w).kept = s.kept := by simp [State.writeBox]
@[simp ↓] theorem State.writeLby_kept (s : State) (o : Nat) (w : W32) : (s.writeLby o w).kept = s.kept := by simp [State.writeLby]
@[simp ↓] theorem State.writePwr_kept (s : State) (o : Nat) (w : W32) : (s.writePwr o w).kept = s.kept := by simp [State.writePwr]
@[simp ↓] theorem State.writeDma_kept (s : State) (n o : Nat) (w : W32) : (s.writeDma n o w).kept = s.kept := by simp [State.writeDma]

@[simp ↓] theorem State.writeDesc_kept (s : State) (a : Nat) (w : W32) :
    (s.writeDesc a w).kept = { s.kept with desc := writeBytes s.desc (a - 0x18000) (wordBytes w) } := rfl

theorem State.writeWordAt_rewrites (s : State) (a : Nat) (w : W32) : Rewrites s (s.writeWordAt a w) := by
  have stay : ∀ {t : State}, t.kept = s.kept → Rewrites s t := .of_kept
  have desc : Rewrites s (s.writeDesc a w) := .of_desc (State.writeDesc_kept s a w) (writeBytes_wf _ _)
  unfold State.writeWordAt
  split
  · split
    · exact stay (by simp)
    · exact stay (by simp)
  · exact .ite (stay (by simp)) (.ite (stay (by simp)) (.ite (stay rfl) (.ite (stay (by simp)) (.ite (stay (by simp))
      (.ite (stay (by simp)) (.ite (stay (by simp)) (.ite (stay rfl) (.ite (stay (by simp)) (.ite (stay rfl) (.ite desc (stay rfl)))))))))))

@[simp ↓] theorem State.readAt_kept (s : State) (a : Nat) (strb : BitVec 4) : (s.readAt a strb).kept = s.kept := by simp [State.readAt]

theorem execRegisterWrite_rewrites (addr : BitVec 21) (w : CfgWord) (s : State) :
    ∃ t, execRegisterWrite addr w s = .next t ∧ Rewrites s t := by
  refine ⟨_, rfl, ?_⟩
  unfold State.cfgWrite State.cfgRequest
  split_ifs
  · exact .of_kept rfl
  · exact .of_kept rfl
  · exact State.writeGate_rewrites _ _ _ _ (State.writeWordAt_rewrites _ _ _)

@[simp ↓] theorem execLowWordRead_keeps (addr : BitVec 21) (strb : BitVec 4) (s : State) :
    Keeps s (execLowWordRead addr strb s) := by simp [execLowWordRead]

theorem State.cfgServe_rewrites (s : State) (r : CfgReq) : Rewrites s (s.cfgServe r) := by
  unfold State.cfgServe
  split
  · exact .of_kept (by simp)
  · refine State.writeGate_rewrites _ _ _ _ ?_
    split
    · split
      · exact .of_kept (by simp)
      · exact .of_kept rfl
    · exact State.writeWordAt_rewrites _ _ _

theorem State.cfgDrain_rewrites (s : State) : Rewrites s s.cfgDrain := by
  refine foldl_rewrites (fun s _ => ?_) _ s
  split
  · exact .of_kept rfl
  · split
    · exact .of_kept rfl
    · next r rest _ =>
      have next : Rewrites s ({ s with cfg := { s.cfg with queue := rest } } : State) := .of_kept rfl
      exact next.trans (State.cfgServe_rewrites _ r)

theorem execPopStallTimeout_rewrites (s : State) : ∃ t, execPopStallTimeout s = .next t ∧ Rewrites s t := by
  unfold execPopStallTimeout
  split
  · exact ⟨_, rfl, .of_kept rfl⟩
  · next k _ =>
    split
    · exact ⟨_, rfl, .of_kept rfl⟩
    · have pop : (if k.arcade then s.popWide else s.popEvent).2.kept = s.kept := by split <;> simp
      generalize (if k.arcade then s.popWide else s.popEvent) = r at pop ⊢
      have served : Rewrites s (r.2.endStall r.1 k) := .of_kept (by simp [pop])
      exact ⟨_, rfl, served.trans (State.cfgDrain_rewrites _)⟩

@[simp ↓] theorem execArbClrLongest_keeps (l : LandingId) (strb : BitVec 4) (s : State) :
    Keeps s (execArbClrLongest l strb s) := by simp [execArbClrLongest]

@[simp ↓] theorem execTimingRegisterWrite_keeps (l : LandingId) (off : Fin 64) (w : CfgWord) (s : State) :
    Keeps s (execTimingRegisterWrite l off w s) := by simp [execTimingRegisterWrite]

@[simp ↓] theorem execPhyPllWrite_keeps (l : LandingId) (w : CfgWord) (s : State) :
    Keeps s (execPhyPllWrite l w s) := by simp [execPhyPllWrite]

@[simp ↓] theorem execMntEcsRead_keeps (l : LandingId) (w : CfgWord) (counts : List (Fin 2 × Fin 8 × Fin 10 × Nat × Nat)) (s : State) :
    Keeps s (execMntEcsRead l w counts s) := by simp [execMntEcsRead]

/-! ### Clock -/

@[simp ↓] theorem State.warmBoundary_kept (s : State) : (s.warmBoundary).kept = s.kept := by simp [State.warmBoundary]

theorem execTreadBoundary_follows (s : State) : ∃ t, execTreadBoundary s = .next t ∧ Follows s t := by
  unfold execTreadBoundary
  split
  · exact ⟨_, rfl, (Rewrites.of_kept rfl).toFollows⟩
  · have clock : Follows s (s.modChip fun c => { c with cycle := s.nextBoundary }) := { pending := rfl, variant := rfl, desc := id }
    generalize (s.modChip fun c => { c with cycle := s.nextBoundary }) = u at clock ⊢
    have work : Rewrites u (if !u.chip.coreOn then u else if u.chip.phase == .warm then u.warmBoundary else u.boundary) := .of_kept (by simp)
    exact ⟨_, rfl, clock.trans (work.trans (State.cfgDrain_rewrites _)).toFollows⟩

/-! ### Settings -/

@[simp ↓] theorem State.finishAtBoundary_kept (s : State) (m : Nat) (res : List W32) :
    (s.finishAtBoundary m res).kept = s.kept := by simp [State.finishAtBoundary]

@[simp ↓] theorem State.setPut_kept (s : State) (gal : Bool) (t off : Nat) (new : W32) :
    (s.setPut gal t off new).kept = s.kept := by simp [State.setPut]

@[simp ↓] theorem State.setRegs_kept (s : State) (m : Nat) (gal : Bool) (names : Nat → Bool) : (s.setRegs m gal names).kept = s.kept := by
  unfold State.setRegs
  dsimp only
  iterate 4 refine kept_of_ite (State.finishS_kept _ _ _) ?_
  split <;> simp

@[simp ↓] theorem execArbSet_keeps (m : MailboxId) (s : State) : Keeps s (execArbSet m s) := by simp [execArbSet]
@[simp ↓] theorem execSeqSet_keeps (m : MailboxId) (s : State) : Keeps s (execSeqSet m s) := by simp [execSeqSet]
@[simp ↓] theorem execTimingSet_keeps (m : MailboxId) (s : State) : Keeps s (execTimingSet m s) := by simp [execTimingSet]
@[simp ↓] theorem execMntSet_keeps (m : MailboxId) (s : State) : Keeps s (execMntSet m s) := by simp [execMntSet]
@[simp ↓] theorem execEccSet_keeps (m : MailboxId) (s : State) : Keeps s (execEccSet m s) := by simp [execEccSet]
@[simp ↓] theorem execCalSet_keeps (m : MailboxId) (s : State) : Keeps s (execCalSet m s) := by simp [execCalSet]
@[simp ↓] theorem execCmpSet_keeps (m : MailboxId) (s : State) : Keeps s (execCmpSet m s) := by simp [execCmpSet]
@[simp ↓] theorem execTierSet_keeps (m : MailboxId) (s : State) : Keeps s (execTierSet m s) := by simp [execTierSet]
@[simp ↓] theorem State.scrubSet_kept (s : State) (m : Nat) : (s.scrubSet m).kept = s.kept := by simp [State.scrubSet]
@[simp ↓] theorem execScrubSet_keeps (m : MailboxId) (s : State) : Keeps s (execScrubSet m s) := by simp [execScrubSet]

/-! ### Service -/

@[simp ↓] theorem State.queryCaps_kept (s : State) (m : Nat) : (s.queryCaps m).kept = s.kept := by simp [State.queryCaps]
@[simp ↓] theorem execQueryCaps_keeps (m : MailboxId) (s : State) : Keeps s (execQueryCaps m s) := by simp [execQueryCaps]
@[simp ↓] theorem execBringup_keeps (m : MailboxId) (s : State) : Keeps s (execBringup m s) := by simp [execBringup]

@[simp ↓] theorem State.claim_kept (s : State) (m : Nat) : (s.claim m).kept = s.kept := by
  unfold State.claim
  dsimp only
  split <;> simp

@[simp ↓] theorem execClaim_keeps (m : MailboxId) (s : State) : Keeps s (execClaim m s) := by simp [execClaim]

@[simp ↓] theorem State.unclaim_kept (s : State) (m : Nat) : (s.unclaim m).kept = s.kept := by
  unfold State.unclaim
  dsimp only
  (repeat' split) <;> simp

@[simp ↓] theorem execRelease_keeps (m : MailboxId) (s : State) : Keeps s (execRelease m s) := by simp [execRelease]
@[simp ↓] theorem State.liftFence_kept (s : State) (f : Fence) : (s.liftFence f).kept = s.kept := by simp [State.liftFence]

@[simp ↓] theorem State.openPort_kept (s : State) (p : Nat) (ordered : Bool) :
    (s.openPort p ordered).kept = s.kept := by simp [State.openPort]

@[simp ↓] theorem State.portOpen_kept (s : State) (m : Nat) : (s.portOpen m).kept = s.kept := by
  unfold State.portOpen
  dsimp only
  split
  · simp
  · split <;> simp

@[simp ↓] theorem execPortOpen_keeps (m : MailboxId) (s : State) : Keeps s (execPortOpen m s) := by simp [execPortOpen]
@[simp ↓] theorem State.portClose_kept (s : State) (m : Nat) : (s.portClose m).kept = s.kept := by simp [State.portClose]
@[simp ↓] theorem execPortClose_keeps (m : MailboxId) (s : State) : Keeps s (execPortClose m s) := by simp [execPortClose]
@[simp ↓] theorem State.portClosed_kept (s : State) (p : Nat) : (s.portClosed p).kept = s.kept := by simp [State.portClosed]
@[simp ↓] theorem execPortCloseDone_keeps (p : Fin 8) (s : State) : Keeps s (execPortCloseDone p s) := by simp [execPortCloseDone]

@[simp ↓] theorem State.discover_kept (s : State) (m : Nat) (found : List FoundModule) :
    (s.discover m found).kept = s.kept := by simp [State.discover]

@[simp ↓] theorem execDiscover_keeps (m : MailboxId) (found : List FoundModule) (s : State) :
    Keeps s (execDiscover m found s) := by simp [execDiscover]

@[simp ↓] theorem State.landingStart_kept (s : State) (m : Nat) : (s.landingStart m).kept = s.kept := by simp [State.landingStart]
@[simp ↓] theorem execLandingStart_keeps (m : MailboxId) (s : State) : Keeps s (execLandingStart m s) := by simp [execLandingStart]
@[simp ↓] theorem State.landingQuery_kept (s : State) (m : Nat) : (s.landingQuery m).kept = s.kept := by simp [State.landingQuery]
@[simp ↓] theorem execLandingQuery_keeps (m : MailboxId) (s : State) : Keeps s (execLandingQuery m s) := by simp [execLandingQuery]

@[simp ↓] theorem State.moduleQuery_kept (s : State) (m : Nat) : (s.moduleQuery m).kept = s.kept := by
  fun_cases State.moduleQuery s m <;> simp

@[simp ↓] theorem execModuleQuery_keeps (m : MailboxId) (s : State) : Keeps s (execModuleQuery m s) := by simp [execModuleQuery]
@[simp ↓] theorem State.sbdXfer_kept (s : State) (m : Nat) : (s.sbdXfer m).kept = s.kept := by simp [State.sbdXfer]
@[simp ↓] theorem execSbdXfer_keeps (m : MailboxId) (s : State) : Keeps s (execSbdXfer m s) := by simp [execSbdXfer]
@[simp ↓] theorem State.dmaBind_kept (s : State) (m : Nat) : (s.dmaBind m).kept = s.kept := by simp [State.dmaBind]
@[simp ↓] theorem execDmaBind_keeps (m : MailboxId) (s : State) : Keeps s (execDmaBind m s) := by simp [execDmaBind]
@[simp ↓] theorem State.debugSelect_kept (s : State) (m : Nat) : (s.debugSelect m).kept = s.kept := by simp [State.debugSelect]
@[simp ↓] theorem execDebugSelect_keeps (m : MailboxId) (s : State) : Keeps s (execDebugSelect m s) := by simp [execDebugSelect]

/-! ### Records -/

@[simp ↓] theorem State.askCal_kept (s : State) (l : Nat) (check : Bool) : (s.askCal l check).kept = s.kept := by
  unfold State.askCal
  dsimp only
  (repeat' split) <;> simp

@[simp ↓] theorem State.calRun_kept (s : State) (m : Nat) : (s.calRun m).kept = s.kept := by simp [State.calRun]
@[simp ↓] theorem execCalRun_keeps (m : MailboxId) (s : State) : Keeps s (execCalRun m s) := by simp [execCalRun]
@[simp ↓] theorem State.calSave_kept (s : State) (m : Nat) : (s.calSave m).kept = s.kept := by simp [State.calSave]
@[simp ↓] theorem execCalSave_keeps (m : MailboxId) (s : State) : Keeps s (execCalSave m s) := by simp [execCalSave]
@[simp ↓] theorem State.calRestore_kept (s : State) (m : Nat) : (s.calRestore m).kept = s.kept := by simp [State.calRestore]
@[simp ↓] theorem execCalRestore_keeps (m : MailboxId) (s : State) : Keeps s (execCalRestore m s) := by simp [execCalRestore]
@[simp ↓] theorem State.eccDeclare_kept (s : State) (m : Nat) : (s.eccDeclare m).kept = s.kept := by simp [State.eccDeclare]
@[simp ↓] theorem execEccDeclare_keeps (m : MailboxId) (s : State) : Keeps s (execEccDeclare m s) := by simp [execEccDeclare]
@[simp ↓] theorem State.pwrCfg_kept (s : State) (m : Nat) : (s.pwrCfg m).kept = s.kept := by simp [State.pwrCfg]
@[simp ↓] theorem execPwrCfg_keeps (m : MailboxId) (s : State) : Keeps s (execPwrCfg m s) := by simp [execPwrCfg]
@[simp ↓] theorem State.fltRead_kept (s : State) (m : Nat) : (s.fltRead m).kept = s.kept := by simp [State.fltRead]
@[simp ↓] theorem execFltRead_keeps (m : MailboxId) (s : State) : Keeps s (execFltRead m s) := by simp [execFltRead]
@[simp ↓] theorem State.fltClear_kept (s : State) (m : Nat) : (s.fltClear m).kept = s.kept := by simp [State.fltClear]
@[simp ↓] theorem execFltClear_keeps (m : MailboxId) (s : State) : Keeps s (execFltClear m s) := by simp [execFltClear]
@[simp ↓] theorem State.fltCfg_kept (s : State) (m : Nat) : (s.fltCfg m).kept = s.kept := by simp [State.fltCfg]
@[simp ↓] theorem execFltCfg_keeps (m : MailboxId) (s : State) : Keeps s (execFltCfg m s) := by simp [execFltCfg]
@[simp ↓] theorem State.cntCfg_kept (s : State) (m : Nat) : (s.cntCfg m).kept = s.kept := by simp [State.cntCfg]
@[simp ↓] theorem execCntCfg_keeps (m : MailboxId) (s : State) : Keeps s (execCntCfg m s) := by simp [execCntCfg]
@[simp ↓] theorem execCntUser_keeps (m : MailboxId) (s : State) : Keeps s (execCntUser m s) := by simp [execCntUser]

@[simp ↓] theorem State.rsRead_kept (s : State) (m : Nat) : (s.rsRead m).kept = s.kept := by
  fun_cases State.rsRead s m <;> simp

@[simp ↓] theorem execRsRead_keeps (m : MailboxId) (s : State) : Keeps s (execRsRead m s) := by simp [execRsRead]
@[simp ↓] theorem execRsCommit_keeps (m : MailboxId) (s : State) : Keeps s (execRsCommit m s) := by simp [execRsCommit]
@[simp ↓] theorem State.rsDrop_kept (s : State) (m : Nat) : (s.rsDrop m).kept = s.kept := by simp [State.rsDrop]
@[simp ↓] theorem execRsDrop_keeps (m : MailboxId) (s : State) : Keeps s (execRsDrop m s) := by simp [execRsDrop]

/-! ### Halls -/

@[simp ↓] theorem State.kekLoad_kept (s : State) (m : Nat) : (s.kekLoad m).kept = s.kept := by simp [State.kekLoad]
@[simp ↓] theorem execKekLoad_keeps (m : MailboxId) (s : State) : Keeps s (execKekLoad m s) := by simp [execKekLoad]

@[simp ↓] theorem State.hallCreate_kept (s : State) (m : Nat) : (s.hallCreate m).kept = s.kept := by
  fun_cases State.hallCreate s m <;> simp

@[simp ↓] theorem execHallCreate_keeps (m : MailboxId) (s : State) : Keeps s (execHallCreate m s) := by simp [execHallCreate]
@[simp ↓] theorem State.storeChanged_kept (s : State) : (s.storeChanged).kept = s.kept := by simp [State.storeChanged]
@[simp ↓] theorem State.setDl_kept (s : State) (ls : List Nat) (on : Bool) : (s.setDl ls on).kept = s.kept := by simp [State.setDl]

@[simp ↓] theorem State.hallCreateZeroed_kept (s : State) (n : Nat) : (s.hallCreateZeroed n).kept = s.kept := by
  unfold State.hallCreateZeroed
  split <;> simp

@[simp ↓] theorem execHallCreateZeroed_keeps (h : HallId) (s : State) : Keeps s (execHallCreateZeroed h s) := by simp [execHallCreateZeroed]

@[simp ↓] theorem State.growHall_kept (s : State) (m n : Nat) (h : Hall) (g : Nat) :
    (s.growHall m n h g).kept = s.kept := by simp [State.growHall]

@[simp ↓] theorem State.hallResize_kept (s : State) (m : Nat) : (s.hallResize m).kept = s.kept := by
  unfold State.hallResize
  dsimp only
  split <;> simp

@[simp ↓] theorem execHallResize_keeps (m : MailboxId) (s : State) : Keeps s (execHallResize m s) := by simp [execHallResize]
@[simp ↓] theorem State.dropHeat_kept (s : State) (h : Hall) : (s.dropHeat h).kept = s.kept := by simp [State.dropHeat]

@[simp ↓] theorem State.hallGrowZeroed_kept (s : State) (n : Nat) : (s.hallGrowZeroed n).kept = s.kept := by
  unfold State.hallGrowZeroed
  dsimp only
  (repeat' split) <;> simp

@[simp ↓] theorem execHallGrowZeroed_keeps (h : HallId) (s : State) : Keeps s (execHallGrowZeroed h s) := by simp [execHallGrowZeroed]

@[simp ↓] theorem State.freePages_kept (s : State) (n : Nat) (h : Hall) (from_ : Nat) :
    (s.freePages n h from_).kept = s.kept := by simp [State.freePages]

@[simp ↓] theorem State.dropCached_kept (s : State) (n : Nat) (h : Hall) (from_ : Nat) (gone : List (List Nat)) :
    (s.dropCached n h from_ gone).kept = s.kept := by simp [State.dropCached]

@[simp ↓] theorem State.breakRange_kept (s : State) (n from_ : Nat) : (s.breakRange n from_).kept = s.kept := by simp [State.breakRange]

@[simp ↓] theorem State.hallShrinkDone_kept (s : State) (n : Nat) : (s.hallShrinkDone n).kept = s.kept := by
  unfold State.hallShrinkDone
  dsimp only
  split
  · split <;> simp
  · simp

@[simp ↓] theorem execHallShrinkDone_keeps (h : HallId) (s : State) : Keeps s (execHallShrinkDone h s) := by simp [execHallShrinkDone]

@[simp ↓] theorem State.hallRelease_kept (s : State) (m : Nat) : (s.hallRelease m).kept = s.kept := by
  fun_cases State.hallRelease s m <;> simp

@[simp ↓] theorem execHallRelease_keeps (m : MailboxId) (s : State) : Keeps s (execHallRelease m s) := by simp [execHallRelease]
@[simp ↓] theorem State.unbindFrames_kept (s : State) (n : Nat) : (s.unbindFrames n).kept = s.kept := by simp [State.unbindFrames]

@[simp ↓] theorem State.hallReleaseDrained_kept (s : State) (n : Nat) : (s.hallReleaseDrained n).kept = s.kept := by
  unfold State.hallReleaseDrained
  split <;> simp

@[simp ↓] theorem execHallReleaseDrained_keeps (h : HallId) (s : State) :
    Keeps s (execHallReleaseDrained h s) := by simp [execHallReleaseDrained]

@[simp ↓] theorem State.hallQuery_kept (s : State) (m : Nat) : (s.hallQuery m).kept = s.kept := by
  fun_cases State.hallQuery s m <;> simp

@[simp ↓] theorem execHallQuery_keeps (m : MailboxId) (s : State) : Keeps s (execHallQuery m s) := by simp [execHallQuery]

@[simp ↓] theorem State.hallKeyLoad_kept (s : State) (m : Nat) : (s.hallKeyLoad m).kept = s.kept := by
  fun_cases State.hallKeyLoad s m <;> simp

@[simp ↓] theorem execHallKeyLoad_keeps (m : MailboxId) (s : State) : Keeps s (execHallKeyLoad m s) := by simp [execHallKeyLoad]

@[simp ↓] theorem State.windowAdd_kept (s : State) (m : Nat) : (s.windowAdd m).kept = s.kept := by
  unfold State.windowAdd
  dsimp only
  split <;> simp

@[simp ↓] theorem execWindowAdd_keeps (m : MailboxId) (s : State) : Keeps s (execWindowAdd m s) := by simp [execWindowAdd]
@[simp ↓] theorem State.windowRemove_kept (s : State) (m : Nat) : (s.windowRemove m).kept = s.kept := by simp [State.windowRemove]
@[simp ↓] theorem execWindowRemove_keeps (m : MailboxId) (s : State) : Keeps s (execWindowRemove m s) := by simp [execWindowRemove]
@[simp ↓] theorem State.tierPool_kept (s : State) (m : Nat) : (s.tierPool m).kept = s.kept := by simp [State.tierPool]
@[simp ↓] theorem execTierPool_keeps (m : MailboxId) (s : State) : Keeps s (execTierPool m s) := by simp [execTierPool]

/-! ### Repair -/

@[simp ↓] theorem State.beginRepair_kept (s : State) (r : Repair) : (s.beginRepair r).kept = s.kept := by simp [State.beginRepair]
@[simp ↓] theorem State.pprRun_kept (s : State) (m : Nat) (spare : Bool) : (s.pprRun m spare).kept = s.kept := by simp [State.pprRun]
@[simp ↓] theorem execPprRun_keeps (m : MailboxId) (spareRow : Bool) (s : State) : Keeps s (execPprRun m spareRow s) := by simp [execPprRun]
@[simp ↓] theorem State.liftRow_kept (s : State) (l : Nat) (c : Coord) : (s.liftRow l c).kept = s.kept := by simp [State.liftRow]
@[simp ↓] theorem State.writeRow_kept (s : State) (r : Repair) : (s.writeRow r).kept = s.kept := by simp [State.writeRow]

@[simp ↓] theorem State.pprDone_kept (s : State) (l : Nat) (ok : Bool) (holdNs : Nat) : (s.pprDone l ok holdNs).kept = s.kept := by
  unfold State.pprDone
  split <;> simp

@[simp ↓] theorem execPprProgramDone_keeps (l : LandingId) (ok : Bool) (holdNs : Nat) (s : State) :
    Keeps s (execPprProgramDone l ok holdNs s) := by simp [execPprProgramDone]

/-! ### Vestibule -/

@[simp ↓] theorem State.debit_kept (s : State) (p : Nat) (wrq : Bool) : (s.debit p wrq).kept = s.kept := by simp [State.debit]
@[simp ↓] theorem State.credit_kept (s : State) (p : Nat) (wrq : Bool) : (s.credit p wrq).kept = s.kept := by simp [State.credit]

@[simp ↓] theorem State.newTxn_kept (s : State) (p : Nat) (opc : Opc) (h : Header) (poison : Bool) (data : BitVec 512) (be : BitVec 64)
    (place : Option (Nat × Nat)) :
    (s.newTxn p opc h poison data be place).2.kept = s.kept := by simp [State.newTxn]

@[simp ↓] theorem State.countAccepted_kept (s : State) (p : Nat) (opc : Opc) :
    (s.countAccepted p opc).kept = s.kept := by simp [State.countAccepted]

@[simp ↓] theorem State.dropLost_kept (s : State) (p : Nat) (opc : Opc) (h : Header) :
    (s.dropLost p opc h).kept = s.kept := by simp [State.dropLost]

@[simp ↓] theorem State.request_kept (s : State) (p : Nat) (opc : Opc) (h : Header) (poison : Bool) (data : BitVec 512) (be : BitVec 64) :
    (s.request p opc h poison data be).kept = s.kept := by
  unfold State.request
  extract_lets t
  have ht : t.kept = s.kept := State.debit_kept s p opc.wrq
  refine kept_of_ite rfl (kept_of_ite (by simp [ht]) ?_)
  split
  next x u hu =>
    have ku : u.kept = s.kept := (congrArg (·.2.kept) hu).symm.trans ((State.newTxn_kept t p opc h poison data be _).trans ht)
    rename_i place refusal _
    clear_value place refusal
    dsimp only
    split <;> simp [ku]

@[simp ↓] theorem State.hintFlit_kept (s : State) (p : Nat) (h : Header) : (s.hintFlit p h).kept = s.kept := by
  fun_cases State.hintFlit s p h <;> simp

@[simp ↓] theorem execMrd_keeps (p : PortId) (h : Header) (s : State) : Keeps s (execMrd p h s) := by simp [execMrd]
@[simp ↓] theorem execMrds_keeps (p : PortId) (h : Header) (s : State) : Keeps s (execMrds p h s) := by simp [execMrds]
@[simp ↓] theorem execUnlk_keeps (p : PortId) (h : Header) (s : State) : Keeps s (execUnlk p h s) := by simp [execUnlk]

@[simp ↓] theorem execMwr_keeps (p : PortId) (h : Header) (poison : Bool) (data : BitVec 512) (s : State) :
    Keeps s (execMwr p h poison data s) := by simp [execMwr]

@[simp ↓] theorem execMwrp_keeps (p : PortId) (h : Header) (poison : Bool) (data : BitVec 512) (be : BitVec 64) (s : State) :
    Keeps s (execMwrp p h poison data be s) := by simp [execMwrp]

@[simp ↓] theorem execMalformedOpcode_keeps (p : PortId) (h : Header) (opc : BitVec 6) (s : State) :
    Keeps s (execMalformedOpcode p h opc s) := by simp [execMalformedOpcode]

@[simp ↓] theorem execClasslessOpcode_keeps (p : PortId) (_h : Header) (opc : BitVec 6) (s : State) :
    Keeps s (execClasslessOpcode p _h opc s) := by simp [execClasslessOpcode]

@[simp ↓] theorem execCreditReturn_keeps (p : PortId) (cpl dat : BitVec 8) (s : State) :
    Keeps s (execCreditReturn p cpl dat s) := by simp [execCreditReturn]


/-! ## Every command -/

/-- The commands that leave the queue, the variant, the clock and the descriptor memory alone: all but the resets and the rise of a rail, the
tread boundary, and those that may write the descriptor memory. -/
def leavesKept : Instr → Bool
  | .coldReset => false
  | .powerOnSequence _ _ => false
  | .warmResetEnd => false
  | .treadBoundary => false
  | .popStallTimeout => false
  | .registerWrite _ _ => false
  | .descriptorComplete _ => false
  | .powerTransitionDone => false
  | .pgInputRise _ => false
  | _ => true

/-- Such a command is answered with a next state that holds the same kept part. -/
theorem exec_keeps (s : State) : ∀ c : Instr, leavesKept c = true → Keeps s (exec c s)
  | .coldReset, h => nomatch h
  | .powerOnSequence _ _, h => nomatch h
  | .warmReset, _ => execWarmReset_keeps s
  | .warmResetEnd, h => nomatch h
  | .warmResetDrainTimeout l, _ => execWarmResetDrainTimeout_keeps l s
  | .boot flash, _ => execBoot_keeps flash s
  | .firmwareStart, _ => execFirmwareStart_keeps s
  | .bootChunk, _ => execBootChunk_keeps s
  | .bootGo, _ => execBootGo_keeps s
  | .watchdogExpiry, _ => execWatchdogExpiry_keeps s
  | .wakeNAssert, _ => execWakeNAssert_keeps s
  | .thermNAssert, _ => execThermNAssert_keeps s
  | .thermNRelease, _ => execThermNRelease_keeps s
  | .pwrGoodFall, _ => execPwrGoodFall_keeps s
  | .pwrGoodRise, _ => execPwrGoodRise_keeps s
  | .pwrGoodTimeout pmicFaults, _ => execPwrGoodTimeout_keeps pmicFaults s
  | .pgInputFall pin, _ => execPgInputFall_keeps pin s
  | .refclkStop, _ => execRefclkStop_keeps s
  | .treadBoundary, h => nomatch h
  | .treadPlan l, _ => execTreadPlan_keeps l s
  | .blockFlightBoundary, _ => execBlockFlightBoundary_keeps s
  | .arbDecision l, _ => execArbDecision_keeps l s
  | .backoffExpiry l r, _ => execBackoffExpiry_keeps l r s
  | .starvation l r, _ => execStarvation_keeps l r s
  | .lockExpiry l, _ => execLockExpiry_keeps l s
  | .mrd p h, _ => execMrd_keeps p h s
  | .mrds p h, _ => execMrds_keeps p h s
  | .unlk p h, _ => execUnlk_keeps p h s
  | .mwr p h poison data, _ => execMwr_keeps p h poison data s
  | .mwrp p h poison data be, _ => execMwrp_keeps p h poison data be s
  | .malformedOpcode p h opc, _ => execMalformedOpcode_keeps p h opc s
  | .classlessOpcode p h opc, _ => execClasslessOpcode_keeps p h opc s
  | .creditReturn p cpl dat, _ => execCreditReturn_keeps p cpl dat s
  | .lineDecode l access burst, _ => execLineDecode_keeps l access burst s
  | .tagCheck l access, _ => execTagCheck_keeps l access s
  | .haltDrainTimeout l, _ => execHaltDrainTimeout_keeps l s
  | .tagLineFill g kind lpa, _ => execTagLineFill_keeps g kind lpa s
  | .tagFetchStart g kind, _ => execTagFetchStart_keeps g kind s
  | .aheadZeroingDone h region, _ => execAheadZeroingDone_keeps h region s
  | .aheadEntryFree h region, _ => execAheadEntryFree_keeps h region s
  | .initZeroWrite l h, _ => execInitZeroWrite_keeps l h s
  | .refreshDue l sub rank, _ => execRefreshDue_keeps l sub rank s
  | .refreshEmergency l sub rank, _ => execRefreshEmergency_keeps l sub rank s
  | .refreshPartTwo l, _ => execRefreshPartTwo_keeps l s
  | .maintenanceWindow l, _ => execMaintenanceWindow_keeps l s
  | .rfmOwed l sub rank bg bank, _ => execRfmOwed_keeps l sub rank bg bank s
  | .stringerDue l, _ => execStringerDue_keeps l s
  | .stringerInstanceDone l zeroCode full code puStep pdStep, _ => execStringerInstanceDone_keeps l zeroCode full code puStep pdStep s
  | .strSlewDone l, _ => execStrSlewDone_keeps l s
  | .stringerAgeExpiry l, _ => execStringerAgeExpiry_keeps l s
  | .stringerFullMeasurementDone l zeroCode full codes, _ => execStringerFullMeasurementDone_keeps l zeroCode full codes s
  | .impedanceSearchDone l pu pd, _ => execImpedanceSearchDone_keeps l pu pd s
  | .zqDue l, _ => execZqDue_keeps l s
  | .zqLatch l sub rank, _ => execZqLatch_keeps l sub rank s
  | .scrubStepDue l, _ => execScrubStepDue_keeps l s
  | .heatDecayDue, _ => execHeatDecayDue_keeps s
  | .calCheck l, _ => execCalCheck_keeps l s
  | .calRunStart l, _ => execCalRunStart_keeps l s
  | .calRetrainStep l m margins, _ => execCalRetrainStep_keeps l m margins s
  | .calibrationCommit l, _ => execCalibrationCommit_keeps l s
  | .marginCheckDone l margins, _ => execMarginCheckDone_keeps l margins s
  | .bootTraining l r, _ => execBootTraining_keeps l r s
  | .bootTrainingTimeout l, _ => execBootTrainingTimeout_keeps l s
  | .dbTrainingDone l rank ok, _ => execDbTrainingDone_keeps l rank ok s
  | .dbTrainingTimeout l rank, _ => execDbTrainingTimeout_keeps l rank s
  | .ecsReadoutDue l counts, _ => execEcsReadoutDue_keeps l counts s
  | .mntEcsRead l w counts, _ => execMntEcsRead_keeps l w counts s
  | .eccLeak g, _ => execEccLeak_keeps g s
  | .powerDownEntry l sub rank, _ => execPowerDownEntry_keeps l sub rank s
  | .pageTimeout l sub rank bg bank, _ => execPageTimeout_keeps l sub rank bg bank s
  | .hintDrop l access, _ => execHintDrop_keeps l access s
  | .alertNFall l, _ => execAlertNFall_keeps l s
  | .alertNRise l, _ => execAlertNRise_keeps l s
  | .alertClassifyTimeout l, _ => execAlertClassifyTimeout_keeps l s
  | .parityRetry l, _ => execParityRetry_keeps l s
  | .aboPresent l, _ => execAboPresent_keeps l s
  | .aboActWindowEnd l, _ => execAboActWindowEnd_keeps l s
  | .aboEnd l, _ => execAboEnd_keeps l s
  | .alertStuck l, _ => execAlertStuck_keeps l s
  | .thermalRead l slot reading, _ => execThermalRead_keeps l slot reading s
  | .pmicStatusRead l slot status warning fault, _ => execPmicStatusRead_keeps l slot status warning fault s
  | .sidebandTransactionDone bus data, _ => execSidebandTransactionDone_keeps bus data s
  | .sidebandTimeout bus, _ => execSidebandTimeout_keeps bus s
  | .pllLock g, _ => execPllLock_keeps g s
  | .pllLockLoss g, _ => execPllLockLoss_keeps g s
  | .landingDrainComplete l, _ => execLandingDrainComplete_keeps l s
  | .faultReport r, _ => execFaultReport_keeps r s
  | .fenceSettled fenceId, _ => execFenceSettled_keeps fenceId s
  | .fenceSettleTimeout fenceId, _ => execFenceSettleTimeout_keeps fenceId s
  | .shadowEnd fenceId, _ => execShadowEnd_keeps fenceId s
  | .quietPeriodEnd cls, _ => execQuietPeriodEnd_keeps cls s
  | .aliveToggle, _ => execAliveToggle_keeps s
  | .arcadePacketClose src body, _ => execArcadePacketClose_keeps src body s
  | .recordStoreCommit checkOk, _ => execRecordStoreCommit_keeps checkOk s
  | .commandTake, _ => execCommandTake_keeps s
  | .lbyDbRing m strb, _ => execLbyDbRing_keeps m strb s
  | .lbyStsAck m strb, _ => execLbyStsAck_keeps m strb s
  | .lbyEqPop strb, _ => execLbyEqPop_keeps strb s
  | .lbyArPop strb, _ => execLbyArPop_keeps strb s
  | .popStallTimeout, h => nomatch h
  | .flush strb, _ => execFlush_keeps strb s
  | .mark strb, _ => execMark_keeps strb s
  | .rewind strb, _ => execRewind_keeps strb s
  | .clear strb, _ => execClear_keeps strb s
  | .arbClrLongest l strb, _ => execArbClrLongest_keeps l strb s
  | .timingRegisterWrite l off w, _ => execTimingRegisterWrite_keeps l off w s
  | .phyPllWrite l w, _ => execPhyPllWrite_keeps l w s
  | .lowWordRead addr strb, _ => execLowWordRead_keeps addr strb s
  | .registerWrite _ _, h => nomatch h
  | .dmaRing n strb, _ => execDmaRing_keeps n strb s
  | .dmaStop n strb, _ => execDmaStop_keeps n strb s
  | .dmaReset n strb, _ => execDmaReset_keeps n strb s
  | .dmaResetDone n, _ => execDmaResetDone_keeps n s
  | .dmaChHeadWrite n w, _ => execDmaChHeadWrite_keeps n w s
  | .descriptorStart n, _ => execDescriptorStart_keeps n s
  | .descriptorComplete _, h => nomatch h
  | .tierDemotionStart g h page, _ => execTierDemotionStart_keeps g h page s
  | .tierDemotionSwitch g move, _ => execTierDemotionSwitch_keeps g move s
  | .tierPromotionStart g h page, _ => execTierPromotionStart_keeps g h page s
  | .tierPromotionSwitch g move, _ => execTierPromotionSwitch_keeps g move s
  | .tierUnback h group, _ => execTierUnback_keeps h group s
  | .segmentDecode g fetch, _ => execSegmentDecode_keeps g fetch s
  | .pwrReq w, _ => execPwrReq_keeps w s
  | .powerTransitionDone, h => nomatch h
  | .wake src, _ => execWake_keeps src s
  | .wakeComplete, _ => execWakeComplete_keeps s
  | .pwrTimerExpiry, _ => execPwrTimerExpiry_keeps s
  | .legacyAsk, _ => execLegacyAsk_keeps s
  | .legacyRollbackRestart, _ => execLegacyRollbackRestart_keeps s
  | .portCloseDone p, _ => execPortCloseDone_keeps p s
  | .hallReleaseDrained h, _ => execHallReleaseDrained_keeps h s
  | .hallShrinkDone h, _ => execHallShrinkDone_keeps h s
  | .hallCreateZeroed h, _ => execHallCreateZeroed_keeps h s
  | .pprProgramDone l ok holdNs, _ => execPprProgramDone_keeps l ok holdNs s
  | .queryCaps m, _ => execQueryCaps_keeps m s
  | .bringup m, _ => execBringup_keeps m s
  | .claim m, _ => execClaim_keeps m s
  | .release m, _ => execRelease_keeps m s
  | .portOpen m, _ => execPortOpen_keeps m s
  | .portClose m, _ => execPortClose_keeps m s
  | .discover m found, _ => execDiscover_keeps m found s
  | .landingStart m, _ => execLandingStart_keeps m s
  | .landingQuery m, _ => execLandingQuery_keeps m s
  | .moduleQuery m, _ => execModuleQuery_keeps m s
  | .sbdXfer m, _ => execSbdXfer_keeps m s
  | .dmaBind m, _ => execDmaBind_keeps m s
  | .debugSelect m, _ => execDebugSelect_keeps m s
  | .arbSet m, _ => execArbSet_keeps m s
  | .seqSet m, _ => execSeqSet_keeps m s
  | .timingSet m, _ => execTimingSet_keeps m s
  | .mntSet m, _ => execMntSet_keeps m s
  | .eccSet m, _ => execEccSet_keeps m s
  | .calSet m, _ => execCalSet_keeps m s
  | .cmpSet m, _ => execCmpSet_keeps m s
  | .tierSet m, _ => execTierSet_keeps m s
  | .calRun m, _ => execCalRun_keeps m s
  | .calSave m, _ => execCalSave_keeps m s
  | .calRestore m, _ => execCalRestore_keeps m s
  | .kekLoad m, _ => execKekLoad_keeps m s
  | .hallCreate m, _ => execHallCreate_keeps m s
  | .hallResize m, _ => execHallResize_keeps m s
  | .hallRelease m, _ => execHallRelease_keeps m s
  | .hallQuery m, _ => execHallQuery_keeps m s
  | .hallKeyLoad m, _ => execHallKeyLoad_keeps m s
  | .windowAdd m, _ => execWindowAdd_keeps m s
  | .windowRemove m, _ => execWindowRemove_keeps m s
  | .tierPool m, _ => execTierPool_keeps m s
  | .eccDeclare m, _ => execEccDeclare_keeps m s
  | .pprRun m spareRow, _ => execPprRun_keeps m spareRow s
  | .scrubSet m, _ => execScrubSet_keeps m s
  | .pwrCfg m, _ => execPwrCfg_keeps m s
  | .fltRead m, _ => execFltRead_keeps m s
  | .fltClear m, _ => execFltClear_keeps m s
  | .fltCfg m, _ => execFltCfg_keeps m s
  | .cntCfg m, _ => execCntCfg_keeps m s
  | .cntUser m, _ => execCntUser_keeps m s
  | .rsRead m, _ => execRsRead_keeps m s
  | .rsCommit m, _ => execRsCommit_keeps m s
  | .rsDrop m, _ => execRsDrop_keeps m s
  | .pgInputRise _, h => nomatch h
  | .calRunTimeLimit m, _ => execCalRunTimeLimit_keeps m s
  | .status1PulseEnd, _ => execStatus1PulseEnd_keeps s
  | .hallGrowZeroed h, _ => execHallGrowZeroed_keeps h s

theorem Keeps.follows {s : State} {o : Out} (h : Keeps s o) : ∃ t, o = .next t ∧ Follows s t :=
  h.imp fun _ ht => ⟨ht.1, (Rewrites.of_kept ht.2).toFollows⟩

/-- Every command is answered with a next state that has the same queue and variant and a descriptor memory as canonical as before. -/
theorem exec_follows (c : Instr) (s : State) : ∃ t, exec c s = .next t ∧ Follows s t := by
  have rewrites {o : Out} (h : ∃ t, o = .next t ∧ Rewrites s t) : ∃ t, o = .next t ∧ Follows s t :=
    h.imp fun _ ht => ⟨ht.1, ht.2.toFollows⟩
  cases hc : leavesKept c with
  | true => exact (exec_keeps s c hc).follows
  | false =>
    cases c with
    | coldReset => exact execColdReset_follows s
    | powerOnSequence bootsel rootKeyHash => exact execPowerOnSequence_follows bootsel rootKeyHash s
    | warmResetEnd => exact execWarmResetEnd_follows s
    | treadBoundary => exact execTreadBoundary_follows s
    | popStallTimeout => exact rewrites (execPopStallTimeout_rewrites s)
    | registerWrite addr w => exact rewrites (execRegisterWrite_rewrites addr w s)
    | descriptorComplete n => exact rewrites (execDescriptorComplete_rewrites n s)
    | powerTransitionDone => exact rewrites (execPowerTransitionDone_rewrites s)
    | pgInputRise pin => exact execPgInputRise_follows pin s
    | _ => nomatch hc

/-- One cycle of the clock moves nothing but the clock. -/
theorem idleCycle_follows (s : State) : Follows s (idleCycle s) := by
  unfold idleCycle
  split
  · exact (Rewrites.of_kept rfl).toFollows
  · exact { pending := rfl, variant := rfl, desc := id }

/-- A step takes the front command out of the queue and keeps the rest of it, the variant and the form of the descriptor memory. -/
theorem step_follows {s t : State} (h : step s = .next t) : Follows { s with pending := s.pending.tail } t := by
  unfold step at h
  split at h
  next hp =>
    cases h
    have idle := idleCycle_follows s
    exact { pending := by rw [idle.pending, hp]; rfl, variant := idle.variant, desc := idle.desc }
  next c rest hp =>
    obtain ⟨u, hu, follows⟩ := exec_follows c { s with pending := rest }
    obtain rfl : u = t := by simpa [hu] using h
    rw [hp]
    exact follows

end Sys2Proof.Machine

section
open Sys2Proof Sys2Proof.Machine Sys2Proof.Slice

/-- Settles O4: `step_follows`, whose queue is the tail of the queue before. -/
theorem stepKeepsQueueOrderAndPart : Obligations.StepKeepsQueueOrderAndPart := by
  unfold Obligations.StepKeepsQueueOrderAndPart
  intro s t h
  have f := step_follows h
  exact ⟨f.pending, f.variant⟩

end

/-! SUPPORT. The gate of the CFG writes, stated once for a request, and the rows that pass it. -/

namespace Sys2Proof.Machine

/-- What a row answers before its write has an effect: CFG takes no request; the request waits; the strobe is partial; the unit is
absent; the domain is off (R6, R56, R57). -/
structure PassesGate (s : State) (r : CfgReq) (o : Out) : Prop where
  dead : s.cfgAlive = false → o = .next s
  waits : s.cfgAlive = true → s.cfgWaits = true → o = .next { s with cfg := { s.cfg with queue := s.cfg.queue ++ [r] } }
  partialStrobe : s.cfgAlive = true → s.cfgWaits = false → r.strb ≠ 0xF → o = .next (s.cfgReply 0 true)
  absent : s.cfgAlive = true → s.cfgWaits = false → r.strb = 0xF → s.absentAt r.addr = true → o = .next (s.cfgReply 0 false)
  off : s.cfgAlive = true → s.cfgWaits = false → r.strb = 0xF → s.absentAt r.addr = false → s.domainDown r.addr = true →
    o = .next (s.cfgReply 0 true)

/-- A request passes the gate at its own address with its own strobe. -/
theorem cfgRequest_passes (s : State) (r : CfgReq) (f : State → State) :
    PassesGate s r (.next (s.cfgRequest r fun s => s.writeGate r.addr r.strb f)) where
  dead alive := by simp [State.cfgRequest, alive]
  waits alive wait := by simp [State.cfgRequest, alive, wait]
  partialStrobe alive wait strb := by rw [State.cfgRequest, alive, wait, State.writeGate, if_pos strb]; rfl
  absent alive wait strb gone := by simp [State.cfgRequest, State.writeGate, alive, wait, strb, gone]
  off alive wait strb here down := by simp [State.cfgRequest, State.writeGate, alive, wait, strb, here, down]

theorem cfgWrite_passes (s : State) {a b : Nat} (w : CfgWord) (f : State → State) (h : a = b) :
    PassesGate s { write := true, addr := b, strb := w.strb, data := w.data, counts := [] } (.next (s.cfgWrite a w f)) := by
  subst h
  exact cfgRequest_passes s _ f

/-- The command register of a DMA channel stands at its twelfth byte. -/
theorem chBase_add_cmd (n : Nat) : chBase n + 0xC = 0x1000C + 0x1000 * n := by
  unfold chBase
  omega

theorem chBase_add_head (n : Nat) : chBase n + 8 = 0x10008 + 0x1000 * n := by
  unfold chBase
  omega

/-- Each CFG write passes the gate with its request. -/
theorem cfgRows_pass (s : State) (m : MailboxId) (l : LandingId) (n : ChannelId) (off : Fin 64) (addr : BitVec 21) (data : W32)
    (strb : BitVec 4) (counts : List (Fin 2 × Fin 8 × Fin 10 × Nat × Nat)) :
    ∀ e ∈ Sys2Proof.Slice.cfgRows m l n off addr data strb counts, e.2.strb = strb ∧ PassesGate s e.2 (exec e.1 s) := by
  simp only [Sys2Proof.Slice.cfgRows, List.forall_mem_cons, true_and]
  have fixed (a : Nat) (d : W32) (f : State → State) := cfgWrite_passes s (a := a) ⟨strb, d⟩ f rfl
  have command (d : W32) (f : State → State) := cfgWrite_passes s ⟨strb, d⟩ f (chBase_add_cmd n)
  exact ⟨fixed _ 1 _, fixed _ 8 _, fixed _ 1 _, fixed _ 2 _, fixed _ 4 _, fixed _ 8 _, fixed _ data _, fixed _ 1 _, fixed _ data _,
    fixed _ data _, fixed _ data _, cfgRequest_passes s _ _, command 1 _, command 2 _, command 4 _,
    cfgWrite_passes s ⟨strb, data⟩ _ (chBase_add_head n), nofun⟩

end Sys2Proof.Machine

section
open Sys2Proof Sys2Proof.Machine Sys2Proof.Slice

/-- Settles O38: every row is a request at the one gate (`cfgRows_pass`). -/
theorem cfgWritesPassTheGate : Obligations.CfgWritesPassTheGate := by
  unfold Obligations.CfgWritesPassTheGate
  intro s m l n off addr data strb counts e he
  obtain ⟨rfl, gate⟩ := cfgRows_pass s m l n off addr data strb counts e he
  exact ⟨gate.dead, gate.waits, fun free => gate.partialStrobe free.1 free.2, fun free => gate.absent free.1 free.2,
    fun free => gate.off free.1 free.2⟩

end

/-! SUPPORT. The words of the Landing pages under a write: what a page keeps, and what a timing register and `SEQ_TCHK` show. -/

namespace Sys2Proof.Machine

/-! ## Words in rising order -/

theorem Words.rising_of_pairwise : ∀ {w : Words} {lo : Nat}, w.Pairwise (fun a b => a.1 < b.1) → (∀ e ∈ w, lo ≤ e.1) → Words.rising lo w
  | [], _, _, _ => trivial
  | (k, v) :: w, lo, h, above => by
    obtain ⟨first, rest⟩ := List.pairwise_cons.1 h
    exact ⟨above (k, v) List.mem_cons_self, Words.rising_of_pairwise rest first⟩

theorem Words.rising_of_Rising {w : Words} (h : Sys2Proof.Slice.Rising w) : Words.rising 0 w :=
  Words.rising_of_pairwise h fun _ _ => Nat.zero_le _

/-! ## Landings under a change of one or of all -/

/-- What a change of a Landing leaves alone, it leaves alone in every Landing. -/
theorem State.modLand_land_proj {α : Type} (g : Landing → α) {f : Landing → Landing} (h : ∀ x, g (f x) = g x) (s : State) (i k : Nat) :
    g ((s.modLand i f).land k) = g (s.land k) := by
  by_cases hik : i = k
  · subst hik
    by_cases hi : i < 12
    · exact (congrArg g (State.modLand_land_self s ⟨i, hi⟩ f)).trans (h _)
    · simp [State.modLand, State.setLand, State.land, hi]
  · rw [State.modLand_land_ne s i k f hik]

theorem eachBelow_succ (n : Nat) (f : Nat → State → State) (s : State) : eachBelow (n + 1) f s = f n (eachBelow n f s) := by
  simp [eachBelow, List.range_succ]

theorem eachBelow_proj {α : Type} (g : State → α) {f : Nat → State → State} (h : ∀ i s, g (f i s) = g s) (n : Nat) (s : State) :
    g (eachBelow n f s) = g s := by
  induction n with
  | zero => rfl
  | succ n ih => rw [eachBelow_succ, h, ih]

/-- Landings changed one after another are each changed once. -/
theorem eachBelow_modLand_land (f : Landing → Landing) (s : State) (k : LandingId) {n : Nat} (h : k.val < n) :
    (eachBelow n (fun i s => s.modLand i f) s).land k = f (s.land k) := by
  have untouched : ∀ m, m ≤ k.val → (eachBelow m (fun i s => s.modLand i f) s).land k = s.land k := by
    intro m
    induction m with
    | zero => exact fun _ => rfl
    | succ m ih =>
      intro hm
      rw [eachBelow_succ, State.modLand_land_ne _ _ _ _ (by omega), ih (by omega)]
  induction n with
  | zero => omega
  | succ n ih =>
    rw [eachBelow_succ]
    by_cases hk : n = k.val
    · subst hk
      rw [State.modLand_land_self, untouched _ (Nat.le_refl _)]
    · rw [State.modLand_land_ne _ _ _ _ hk, ih (by omega)]

/-! ## A written word reads back -/

theorem homeLand_lt (l : LandingId) (off : Nat) : homeLand l off < 12 := by
  unfold homeLand
  split
  · decide
  · split <;> omega

theorem State.putLand_lw (s : State) (l : LandingId) (off : Nat) (v : W32) (h : Sys2Proof.Slice.Rising (s.land (homeLand l off)).page.regs) :
    (s.putLand l off v).lw l off = v := by
  have home : (s.putLand l off v).land (homeLand l off) = _ := State.modLand_land_self s ⟨homeLand l off, homeLand_lt l off⟩ _
  unfold State.lw
  rw [home]
  exact getW_setW_self _ off v (Words.rising_of_Rising h)

theorem mergeMask_mergeMask (m old w : W32) : mergeMask m (mergeMask m old w) w = mergeMask m old w := by
  unfold mergeMask
  ext i hi
  simp only [BitVec.getElem_or, BitVec.getElem_and, BitVec.getElem_not]
  cases m[i] <;> simp

/-! ## Timing registers -/

/-- A timing register takes the whole word or keeps its own. -/
theorem landResult_of_isTiming {off : Nat} (h : isTiming off = true) :
    ∃ ok : W32 → Bool, ∀ bf old new, landResult bf off old new = if ok new then new else old := by
  unfold landResult
  cases hr : ruleAt off with
  | some r => exact ⟨ruleOk r, fun _ _ _ => rfl⟩
  | none =>
    have at8C0 : off = 0x8C0 := by simpa [isTiming, hr] using h
    subst at8C0
    exact ⟨_, fun _ _ _ => rfl⟩

theorem landMask_of_isTiming {off : Nat} (h : isTiming off = true) : landMask off ≠ 0 := by
  have rules : ∀ r ∈ ruleRows, ruleMask r ≠ 0 := by decide
  unfold landMask
  cases hr : ruleAt off with
  | some r =>
    refine rules r ?_
    unfold ruleAt at hr
    split at hr
    · exact List.mem_of_getElem? hr
    · cases hr
  | none =>
    have at8C0 : off = 0x8C0 := by simpa [isTiming, hr] using h
    subst at8C0
    decide

/-- The word that a write leaves in a Landing's page. -/
def State.landLeft (s : State) (l off : Nat) (w : W32) : W32 :=
  landResult s.flightWritten off (s.lw l off) (mergeMask (landMask off) (s.lw l off) w)

theorem State.landLeft_of_some {s : State} {l off : Nat} {w v : W32} (h : s.landTry l off w = some v) : s.landLeft l off w = v := by
  unfold State.landTry at h
  dsimp only at h
  split at h
  next taken => exact taken.trans (Option.some.inj h)
  next => cases h

theorem State.landLeft_of_none {s : State} {l off : Nat} {w : W32} (ht : isTiming off = true) (h : s.landTry l off w = none) :
    s.landLeft l off w = s.lw l off := by
  obtain ⟨ok, whole⟩ := landResult_of_isTiming ht
  unfold State.landTry at h
  unfold State.landLeft
  simp only [whole] at h ⊢
  by_cases taken : ok (mergeMask (landMask off) (s.lw l off) w) = true
  · simp [taken] at h
  · simp [taken]

/-- The mark is that of the word as it stood before the write. -/
theorem State.landTry_putLand {s : State} {l : LandingId} {off : Nat} (w : W32) (ht : isTiming off = true)
    (h : Sys2Proof.Slice.Rising (s.land (homeLand l off)).page.regs) :
    ((s.putLand l off (s.landLeft l off w)).landTry l off w).isSome = (s.landTry l off w).isSome := by
  obtain ⟨ok, whole⟩ := landResult_of_isTiming ht
  cases taken : s.landTry l off w with
  | some v =>
    have left : s.landLeft l off w = mergeMask (landMask off) (s.lw l off) w := by
      unfold State.landTry at taken
      dsimp only at taken
      split at taken
      next same => exact same
      next => cases taken
    simp [State.landTry, State.putLand_lw s l off _ h, left, mergeMask_mergeMask, whole]
  | none =>
    have left := State.landLeft_of_none ht taken
    have same : (s.putLand l off (s.lw l off)).landTry l off w = s.landTry l off w := by
      simp [State.landTry, State.putLand_lw s l off _ h, whole]
    rw [left, same, taken]

/-- In Bring-up mode a write of a timing register leaves its word and marks `SEQ_TCHK`. -/
theorem State.rwlLand_timing {s : State} {l : LandingId} {off : Nat} (w : W32) (ht : isTiming off = true) (hb : s.chip.bringup = true)
    (h : Sys2Proof.Slice.Rising (s.land (homeLand l off)).page.regs) :
    s.rwlLand l off w = (s.putLand l off (s.landLeft l off w)).timingMark l off (s.landTry l off w).isSome := by
  have notPll : off ≠ 0x1008 := by
    rintro rfl
    exact absurd ht (by decide)
  have mark := State.landTry_putLand w ht h
  unfold State.landLeft at mark
  unfold State.rwlLand
  rw [State.rwl, hb, if_neg (by simpa using landMask_of_isTiming ht)]
  simp [notPll, ht, State.landLeft, mark]

theorem State.rwlLand_closed {s : State} (l off : Nat) (w : W32) (hb : s.chip.bringup = false) : s.rwlLand l off w = s := by
  simp [State.rwlLand, State.rwl, hb]

/-- A mark of `SEQ_TCHK` leaves every page as it is. -/
theorem State.timingMark_page (s : State) (l off : Nat) (ok : Bool) (k : Nat) :
    ((s.timingMark l off ok).land k).page = (s.land k).page := by
  have page {f : Landing → Landing} (h : ∀ x, (f x).page = x.page) (s : State) (i : Nat) :
      ((s.modLand i f).land k).page = (s.land k).page := State.modLand_land_proj Landing.page h s i k
  unfold State.timingMark
  dsimp only
  split
  · refine eachBelow_proj (fun s => (s.land k).page) (fun i s => ?_) _ s
    split
    · exact page (by intro x; rfl) s i
    · exact page (by intro x; rfl) s i
  · exact page (by intro x; rfl) s l

theorem State.timingMark_lw (s : State) (l off : Nat) (ok : Bool) : (s.timingMark l off ok).lw l off = s.lw l off := by
  unfold State.lw
  rw [State.timingMark_page]

theorem State.timingMark_cfg (s : State) (l off : Nat) (ok : Bool) : (s.timingMark l off ok).cfg = s.cfg := by
  unfold State.timingMark
  dsimp only
  split
  · refine eachBelow_proj State.cfg (fun i s => ?_) _ s
    split <;> rfl
  · rfl

/-- An accepted write of a register of the Landing's own. -/
theorem State.timingMark_accepted (s : State) (l : LandingId) {off : Nat} (h : off ≠ offRefi) :
    ((s.timingMark l off true).land l).tchk = (s.land l).tchk ||| 4 := by
  simp [State.timingMark, h]

/-- An accepted write of `SEQ_T_REFI` waits in every Landing (R197). -/
theorem State.timingMark_refi (s : State) (l : Nat) (k : LandingId) (h : k.val < s.nLand) :
    ((s.timingMark l offRefi true).land k).refiPend = true := by
  simp only [State.timingMark, if_true]
  rw [eachBelow_modLand_land _ s k h]

/-- Bits 15 to 8 of a merge under a mask that holds them all are the new word's. -/
theorem fld_mergeMask_tchk (old new : W32) : fld (mergeMask 0xFF01 old new) 15 8 = fld new 15 8 := by
  have byte : (mergeMask 0xFF01 old new).extractLsb' 8 8 = new.extractLsb' 8 8 := by
    ext i hi
    interval_cases i <;> simp [mergeMask]
  simpa [fld] using congrArg BitVec.toNat byte

/-- The mark of a rejected write names the register. -/
theorem tchk_rejected (old : W32) (off : Fin 64) :
    (mergeMask 0xFF01 old (at_ 0 1 ||| at_ 8 off)).getLsbD 0 = true ∧ fld (mergeMask 0xFF01 old (at_ 0 1 ||| at_ 8 off)) 15 8 = off.val := by
  have named : ∀ off : Fin 64, fld (at_ 0 1 ||| at_ 8 off) 15 8 = off.val := by decide
  have marked : ∀ off : Fin 64, (at_ 0 1 ||| at_ 8 off).getLsbD 0 = true := by decide
  refine ⟨?_, (fld_mergeMask_tchk _ _).trans (named off)⟩
  rw [mergeMask, BitVec.getLsbD_or, BitVec.getLsbD_and (y := 0xFF01), marked off]
  simp

theorem State.timingMark_rejected (s : State) (l : LandingId) (off : Nat) (h : l.val < s.nLand) :
    ((s.timingMark l off false).land l).tchk = mergeMask 0xFF01 (s.land l).tchk (at_ 0 1 ||| at_ 8 ((off - 0x800) / 4)) := by
  by_cases hr : off = offRefi
  · simp only [State.timingMark, if_pos hr, Bool.false_eq_true, if_false]
    rw [eachBelow_modLand_land _ s l h]
  · simp [State.timingMark, hr]

end Sys2Proof.Machine

/-! SUPPORT. A request that reaches a Landing is still there after the refill that follows, whatever numbers the others carry: it stands
in staging, or waits upstream. -/

namespace Sys2Proof.Machine

/-! ## The first element of a kind replaced -/

section
variable {α : Type} {p q : α → Bool} {b : α}

theorem filter_modify_findIdx_tail (hb : p b = false) : ∀ l : List α, (l.modify (l.findIdx p) fun _ => b).filter p = (l.filter p).tail
  | [] => by simp
  | x :: l => by
    cases hx : p x with
    | true => simp [List.findIdx_cons, hx, hb]
    | false => simpa [List.findIdx_cons, hx] using filter_modify_findIdx_tail hb l

theorem filter_modify_findIdx_of_disjoint (hb : p b = false) (hq : ∀ x, q x = true → p x = false) :
    ∀ l : List α, (l.modify (l.findIdx q) fun _ => b).filter p = l.filter p
  | [] => by simp
  | x :: l => by
    cases hx : q x with
    | true => simp [List.findIdx_cons, hx, hb, hq x hx]
    | false => simp [List.findIdx_cons, hx, List.filter_cons, filter_modify_findIdx_of_disjoint hb hq l]

theorem mem_modify_findIdx {x : α} (hx : q x = false) : ∀ {l : List α}, x ∈ l → x ∈ l.modify (l.findIdx q) fun _ => b
  | y :: l, h => by
    cases hy : q y with
    | true =>
      have hne : x ≠ y := fun e => by simp [e, hy] at hx
      simpa [List.findIdx_cons, hy, hne] using Or.inr ((List.mem_cons.1 h).resolve_left hne)
    | false =>
      simp only [List.findIdx_cons, hy, cond_false, List.modify_succ_cons, List.mem_cons]
      exact (List.mem_cons.1 h).imp_right (mem_modify_findIdx hx)

theorem mem_modify_findIdx_new : ∀ {l : List α}, l.filter q ≠ [] → b ∈ l.modify (l.findIdx q) fun _ => b
  | [], h => absurd rfl h
  | y :: l, h => by
    cases hy : q y with
    | true => simp [List.findIdx_cons, hy]
    | false =>
      simp only [List.findIdx_cons, hy, cond_false, List.modify_succ_cons, List.mem_cons]
      exact Or.inr (mem_modify_findIdx_new (by simpa [hy] using h))

end

/-! ## A request enters staging -/

/-- Nothing moves but the ports' transactions and the block's counts. -/
def OnlyPorts (s t : State) : Prop := ∃ ports blk, t = { s with ports := ports, blk := blk }

theorem OnlyPorts.trans {s t u : State} : OnlyPorts s t → OnlyPorts t u → OnlyPorts s u
  | ⟨_, _, ht⟩, ⟨ports, blk, hu⟩ => ⟨ports, blk, by rw [hu, ht]⟩

theorem State.demote_onlyPorts (s : State) (p id : Nat) (stamp : BitVec 32) : OnlyPorts s (s.demote p id stamp) := by
  unfold State.demote
  split
  · split
    · exact ⟨_, _, rfl⟩
    · exact ⟨_, _, rfl⟩
  · exact ⟨_, _, rfl⟩

theorem State.noteStamp_onlyPorts (s : State) (old new : Access) : OnlyPorts s (s.noteStamp old new) := by
  unfold State.noteStamp
  split
  · split
    · exact s.demote_onlyPorts _ _ _
    · exact ⟨_, _, rfl⟩
  · split
    · generalize ((s.segOf _ _).map fun e => e.waiters).getD [] = waiters
      induction waiters generalizing s with
      | nil => exact ⟨_, _, rfl⟩
      | cons w waiters ih => exact (s.demote_onlyPorts _ _ _).trans (ih _)
    · exact ⟨_, _, rfl⟩
  · exact ⟨_, _, rfl⟩

theorem OnlyPorts.land {s t : State} (h : OnlyPorts s t) (k : Nat) : t.land k = s.land k := by
  obtain ⟨_, _, rfl⟩ := h
  rfl

/-- A request of the number that waits upstream of staging. -/
def upstreamOf (id : Nat) (y : Access) : Bool := y.id == id && !y.entered

/-- The staging of a Landing with the first place that waits under a request's number taken by the request. -/
def State.withPlace (s : State) (l : Nat) (a : Access) (w : List Access) : List Access :=
  w.modify (w.findIdx (upstreamOf a.id)) fun _ => s.entering l a

def State.placeStaged (s : State) (l : Nat) (a : Access) : State :=
  s.modArb l fun x => { x with staging := s.withPlace l a x.staging }.cutDelay (s.urgent l) s.chip.cycle (s.entering l a)

theorem State.enterStaging_cases (s : State) (l : Nat) (a : Access) :
    s.enterStaging l a = s ∨ OnlyPorts (s.placeStaged l a) (s.enterStaging l a) := by
  unfold State.enterStaging
  split
  · exact .inl rfl
  · refine .inr (OnlyPorts.trans ?_ (State.noteStamp_onlyPorts _ _ _))
    split
    · exact ⟨_, _, rfl⟩
    · exact ⟨_, _, rfl⟩

theorem Arb.cutDelay_staging (x : Arb) (urgent c : Nat) (a : Access) : (x.cutDelay urgent c a).staging = x.staging := by
  unfold Arb.cutDelay
  split
  · split <;> rfl
  · rfl

/-- The request takes its place in staging, or none is free and it stays upstream. -/
theorem State.enterStaging_staging (s : State) (l : LandingId) (a : Access) :
    ((s.enterStaging l a).land l).arb.staging = (s.land l).arb.staging ∨
    ((s.enterStaging l a).land l).arb.staging = s.withPlace l a (s.land l).arb.staging := by
  rcases s.enterStaging_cases l a with h | h
  · exact .inl (by rw [h])
  · refine .inr ?_
    rw [h.land, State.placeStaged, State.modArb_land_self]
    exact Arb.cutDelay_staging _ _ _ _

theorem State.enterStaging_chip (s : State) (l : Nat) (a : Access) : (s.enterStaging l a).chip = s.chip := by
  rcases s.enterStaging_cases l a with h | ⟨_, _, h⟩
  · rw [h]
  · rw [h]
    rfl

theorem State.enterStaging_cfg (s : State) (l : Nat) (a : Access) : (s.enterStaging l a).cfg = s.cfg := by
  rcases s.enterStaging_cases l a with h | ⟨_, _, h⟩
  · rw [h]
  · rw [h]
    rfl

theorem State.entering_entered (s : State) (l : Nat) (a : Access) : (s.entering l a).entered = true := by
  unfold State.entering
  split <;> rfl

/-- A request of the block's own enters as it came. -/
theorem State.entering_of_not_ofPort (s : State) (l : Nat) {a : Access} (h : a.ofPort = false) : s.entering l a = { a with entered := true } := by
  simp [State.entering, h]

/-! ## It is not lost -/

/-- The requests of a number that wait upstream of staging. -/
def upstream (id : Nat) (l : List Access) : List Access := l.filter (upstreamOf id)

/-- A request stands in staging, or is the last of its number that waits upstream. -/
def Waits (a : Access) (l : List Access) : Prop :=
  (∃ b ∈ l, b.entered = true ∧ b.op = a.op ∧ b.stamp = a.stamp) ∨ (upstream a.id l).getLast? = some a

/-- Other requests of the number of `a`. -/
def rivals (a : Access) (l : List Access) : Nat := l.countP fun y => y.id == a.id && y != a

/-- What a refill keeps about a request while the list `rest` has still to try: fewer rivals come than places wait under its number. -/
def Safe (a : Access) (rest l : List Access) : Prop :=
  (∃ b ∈ l, b.entered = true ∧ b.op = a.op ∧ b.stamp = a.stamp) ∨
    ((upstream a.id l).getLast? = some a ∧ rivals a rest < (upstream a.id l).length)

theorem Waits.op_mem {a : Access} {l : List Access} (h : Waits a l) : ∃ b ∈ l, b.op = a.op ∧ b.stamp = a.stamp := by
  rcases h with ⟨b, hb, -, same⟩ | last
  · exact ⟨b, hb, same⟩
  · exact ⟨a, List.mem_of_mem_filter (List.mem_of_getLast? last), rfl, rfl⟩

theorem Safe.waits {a : Access} {l : List Access} (h : Safe a [] l) : Waits a l := h.imp_right fun h => h.1

/-- One request after another tries; each that finds room takes the first place under its number. -/
theorem Safe.enter {s : State} {l : LandingId} {a y : Access} {rest : List Access} (ha : a.ofPort = false)
    (h : Safe a (y :: rest) (s.land l).arb.staging) : Safe a rest ((s.enterStaging l y).land l).arb.staging := by
  have fewer : rivals a rest ≤ rivals a (y :: rest) := (List.sublist_cons_self y rest).countP_le
  have enteredStays {b : Access} (n : Nat) (hb : b.entered = true) : upstreamOf n b = false := by simp [upstreamOf, hb]
  have placed (n : Nat) : upstreamOf n (s.entering l y) = false := enteredStays n (s.entering_entered l y)
  rcases s.enterStaging_staging l y with same | taken
  · rw [same]
    exact h.imp_right fun h => ⟨h.1, by omega⟩
  rw [taken]
  rcases h with ⟨b, hb, hbe, hbs⟩ | ⟨last, room⟩
  · exact .inl ⟨b, mem_modify_findIdx (enteredStays y.id hbe) hb, hbe, hbs⟩
  by_cases hid : y.id = a.id
  · by_cases hy : y = a
    · subst hy
      refine .inl ⟨_, mem_modify_findIdx_new ?_, s.entering_entered l y, ?_⟩
      · intro none
        simp [upstream, none] at last
      · simp [s.entering_of_not_ofPort l ha]
    · have counted : rivals a (y :: rest) = rivals a rest + 1 := by simp [rivals, hid, hy]
      refine .inr ?_
      rw [State.withPlace, hid, upstream, filter_modify_findIdx_tail (placed a.id), List.getLast?_tail, List.length_tail]
      change (if (upstream a.id _).length = 1 then none else (upstream a.id _).getLast?) = some a ∧ _ < (upstream a.id _).length - 1
      rw [if_neg (by omega)]
      exact ⟨last, by omega⟩
  · refine .inr ?_
    rw [State.withPlace, upstream, filter_modify_findIdx_of_disjoint (placed a.id) (by simp [upstreamOf]; omega)]
    exact ⟨last, by change _ < (upstream a.id _).length; omega⟩

theorem Safe.refill {s : State} {l : LandingId} {a : Access} (ha : a.ofPort = false) : ∀ rest : List Access,
    Safe a rest (s.land l).arb.staging → Waits a ((rest.foldl (fun s y => s.enterStaging l y) s).land l).arb.staging := by
  intro rest
  induction rest generalizing s with
  | nil => exact Safe.waits
  | cons y rest ih => exact fun h => ih (h.enter ha)

/-- The refill of a Landing loses no request of the block's own. -/
theorem Waits.refill {s : State} {l : LandingId} {a : Access} (ha : a.ofPort = false) (h : Waits a (s.land l).arb.staging) :
    Waits a ((s.refill l).land l).arb.staging := by
  refine Safe.refill ha _ (h.imp_right fun last => ⟨last, ?_⟩)
  have order := List.filter_append_perm (fun a : Access => a.isClaim) ((s.land l).arb.staging.filter fun a => !a.entered)
  have counted : ((s.land l).arb.staging.filter fun a => !a.entered).countP (fun y => y.id == a.id && y != a) =
      (upstream a.id (s.land l).arb.staging).countP fun y => y != a := by
    simp [upstream, upstreamOf, List.countP_filter, Bool.and_assoc, Bool.and_comm]
  unfold rivals
  rw [order.countP_eq, counted, List.countP_lt_length_iff]
  exact ⟨a, List.mem_of_getLast? last, by simp⟩

end Sys2Proof.Machine

/-! SUPPORT. A readout of ECS: a read of every rank's counters reaches the Landing, and CFG stands as it was. -/

namespace Sys2Proof.Machine

/-! ## Claims presented -/

theorem State.refill_proj {α : Type} (g : State → α) (h : ∀ s l a, g (s.enterStaging l a) = g s) (s : State) (l : Nat) :
    g (s.refill l) = g s := by
  unfold State.refill
  dsimp only
  generalize List.filter _ _ ++ List.filter _ _ = rest
  induction rest generalizing s with
  | nil => rfl
  | cons a rest ih => exact (ih _).trans (h s l a)

theorem State.stage_chip (s : State) (l : Nat) (a : Access) : (s.stage l a).chip = s.chip :=
  State.refill_proj State.chip State.enterStaging_chip _ l

theorem State.present_cfg (s : State) (l : Nat) (k : ClaimKind) (stamp : BitVec 32) (em : Bool) : (s.present l k stamp em).cfg = s.cfg :=
  State.refill_proj State.cfg State.enterStaging_cfg _ l

theorem State.present_nextId (s : State) (l : Nat) (k : ClaimKind) (stamp : BitVec 32) (em : Bool) :
    (s.present l k stamp em).chip.nextId = s.chip.nextId + 1 := by
  unfold State.present
  dsimp only
  rw [State.stage_chip]
  rfl

/-- A claim of the kind under the stamp waits at the Landing, with a number given out before. -/
def Presented (s : State) (l : Nat) (k : ClaimKind) (stamp : BitVec 32) : Prop :=
  ∃ a : Access, a.id < s.chip.nextId ∧ a.ofPort = false ∧ a.op = .claim k ∧ a.stamp = stamp ∧ Waits a (s.land l).arb.staging

theorem Presented.staged {s : State} {l : Nat} {k : ClaimKind} {stamp : BitVec 32} (h : Presented s l k stamp) :
    ∃ a ∈ (s.land l).arb.staging, a.op = .claim k ∧ a.stamp = stamp := by
  obtain ⟨a, -, -, op, st, waits⟩ := h
  obtain ⟨b, hb, bop, bst⟩ := waits.op_mem
  exact ⟨b, hb, bop.trans op, bst.trans st⟩

/-- A request joins a list at its end. -/
theorem Waits.append {a b : Access} {l : List Access} (hid : b.id ≠ a.id) (h : Waits a l) : Waits a (l ++ [b]) := by
  have same : upstream a.id (l ++ [b]) = upstream a.id l := by simp [upstream, upstreamOf, hid]
  refine h.imp ?_ ?_
  · rintro ⟨c, hc, like⟩
    exact ⟨c, List.mem_append_left _ hc, like⟩
  · rw [same]
    exact id

theorem waits_append_self {a : Access} (l : List Access) (h : a.entered = false) : Waits a (l ++ [a]) :=
  .inr (by simp [upstream, upstreamOf, h])

/-- What waits at a Landing after a request has come to it. -/
theorem Waits.stage {s : State} {l : LandingId} {a b : Access} (ha : a.ofPort = false)
    (h : Waits a ((s.land l).arb.staging ++ [{ b with entered := false }])) : Waits a ((s.stage l b).land l).arb.staging := by
  refine Waits.refill ha ?_
  rw [State.modArb_land_self]
  exact h

theorem State.present_presents (s : State) (l : LandingId) (k : ClaimKind) (stamp : BitVec 32) (em : Bool) :
    Presented (s.present l k stamp em) l k stamp := by
  refine ⟨{ access s.chip.nextId .own 11 stamp (.claim k) 0 with emergency := em }, ?_, rfl, rfl, rfl, ?_⟩
  · rw [State.present_nextId]
    exact Nat.lt_succ_self _
  · exact Waits.stage rfl (waits_append_self _ rfl)

theorem Presented.present {s : State} {l : LandingId} {k : ClaimKind} {stamp : BitVec 32} (h : Presented s l k stamp)
    (k' : ClaimKind) (stamp' : BitVec 32) (em : Bool) : Presented (s.present l k' stamp' em) l k stamp := by
  obtain ⟨a, id, own, op, st, waits⟩ := h
  refine ⟨a, ?_, own, op, st, Waits.stage own (waits.append ?_)⟩
  · rw [State.present_nextId]
    omega
  · exact Nat.ne_of_gt id

/-- Claims presented one after another all wait. -/
theorem foldl_present_presents {α : Type} (kind : α → ClaimKind) (stamp : BitVec 32) (l : LandingId) {rest : List α} {s : State}
    {e : α} (h : e ∈ rest ∨ Presented s l (kind e) stamp) :
    Presented (rest.foldl (fun s e => s.present l (kind e) stamp false) s) l (kind e) stamp := by
  induction rest generalizing s with
  | nil => exact h.resolve_left List.not_mem_nil
  | cons x rest ih =>
    refine ih ?_
    rcases h with h | h
    · rcases List.mem_cons.1 h with rfl | h
      · exact .inr (s.present_presents l _ stamp false)
      · exact .inl h
    · exact .inr (h.present _ _ _)

theorem foldl_present_cfg {α : Type} (kind : α → ClaimKind) (stamp : BitVec 32) (l : Nat) (rest : List α) (s : State) :
    (rest.foldl (fun s e => s.present l (kind e) stamp false) s).cfg = s.cfg := by
  induction rest generalizing s with
  | nil => rfl
  | cons x rest ih => exact (ih _).trans (s.present_cfg l _ stamp false)

/-! ## Reports leave the Landings, and CFG where no pop stalls -/

/-- The Landings stay as they are, and so does CFG where no pop stalls. -/
structure Aside (s t : State) : Prop where
  landings : t.landings = s.landings
  cfg : s.cfg.stalled = none → t.cfg = s.cfg

theorem Aside.refl (s : State) : Aside s s := ⟨rfl, fun _ => rfl⟩

theorem Aside.trans {s t u : State} (h : Aside s t) (k : Aside t u) : Aside s u where
  landings := k.landings.trans h.landings
  cfg free := (k.cfg (by rw [h.cfg free, free])).trans (h.cfg free)

/-- Neither moves at all. -/
theorem Aside.of_eq {s t : State} (landings : t.landings = s.landings) (cfg : t.cfg = s.cfg) : Aside s t := ⟨landings, fun _ => cfg⟩

theorem foldl_aside {α : Type} {f : State → α → State} (h : ∀ s x, Aside s (f s x)) (rest : List α) (s : State) :
    Aside s (rest.foldl f s) := by
  induction rest generalizing s with
  | nil => exact .refl s
  | cons x rest ih => exact (h s x).trans (ih _)

theorem State.serveEvent_aside (s : State) : Aside s s.serveEvent where
  landings := by
    obtain ⟨_, _, h⟩ := s.serveEvent_frame
    rw [h]
  cfg free := by rw [State.serveEvent, free]

theorem State.status1Hold_aside (s : State) (code : Nat) : Aside s (s.status1Hold code) := by
  unfold State.status1Hold
  split
  · split
    · exact .of_eq rfl rfl
    · exact .refl s
  · exact .refl s

theorem State.post_aside (s : State) (type prio : Nat) (data : List W32) : Aside s (s.post type prio data) := by
  unfold State.post
  dsimp only
  split
  · exact .of_eq rfl rfl
  · refine Aside.trans ?_ (State.serveEvent_aside _)
    split
    · exact (s.status1Hold_aside 5).trans (.of_eq rfl rfl)
    · exact .of_eq rfl rfl

theorem State.popWide_landings (s : State) : s.popWide.2.landings = s.landings := by
  unfold State.popWide
  split <;> rfl

theorem State.modArcade_aside (s : State) (f : Arcade → Arcade) : Aside s (s.modArcade f) := by
  unfold State.modArcade State.serveWide
  split
  next k stalls =>
    refine ⟨?_, fun free => absurd (free.symm.trans stalls) nofun⟩
    split
    · rfl
    · exact State.popWide_landings _
  next => exact .of_eq rfl rfl

theorem State.reportAt_aside (s : State) (r : Rep) (grain time : Nat) : Aside s (s.reportAt r grain time) := by
  unfold State.reportAt
  dsimp only
  split
  · exact .of_eq rfl rfl
  · split
    · exact .of_eq rfl rfl
    · have logged (u : State) (entry : Record) : Aside u ((u.snapshot r).history entry) := (u.modArcade_aside _).trans (.of_eq rfl rfl)
      split
      · refine Aside.trans ?_ (logged _ _)
        exact .of_eq rfl rfl
      · refine Aside.trans (Aside.trans ?_ (logged _ _)) (State.post_aside _ _ _ _)
        exact .of_eq rfl rfl

theorem State.report_aside (s : State) (r : Rep) (grain : Nat) : Aside s (s.report r grain) := by
  unfold State.report
  split
  · exact s.reportAt_aside r grain s.now
  · split
    · exact .of_eq rfl rfl
    · exact .refl s

/-- A report below class F that starts no fence is a report. -/
theorem State.raise_aside (s : State) {r : Rep} (h : r.cls ≠ 3) : Aside s (s.raise r none) := by
  unfold State.raise
  split
  · exact s.report_aside r _
  · simpa [h] using s.report_aside r 0xFF

/-! ## The readout -/

/-- A readout presents its reads, under a stamp, to the Landing, and counts what they return. -/
theorem State.ecsReadout_aside (s : State) (l due : Nat) (counts : List (Fin 2 × Fin 8 × Fin 10 × Nat × Nat)) :
    ∃ n, Aside (((s.land l).rankList.foldl (fun s e => s.present l (.ecsRead e.1 e.2) (stampOf due) false) (s.openWindow l)).bumpL l 0x6AC n)
      (s.ecsReadout l due counts) := by
  unfold State.ecsReadout
  dsimp only
  refine ⟨_, foldl_aside (fun t c => ?_) _ _⟩
  split
  · exact (t.post_aside _ _ _).trans (State.raise_aside _ (show srcClass 5 3 ≠ 3 by decide))
  · exact .refl t

theorem State.bumpL_staging (s : State) (l off n k : Nat) : ((s.bumpL l off n).land k).arb.staging = (s.land k).arb.staging :=
  State.modLand_land_proj (fun x => x.arb.staging) (by intro x; rfl) s l k

theorem State.ecsReadout_staging (s : State) (l : LandingId) (due : Nat) (counts : List (Fin 2 × Fin 8 × Fin 10 × Nat × Nat)) :
    ∀ e ∈ (s.land l).rankList, ∃ a ∈ ((s.ecsReadout l due counts).land l).arb.staging, a.op = .claim (.ecsRead e.1 e.2) ∧
      a.stamp = stampOf due := by
  intro e he
  obtain ⟨n, aside⟩ := s.ecsReadout_aside l due counts
  have staged := (foldl_present_presents (fun e => ClaimKind.ecsRead e.1 e.2) (stampOf due) l (s := s.openWindow l) (.inl he)).staged
  rw [State.land, aside.landings]
  change ∃ a ∈ (State.land _ l).arb.staging, _
  rw [State.bumpL_staging]
  exact staged

theorem State.ecsReadout_cfg {s : State} (l due : Nat) (counts : List (Fin 2 × Fin 8 × Fin 10 × Nat × Nat)) (h : s.cfg.stalled = none) :
    (s.ecsReadout l due counts).cfg = s.cfg := by
  obtain ⟨n, aside⟩ := s.ecsReadout_aside l due counts
  have presented := foldl_present_cfg (fun e => ClaimKind.ecsRead e.1 e.2) (stampOf due) l (s.land l).rankList (s.openWindow l)
  refine (aside.cfg ?_).trans presented
  exact (congrArg Cfg.stalled presented).trans h

end Sys2Proof.Machine

/-! SUPPORT. Writes and reads past the gate, address by address. -/

namespace Sys2Proof.Machine

open Sys2Proof.Slice (CfgFree CfgOpen cfgOk Rising)

/-- A whole-word write where CFG is open has its effect at once. -/
theorem cfgWrite_of_open {s : State} {a : Nat} (h : CfgOpen s a) (d : W32) (f : State → State) :
    s.cfgWrite a ⟨0xF, d⟩ f = (f s).cfgReply 0 false := by
  obtain ⟨⟨alive, free⟩, here, on⟩ := h
  exact cfgWrite_open d f alive free here on

theorem stalled_of_free {s : State} (h : CfgFree s) : s.cfg.stalled = none := by
  obtain ⟨-, free⟩ := h
  simpa using (Bool.or_eq_false_iff.1 free).1

/-- The pages below the DMA channels belong to no Gallery. -/
theorem sliceOf_low {a : Nat} (h : a < 0x100000) : sliceOf a = none := if_neg (by omega)

theorem State.absentAt_low (s : State) {a : Nat} (h : a < 0x10000) : s.absentAt a = false := by
  rw [State.absentAt, sliceOf_low (by omega)]
  simp; omega

/-- The pages of the identification and of the Power Manager are always on. -/
theorem State.domainDown_always (s : State) {a : Nat} (h : a < 0xF00 ∨ 0x1000 ≤ a ∧ a < 0x2000) : s.domainDown a = false := if_pos h

theorem cfgOpen_always {s : State} {a : Nat} (free : CfgFree s) (h : a < 0xF00 ∨ 0x1000 ≤ a ∧ a < 0x2000) : CfgOpen s a :=
  ⟨free, s.absentAt_low (by omega), s.domainDown_always h⟩

/-! ## Timing registers and `PHY_PLL` -/

theorem sliceOf_landAddr (l : LandingId) {off : Nat} (h : off < 0x4000) :
    sliceOf (landAddr l off) = some (l.val / 4, 0x10000 + l.val % 4 * 0x4000 + off) := by
  unfold sliceOf landAddr
  rw [if_pos (by omega), Option.some.injEq, Prod.mk.injEq]
  omega

/-- A Landing whose page takes a write is present. -/
theorem present_of_open {s : State} {l : LandingId} {off : Nat} (h : CfgOpen s (landAddr l off)) (ho : off < 0x4000) : l.val < s.nLand := by
  obtain ⟨-, here, -⟩ := h
  rw [State.absentAt, sliceOf_landAddr l ho] at here
  have gallery : ¬ s.nGal ≤ l.val / 4 := by
    intro gone
    simp [gone] at here
  unfold State.nGal at gallery
  unfold State.nLand
  omega

theorem exec_timingRegisterWrite {s : State} {l : LandingId} {off : Fin 64} (d : W32) (h : CfgOpen s (landAddr l (0x800 + 4 * off.val)))
    (ht : isTiming (0x800 + 4 * off.val) = true) :
    exec (.timingRegisterWrite l off ⟨0xF, d⟩) s = .next ((s.rwlLand l (0x800 + 4 * off.val) d).cfgReply 0 false) := by
  change Host.Outcome.next (s.cfgWrite _ _ _) = _
  rw [cfgWrite_of_open h, if_pos ht]

/-- An accepted write of a timing register. -/
theorem timingWrite_accepted {s : State} {l : LandingId} {off : Fin 64} {d v : W32} (h : CfgOpen s (landAddr l (0x800 + 4 * off.val)))
    (hb : s.chip.bringup = true) (ht : isTiming (0x800 + 4 * off.val) = true) (taken : s.landTry l (0x800 + 4 * off.val) d = some v)
    (rising : Rising (s.land (homeLand l (0x800 + 4 * off.val))).page.regs) :
    ∃ t, exec (.timingRegisterWrite l off ⟨0xF, d⟩) s = .next t ∧ t.lw l (0x800 + 4 * off.val) = v ∧ t.cfg = cfgOk s ∧
      (0x800 + 4 * off.val ≠ offRefi → (t.land l).tchk = (s.land l).tchk ||| 4) ∧
      (0x800 + 4 * off.val = offRefi → ∀ k : LandingId, k.val < s.nLand → (t.land k).refiPend = true) := by
  refine ⟨_, exec_timingRegisterWrite d h ht, ?_⟩
  rw [State.rwlLand_timing d ht hb rising, State.landLeft_of_some taken, taken]
  generalize 0x800 + 4 * off.val = o at *
  refine ⟨?_, ?_, fun own => ?_, fun refi k hk => ?_⟩
  · exact (State.timingMark_lw _ l o true).trans (State.putLand_lw s l o v rising)
  · exact congrArg (·.answer 0 false) (State.timingMark_cfg _ l o true)
  · exact (State.timingMark_accepted _ l own).trans
      (congrArg (· ||| 4) (State.modLand_land_proj Landing.tchk (by intro x; rfl) s (homeLand l o) l))
  · subst refi
    exact State.timingMark_refi _ l k hk

/-- A rejected write of a timing register. -/
theorem timingWrite_rejected {s : State} {l : LandingId} {off : Fin 64} {d : W32} (h : CfgOpen s (landAddr l (0x800 + 4 * off.val)))
    (hb : s.chip.bringup = true) (ht : isTiming (0x800 + 4 * off.val) = true) (refused : s.landTry l (0x800 + 4 * off.val) d = none)
    (rising : Rising (s.land (homeLand l (0x800 + 4 * off.val))).page.regs) :
    ∃ t, exec (.timingRegisterWrite l off ⟨0xF, d⟩) s = .next t ∧ t.lw l (0x800 + 4 * off.val) = s.lw l (0x800 + 4 * off.val) ∧
      t.cfg = cfgOk s ∧ (t.land l).tchk.getLsbD 0 = true ∧ fld (t.land l).tchk 15 8 = off.val := by
  refine ⟨_, exec_timingRegisterWrite d h ht, ?_⟩
  rw [State.rwlLand_timing d ht hb rising, State.landLeft_of_none ht refused, refused]
  have marked := State.timingMark_rejected (s.putLand l (0x800 + 4 * off.val) (s.lw l (0x800 + 4 * off.val))) l (0x800 + 4 * off.val)
    (present_of_open h (by omega))
  rw [show (0x800 + 4 * off.val - 0x800) / 4 = off.val by omega] at marked
  refine ⟨?_, ?_, ?_⟩
  · exact (State.timingMark_lw _ l _ false).trans (State.putLand_lw s l _ _ rising)
  · exact congrArg (·.answer 0 false) (State.timingMark_cfg _ l _ false)
  · rw [State.cfgReply_land, Option.isSome_none, marked]
    exact tchk_rejected _ off

/-- Outside Bring-up mode a timing register ignores the write. -/
theorem timingWrite_closed {s : State} {l : LandingId} {off : Fin 64} (d : W32) (h : CfgOpen s (landAddr l (0x800 + 4 * off.val)))
    (hb : s.chip.bringup = false) : exec (.timingRegisterWrite l off ⟨0xF, d⟩) s = .next { s with cfg := cfgOk s } := by
  change Host.Outcome.next (s.cfgWrite _ _ _) = _
  rw [cfgWrite_of_open h, State.rwlLand_closed l _ d hb, ite_self]
  rfl

theorem exec_phyPllWrite {s : State} {l : LandingId} (d : W32) (h : CfgOpen s (landAddr l 0x1008)) :
    exec (.phyPllWrite l ⟨0xF, d⟩) s = .next ((s.rwlLand l 0x1008 d).cfgReply 0 false) :=
  congrArg Host.Outcome.next (cfgWrite_of_open h d fun s => s.rwlLand l 0x1008 d)

theorem State.rwlLand_pll_ignored {s : State} {l : Nat} (d : W32) (h : s.chip.bringup = false ∨ s.pllFree (l / 4) = false) :
    s.rwlLand l 0x1008 d = s := by
  rcases h with hb | hp
  · exact State.rwlLand_closed l _ d hb
  · simp [State.rwlLand, hp]

/-- `PHY_PLL` takes its word, and the PLL has to lock again where the word is a new one (R275). -/
theorem State.rwlLand_pll {s : State} {l : Nat} (d : W32) (hb : s.chip.bringup = true) (hp : s.pllFree (l / 4) = true) :
    s.rwlLand l 0x1008 d = if s.landLeft l 0x1008 d != s.lw l 0x1008 then
      (s.putLand l 0x1008 (s.landLeft l 0x1008 d)).modGal (l / 4) fun x => { x with pllLock := false }
    else s.putLand l 0x1008 (s.landLeft l 0x1008 d) := by
  have masked : landMask 0x1008 ≠ 0 := by decide
  have untimed : isTiming 0x1008 = false := by decide
  simp only [State.rwlLand, State.rwl, hb, masked, hp, untimed, State.landLeft]
  simp

theorem pllWrite_taken {s : State} {l : LandingId} {d v : W32} (h : CfgOpen s (landAddr l 0x1008)) (hb : s.chip.bringup = true)
    (hp : s.pllFree (l / 4) = true) (taken : s.landTry l 0x1008 d = some v) (rising : Rising (s.land (l / 4 * 4)).page.regs) :
    ∃ t, exec (.phyPllWrite l ⟨0xF, d⟩) s = .next t ∧ t.lw l 0x1008 = v ∧ t.cfg = cfgOk s ∧
      (t.gal (l / 4)).pllLock = ((s.gal (l / 4)).pllLock && decide (v = s.lw l 0x1008)) := by
  refine ⟨_, exec_phyPllWrite d h, ?_⟩
  rw [State.rwlLand_pll d hb hp, State.landLeft_of_some taken]
  have written : (s.putLand l 0x1008 v).lw l 0x1008 = v := State.putLand_lw s l 0x1008 v rising
  have unlocked := congrArg Gallery.pllLock
    (State.modGal_gal_self (s.putLand l 0x1008 v) ⟨l / 4, by omega⟩ fun x => { x with pllLock := false })
  by_cases same : v = s.lw l 0x1008
  · rw [if_neg (by simp [same])]
    refine ⟨written, rfl, ?_⟩
    simp [same]
  · rw [if_pos (by simp [same])]
    refine ⟨written, rfl, ?_⟩
    simp only [same, decide_false, Bool.and_false]
    exact unlocked

/-! ## A readout of ECS -/

theorem State.rwlLand_ecs (s : State) (l : Nat) (w : W32) : s.rwlLand l 0x62C w = s ∨ ∃ v, s.rwlLand l 0x62C w = s.putLand l 0x62C v := by
  have untimed : isTiming 0x62C = false := by decide
  unfold State.rwlLand
  split
  · exact .inl rfl
  · exact .inr ⟨_, by simp [untimed]; rfl⟩

/-- A written word is not yet in force, and moves nothing else of its Landing. -/
theorem State.putLand_keeps {α : Type} (g : Landing → α) (h : ∀ x r, g { x with page := { x.page with regs := r } } = g x)
    (s : State) (i off : Nat) (v : W32) (k : Nat) : g ((s.putLand i off v).land k) = g (s.land k) :=
  State.modLand_land_proj g (fun x => h x _) s (homeLand i off) k

theorem State.putLand_mntRuns (s : State) (i off : Nat) (v : W32) (l : Nat) : (s.putLand i off v).mntRuns l = s.mntRuns l := by
  have parts := State.putLand_keeps (fun x => (x.sbd, x.seq)) (by intro x r; rfl) s i off v l
  obtain ⟨sbd, seq⟩ := Prod.mk.inj parts
  unfold State.mntRuns
  rw [sbd, seq]
  rfl

theorem State.putLand_ecsOn (s : State) (i off : Nat) (v : W32) (l : Nat) : (s.putLand i off v).ecsOn l = s.ecsOn l := by
  have live := State.putLand_keeps (fun x => x.page.live) (by intro x r; rfl) s i off v (homeLand l 0x600)
  unfold State.ecsOn State.lv
  rw [live]

theorem State.putLand_rankList (s : State) (i off : Nat) (v : W32) (l : Nat) :
    ((s.putLand i off v).land l).rankList = (s.land l).rankList :=
  State.putLand_keeps Landing.rankList (by intro x r; rfl) s i off v l

/-- A readout that may go now presents its reads and leaves CFG. -/
theorem ecsRead_reads {s : State} {l : LandingId} {d : W32} (counts : List (Fin 2 × Fin 8 × Fin 10 × Nat × Nat)) (hd : d.getLsbD 0 = true)
    (on : s.ecsOn l = true) (runs : s.mntRuns l = true) (unclaimed : s.windowClaimed l = false) (stall : s.cfg.stalled = none) :
    (s.ecsRead l d counts).cfg = s.cfg ∧ ∀ e ∈ (s.land l).rankList, ∃ a ∈ ((s.ecsRead l d counts).land l).arb.staging,
      a.op = .claim (.ecsRead e.1 e.2) ∧ a.stamp = stampOf s.now := by
  rcases s.rwlLand_ecs l d with same | ⟨v, put⟩
  · have reads : s.ecsRead l d counts = s.ecsReadout l s.now counts := by
      simp only [State.ecsRead, same, hd, on, runs, unclaimed]
      simp
    rw [reads]
    exact ⟨s.ecsReadout_cfg l _ counts stall, s.ecsReadout_staging l _ counts⟩
  · have reads : s.ecsRead l d counts = (s.putLand l 0x62C v).ecsReadout l s.now counts := by
      have unclaimed' : (s.putLand l 0x62C v).windowClaimed l = false := unclaimed
      simp only [State.ecsRead, put, hd, State.putLand_ecsOn, State.putLand_mntRuns, on, runs, unclaimed']
      simp
    rw [reads, ← s.putLand_rankList l 0x62C v l]
    exact ⟨State.ecsReadout_cfg l _ counts stall, State.ecsReadout_staging _ l _ counts⟩

theorem ecsRead_staged {s : State} {l : LandingId} {d : W32} (counts : List (Fin 2 × Fin 8 × Fin 10 × Nat × Nat))
    (h : CfgOpen s (landAddr l 0x62C)) (hd : d.getLsbD 0 = true) (on : s.ecsOn l = true) (runs : s.mntRuns l = true)
    (unclaimed : s.windowClaimed l = false) :
    ∃ t, exec (.mntEcsRead l ⟨0xF, d⟩ counts) s = .next t ∧ t.cfg = cfgOk s ∧
      ∀ e ∈ (s.land l).rankList, ∃ a ∈ (t.land l).arb.staging, a.op = .claim (.ecsRead e.1 e.2) ∧ a.stamp = stampOf s.now := by
  obtain ⟨cfg, staged⟩ := ecsRead_reads counts hd on runs unclaimed (stalled_of_free h.1)
  obtain ⟨⟨alive, free⟩, here, up⟩ := h
  refine ⟨(s.ecsRead l d counts).cfgReply 0 false, ?_, congrArg (·.answer 0 false) cfg, staged⟩
  change Host.Outcome.next (s.cfgRequest _ _) = _
  simp [State.cfgRequest, State.writeGate, alive, free, here, up]

end Sys2Proof.Machine

/-! SUPPORT. Registers of the block's own pages, the descriptor window, and the latched reads. -/

namespace Sys2Proof.Machine

open Sys2Proof.Slice (CfgFree CfgOpen cfgOk Rising)

/-! ## Writes by address -/

theorem exec_registerWrite {s : State} {addr : BitVec 21} (d : W32) (h : CfgOpen s (wordAddr addr)) :
    exec (.registerWrite addr ⟨0xF, d⟩) s = .next ((s.writeWordAt (wordAddr addr) d).cfgReply 0 false) :=
  congrArg Host.Outcome.next (cfgWrite_of_open h d fun s => s.writeWordAt (wordAddr addr) d)

/-- The wake timer of the Power Manager. -/
theorem State.writeWordAt_timer (s : State) (d : W32) : s.writeWordAt 0x1010 d = s.modPwr fun p => { p with timer := d } := by
  rw [State.writeWordAt, sliceOf_low (by omega)]
  simp [State.writePwr]

/-- The status and the enables of the fault interrupt. -/
theorem State.writeWordAt_faultIrq (s : State) (d : W32) :
    s.writeWordAt 0x2008 d = s.modFlt fun f => { f with irq := f.irq &&& ~~~(d.extractLsb' 0 4), en := d.extractLsb' 8 4 } := by
  rw [State.writeWordAt, sliceOf_low (by omega)]
  simp

/-- The pages of the mailboxes stand between the fault collector's and the queues'. -/
theorem boxBase_range (m : MailboxId) : 0x3000 ≤ boxBase m ∧ boxBase m + 0x1000 ≤ 0xC000 := by
  unfold boxBase
  split <;> omega

theorem boxBase_page (m : MailboxId) {o : Nat} (h : o < 0x1000) :
    (if boxBase m + o < 0x4000 then 8 else (boxBase m + o - 0x4000) / 0x1000) = m.val ∧ (boxBase m + o) % 0x1000 = o := by
  unfold boxBase
  split <;> split <;> omega

theorem State.writeWordAt_box (s : State) (m : MailboxId) {o : Nat} (h : o < 0x1000) (d : W32) :
    s.writeWordAt (boxBase m + o) d = s.writeBox m o d := by
  obtain ⟨low, high⟩ := boxBase_range m
  obtain ⟨page, rest⟩ := boxBase_page m h
  rw [State.writeWordAt, sliceOf_low (by omega)]
  dsimp only
  rw [if_neg (by omega), if_neg (by omega), if_neg (by omega), if_neg (by omega), if_neg (by omega), if_pos (by omega), page, rest]

/-- A command word of a mailbox in BUSY only sets `OVERRUN` (R439). -/
theorem State.writeBox_busy {s : State} {m o : Nat} (h : o < 0x100) (busy : (s.box m).state = .busy) (d : W32) :
    s.writeBox m o d = s.modBox m fun b => { b with overrun := true } := by
  simp [State.writeBox, h, busy]

/-- A word of the descriptor window. -/
theorem State.writeWordAt_desc (s : State) {a : Nat} (low : 0x18000 ≤ a) (high : a < 0x20000) (d : W32) :
    s.writeWordAt a d = s.writeDesc a d := by
  rw [State.writeWordAt, sliceOf_low (by omega)]
  dsimp only
  rw [if_neg (by omega), if_neg (by omega), if_neg (by omega), if_neg (by omega), if_neg (by omega), if_neg (by omega), if_neg (by omega),
    if_neg (by omega), if_neg (by omega), if_neg (by omega), if_pos (by omega)]

/-! ## Bytes of a written word -/

/-- Bytes written at an address leave every byte past them alone. -/
theorem readByte_writeBytes_ge (b : Nat) : ∀ (bs : List Byte) {m : Memory} (a : Nat), Memory.wf m = true → a + bs.length ≤ b →
    readByte (writeBytes m a bs) b = readByte m b
  | [], _, _, _, _ => rfl
  | v :: bs, m, a, h, hb => by
    rw [List.length_cons] at hb
    rw [writeBytes, readByte_writeBytes_ge b bs (a + 1) (writeByte_wf a v h) (by omega), readByte_writeByte_ne v (by omega) h]

/-- The four bytes of a word, put together again. -/
theorem wordBytes_append (w : W32) :
    (w.extractLsb' 24 8 ++ w.extractLsb' 16 8 ++ w.extractLsb' 8 8 ++ w.extractLsb' 0 8 : BitVec 32) = w := by
  rw [BitVec.extractLsb'_append_extractLsb'_eq_extractLsb' (by rfl), BitVec.extractLsb'_append_extractLsb'_eq_extractLsb' (by rfl),
    BitVec.extractLsb'_append_extractLsb'_eq_extractLsb' (by rfl)]
  exact BitVec.extractLsb'_eq_self

/-- A word that has been written reads back. -/
theorem readWord_writeBytes {m : Memory} (a : Nat) (w : W32) (h : Memory.wf m = true) : readWord (writeBytes m a (wordBytes w)) a = w := by
  have bytes := readBytes_writeBytes (wordBytes w) a h
  simp only [readBytes, wordBytes, List.length_cons, List.length_nil, List.range_succ, List.range_zero, List.map_cons,
    List.map_nil, List.nil_append, List.cons_append, List.cons.injEq, Nat.zero_add, Nat.add_zero, and_true] at bytes
  obtain ⟨b0, b1, b2, b3⟩ := bytes
  rw [readWord, wordBytes, b0, b1, b2, b3]
  exact wordBytes_append w

theorem descWrite_readsBack {s : State} {addr : BitVec 21} (d : W32) (low : 0x18000 ≤ addr.toNat) (high : addr.toNat < 0x20000)
    (h : CfgOpen s (wordAddr addr)) (wf : s.desc.wf = true) :
    ∃ t, exec (.registerWrite addr ⟨0xF, d⟩) s = .next t ∧ t.cfg = cfgOk s ∧ t.desc.wf = true ∧
      readWord t.desc (wordAddr addr - 0x18000) = d ∧ t.dma = s.dma ∧
      ∀ b, b < wordAddr addr - 0x18000 ∨ wordAddr addr - 0x18000 + 4 ≤ b → readByte t.desc b = readByte s.desc b := by
  refine ⟨_, exec_registerWrite d h, ?_⟩
  rw [State.writeWordAt_desc s (by unfold wordAddr; omega) (by unfold wordAddr; omega)]
  refine ⟨rfl, writeBytes_wf _ _ wf, readWord_writeBytes _ d wf, rfl, fun b outside => ?_⟩
  rcases outside with below | above
  · exact readByte_writeBytes_lt b _ _ wf below
  · exact readByte_writeBytes_ge b _ _ wf above

/-! ## Reads -/

/-- A read that CFG takes at once of a word of the always-on pages. -/
theorem exec_lowWordRead {s : State} {addr : BitVec 21} (strb : BitVec 4) (free : CfgFree s) (low : wordAddr addr < 0xF00) :
    exec (.lowWordRead addr strb) s =
      .next ((s.readWordAt (wordAddr addr)).2.cfgReply (s.readWordAt (wordAddr addr)).1 (decide (strb ≠ 0xF))) := by
  change Host.Outcome.next (s.cfgRead _ _ _) = _
  rw [cfgRead_free _ _ _ free.1 free.2, State.readAt, if_neg (by unfold addrEqPop; omega), if_neg (by unfold addrArPop; omega), State.readGate,
    s.absentAt_low (by omega), s.domainDown_always (.inl low)]
  rfl

/-- The low word of the time loads its latch. -/
theorem State.readWordAt_time (s : State) : s.readWordAt 0x10 =
    (BitVec.ofNat 32 s.now, { s with cfg := { s.cfg with latches := setW 0 s.cfg.latches 0x10 (BitVec.ofNat 32 (s.now / 2 ^ 32)) } }) := rfl

/-- The high word of the time answers from the latch. -/
theorem State.readWordAt_timeHigh (s : State) : s.readWordAt 0x14 = (getW 0 s.cfg.latches 0x10, s) := rfl

end Sys2Proof.Machine

section
open Sys2Proof Sys2Proof.Machine Sys2Proof.Slice

/-- Settles O39: the Landings' registers by `timingWrite_accepted` and its neighbours, a readout of ECS by `ecsRead_staged`, the block's
registers by the address of their word. -/
theorem registersTakeTheirWritesAndReads : Obligations.RegistersTakeTheirWritesAndReads := by
  unfold Obligations.RegistersTakeTheirWritesAndReads
  refine ⟨?timing, ?closed, ?pll, ?pllIgnored, ?longest, ?ecs, ?timer, ?irq, ?box, ?desc, ?low, ?high, ?waits, ?dead⟩
  case timing =>
    intro s l off d h hb ht
    exact ⟨fun v taken => timingWrite_accepted h hb ht taken, fun refused => timingWrite_rejected h hb ht refused⟩
  case closed =>
    intro s l off d h hb
    exact timingWrite_closed d h hb
  case pll =>
    intro s l d v h hb hp
    exact pllWrite_taken h hb hp
  case pllIgnored =>
    intro s l d h ignored
    rw [exec_phyPllWrite d h, State.rwlLand_pll_ignored d ignored]
    rfl
  case longest =>
    intro s l h
    exact congrArg Host.Outcome.next (cfgWrite_of_open h 1 fun s => s.clrLongest l)
  case ecs =>
    intro s l d counts h
    exact ecsRead_staged counts h
  case timer =>
    intro s d free
    rw [exec_registerWrite d (cfgOpen_always free (by decide))]
    exact congrArg (fun t : State => Host.Outcome.next (t.cfgReply 0 false)) (s.writeWordAt_timer d)
  case irq =>
    intro s d h
    rw [exec_registerWrite (addr := 0x2008) d h]
    exact congrArg (fun t : State => Host.Outcome.next (t.cfgReply 0 false)) (s.writeWordAt_faultIrq d)
  case box =>
    intro s m k d h busy
    have range := boxBase_range m
    have word : wordAddr (BitVec.ofNat 21 (boxBase m + 4 * k)) = boxBase m + 4 * k := by
      have aligned : boxBase m % 4 = 0 := by
        unfold boxBase
        split <;> omega
      simp only [wordAddr, BitVec.toNat_ofNat]
      omega
    rw [exec_registerWrite d (word.symm ▸ h), word, s.writeWordAt_box m (by omega) d, State.writeBox_busy (by omega) busy]
    rfl
  case desc =>
    intro s addr d low high
    exact descWrite_readsBack d low high
  case low =>
    intro s strb free
    exact exec_lowWordRead (addr := 0x10) strb free (by decide)
  case high =>
    intro s strb free
    exact exec_lowWordRead (addr := 0x14) strb free (by decide)
  case waits =>
    intro s addr strb alive waits
    change Host.Outcome.next (s.cfgRead _ _ _) = _
    simp [State.cfgRead, State.cfgRequest, alive, waits]
  case dead =>
    intro s addr strb dead
    exact congrArg Host.Outcome.next (cfgRead_dead _ strb _ dead)

end

/-! SUPPORT. What the answers to a port's requests leave alone: the mailboxes, the halls, the DMA channels, and of every port whether it is
open and its sequences. -/

namespace Sys2Proof.Machine

/-- Nothing moves of the mailboxes, the halls, the DMA channels, and of the ports' states and sequences. -/
structure Answering (s t : State) : Prop where
  boxes : t.boxes = s.boxes
  halls : t.halls = s.halls
  dma : t.dma = s.dma
  ports : ∀ k, ((t.port k).state, (t.port k).seqs) = ((s.port k).state, (s.port k).seqs)

theorem Answering.refl (s : State) : Answering s s := ⟨rfl, rfl, rfl, fun _ => rfl⟩

theorem Answering.trans {s t u : State} (h : Answering s t) (k : Answering t u) : Answering s u where
  boxes := k.boxes.trans h.boxes
  halls := k.halls.trans h.halls
  dma := k.dma.trans h.dma
  ports p := (k.ports p).trans (h.ports p)

/-- A change that reaches none of the four parts of the state. -/
theorem Answering.of_eq {s t : State} (boxes : t.boxes = s.boxes) (halls : t.halls = s.halls) (dma : t.dma = s.dma)
    (ports : t.ports = s.ports) : Answering s t :=
  ⟨boxes, halls, dma, fun k => by rw [State.port, State.port, ports]⟩

/-- The same before a change that keeps them. -/
theorem Answering.after {s t u : State} (h : Answering t u) (boxes : t.boxes = s.boxes) (halls : t.halls = s.halls)
    (dma : t.dma = s.dma) (ports : t.ports = s.ports) : Answering s u :=
  (Answering.of_eq boxes halls dma ports).trans h

theorem ite_answering {s t u : State} {c : Prop} [Decidable c] (ht : Answering s t) (hu : Answering s u) :
    Answering s (if c then t else u) := by
  split
  · exact ht
  · exact hu

theorem foldl_answering {α : Type} {f : State → α → State} {rest : List α} (h : ∀ s, ∀ x ∈ rest, Answering s (f s x)) (s : State) :
    Answering s (rest.foldl f s) := by
  induction rest generalizing s with
  | nil => exact .refl s
  | cons x rest ih => exact (h s x List.mem_cons_self).trans (ih (fun s y hy => h s y (List.mem_cons_of_mem x hy)) _)

/-- What a change of a port leaves alone, it leaves alone in every port. -/
theorem State.modPort_port_proj {α : Type} (g : Port → α) {f : Port → Port} (h : ∀ x, g (f x) = g x) (s : State) (i k : Nat) :
    g ((s.modPort i f).port k) = g (s.port k) := by
  by_cases hik : i = k
  · subst hik
    by_cases hi : i < 9
    · exact (congrArg g (State.modPort_port_self s ⟨i, hi⟩ f)).trans (h _)
    · simp [State.modPort, State.setPort, State.port, hi]
  · rw [State.modPort_port_ne s i k f hik]

theorem State.modPort_answering (s : State) (p : Nat) {f : Port → Port} (h : ∀ x, ((f x).state, (f x).seqs) = (x.state, x.seqs)) :
    Answering s (s.modPort p f) :=
  ⟨rfl, rfl, rfl, State.modPort_port_proj (fun x => (x.state, x.seqs)) h s p⟩

/-! ## Reports -/

theorem State.post_answering (s : State) (type prio : Nat) (data : List W32) : Answering s (s.post type prio data) := by
  obtain ⟨_, _, _, h⟩ := s.post_frame type prio data
  rw [h]
  exact .of_eq rfl rfl rfl rfl

theorem State.popWide_answering (s : State) : Answering s s.popWide.2 := by
  unfold State.popWide
  split <;> exact .of_eq rfl rfl rfl rfl

theorem State.modArcade_answering (s : State) (f : Arcade → Arcade) : Answering s (s.modArcade f) := by
  have changed : Answering s { s with arcade := f s.arcade } := .of_eq rfl rfl rfl rfl
  unfold State.modArcade State.serveWide
  split
  · split
    · exact changed
    · exact changed.trans ((State.popWide_answering _).trans (.of_eq rfl rfl rfl rfl))
  · exact changed

theorem State.reportAt_answering (s : State) (r : Rep) (grain time : Nat) : Answering s (s.reportAt r grain time) := by
  have logged (u : State) (entry : Record) : Answering u ((u.snapshot r).history entry) :=
    (u.modArcade_answering _).trans (.of_eq rfl rfl rfl rfl)
  unfold State.reportAt
  dsimp only
  split
  · exact .of_eq rfl rfl rfl rfl
  · split
    · exact .of_eq rfl rfl rfl rfl
    · split
      · refine Answering.trans ?_ (logged _ _)
        exact .of_eq rfl rfl rfl rfl
      · refine Answering.trans (Answering.trans ?_ (logged _ _)) (State.post_answering _ _ _ _)
        exact .of_eq rfl rfl rfl rfl

theorem State.report_answering (s : State) (r : Rep) (grain : Nat) : Answering s (s.report r grain) := by
  unfold State.report
  split
  · exact s.reportAt_answering r grain s.now
  · split
    · exact .of_eq rfl rfl rfl rfl
    · exact .refl s

/-! ## Responses -/

theorem Answering.bumpB {s t : State} {a n : Nat} (h : Answering s t) : Answering s (t.bumpB a n) := h.trans (.of_eq rfl rfl rfl rfl)

theorem State.status1Hold_answering (s : State) (code : Nat) : Answering s (s.status1Hold code) := by
  unfold State.status1Hold
  split
  · split
    · exact .of_eq rfl rfl rfl rfl
    · exact .refl s
  · exact .refl s

theorem State.countLate_answering (s : State) (p : Nat) (t : Txn) : Answering s (s.countLate p t) := by
  unfold State.countLate
  dsimp only
  split
  · exact .of_eq rfl rfl rfl rfl
  · split
    · exact .of_eq rfl rfl rfl rfl
    · next l _ =>
      have counted : Answering s (State.status1Hold ((s.bumpB (userCount p 0x18) 1).bumpL l 0x40 1) 2) :=
        (State.status1Hold_answering _ 2).after rfl rfl rfl rfl
      split
      · exact counted.trans (.of_eq rfl rfl rfl rfl)
      · split
        · exact counted
        · exact counted.trans (State.report_answering _ _ _)

theorem State.send_answering (s : State) (p : Nat) (t : Txn) (r : Resp) : Answering s (s.send p t r) := by
  unfold State.send
  dsimp only
  refine ite_answering (.trans ?sent (State.countLate_answering _ p t)) ?sent
  refine ite_answering (Answering.bumpB ?spent) ?spent
  refine Answering.after (State.modPort_answering _ p ?_) rfl rfl rfl rfl
  intro x
  rfl

theorem State.trySend_answering (s : State) (p n : Nat) : Answering s (s.trySend p n) := by
  induction n generalizing s with
  | zero => exact .refl s
  | succ n ih =>
    unfold State.trySend
    split
    · exact s.modPort_answering p (by intro x; rfl)
    · split
      · exact .refl s
      · exact (s.send_answering p _ _).trans (ih _)

theorem State.flushPort_answering (s : State) (p : Nat) : Answering s (s.flushPort p) := s.trySend_answering p _

theorem State.modTxn_answering (s : State) (p id : Nat) (f : Txn → Txn) : Answering s (s.modTxn p id f) :=
  s.modPort_answering p (by intro x; rfl)

theorem State.form_answering (s : State) (p id : Nat) (st : Status) (poison : Bool) (data : BitVec 512) :
    Answering s (s.form p id st poison data) := by
  unfold State.form
  split
  · exact .refl s
  · split
    · exact .refl s
    · exact (s.modTxn_answering p id _).trans (State.flushPort_answering _ p)

/-! ## Merges broken -/

/-- A refused request of a port is answered, and its line released. -/
theorem State.refuseOne_answering {s : State} {l : Nat} {a : Access} {p id : Nat} (st : Status) (h : a.client = .host p id) :
    Answering s (s.refuseOne l a st) := by
  unfold State.refuseOne State.deliver
  dsimp only
  rw [h]
  exact (State.form_answering _ p id st _ _).after rfl rfl rfl rfl

theorem State.breakMerges_answering (s : State) (p : Nat) : Answering s (s.breakMerges p) := by
  refine foldl_answering (fun s l _ => foldl_answering (fun s a ha => ?_) s) s
  have mine := (List.mem_filter.1 ha).2
  cases hc : a.client with
  | host q id => exact State.refuseOne_answering _ hc
  | _ => simp [hc] at mine

end Sys2Proof.Machine

/-! SUPPORT. The general commands, each by its outcomes. -/

namespace Sys2Proof.Machine

open Sys2Proof.Slice (Begins worksInHalt boxesOn answered)

/-- A command without DRAM work that begins has its effect, and the block goes on. -/
theorem amiom_of_begins {s : State} {m : MailboxId} {opc : Nat} (f : State → State) (h : Begins s m opc)
    (halt : worksInHalt.contains opc = true → ((opcodeRow opc).map (·.2)).getD false = true) (dry : needsDram opc = false) :
    s.amiom m opc f = .next (f s).pump := by
  obtain ⟨busy, waits, opcode, ready, may, works⟩ := h
  exact amiom_begins f busy waits opcode ready may (works.imp_right halt) (.inl dry)

/-- A deferred change and the command's end come together, and the mailbox goes on until then. -/
theorem State.defer_finishAtBoundary (s : State) (m : MailboxId) (d : Deferred) :
    (s.defer d).finishAtBoundary m [] = { s with
      misc := { s.misc with deferred := s.misc.deferred ++ [d, .done m (s.box m).taken []] }
      boxes := boxesOn s m } := by
  have both := List.append_cons s.misc.deferred d [.done m (s.box m).taken []]
  rw [both]
  rfl

theorem exec_bringup {s : State} {m : MailboxId} (h : Begins s m 0x0002) :
    exec (.bringup m) s = .next ((s.defer (.bringup (((s.box m).word 2).getLsbD 0))).finishAtBoundary m []).pump :=
  amiom_of_begins (fun s => (s.defer (.bringup (((s.box m).word 2).getLsbD 0))).finishAtBoundary m []) h (by decide) (by decide)

/-! ## `CLAIM` and `RELEASE` -/

section
variable {s : State} {m : MailboxId} {res which : Nat}

theorem exec_claim (h : Begins s m 0x0003) : exec (.claim m) s = .next (s.claim m).pump :=
  amiom_of_begins (fun s => s.claim m) h (by decide) (by decide)

theorem State.claim_unnamed (h : s.claimNamed ((s.box m).word 2) = none) : s.claim m = s.finishS m .badParam := by
  simp [State.claim, h]

/-- A resource that another mailbox holds is busy. -/
theorem State.claim_held {c : ClaimRec} (named : s.claimNamed ((s.box m).word 2) = some (res, which)) (held : s.claimOf res which = some c)
    (other : c.holder ≠ m) (pin : res = 0 → fld ((s.box m).word 3) 3 0 ≤ 5) (share : res = 2 → fld ((s.box m).word 3) 3 0 ≠ 0) :
    s.claim m = s.finish m .resourceBusy [c.held] [] := by
  have inRange : ¬(res = 0 ∧ 5 < fld ((s.box m).word 3) 3 0 ∨ res = 2 ∧ fld ((s.box m).word 3) 3 0 = 0) := by
    rintro (⟨hr, hp⟩ | ⟨hr, hp⟩)
    · exact absurd (pin hr) (by omega)
    · exact share hr hp
  simp [State.claim, named, inRange, held, other, State.holderWord]

/-- No record of a free resource stands among the claims. -/
theorem State.claims_of_free (h : s.claimOf res which = none) :
    (s.misc.claims.filter fun c => !(c.res == res && c.which == which)) = s.misc.claims :=
  List.filter_eq_self.2 fun c hc => by rw [Bool.eq_false_iff.2 (List.find?_eq_none.1 h c hc)]; rfl

/-- A free resource is given. -/
theorem State.claim_free (named : s.claimNamed ((s.box m).word 2) = some (res, which)) (free : s.claimOf res which = none)
    (inRange : ¬(res = 0 ∧ 5 < fld ((s.box m).word 3) 3 0 ∨ res = 2 ∧ fld ((s.box m).word 3) 3 0 = 0))
    (room : ¬(res = 2 ∧ 16 < s.sharesBut which + fld ((s.box m).word 3) 3 0)) :
    s.claim m = (s.modMisc fun x => { x with claims := s.misc.claims ++
      [{ res := res, which := which, param := fld ((s.box m).word 3) 3 0, holder := m }] }).finish m .ok [0] [] := by
  have others := State.claims_of_free free
  simp only [State.claim, named, if_neg inRange, if_neg room, others, State.holderWord, free]
  rfl

theorem State.claim_noShare (named : s.claimNamed ((s.box m).word 2) = some (2, which)) (none : fld ((s.box m).word 3) 3 0 = 0) :
    s.claim m = s.finishS m .badParam := by
  simp [State.claim, named, none]

theorem State.claim_noSpace (named : s.claimNamed ((s.box m).word 2) = some (2, which)) (free : s.claimOf 2 which = none)
    (share : fld ((s.box m).word 3) 3 0 ≠ 0) (full : 16 < s.sharesBut which + fld ((s.box m).word 3) 3 0) :
    s.claim m = s.finish m .noSpace [0] [] := by
  simp [State.claim, named, free, share, full, State.holderWord]

theorem exec_release (h : Begins s m 0x0004) : exec (.release m) s = .next (s.unclaim m).pump :=
  amiom_of_begins (fun s => s.unclaim m) h (by decide) (by decide)

theorem State.unclaim_free (named : s.claimNamed ((s.box m).word 2) = some (res, which)) (free : s.claimOf res which = none) :
    s.unclaim m = s.finishS m .badState := by
  simp [State.unclaim, named, free]

/-- The holder gives a Landing back. -/
theorem State.unclaim_own {c : ClaimRec} (named : s.claimNamed ((s.box m).word 2) = some (1, which)) (held : s.claimOf 1 which = some c)
    (mine : c.holder = m) :
    s.unclaim m = (s.modMisc fun x => { x with claims := x.claims.filter fun e => !(e.res == 1 && e.which == which) }).finishS m .ok := by
  simp [State.unclaim, named, held, mine]

/-- Only LBA gives back what another holds. -/
theorem State.unclaim_other {c : ClaimRec} (named : s.claimNamed ((s.box m).word 2) = some (res, which))
    (held : s.claimOf res which = some c) (other : c.holder ≠ m) (notLba : m.val ≠ 8) : s.unclaim m = s.finishS m .badState := by
  simp [State.unclaim, named, held, other, notLba]

end

/-! ## Ports -/

section
variable {s : State} {m : MailboxId} {p : PortId}

theorem exec_portOpen (h : Begins s m 0x0101) : exec (.portOpen m) s = .next (s.portOpen m).pump :=
  amiom_of_begins (fun s => s.portOpen m) h (by decide) (by decide)

theorem State.portOpen_standing (named : fld ((s.box m).word 2) 2 0 = p.val) (standing : (s.port p).state ≠ .closed) :
    s.portOpen m = s.finishS m .badState := by
  simp [State.portOpen, named, standing]

theorem State.portOpen_closed (named : fld ((s.box m).word 2) 2 0 = p.val) (closed : (s.port p).state = .closed)
    (unfenced : s.portFence p = none) : s.portOpen m = (s.openPort p (((s.box m).word 2).getLsbD 8)).finishS m .ok := by
  simp [State.portOpen, named, closed, unfenced]

theorem exec_portClose (h : Begins s m 0x0102) : exec (.portClose m) s = .next (s.portClose m).pump :=
  amiom_of_begins (fun s => s.portClose m) h (by decide) (by decide)

theorem State.portClose_closed (named : fld ((s.box m).word 2) 2 0 = p.val) (closed : (s.port p).state = .closed) :
    s.portClose m = s.finishS m .badState := by
  simp [State.portClose, named, closed]

theorem State.portClose_standing (named : fld ((s.box m).word 2) 2 0 = p.val) (standing : (s.port p).state ≠ .closed) :
    s.portClose m = (s.closePort p).goesOn m := by
  simp [State.portClose, named, standing]

/-- An open port begins to close: it keeps its sequences, and only the answers to its broken merges move. -/
theorem State.closePort_opened (opened : (s.port p).state = .opened) :
    (s.closePort p).boxes = s.boxes ∧ (s.closePort p).halls = s.halls ∧ (s.closePort p).dma = s.dma ∧
      ((s.closePort p).port p).state = .closing ∧ ((s.closePort p).port p).seqs = (s.port p).seqs := by
  have answers := State.breakMerges_answering (s.modPort p fun x => { x with state := .closing }) p
  have port := answers.ports p
  rw [State.modPort_port_self] at port
  obtain ⟨state, seqs⟩ := Prod.mk.inj port
  rw [State.closePort, if_pos opened]
  exact ⟨answers.boxes, answers.halls, answers.dma, state, seqs⟩

theorem State.closePort_closing (closing : (s.port p).state = .closing) : s.closePort p = s := by
  simp [State.closePort, closing]

end

/-! ## DMA and DBG -/

section
variable {s : State} {m : MailboxId} {n : ChannelId}

theorem exec_dmaBind (h : Begins s m 0x0108) : exec (.dmaBind m) s = .next (s.dmaBind m).pump :=
  amiom_of_begins (fun s => s.dmaBind m) h (by decide) (by decide)

theorem State.dmaBind_resting (named : fld ((s.box m).word 2) 2 0 = n.val)
    (resting : (s.ch n).state = .idle ∨ (s.ch n).state = .parked ∨ (s.ch n).state = .stopped ∨ (s.ch n).state = .error) :
    s.dmaBind m = (s.modCh n fun x => { x with
      bind := if ((s.box m).word 2).getLsbD 16 then none else some (fld ((s.box m).word 2) 10 8, fld ((s.box m).word 2) 15 12) }).finishS
      m .ok := by
  simp only [State.dmaBind, named]
  exact if_pos resting

theorem State.dmaBind_moving (named : fld ((s.box m).word 2) 2 0 = n.val)
    (moving : (s.ch n).state = .running ∨ (s.ch n).state = .stopping ∨ (s.ch n).state = .halted ∨ (s.ch n).state = .resetting) :
    s.dmaBind m = s.finishS m .resourceBusy := by
  simp only [State.dmaBind, named]
  rcases moving with state | state | state | state <;> simp [state]

theorem exec_debugSelect (h : Begins s m 0x0109) : exec (.debugSelect m) s = .next (s.debugSelect m).pump :=
  amiom_of_begins (fun s => s.debugSelect m) h (by decide) (by decide)

end

end Sys2Proof.Machine

section
open Sys2Proof Sys2Proof.Machine Sys2Proof.Slice

/-- Settles O53: every command begins (`amiom_of_begins`), and answers by its outcome. -/
theorem generalCommandsHaveTheirEffect : Obligations.GeneralCommandsHaveTheirEffect := by
  unfold Obligations.GeneralCommandsHaveTheirEffect
  refine ⟨?caps, ?bringup, ?claim, ?release, ?portOpen, ?portClose, ?bind, ?debug⟩
  case caps =>
    intro s m h
    exact amiom_of_begins (fun s => s.queryCaps m) h (by decide) (by decide)
  case bringup =>
    intro s m h
    rw [exec_bringup h, State.defer_finishAtBoundary]
  case claim =>
    intro s m h
    rw [exec_claim h]
    refine ⟨fun unnamed => ?_, fun res which c named held other pin share => ?_, fun res which named free notShare pin => ?_,
      fun which named => ⟨fun none => ?_, fun free share room => ?_, fun free share full => ?_⟩⟩
    · rw [State.claim_unnamed unnamed]; rfl
    · rw [State.claim_held named held other pin share]; rfl
    · rw [State.claim_free named free (by omega) (by omega)]; rfl
    · rw [State.claim_noShare named none]; rfl
    · rw [State.claim_free named free (by omega) (by omega)]; rfl
    · rw [State.claim_noSpace named free share full]; rfl
  case release =>
    intro s m h
    rw [exec_release h]
    refine ⟨fun res which named free => ?_, fun which c named held mine => ?_, fun res which c named held other notLba => ?_⟩
    · rw [State.unclaim_free named free]; rfl
    · rw [State.unclaim_own named held mine]; rfl
    · rw [State.unclaim_other named held other notLba]; rfl
  case portOpen =>
    intro s m p h named
    rw [exec_portOpen h]
    refine ⟨fun standing => ?_, fun closed unfenced => ?_⟩
    · rw [State.portOpen_standing named standing]; rfl
    · rw [State.portOpen_closed named closed unfenced]; rfl
  case portClose =>
    intro s m p h named
    rw [exec_portClose h]
    refine ⟨fun closed => ?_, fun opened => ?_, fun closing => ?_⟩
    · rw [State.portClose_closed named closed]; rfl
    · obtain ⟨boxes, halls, dma, state, seqs⟩ := State.closePort_opened opened
      refine ⟨(s.closePort p).goesOn m, by rw [State.portClose_standing named (by simp [opened])], ?_, state, seqs, halls, dma⟩
      simp [State.goesOn, State.modBox, State.setBox, State.box, boxesOn, boxes]
    · rw [State.portClose_standing named (by simp [closing]), State.closePort_closing closing]; rfl
  case bind =>
    intro s m n h named
    rw [exec_dmaBind h]
    refine ⟨fun resting => ?_, fun moving => ?_⟩
    · rw [State.dmaBind_resting named resting]; rfl
    · rw [State.dmaBind_moving named moving]; rfl
  case debug =>
    intro s m h
    rw [exec_debugSelect h]
    unfold State.debugSelect
    refine ⟨fun off => ?_, fun on stands => ?_, fun on gone => ?_⟩
    · simp only [off]; rfl
    · simp only [on, stands]; rfl
    · simp only [on, gone]; rfl

end

/-! SUPPORT. The clock: what a step does to it with a command at the front and with none, and how a tread boundary moves it. -/

namespace Sys2Proof.Machine

/-! ## With no command waiting -/

theorem step_of_pending_nil {s : State} (h : s.pending = []) : step s = .next (idleCycle s) := by
  rw [step, h]

/-- Time stands in cold reset, in P4, and with the CP domain off outside P3 (log entry 2). -/
theorem idleCycle_of_standing {s : State} (h : s.chip.phase = .cold ∨ s.pwr.state = .p4 ∨ (s.chip.cpOn = false ∧ s.pwr.state ≠ .p3)) :
    idleCycle s = s := by
  rw [idleCycle, if_pos]
  rcases h with cold | p4 | ⟨off, notP3⟩
  · exact .inl cold
  · exact .inr (.inr p4)
  · exact .inr (.inl ⟨by simp [off], notP3⟩)

theorem idleCycle_of_running {s : State} (phase : s.chip.phase ≠ .cold) (power : s.pwr.state ≠ .p4)
    (domain : s.chip.cpOn = true ∨ s.pwr.state = .p3) :
    idleCycle s = s.modChip fun c => { c with cycle := c.cycle + (if s.slowClock then 20 else 1) } := by
  rw [idleCycle, if_neg]
  rintro (cold | ⟨off, notP3⟩ | p4)
  · exact phase cold
  · exact domain.elim off notP3
  · exact power p4

theorem State.slowClock_iff (s : State) : s.slowClock = true ↔ s.pwr.state = .p3 ∧ s.chip.coreOn = false := by
  simp [State.slowClock]

theorem idleCycle_cycle_le (s : State) : s.chip.cycle ≤ (idleCycle s).chip.cycle := by
  unfold idleCycle
  split
  · exact Nat.le_refl _
  · exact Nat.le_add_right _ _

/-! ## At the front of the queue -/

/-- Until the rail rises that a cold reset waits for, the rise of another leaves the clock alone (R65). -/
theorem execPgInputRise_cycle (pin : PgPin) {s : State} (h : s.chip.railWait = false) :
    ∃ t, execPgInputRise pin s = .next t ∧ t.chip.cycle = s.chip.cycle := by
  cases awake : s.awake with
  | true => exact (execPgInputRise_keeps pin s awake).imp fun t ht => ⟨ht.1, congrArg Kept.cycle ht.2⟩
  | false =>
    have wait : (s.chip.setPg pin true).railWait = false := by cases pin <;> exact h
    refine ⟨_, by rw [execPgInputRise, awake]; rfl, ?_⟩
    simp [State.modChip, wait, Chip.setPg_cycle]

/-- The work of a tread boundary leaves the clock where the boundary brought it. -/
theorem execTreadBoundary_cycle {s : State} (h : s.clocked = true) :
    ∃ t, execTreadBoundary s = .next t ∧ t.chip.cycle = s.nextBoundary := by
  unfold execTreadBoundary
  rw [h]
  generalize hu : (s.modChip fun c => { c with cycle := s.nextBoundary }) = u
  have brought : u.chip.cycle = s.nextBoundary := by rw [← hu]; rfl
  have work : (if !u.chip.coreOn then u else if u.chip.phase == .warm then u.warmBoundary else u.boundary).kept = u.kept := by simp
  exact ⟨_, rfl, (State.cfgDrain_rewrites _).cycle.trans ((congrArg Kept.cycle work).trans brought)⟩

theorem execTreadBoundary_of_standing {s : State} (h : s.clocked = false) : execTreadBoundary s = .next s := by
  rw [execTreadBoundary, h]
  rfl

/-- On CCLK the next boundary is the first cycle of the next tread (R28). -/
theorem State.nextBoundary_of_cclk {s : State} (h : s.slowClock = false) : s.nextBoundary = 32 * (s.tread + 1) := by
  rw [State.nextBoundary, h, State.tread]
  simp only [Bool.false_eq_true, if_false]
  omega

/-- On the clock of P3 it is the first step of 10 ns at or past that cycle (R27). -/
theorem State.nextBoundary_of_slowClock {s : State} (h : s.slowClock = true) :
    ∃ k, s.nextBoundary = s.chip.cycle + 20 * k ∧ 32 * (s.tread + 1) ≤ s.nextBoundary ∧ s.nextBoundary < 32 * (s.tread + 1) + 20 := by
  rw [State.nextBoundary, h, State.tread]
  simp only [if_true]
  exact ⟨((s.chip.cycle / 32 + 1) * 32 - s.chip.cycle + 19) / 20, by omega, by omega, by omega⟩

theorem State.cycle_lt_nextBoundary (s : State) : s.chip.cycle < s.nextBoundary := by
  have within : s.chip.cycle < 32 * (s.tread + 1) := by rw [State.tread]; omega
  cases h : s.slowClock with
  | false => rw [State.nextBoundary_of_cclk h]; exact within
  | true =>
    obtain ⟨k, -, reached, -⟩ := State.nextBoundary_of_slowClock h
    omega

theorem execTreadBoundary_cycle_le (s : State) : ∃ t, execTreadBoundary s = .next t ∧ s.chip.cycle ≤ t.chip.cycle := by
  cases h : s.clocked with
  | false => exact ⟨s, execTreadBoundary_of_standing h, Nat.le_refl _⟩
  | true =>
    obtain ⟨t, ht, brought⟩ := execTreadBoundary_cycle h
    exact ⟨t, ht, brought ▸ Nat.le_of_lt s.cycle_lt_nextBoundary⟩

/-- A command may end a reset: the resets themselves, and the rise of a rail while a cold reset waits for one (R61, R62, R65). -/
def endsReset (s : State) : Instr → Bool
  | .coldReset => true
  | .warmResetEnd => true
  | .powerOnSequence _ _ => true
  | .pgInputRise _ => s.chip.railWait
  | _ => false

/-- A command that ends no reset leaves the clock alone, but for the tread boundary. -/
theorem exec_cycle (s : State) (c : Instr) (h : endsReset s c = false) (tick : c ≠ .treadBoundary) :
    ∃ t, exec c s = .next t ∧ t.chip.cycle = s.chip.cycle := by
  have rewrites {o : Out} (h : ∃ t, o = .next t ∧ Rewrites s t) : ∃ t, o = .next t ∧ t.chip.cycle = s.chip.cycle :=
    h.imp fun _ ht => ⟨ht.1, ht.2.cycle⟩
  cases hc : leavesKept c with
  | true => exact (exec_keeps s c hc).imp fun _ ht => ⟨ht.1, congrArg Kept.cycle ht.2⟩
  | false =>
    cases c with
    | coldReset => cases h
    | powerOnSequence => cases h
    | warmResetEnd => cases h
    | treadBoundary => exact absurd rfl tick
    | popStallTimeout => exact rewrites (execPopStallTimeout_rewrites s)
    | registerWrite addr w => exact rewrites (execRegisterWrite_rewrites addr w s)
    | descriptorComplete n => exact rewrites (execDescriptorComplete_rewrites n s)
    | powerTransitionDone => exact rewrites (execPowerTransitionDone_rewrites s)
    | pgInputRise pin => exact execPgInputRise_cycle pin h
    | _ => nomatch hc

end Sys2Proof.Machine

section
open Sys2Proof Sys2Proof.Machine Sys2Proof.Slice

/-- Settles O6: `exec_cycle` for a command at the front, the boundary's own lemma, and the idle cycle. -/
theorem blockTimeNeverFallsOutsideResets : Obligations.BlockTimeNeverFallsOutsideResets := by
  unfold Obligations.BlockTimeNeverFallsOutsideResets
  intro s t ht noReset
  cases waiting : s.pending with
  | nil =>
    rw [step_of_pending_nil waiting] at ht
    cases ht
    exact ⟨Nat.div_le_div_right (idleCycle_cycle_le s), nofun⟩
  | cons c rest =>
    rw [step, waiting] at ht
    obtain ⟨notCold, notWarm, notPower, noRail⟩ := noReset c rest waiting
    have noEnd : endsReset { s with pending := rest } c = false := by
      cases c with
      | coldReset => exact absurd rfl notCold
      | warmResetEnd => exact absurd rfl notWarm
      | powerOnSequence b h => exact absurd rfl (notPower b h)
      | pgInputRise pin => exact Bool.eq_false_iff.2 fun wait => noRail wait pin rfl
      | _ => rfl
    by_cases tick : c = .treadBoundary
    · subst tick
      obtain ⟨u, hu, later⟩ := execTreadBoundary_cycle_le { s with pending := rest }
      obtain rfl : u = t := Host.Outcome.next.inj (hu.symm.trans ht)
      refine ⟨Nat.div_le_div_right later, fun c' rest' front other => ?_⟩
      cases front
      exact absurd rfl other
    · obtain ⟨u, hu, same⟩ := exec_cycle { s with pending := rest } c noEnd tick
      obtain rfl : u = t := Host.Outcome.next.inj (hu.symm.trans ht)
      have now : u.now = s.now := congrArg (· / 2) same
      exact ⟨Nat.le_of_eq now.symm, fun _ _ _ _ => now⟩

/-- Settles O2: the idle cycle runs or stands. -/
theorem emptyQueueStepIsOneCycle : Obligations.EmptyQueueStepIsOneCycle := by
  unfold Obligations.EmptyQueueStepIsOneCycle
  intro s empty
  rw [step_of_pending_nil empty]
  refine ⟨fun phase power domain => ?_, fun stands => ?_⟩
  · rw [idleCycle_of_running phase power domain]
    simp only [State.slowClock_iff, State.modChip]
  · rw [idleCycle_of_standing stands]

/-- Settles O10: sixteen nanoseconds are 32 cycles of half a nanosecond. -/
theorem treadIsSixteenNanoseconds : Obligations.TreadIsSixteenNanoseconds := by
  unfold Obligations.TreadIsSixteenNanoseconds
  intro s n
  unfold State.tread State.now
  constructor <;> omega

end

/-! SUPPORT. What a report leaves alone, and the block-flight boundary: its flights and the ports' fault counts. -/

namespace Sys2Proof.Machine

/-! ## Reports -/

/-- Nothing moves but CFG, the Event Queue, the Arcade, the Record Store, the Fault Collector, the block's counts and the STATUS1 pulse. -/
def OnlyReported (s t : State) : Prop :=
  ∃ cfg eq arcade store flt blk pulse, t = { s with cfg := cfg, eq := eq, arcade := arcade, store := store, flt := flt, blk := blk,
                                                    chip := { s.chip with status1Pulse := pulse } }

theorem OnlyReported.refl (s : State) : OnlyReported s s := ⟨_, _, _, _, _, _, _, rfl⟩

theorem OnlyReported.trans {s t u : State} : OnlyReported s t → OnlyReported t u → OnlyReported s u
  | ⟨_, _, _, _, _, _, _, ht⟩, ⟨_, _, _, _, _, _, _, hu⟩ => by
    subst ht hu
    exact ⟨_, _, _, _, _, _, _, rfl⟩

theorem OnlyReported.galleries {s t : State} (h : OnlyReported s t) : t.galleries = s.galleries := by
  obtain ⟨_, _, _, _, _, _, _, rfl⟩ := h
  rfl

theorem State.modFlt_onlyReported (s : State) (f : Flt → Flt) : OnlyReported s (s.modFlt f) := ⟨_, _, _, _, _, _, _, rfl⟩
theorem State.bumpB_onlyReported (s : State) (a n : Nat) : OnlyReported s (s.bumpB a n) := ⟨_, _, _, _, _, _, _, rfl⟩
theorem State.history_onlyReported (s : State) (r : Record) : OnlyReported s (s.history r) := ⟨_, _, _, _, _, _, _, rfl⟩

theorem State.post_onlyReported (s : State) (type prio : Nat) (data : List W32) : OnlyReported s (s.post type prio data) := by
  obtain ⟨_, _, _, h⟩ := s.post_frame type prio data
  rw [h]
  exact ⟨_, _, _, _, _, _, _, rfl⟩

/-- A change of the Arcade may answer a pop that stalls on it, and moves nothing but the Arcade and CFG. -/
theorem State.modArcade_onlyReported (s : State) (f : Arcade → Arcade) : OnlyReported s (s.modArcade f) := by
  have popped (u : State) : OnlyReported u u.popWide.2 := by
    unfold State.popWide
    split <;> exact ⟨_, _, _, _, _, _, _, rfl⟩
  have changed : OnlyReported s { s with arcade := f s.arcade } := ⟨_, _, _, _, _, _, _, rfl⟩
  unfold State.modArcade State.serveWide
  split
  · split
    · exact changed
    · exact changed.trans ((popped _).trans ⟨_, _, _, _, _, _, _, rfl⟩)
  · exact changed

theorem State.reportAt_onlyReported (s : State) (r : Rep) (grain time : Nat) : OnlyReported s (s.reportAt r grain time) := by
  have logged (u : State) (entry : Record) : OnlyReported u ((u.snapshot r).history entry) :=
    (u.modArcade_onlyReported _).trans (State.history_onlyReported _ entry)
  have counted (u : State) (f : Flt → Flt) (a : Nat) : OnlyReported u ((u.modFlt f).bumpB a 1) :=
    (u.modFlt_onlyReported f).trans (State.bumpB_onlyReported _ a 1)
  unfold State.reportAt
  dsimp only
  split
  · exact counted _ _ _
  · split
    · exact counted _ _ _
    · split
      · exact ((counted _ _ _).trans (State.modFlt_onlyReported _ _)).trans (logged _ _)
      · exact (((counted _ _ _).trans (State.modFlt_onlyReported _ _)).trans (logged _ _)).trans (State.post_onlyReported _ _ _ _)

theorem State.report_onlyReported (s : State) (r : Rep) (grain : Nat) : OnlyReported s (s.report r grain) := by
  unfold State.report
  split
  · exact s.reportAt_onlyReported r grain s.now
  · split
    · exact s.modFlt_onlyReported _
    · exact .refl s

/-- A report below class F that starts no fence is a report. -/
theorem State.raise_onlyReported (s : State) {r : Rep} (h : r.cls ≠ 3) : OnlyReported s (s.raise r none) := by
  unfold State.raise
  split
  · exact s.report_onlyReported r _
  · simpa [h] using s.report_onlyReported r 0xFF

/-! ## The block-flight boundary -/

/-- The flight that runs, and the tread of the next one. -/
def State.flights (s : State) : Nat × Nat := (s.chip.flight, s.chip.nextFlight)

theorem OnlyReported.flights {s t : State} (h : OnlyReported s t) : t.flights = s.flights := by
  obtain ⟨_, _, _, _, _, _, _, rfl⟩ := h
  rfl

theorem State.flightLanding_flights (s : State) (l : Nat) : (s.flightLanding l).flights = s.flights := by
  unfold State.flightLanding
  extract_lets
  split <;> rfl

theorem State.flightGallery_flights (s : State) (g : Nat) : (s.flightGallery g).flights = s.flights := by
  refine (eachBelow_proj State.flights (fun i s => ?_) 4 _).trans rfl
  dsimp only
  split
  · exact (State.raise_onlyReported _ (show srcClass 6 1 ≠ 3 by decide)).flights
  · rfl

/-- A flight is counted, and the next one stands a block flight on (R31). -/
theorem State.flightBoundary_flights (s : State) : s.flightBoundary.flights = (s.chip.flight + 1, s.chip.nextFlight + s.blockFlight) := by
  refine (eachBelow_proj State.flights (fun i s => s.flightGallery_flights i) _ _).trans
    ((eachBelow_proj State.flights (fun i s => s.flightLanding_flights i) _ _).trans ?_)
  split <;> rfl

/-- The ports begin a flight without faults (R505). -/
theorem State.flightBoundary_faults (s : State) (p : PortId) : (s.flightBoundary.port p).faults = 0 := by
  simp [State.flightBoundary, State.port]

end Sys2Proof.Machine

/-! SUPPORT. Planning places commands: it moves neither the state of a Landing nor the tread that its plan is for. One lemma per function, in
the model's order. -/

namespace Sys2Proof.Machine

/-- A fold is related to its start as each of its steps is to the one before. -/
theorem foldl_related {α : Type} {R : State → State → Prop} (refl : ∀ s, R s s) (trans : ∀ {s t u}, R s t → R t u → R s u)
    {f : State → α → State} (h : ∀ s x, R s (f s x)) (rest : List α) (s : State) : R s (rest.foldl f s) := by
  induction rest generalizing s with
  | nil => exact refl s
  | cons x rest ih => exact trans (h s x) (ih _)

/-- The state of a Landing and the tread that its plan is for. -/
def Landing.planFor (x : Landing) : LState × Nat := (x.seq.lstate, x.seq.planTread)

/-- Every Landing keeps its state, and the tread that its plan is for. -/
def SamePlans (s t : State) : Prop := ∀ k, (t.land k).planFor = (s.land k).planFor

theorem SamePlans.refl (s : State) : SamePlans s s := fun _ => rfl

theorem SamePlans.trans {s t u : State} (h : SamePlans s t) (g : SamePlans t u) : SamePlans s u := fun k => (g k).trans (h k)

theorem SamePlans.of_landings {s t : State} (h : t.landings = s.landings) : SamePlans s t := fun k => by rw [State.land, State.land, h]

theorem SamePlans.ite {s t u : State} {c : Prop} [Decidable c] (ht : SamePlans s t) (hu : SamePlans s u) : SamePlans s (if c then t else u) := by
  split
  · exact ht
  · exact hu

theorem foldl_samePlans {α : Type} {f : State → α → State} (h : ∀ s x, SamePlans s (f s x)) (rest : List α) (s : State) :
    SamePlans s (rest.foldl f s) := foldl_related .refl .trans h rest s

/-! ## Updates of a unit -/

theorem State.modLand_samePlans (s : State) (l : Nat) {f : Landing → Landing} (h : ∀ x, (f x).planFor = x.planFor) :
    SamePlans s (s.modLand l f) := State.modLand_land_proj Landing.planFor h s l

theorem State.modArb_samePlans (s : State) (l : Nat) (f : Arb → Arb) : SamePlans s (s.modArb l f) := s.modLand_samePlans l fun _ => rfl
theorem State.modMnt_samePlans (s : State) (l : Nat) (f : Mnt → Mnt) : SamePlans s (s.modMnt l f) := s.modLand_samePlans l fun _ => rfl
theorem State.modCal_samePlans (s : State) (l : Nat) (f : Cal → Cal) : SamePlans s (s.modCal l f) := s.modLand_samePlans l fun _ => rfl
theorem State.bumpL_samePlans (s : State) (l off n : Nat) : SamePlans s (s.bumpL l off n) := s.modLand_samePlans l fun _ => rfl

theorem State.modSeq_samePlans (s : State) (l : Nat) {f : Seq → Seq} (h : ∀ q, ((f q).lstate, (f q).planTread) = (q.lstate, q.planTread)) :
    SamePlans s (s.modSeq l f) := s.modLand_samePlans l fun x => h x.seq

/-! ## Requests staged and metadata lines asked for -/

/-- What a change of a Gallery leaves alone, it leaves alone in every Gallery. -/
theorem State.modGal_gal_proj {α : Type} (g : Gallery → α) {f : Gallery → Gallery} (h : ∀ x, g (f x) = g x) (s : State) (i k : Nat) :
    g ((s.modGal i f).gal k) = g (s.gal k) := by
  by_cases hik : i = k
  · subst hik
    by_cases hi : i < 3
    · exact (congrArg g (State.modGal_gal_self s ⟨i, hi⟩ f)).trans (h _)
    · simp [State.modGal, State.setGal, State.gal, hi]
  · rw [State.modGal_gal_ne s i k f hik]

/-- A request for a line is under way: the Landings keep their plans, and the Galleries their moves. -/
structure Asks (s t : State) : Prop where
  plans : SamePlans s t
  moves : ∀ g, (t.gal g).moves = (s.gal g).moves

theorem Asks.refl (s : State) : Asks s s := ⟨.refl s, fun _ => rfl⟩

theorem Asks.trans {s t u : State} (h : Asks s t) (k : Asks t u) : Asks s u := ⟨h.plans.trans k.plans, fun g => (k.moves g).trans (h.moves g)⟩

theorem Asks.ite {s t u : State} {c : Prop} [Decidable c] (ht : Asks s t) (hu : Asks s u) : Asks s (if c then t else u) := by
  split
  · exact ht
  · exact hu

theorem State.modGal_asks (s : State) (g : Nat) {f : Gallery → Gallery} (h : ∀ x, (f x).moves = x.moves) : Asks s (s.modGal g f) :=
  ⟨.of_landings rfl, State.modGal_gal_proj Gallery.moves h s g⟩

theorem State.bumpG_asks (s : State) (g off n : Nat) : Asks s (s.bumpG g off n) := s.modGal_asks g fun _ => rfl

theorem State.touch_asks (s : State) (g : Nat) (k : MetaKind) (lpa : Nat) : Asks s (s.touch g k lpa) := s.modGal_asks g fun _ => rfl

theorem State.fresh_asks (s : State) : Asks s s.fresh.2 := ⟨.of_landings rfl, fun _ => rfl⟩

theorem State.modArb_asks (s : State) (l : Nat) (f : Arb → Arb) : Asks s (s.modArb l f) := ⟨s.modArb_samePlans l f, fun _ => rfl⟩

theorem OnlyPorts.asks {s t : State} (h : OnlyPorts s t) : Asks s t := by
  obtain ⟨_, _, rfl⟩ := h
  exact ⟨.of_landings rfl, fun _ => rfl⟩

theorem State.enterStaging_asks (s : State) (l : Nat) (a : Access) : Asks s (s.enterStaging l a) := by
  rcases s.enterStaging_cases l a with same | placed
  · rw [same]
    exact .refl s
  · exact (s.modArb_asks l _).trans placed.asks

theorem State.stage_asks (s : State) (l : Nat) (a : Access) : Asks s (s.stage l a) :=
  (s.modArb_asks l _).trans (foldl_related .refl .trans (fun s a => s.enterStaging_asks l a) _ _)

theorem State.issueFetch_asks (s : State) (g : Nat) (k : MetaKind) (lpa : Nat) (hall : Option Nat) (stamp : BitVec 32) (dl : Bool)
    (req : Nat) : Asks s (s.issueFetch g k lpa hall stamp dl req) := s.fresh_asks.trans (State.stage_asks _ _ _)

theorem State.needMeta_asks (s : State) (g : Nat) (k : MetaKind) (lpa : Nat) (hall : Option Nat) (stamp : BitVec 32) (dl : Bool)
    (req : Nat) : Asks s (s.needMeta g k lpa hall stamp dl req).2 := by
  have counted (off : Nat) (u : State) : Asks u (if k = .tag then u.bumpG g off 1 else u) := .ite (u.bumpG_asks g off 1) (.refl u)
  unfold State.needMeta
  dsimp only
  split
  · exact (counted _ s).trans (State.touch_asks _ g k lpa)
  · have missed := counted 0x3014 s
    generalize (if k = .tag then s.bumpG g 0x3014 1 else s) = t at missed ⊢
    split
    · exact missed
    · refine (missed.trans (t.modGal_asks g ?_)).trans (.ite (State.issueFetch_asks _ g k lpa hall stamp dl req) (counted _ _))
      intro x
      rfl

theorem State.awaitTag_samePlans (s : State) (lpa : Nat) (a : Access) : SamePlans s (s.awaitTag lpa a) :=
  .ite (.refl s) (s.needMeta_asks _ _ _ _ _ _ _).plans

theorem State.fetchTags_samePlans (s : State) (l : Nat) : SamePlans s (s.fetchTags l) := by
  refine foldl_samePlans (fun s a => ?_) _ s
  split
  · exact .ite (.refl s) (s.awaitTag_samePlans _ _)
  · exact .refl s

/-! ## Claims on the whole Landing -/

theorem State.quietUntil_samePlans (s : State) (l t : Nat) : SamePlans s (s.quietUntil l t) :=
  (s.modCal_samePlans l _).trans (State.modSeq_samePlans _ l (by intro q; rfl))

theorem State.wholeClaims_samePlans (s : State) (l n : Nat) : SamePlans s (s.wholeClaims l n) := by
  refine foldl_samePlans (fun s a => (s.modSeq_samePlans l (fun q => ?_)).trans (.ite ?_ (State.quietUntil_samePlans _ l _))) _ s
  · rfl
  · exact (State.modSeq_samePlans _ l (by intro q; rfl)).trans (State.modCal_samePlans _ l _)

/-! ## Commands placed -/

theorem State.record_samePlans (s : State) (l k n : Nat) (w : Want) (v : Served) : SamePlans s (s.record l k n w v) := by
  unfold State.record
  extract_lets ck q after closed named sample t
  have sampled : SamePlans s t := .ite (s.modMnt_samePlans l _) (.refl s)
  exact sampled.trans (t.modSeq_samePlans l (by intro q; rfl))

theorem State.countAct_samePlans (s : State) (l : Nat) (w : Want) : SamePlans s (s.countAct l w).2.2 := by
  unfold State.countAct
  extract_lets key ctl n stop owes rfm now t
  have counted : SamePlans s t := .ite (s.modMnt_samePlans l _) (.refl s)
  split
  · exact counted.trans (.trans (.of_landings rfl) (.ite (State.modMnt_samePlans _ l _) (.refl _)))
  · exact counted

theorem State.recordAct_samePlans (s : State) (l k n : Nat) (w : Want) (v : Served) : SamePlans s (s.recordAct l k n w v) :=
  .ite ((s.countAct_samePlans l w).trans (State.record_samePlans _ l k n w _)) (s.record_samePlans l k n w v)

theorem State.startRefresh_samePlans (s : State) (l sub rank : Nat) (emergency : Bool) :
    SamePlans s (s.startRefresh l sub rank emergency) := by
  have counted {c : Prop} [Decidable c] (u : State) (off : Nat) : SamePlans u (if c then u.bumpL l off 1 else u) :=
    .ite (u.bumpL_samePlans l off 1) (.refl u)
  unfold State.startRefresh
  dsimp only
  split
  · exact .refl s
  · refine .ite (.refl s) (.trans ?_ (counted _ _))
    exact ((s.modMnt_samePlans l _).trans (State.bumpL_samePlans _ l _ _)).trans (counted _ _)

theorem State.startZq_samePlans (s : State) (l : Nat) : SamePlans s (s.startZq l) := .ite (.refl s) (s.modMnt_samePlans l _)

theorem State.claimPlaced_samePlans (s : State) (l k : Nat) (emergency : Bool) (kind : ClaimKind) :
    SamePlans s (s.claimPlaced l k emergency kind) := by
  have settled (u : State) (f : Mnt → Mnt) (off : Nat) : SamePlans u ((u.modMnt l f).bumpL l off 1) :=
    (u.modMnt_samePlans l f).trans (State.bumpL_samePlans _ l off 1)
  cases kind with
  | refAb b r => exact (s.startRefresh_samePlans l b r emergency).trans (State.modMnt_samePlans _ l _)
  | refSb b r x => exact SamePlans.trans (.ite (s.startRefresh_samePlans l b r emergency) (.refl s)) (State.modMnt_samePlans _ l _)
  | rfmAb => exact settled _ _ _
  | rfmSb => exact settled _ _ _
  | drfmAb => exact settled _ _ _
  | drfmSb => exact settled _ _ _
  | aboRfm => exact s.modMnt_samePlans l _
  | zqStart => exact (s.startZq_samePlans l).trans (State.modMnt_samePlans _ l _)
  | zqLatch => exact s.modMnt_samePlans l _
  | ecsRead => exact .refl s
  | retrain => exact .refl s
  | commit => exact .refl s

theorem State.noteWindow_samePlans (s : State) (l n : Nat) (a : Access) : SamePlans s (s.noteWindow l n a) :=
  .ite (s.modMnt_samePlans l _) (.refl s)

theorem State.placeClaim_samePlans (s : State) (l k n : Nat) (a : Access) (kind : ClaimKind) (w : Want) :
    SamePlans s (s.placeClaim l k n a kind w) := by
  refine ((s.noteWindow_samePlans l n a).trans (State.record_samePlans _ l k n w _)).trans (.ite (.refl _) ?_)
  exact SamePlans.trans (.ite (.refl _) (State.claimPlaced_samePlans _ l k _ kind)) (State.modSeq_samePlans _ l (by intro q; rfl))

theorem State.addCost_samePlans (s : State) (l : Nat) (a : Access) (ck : Nat) : SamePlans s (s.addCost l a ck) :=
  .ite (.refl s) (s.modSeq_samePlans l (by intro q; rfl))

theorem State.faceBus_samePlans (s : State) (l sub : Nat) (dir : Bool) : SamePlans s (s.faceBus l sub dir) := by
  refine .ite (.refl s) ((s.modSeq_samePlans l fun q => ?_).trans (State.bumpL_samePlans _ l _ _))
  dsimp only
  split <;> rfl

theorem State.scrubPlaced_samePlans (s : State) (l : Nat) (a : Access) : SamePlans s (s.scrubPlaced l a) :=
  .ite (.ite (.refl s) (s.modMnt_samePlans l _)) (.refl s)

theorem State.placeCas_samePlans (s : State) (l k n : Nat) (x : Cand) : SamePlans s (s.placeCas l k n x) := by
  unfold State.placeCas
  extract_lets a w q g ck last t cost ends u v v' r r'
  have charged : SamePlans s u :=
    ((s.faceBus_samePlans l w.sub w.cmd.isWrite).trans (State.addCost_samePlans _ l a _)).trans (t.modSeq_samePlans l (by intro q; rfl))
  have tagged : SamePlans u v := by
    simp only [v]
    split
    · exact .of_landings rfl
    · exact .refl u
  refine charged.trans (.ite ?_ ?_)
  · exact (tagged.trans (v.modSeq_samePlans l (by intro q; rfl))).trans (State.record_samePlans _ l k n w _)
  · exact ((u.scrubPlaced_samePlans l a).trans (State.modSeq_samePlans _ l (by intro q; rfl))).trans (State.record_samePlans _ l k n w _)

theorem State.placeEntry_samePlans (s : State) (l k n from_ : Nat) (x : Cand) : SamePlans s (s.placeEntry l k n from_ x) := by
  refine .ite (s.placeCas_samePlans l k n x) (SamePlans.trans ?_ (State.recordAct_samePlans _ l k n _ _))
  exact .ite ((s.bumpL_samePlans l _ _).trans (State.addCost_samePlans _ l _ _)) (.ite (s.addCost_samePlans l _ _) (.refl s))

theorem State.chargeWaits_samePlans (s : State) (l lo hi : Nat) : SamePlans s (s.chargeWaits l lo hi) :=
  .ite (.refl s) (foldl_samePlans (fun s _ => .ite (s.addCost_samePlans l _ _) (.refl s)) _ s)

/-! ## Edges and the plan -/

theorem State.turnAt_samePlans (s : State) (l sub : Nat) (entries now : List Cand) : SamePlans s (s.turnAt l sub entries now) :=
  (s.modSeq_samePlans l (by intro q; rfl)).trans (State.faceBus_samePlans _ l sub _)

theorem State.placeHint_samePlans (s : State) (l k n hi sub : Nat) : SamePlans s (s.placeHint l k n hi sub) := by
  unfold State.placeHint
  dsimp only
  split
  · exact .refl s
  · exact ((s.recordAct_samePlans l k n _ _).trans (State.modSeq_samePlans _ l (by intro q; rfl))).trans (State.bumpL_samePlans _ l _ _)

theorem State.fillEdge_samePlans (s : State) (l n from_ hi k sub : Nat) : SamePlans s (s.fillEdge l n from_ hi k sub) := by
  unfold State.fillEdge
  extract_lets q claims entries now t x q' dir flood free slot cands
  refine .ite (.refl s) ((s.turnAt_samePlans l sub entries now).trans ?_)
  split
  · exact .ite (.refl _) (State.placeHint_samePlans _ l k n hi sub)
  · split
    · exact State.placeClaim_samePlans _ l k n _ _ _
    · exact State.placeEntry_samePlans _ l k n from_ _

theorem State.closeWindow_samePlans (s : State) (l n : Nat) : SamePlans s (s.closeWindow l n) :=
  .ite ((s.modMnt_samePlans l _).trans (State.bumpL_samePlans _ l _ _)) (.refl s)

/-- The plan that is built is for its tread, and the Landing stays in its state (R178). -/
theorem State.buildPlan_planFor (s : State) (l : LandingId) (n : Nat) :
    ((s.buildPlan l n).land l).planFor = ((s.land l).seq.lstate, n) := by
  unfold State.buildPlan
  extract_lets rate lo hi t u v
  have claimed : SamePlans s t := (s.fetchTags_samePlans l).trans (State.wholeClaims_samePlans _ l n)
  have begun : (u.land l).planFor = ((s.land l).seq.lstate, n) := by
    have state : (t.land l).seq.lstate = (s.land l).seq.lstate := congrArg Prod.fst (claimed l)
    simp [u, Landing.planFor, state]
  have filled : SamePlans u v := (foldl_samePlans (fun s i => s.fillEdge_samePlans l n lo hi (lo + i) 0) _ u).trans
    (foldl_samePlans (fun s i => s.fillEdge_samePlans l n lo hi (lo + i) 1) _ _)
  have ended := ((v.chargeWaits_samePlans l lo hi).trans (State.closeWindow_samePlans _ l n)).trans
    (State.modSeq_samePlans _ l (f := fun q => { q with hintAge := q.hints.map fun a => (a.id, q.hintPlans a.id + 1) }) fun _ => rfl)
  exact ((filled.trans ended) l).trans begun

end Sys2Proof.Machine

section
open Sys2Proof Sys2Proof.Machine Sys2Proof.Slice

/-- Settles O22: the clock is at `State.nextBoundary`, and the flights and the plan are as their lemmas say. -/
theorem boundariesAdvanceTheClockAndPlansFollow : Obligations.BoundariesAdvanceTheClockAndPlansFollow := by
  unfold Obligations.BoundariesAdvanceTheClockAndPlansFollow
  refine ⟨?cclk, ?slow, fun _ => execTreadBoundary_of_standing, ?flight, ?plan⟩
  case cclk =>
    intro s clocked cclk
    obtain ⟨t, ht, brought⟩ := execTreadBoundary_cycle clocked
    rw [State.nextBoundary_of_cclk cclk] at brought
    exact ⟨t, ht, by rw [State.tread, brought]; omega, by omega⟩
  case slow =>
    intro s clocked slow
    obtain ⟨t, ht, brought⟩ := execTreadBoundary_cycle clocked
    obtain ⟨k, steps, reached, first⟩ := State.nextBoundary_of_slowClock slow
    rw [← brought] at steps reached first
    exact ⟨t, k, ht, steps, by rw [show t.tread = t.chip.cycle / 32 from rfl]; omega, first⟩
  case flight =>
    intro s clocked core out due
    have flights := s.flightBoundary_flights
    refine ⟨s.flightBoundary, ?_, congrArg Prod.fst flights, congrArg Prod.snd flights, s.flightBoundary_faults⟩
    change execBlockFlightBoundary s = _
    simp [execBlockFlightBoundary, clocked, core, out, due]
  case plan =>
    intro s l plans
    have built := s.buildPlan_planFor l (s.tread + 1)
    refine ⟨s.buildPlan l (s.tread + 1), ?_, congrArg Prod.snd built, congrArg Prod.fst built⟩
    change execTreadPlan l s = _
    rw [execTreadPlan, if_pos plans]

end

/-! SUPPORT. The Tier Engine's starts: a demotion and a promotion whose conditions hold are among the Gallery's moves. -/

namespace Sys2Proof.Machine

/-! ## Demotions -/

theorem State.stageMove_asks (s : State) (g : Nat) (m : Move) (i : Nat) (op : AccOp) (sp : Spot) (data : BitVec 512) (poison : Bool) :
    Asks s (s.stageMove g m i op sp data poison) := by
  unfold State.stageMove
  split
  · exact ((s.needMeta_asks _ _ _ _ _ _ _).trans (State.fresh_asks _)).trans (State.stage_asks _ _ _)
  · exact s.fresh_asks.trans (State.stage_asks _ _ _)

/-- The reads of a page's lines leave every move as it is. -/
theorem foldl_stageMove_moves (m : Move) (place : State → Nat → Spot) (rest : List Nat) (s : State) (g k : Nat) :
    ((rest.foldl (fun s i => s.stageMove g m i .read (place s i) 0 false) s).gal k).moves = (s.gal k).moves :=
  (foldl_related .refl .trans (R := Asks) (fun s i => s.stageMove_asks g m i .read (place s i) 0 false) rest s).moves k

/-- The demotion of a page that is a candidate has started (R399). The entry is a variable, as for `State.soundEntry_kept`. -/
theorem State.startDemotion_of_candidate {s t : State} {g : GalleryId} {n p heat region : Nat} {h : Hall} {e : PageEntry}
    (hall : s.hall n = some h) (home : h.home p = g.val) (inside : p * 4096 < h.bytes)
    (entry : (s.scanLines g n h p).soundEntry h n p = (some e, t)) (warm : t.pageHeat g n p = some heat)
    (warmRegion : t.regionHeat g h p = some region) (cold : t.candidate g n h p e heat region = true) :
    newMove t.chip.nextId n p true false (beStamp t.now) ∈ ((s.startDemotion g n p).gal g).moves := by
  have placed : ¬(h.home p ≠ g.val ∨ h.bytes ≤ p * 4096) := by omega
  generalize hf : @State.startDemotion = f
  delta State.startDemotion at hf
  subst hf
  beta_reduce
  generalize State.soundEntry = sound at entry ⊢
  obtain ⟨found, next, rfl⟩ := halves_four sound
  obtain ⟨hfound, hnext⟩ := Prod.mk.inj entry
  dsimp only
  split
  next gone => exact absurd (hall.symm.trans gone) nofun
  next h' stands =>
    obtain rfl : h = h' := Option.some.inj (hall.symm.trans stands)
    rw [if_neg placed, hnext]
    split
    next e' heat' region' he hheat hregion =>
      obtain rfl : e = e' := Option.some.inj (hfound.symm.trans he)
      obtain rfl : heat = heat' := Option.some.inj (warm.symm.trans hheat)
      obtain rfl : region = region' := Option.some.inj (warmRegion.symm.trans hregion)
      rw [if_neg (by simp [cold]), foldl_stageMove_moves _ fun s i => s.plainSpot h g p e i, State.modGal_gal_self]
      exact List.mem_append_right _ List.mem_cons_self
    next missing => exact absurd warmRegion (missing e heat region hfound warm)

/-! ## Promotions -/

/-- A Gallery that a change leaves as it is leaves the state as it is. -/
theorem State.modGal_of_eq {s : State} {g : GalleryId} {f : Gallery → Gallery} (h : f (s.gal g) = s.gal g) : s.modGal g f = s := by
  have same : s.galleries.setIfInBounds g.val (s.gal g) = s.galleries := by
    ext i hi
    by_cases hg : g.val = i
    · simp [State.gal, ← hg]
    · simp [hg]
  rw [State.modGal, h, State.setGal, same]

theorem Hall.isUnbacked_of_nil {h : Hall} (backed : h.unbacked = []) (p : Nat) : h.isUnbacked p = false := by
  simp [Hall.isUnbacked, backed]

/-- A move of the Gallery that is changed by its number. -/
theorem State.mem_modMove {s : State} {g : GalleryId} {m : Move} (f : Move → Move) (h : m ∈ (s.gal g).moves) :
    f m ∈ ((s.modMove g m.id f).gal g).moves := by
  rw [State.modMove, State.modGal_gal_self]
  exact List.mem_map.2 ⟨m, h, if_pos (by simp)⟩

/-- The lines of a page that is LOST are all to be written with poison (R388). -/
theorem State.readPromotion_lost {s : State} {g : Nat} {m : Move} {h : Hall} {e : PageEntry} (lost : e.loc = 2) :
    s.readPromotion g m h e = some (s.modMove g m.id fun m => { m with poisoned := List.range 64 }) := by
  rw [State.readPromotion, if_pos lost]

theorem State.promoTarget_home {s : State} {g : Nat} {m : Move} {h : Hall} (backed : h.unbacked = []) : s.promoTarget g m h = some (m, s) := by
  rw [State.promoTarget, Hall.isUnbacked_of_nil backed]
  rfl

/-- A write that waits for a LOST page starts its promotion, which writes every line with poison (R388, R400). The entry is a variable, as for
`State.soundEntry_kept`. -/
theorem State.startPromotion_lost {s t : State} {g : GalleryId} {n p : Nat} {h : Hall} {e : PageEntry} (hall : s.hall n = some h)
    (home : h.home p = g.val) (still : (s.gal g).moves = []) (writes : s.waitingWrites n p ≠ []) (cold : (s.gal g).hot = [])
    (rigid : h.elastic = false) (backed : h.unbacked = [])
    (entry : s.moveEntry h n p ((nearest ((s.waitingWrites n p).map (·.1) ++ s.waitingInner n p)).getD (beStamp s.now)) = (some e, t))
    (lost : e.loc = 2) :
    ∃ m ∈ ((s.startPromotion g n p).gal g).moves, m.demote = false ∧ m.write = true ∧ m.hall = n ∧ m.page = p ∧
      m.poisoned = List.range 64 := by
  have wanted : ((s.waitingWrites n p).map (·.1) ++ s.waitingInner n p).isEmpty = false := by simp [writes]
  have asIs : (s.modGal g fun x => { x with hot := x.hot.filter fun e => e != (n, p) }) = s := by
    refine State.modGal_of_eq ?_
    generalize s.gal g = x at cold
    cases x
    simp_all
  have plain : e.compressed = false := by simp [PageEntry.compressed, lost]
  generalize hf : @State.startPromotion = f
  delta State.startPromotion at hf
  subst hf
  beta_reduce
  generalize State.moveEntry = move at entry ⊢
  obtain ⟨found, next, rfl⟩ := halves_five move
  obtain ⟨hfound, hnext⟩ := Prod.mk.inj entry
  dsimp only
  split
  next gone => exact absurd (hall.symm.trans gone) nofun
  next h' stands =>
    obtain rfl : h = h' := Option.some.inj (hall.symm.trans stands)
    rw [if_neg (by simp [home, still]), if_neg (by simp [still]), if_neg (by simp [wanted]), asIs, hnext]
    split
    next missing => exact absurd (hfound.symm.trans missing) nofun
    next e' he =>
      obtain rfl : e = e' := Option.some.inj (hfound.symm.trans he)
      rw [if_neg (by simp [plain, lost, wanted]), if_neg (by simp [rigid])]
      split
      next failed => exact absurd ((State.promoTarget_home backed).symm.trans failed) nofun
      next m u target =>
        obtain ⟨rfl, rfl⟩ := Prod.mk.inj (Option.some.inj ((State.promoTarget_home backed).symm.trans target))
        split
        next v reads =>
          obtain rfl := Option.some.inj ((State.readPromotion_lost lost).symm.trans reads)
          refine ⟨_, State.mem_modMove _ (State.modGal_gal_self _ g _ ▸ List.mem_append_right _ List.mem_cons_self), rfl, ?_, rfl, rfl, rfl⟩
          simp [newMove, wanted]
        next fenced => exact absurd ((State.readPromotion_lost lost).symm.trans fenced) nofun

end Sys2Proof.Machine

/-! SUPPORT. The Tier Engine's switches: the page's place moves, and the move ends. -/

namespace Sys2Proof.Machine

/-! ## What leaves the pages' places alone -/

/-- What each step of a fold leaves alone, the fold leaves alone. -/
theorem foldl_proj {α β : Type} (g : State → β) {f : State → α → State} (h : ∀ s x, g (f s x) = g s) (rest : List α) (s : State) :
    g (rest.foldl f s) = g s :=
  foldl_related (R := fun s t => g t = g s) (fun _ => rfl) (fun h k => k.trans h) h rest s

theorem State.freeOld_away (s : State) (g : Nat) (e : PageEntry) : (s.freeOld g e).away = s.away := by
  unfold State.freeOld
  split <;> rfl

theorem State.endMove_away (s : State) (g id : Nat) : (s.endMove g id).away = s.away := rfl
theorem State.dropDecoded_away (s : State) (g n p : Nat) : (s.dropDecoded g n p).away = s.away := rfl

theorem State.countPage_away (s : State) (n p g : Nat) (dPool dCmp : Int) : (s.countPage n p g dPool dCmp).away = s.away := by
  unfold State.countPage State.modHall
  split <;> rfl

theorem State.relockPage_away (s : State) (n p : Nat) (place : Nat → Spot) : (s.relockPage n p place).away = s.away := by
  refine eachBelow_proj State.away (fun port s => foldl_proj State.away (fun s q => ?_) _ s) 9 s
  dsimp only
  split <;> rfl

/-! ## Moves that end -/

/-- A page that is HOME is not listed among the pages elsewhere. -/
theorem State.setAway_home (s : State) (n p : Nat) {e : PageEntry} (home : e.loc = 0) :
    ∀ w ∈ (s.setAway n p e).away, ¬(w.hall = n ∧ w.page = p) := by
  rintro w hw ⟨here, page⟩
  rw [State.setAway, if_pos home] at hw
  simpa [here, page] using (List.mem_filter.1 hw).2

/-- A page that is not HOME is listed with its place. -/
theorem State.mem_setAway (s : State) (n p : Nat) {e : PageEntry} (moved : e.loc ≠ 0) :
    { hall := n, page := p, loc := e.loc, frame := e.frame, start := e.start, count := e.count } ∈ (s.setAway n p e).away := by
  rw [State.setAway, if_neg moved]
  exact List.mem_append_right _ List.mem_cons_self

theorem State.endMove_moves (s : State) (g : GalleryId) (id : Nat) : ∀ x ∈ ((s.endMove g id).gal g).moves, x.id ≠ id := by
  intro x hx
  rw [State.endMove, State.modGal_gal_self] at hx
  simpa using (List.mem_filter.1 hx).2

/-- A demotion whose page is not lost switches the page to its place in the pool and ends (R380 step 6). The entry is a variable, as for
`State.soundEntry_kept`. -/
theorem State.switchDemotion_switched {s t : State} {g : GalleryId} {m : Move} {h : Hall} {old : PageEntry} (hall : s.hall m.hall = some h)
    (entry : s.moveEntry h m.hall m.page m.stamp = (some old, t)) (here : old.loc ≠ 2) :
    (∀ x ∈ ((s.switchDemotion g m).gal g).moves, x.id ≠ m.id) ∧
      { hall := m.hall, page := m.page, loc := 1, frame := m.frame, start := m.start, count := m.count } ∈ (s.switchDemotion g m).away := by
  generalize hf : @State.switchDemotion = f
  delta State.switchDemotion at hf
  subst hf
  beta_reduce
  generalize State.moveEntry = move at entry ⊢
  obtain ⟨found, next, rfl⟩ := halves_five move
  obtain ⟨hfound, hnext⟩ := Prod.mk.inj entry
  dsimp only
  split
  next gone => exact absurd (hall.symm.trans gone) nofun
  next h' stands =>
    obtain rfl : h = h' := Option.some.inj (hall.symm.trans stands)
    rw [hnext]
    split
    next missing => exact absurd (hfound.symm.trans missing) nofun
    next old' hold =>
      obtain rfl : old = old' := Option.some.inj (hfound.symm.trans hold)
      rw [if_neg here]
      refine ⟨State.endMove_moves _ g m.id, ?_⟩
      rw [State.endMove_away, State.bumpG_away, State.countPage_away, State.freeOld_away]
      exact State.mem_setAway _ m.hall m.page (e := { loc := 1, count := m.count, start := m.start, frame := m.frame, incomp := false
                                                      off1 := m.offs.getD 0 0, off2 := m.offs.getD 1 0, off3 := m.offs.getD 2 0 }) nofun

/-- A promotion to HOME switches the page there and ends (R24). The entry is a variable, as for `State.soundEntry_kept`. -/
theorem State.switchPromotion_switched {s t : State} {g : GalleryId} {m : Move} {h : Hall} {old : PageEntry} (hall : s.hall m.hall = some h)
    (entry : s.moveEntry h m.hall m.page m.stamp = (some old, t)) (toHome : m.toFrame = false) :
    (∀ x ∈ ((s.switchPromotion g m).gal g).moves, x.id ≠ m.id) ∧
      ∀ w ∈ (s.switchPromotion g m).away, ¬(w.hall = m.hall ∧ w.page = m.page) := by
  generalize hf : @State.switchPromotion = f
  delta State.switchPromotion at hf
  subst hf
  beta_reduce
  generalize State.moveEntry = move at entry ⊢
  obtain ⟨found, next, rfl⟩ := halves_five move
  obtain ⟨hfound, hnext⟩ := Prod.mk.inj entry
  dsimp only
  split
  next gone => exact absurd (hall.symm.trans gone) nofun
  next h' stands =>
    obtain rfl : h = h' := Option.some.inj (hall.symm.trans stands)
    rw [hnext]
    split
    next missing => exact absurd (hfound.symm.trans missing) nofun
    next old' hold =>
      refine ⟨State.endMove_moves _ g m.id, ?_⟩
      rw [State.endMove_away, State.bumpG_away, State.relockPage_away, State.countPage_away, State.dropDecoded_away, State.freeOld_away]
      exact State.setAway_home _ m.hall m.page (by simp [toHome]; rfl)

/-! ## Unbacking -/

/-- The hall gives up the group (R402). -/
theorem State.unback_hall {s : State} {n group : Nat} {h : Hall} (hall : s.hall n = some h) (may : s.mayUnback n h group = true) :
    (s.unback n group).hall n = some { h with unbacked := h.unbacked ++ [group] } := by
  unfold State.unback
  rw [hall]
  dsimp only
  rw [if_neg (by simp [may])]
  exact (foldl_proj (fun t => t.hall n) (by intro t g; rfl) _ _).trans (State.putHall_hall_self s n _)

end Sys2Proof.Machine

/-! SUPPORT. The decoder takes a segment: the fetch goes, and what its end makes the block do brings no other. -/

namespace Sys2Proof.Machine

/-! ## What leaves the Galleries alone -/

theorem State.send_galleries (s : State) (p : Nat) (t : Txn) (r : Resp) : (s.send p t r).galleries = s.galleries := by
  have held (u : State) (code : Nat) : (u.status1Hold code).galleries = u.galleries := by
    fun_cases State.status1Hold u code <;> rfl
  have late (u : State) : (u.countLate p t).galleries = u.galleries := by
    unfold State.countLate
    dsimp only
    split
    · rfl
    · split
      · rfl
      · split
        · exact held _ 2
        · split
          · exact held _ 2
          · exact (State.report_onlyReported _ _ _).galleries.trans (held _ 2)
  have counted {c : Prop} [Decidable c] (u : State) (a : Nat) : (if c then u.bumpB a 1 else u).galleries = u.galleries := by
    split <;> rfl
  unfold State.send
  dsimp only
  split
  · exact (late _).trans (counted _ _)
  · exact counted _ _

theorem State.trySend_galleries (s : State) (p n : Nat) : (s.trySend p n).galleries = s.galleries := by
  induction n generalizing s with
  | zero => rfl
  | succ n ih =>
    unfold State.trySend
    split
    · rfl
    · split
      · rfl
      · exact (ih _).trans (s.send_galleries p _ _)

theorem State.form_galleries (s : State) (p id : Nat) (st : Status) (poison : Bool) (data : BitVec 512) :
    (s.form p id st poison data).galleries = s.galleries := by
  unfold State.form
  split
  · rfl
  · split
    · rfl
    · exact State.trySend_galleries _ p _

theorem State.answerSeg_galleries (s : State) (f : SegFetch) (ans : Nat → Arrival) : (s.answerSeg f ans).galleries = s.galleries := by
  unfold State.answerSeg
  refine (foldl_proj State.galleries (by intro s w; rfl) _ _).trans (foldl_proj State.galleries (fun s w => ?_) _ s)
  split <;> exact State.form_galleries s _ _ _ _ _

theorem State.enterStaging_galleries (s : State) (l : Nat) (a : Access) : (s.enterStaging l a).galleries = s.galleries := by
  rcases s.enterStaging_cases l a with same | ⟨_, _, placed⟩
  · rw [same]
  · rw [placed]
    rfl

theorem State.stage_galleries (s : State) (l : Nat) (a : Access) : (s.stage l a).galleries = s.galleries :=
  State.refill_proj State.galleries State.enterStaging_galleries _ l

theorem State.poisonWrite_galleries (s : State) (l : Nat) (a : Access) : (s.poisonWrite l a).galleries = s.galleries := by
  unfold State.poisonWrite State.rewrite State.ownPut
  split
  · rfl
  · split
    · rfl
    · exact State.stage_galleries _ _ _

theorem State.poisonSegment_galleries (s : State) (g : Nat) (f : SegFetch) : (s.poisonSegment g f).galleries = s.galleries := by
  unfold State.poisonSegment
  split
  · rfl
  · exact foldl_proj State.galleries (fun s i => State.poisonWrite_galleries s _ _) _ s

theorem State.startFence_galleries (s : State) (f : Fence) : (s.startFence f).galleries = s.galleries := by
  unfold State.startFence
  split <;> rfl

/-- A report below class F leaves the Galleries alone: a fence that it starts takes effect at the next tread boundary (R505). -/
theorem State.raise_galleries (s : State) {r : Rep} (f : Option Fence) (h : r.cls ≠ 3) : (s.raise r f).galleries = s.galleries := by
  unfold State.raise
  split
  · exact (s.report_onlyReported r _).galleries
  · dsimp only
    split
    · exact (State.startFence_galleries _ _).trans (State.report_onlyReported _ _ _).galleries
    · exact (State.report_onlyReported _ _ _).galleries

/-! ## Segment fetches -/

/-- Every Gallery keeps its segment fetches. -/
def SameSegs (s t : State) : Prop := ∀ g, (t.gal g).segs = (s.gal g).segs

theorem SameSegs.trans {s t u : State} (h : SameSegs s t) (k : SameSegs t u) : SameSegs s u := fun g => (k g).trans (h g)

theorem SameSegs.of_galleries {s t : State} (h : t.galleries = s.galleries) : SameSegs s t := fun g => by rw [State.gal, State.gal, h]

theorem State.modGal_sameSegs (s : State) (g : Nat) {f : Gallery → Gallery} (h : ∀ x, (f x).segs = x.segs) : SameSegs s (s.modGal g f) :=
  State.modGal_gal_proj Gallery.segs h s g

theorem State.bumpG_sameSegs (s : State) (g off n : Nat) : SameSegs s (s.bumpG g off n) := s.modGal_sameSegs g fun _ => rfl

theorem State.decodeError_sameSegs (s : State) (g kind n p seg : Nat) : SameSegs s (s.decodeError g kind n p seg) := by
  refine ((s.modGal_sameSegs g ?_).trans (State.bumpG_sameSegs _ g _ _)).trans
    (.of_galleries (State.raise_galleries _ _ (show srcClass 11 1 ≠ 3 by decide)))
  intro x
  rfl

theorem State.segToMove_sameSegs (s : State) (g : Nat) (f : SegFetch) (bytes : Option (List Byte)) : SameSegs s (s.segToMove g f bytes) := by
  unfold State.segToMove
  split
  · exact fun _ => rfl
  · exact s.modGal_sameSegs g fun _ => rfl

/-- A fetch that leaves the list. -/
def State.dropSeg (s : State) (g id : Nat) : State := s.modGal g fun x => { x with segs := x.segs.filter fun e => e.id != id }

theorem State.dropSeg_segs (s : State) (g : GalleryId) (id : Nat) : ∀ x ∈ ((s.dropSeg g id).gal g).segs, x.id ≠ id := by
  intro x hx
  rw [State.dropSeg, State.modGal_gal_self] at hx
  simpa using (List.mem_filter.1 hx).2

/-- A segment without sound content leaves the fetches, and no other does. -/
theorem State.segFails_segs (s : State) (g : Nat) (f : SegFetch) (kind : Option Nat) : SameSegs (s.dropSeg g f.id) (s.segFails g f kind) := by
  have ended (t : State) : SameSegs t ((t.segToMove g f none).answerSeg f fun _ => .poison) :=
    (t.segToMove_sameSegs g f none).trans (.of_galleries (State.answerSeg_galleries _ f _))
  unfold State.segFails
  split
  · exact (((SameSegs.of_galleries (State.poisonSegment_galleries _ g f)).trans (State.bumpG_sameSegs _ g _ _)).trans
      (State.decodeError_sameSegs _ g _ _ _ _)).trans (ended _)
  · exact ended _

/-- A segment whose lines have not all come waits (R382). -/
theorem State.decodeSegment_waits {s : State} {g : Nat} {f : SegFetch} (short : f.lines.length < f.need) : s.decodeSegment g f = s := by
  have notReady : ¬f.need ≤ f.lines.length := Nat.not_le.2 short
  rw [State.decodeSegment]
  simp [notReady]

/-- A complete segment with the nearest stamp leaves the fetches, and no other does (R384). -/
theorem State.decodeSegment_segs {s : State} {g : Nat} {f : SegFetch} (ready : f.need ≤ f.lines.length)
    (first : ∀ x ∈ (s.gal g).segs, x.id ≠ f.id → x.need ≤ x.lines.length →
      nearer x.stamp f.stamp = false ∧ (x.stamp = f.stamp → f.id ≤ x.id)) : SameSegs (s.dropSeg g f.id) (s.decodeSegment g f) := by
  have alone : ((s.gal g).segs.any fun e => decide (e.need ≤ e.lines.length) && e.id != f.id &&
      (nearer e.stamp f.stamp || (e.stamp == f.stamp && decide (e.id < f.id)))) = false := by
    rw [List.any_eq_false]
    intro x hx
    by_cases other : x.id ≠ f.id ∧ x.need ≤ x.lines.length
    · obtain ⟨farther, later⟩ := first x hx other.1 other.2
      simpa [other, farther] using later
    · simp only [not_and] at other
      simp only [Bool.and_eq_true, decide_eq_true_eq, bne_iff_ne, not_and]
      exact fun ⟨full, distinct⟩ => absurd full (other distinct)
  unfold State.decodeSegment
  dsimp only
  rw [alone, if_neg (by simp [ready])]
  split
  · exact s.segFails_segs g f none
  · split
    · exact s.segFails_segs g f _
    · refine SameSegs.trans ?_ (.of_galleries (State.answerSeg_galleries _ f _))
      refine SameSegs.trans ?_ (State.segToMove_sameSegs _ g f _)
      exact (State.bumpG_sameSegs _ g _ _).trans (State.modGal_sameSegs _ g (by intro x; rfl))

/-! ## The rows -/

theorem State.moveOf_id {s : State} {g id : Nat} {m : Move} (h : s.moveOf g id = some m) : m.id = id := by
  simpa using List.find?_some h

theorem State.segOf_id {s : State} {g id : Nat} {f : SegFetch} (h : s.segOf g id = some f) : f.id = id := by
  simpa using List.find?_some h

end Sys2Proof.Machine

section
open Sys2Proof Sys2Proof.Machine Sys2Proof.Slice

/-- Settles O50: each row by the lemma of the function that it runs. -/
theorem tierMovesStartAndSwitch : Obligations.TierMovesStartAndSwitch := by
  unfold Obligations.TierMovesStartAndSwitch
  refine ⟨?stopped, ?demotion, ?promotion, ?switches, ?halted, ?unback, ?decode⟩
  case stopped =>
    intro s g n page stopped
    refine ⟨?_, ?_, fun group => ?_⟩
    · change execTierDemotionStart g n page s = _
      simp [execTierDemotionStart, stopped]
    · change execTierPromotionStart g n page s = _
      simp [execTierPromotionStart, stopped]
    · change execTierUnback n group s = _
      unfold execTierUnback
      split
      · simp [stopped]
      · rfl
  case demotion =>
    intro s g n page heat h e runs hall home inside
    dsimp only
    generalize hr : (s.scanLines g n h page).soundEntry h n page = r
    obtain ⟨e', t⟩ := r
    rintro rfl warm region warmRegion cold
    have time : t.now = s.now := by
      have kept : t.kept = s.kept := by rw [← show _ = t from congrArg Prod.snd hr, State.soundEntry_kept, State.scanLines_kept]
      exact congrArg (fun k => k.cycle / 2) kept
    refine ⟨s.startDemotion g n page, _, ?_, State.startDemotion_of_candidate hall home inside hr warm warmRegion cold, rfl, rfl, rfl, ?_⟩
    · change execTierDemotionStart g n page s = _
      rw [execTierDemotionStart, if_pos runs]
    · rw [← time]
      rfl
  case promotion =>
    intro s g n page h e runs hall home still writes cold rigid backed entry lost
    generalize hr : s.moveEntry h n page _ = r at entry
    obtain ⟨e', t⟩ := r
    obtain rfl : e' = some e := entry
    obtain ⟨m, joined, demote, write, ofHall, ofPage, poisoned⟩ := State.startPromotion_lost hall home still writes cold rigid backed hr lost
    refine ⟨s.startPromotion g n page, m, ?_, joined, demote, write, ofHall, ofPage, poisoned⟩
    change execTierPromotionStart g n page s = _
    rw [execTierPromotionStart, if_pos runs]
  case switches =>
    intro s g id m h e move going awake hall entry
    generalize hr : s.moveEntry h m.hall m.page m.stamp = r at entry
    obtain ⟨e', t⟩ := r
    obtain rfl : e' = some e := entry
    refine ⟨fun demote started written here => ?_, fun promote total written toHome => ?_⟩
    · obtain ⟨gone, placed⟩ := State.switchDemotion_switched hall hr here
      rw [State.moveOf_id move] at gone
      refine ⟨s.switchDemotion g m, ?_, gone, _, placed, rfl, rfl, rfl, rfl, rfl, rfl⟩
      change execTierDemotionSwitch g id s = _
      rw [execTierDemotionSwitch, move]
      exact if_pos (by simp [demote, going, started, written, awake])
    · obtain ⟨gone, homed⟩ := State.switchPromotion_switched hall hr toHome
      rw [State.moveOf_id move] at gone
      refine ⟨s.switchPromotion g m, ?_, gone, homed⟩
      change execTierPromotionSwitch g id s = _
      rw [execTierPromotionSwitch, move]
      exact if_pos (by simp [promote, going, total, written, awake])
  case halted =>
    intro s g id halted
    refine ⟨?_, ?_, ?_⟩
    · change execTierDemotionSwitch g id s = _
      unfold execTierDemotionSwitch
      split
      · exact if_neg (by simp [halted])
      · rfl
    · change execTierPromotionSwitch g id s = _
      unfold execTierPromotionSwitch
      split
      · exact if_neg (by simp [halted])
      · rfl
    · change execSegmentDecode g id s = _
      unfold execSegmentDecode
      split
      · exact if_pos halted
      · rfl
  case unback =>
    intro s n h group hall runs may
    refine ⟨?_, State.unback_hall hall may⟩
    change execTierUnback n group s = _
    rw [execTierUnback, hall]
    exact if_pos (by simp [runs, may])
  case decode =>
    intro s g id f fetch awake
    have runs : exec (.segmentDecode g id) s = .next (s.decodeSegment g f).pump := by
      change execSegmentDecode g id s = _
      rw [execSegmentDecode, fetch]
      exact if_neg (by simp [awake])
    obtain rfl := State.segOf_id fetch
    refine ⟨fun short => ?_, fun ready first => ⟨s.decodeSegment g f, runs, ?_⟩⟩
    · rw [runs, State.decodeSegment_waits short]
    · rw [State.decodeSegment_segs ready first g]
      exact s.dropSeg_segs g f.id

end

/-! SUPPORT. The units at reset, and the fields that a power-on samples. -/

namespace Sys2Proof.Machine

/-! ## Units at reset -/

theorem State.reset_ch (n : ChannelId) : State.reset.ch n = Dma.reset := by simp [State.ch, State.reset]
theorem State.reset_land (l : LandingId) : State.reset.land l = Landing.reset := by simp [State.land, State.reset]
theorem State.reset_port (p : PortId) : State.reset.port p = Port.reset := by simp [State.port, State.reset]

/-! ## The end of a cold reset -/

/-- In cold reset the sequence samples the straps, and the block starts or waits for its rails (R65). -/
theorem exec_powerOnSequence_cold {s : State} (bootsel : Bool) (hash : BitVec 384) (cold : s.chip.phase = .cold) :
    exec (.powerOnSequence bootsel hash) s = .next (s.modChip fun c =>
      let c := { c with bootsel := bootsel, rootKeyHash := hash, warm := false }
      if c.pgCore && c.pgCp then c.start else { c with phase := .cold, coreOn := false, cpOn := false, railWait := true }) :=
  if_pos (by simp [cold])

/-- Before the end of a cold reset the rise of a rail is seen, and the rise of the later one ends the reset (R65). -/
theorem exec_pgInputRise_held {s : State} (pin : PgPin) (held : s.awake = false) :
    exec (.pgInputRise pin) s = .next (s.modChip fun c =>
      let c := c.setPg pin true
      if c.railWait && c.pgCore && c.pgCp then c.start else c) :=
  if_pos (by simp [held])

end Sys2Proof.Machine

section
open Sys2Proof Sys2Proof.Machine Sys2Proof.Slice

/-- Settles O7: each unit at reset is its reset value (`State.reset_ch` and its neighbours). -/
theorem resetValuesOfTheUnits : Obligations.ResetValuesOfTheUnits := by
  unfold Obligations.ResetValuesOfTheUnits
  refine ⟨rfl, rfl, rfl, rfl, rfl, rfl, rfl, rfl, rfl, rfl, rfl, rfl, rfl, fun n => ?channel, fun l => ?landing, fun p => ?port⟩
  case channel =>
    rw [State.reset_ch]
    exact ⟨rfl, rfl⟩
  case landing =>
    rw [State.reset_land]
    exact ⟨rfl, rfl, rfl⟩
  case port => rw [State.reset_port]; rfl

/-- Settles O14: the fields of `State.cold` one by one; the end of the reset by `exec_powerOnSequence_cold` and
`exec_pgInputRise_held`, split by the rails that are good. -/
theorem coldResetClearsAndPowerOnSamples : Obligations.ColdResetClearsAndPowerOnSamples := by
  unfold Obligations.ColdResetClearsAndPowerOnSamples
  refine ⟨fun s => ⟨s.cold, rfl, ?cleared⟩, ?samples, ?rises, ?runs⟩
  case cleared => and_intros <;> rfl
  case samples =>
    intro s bootsel hash cold
    rw [exec_powerOnSequence_cold bootsel hash cold]
    refine ⟨fun core cp => ?_, fun missing => ?_⟩
    · simp [State.modChip, Chip.start, core, cp]
    · have down : (s.chip.pgCore && s.chip.pgCp) = false := Bool.and_eq_false_iff.2 missing
      simp [State.modChip, down, cold]
  case rises =>
    intro s cold waits
    have held : s.awake = false := by simp [State.awake, cold]
    rw [exec_pgInputRise_held .core held, exec_pgInputRise_held .cp held]
    refine ⟨fun cp => ?_, fun cp => ?_, fun core => ?_⟩
    · simp [State.modChip, Chip.setPg, Chip.start, waits, cp]
    · simp [State.modChip, Chip.setPg, waits, cp]
    · simp [State.modChip, Chip.setPg, Chip.start, waits, core]
  case runs =>
    intro s bootsel hash out clock
    exact if_neg (by simp [out, clock])

end

/-! SUPPORT. A warm reset under way: with every port closed and no pop stalled, the drain of the Landings moves neither the ports, CFG nor the
power state (R60, R61, R63). -/

namespace Sys2Proof.Machine

/-! ## Closed ports -/

theorem State.port_of_closed {s : State} (closed : s.ports = State.reset.ports) (p : Nat) : s.port p = Port.reset := by
  by_cases hp : p < 9
  · simp [State.port, closed, State.reset, hp]
  · simp [State.port, hp]

/-- A port that a change leaves as it is leaves the state as it is. -/
theorem State.modPort_of_eq {s : State} {p : Nat} {f : Port → Port} (h : f (s.port p) = s.port p) : s.modPort p f = s := by
  have same : s.ports.setIfInBounds p (s.port p) = s.ports := by
    ext i hi
    by_cases hp : p = i
    · simp [State.port, hp, hi]
    · simp [hp]
  rw [State.modPort, h, State.setPort, same]

/-- A closed port holds no transaction to change. -/
theorem State.modTxn_of_closed {s : State} (closed : s.ports = State.reset.ports) (p id : Nat) (f : Txn → Txn) : s.modTxn p id f = s :=
  State.modPort_of_eq (by rw [State.port_of_closed closed]; rfl)

theorem State.demote_of_closed {s : State} (closed : s.ports = State.reset.ports) (p id : Nat) (stamp : BitVec 32) :
    s.demote p id stamp = s := by
  rw [State.demote, State.port_of_closed closed]
  rfl

theorem State.noteStamp_of_closed {s : State} (closed : s.ports = State.reset.ports) (old new : Access) : s.noteStamp old new = s := by
  unfold State.noteStamp
  split
  · split
    · exact State.demote_of_closed closed _ _ _
    · exact State.modTxn_of_closed closed _ _ _
  · split
    · exact List.foldl_fixed' (fun w => State.demote_of_closed closed _ _ _) _
    · rfl
  · rfl

/-- No transaction is marked where no port holds any. -/
theorem State.excuseAll_ports {s : State} (closed : s.ports = State.reset.ports) (l : Nat) : (s.excuseAll l).ports = State.reset.ports := by
  simp only [State.excuseAll, closed]
  ext i hi
  simp [State.reset, Port.reset]

/-! ## What the Fault Collector and the power results leave alone -/

theorem OnlyReported.pwr {s t : State} (h : OnlyReported s t) : t.pwr = s.pwr := by
  obtain ⟨_, _, _, _, _, _, _, rfl⟩ := h
  rfl

theorem OnlyReported.ports {s t : State} (h : OnlyReported s t) : t.ports = s.ports := by
  obtain ⟨_, _, _, _, _, _, _, rfl⟩ := h
  rfl

/-- Of the chip's fields only the pulse of STATUS1 moves. -/
theorem OnlyReported.chip {s t : State} (h : OnlyReported s t) : ∃ pulse, t.chip = { s.chip with status1Pulse := pulse } := by
  obtain ⟨_, _, _, _, _, _, pulse, rfl⟩ := h
  exact ⟨pulse, rfl⟩

theorem State.status1Hold_onlyReported (s : State) (code : Nat) : OnlyReported s (s.status1Hold code) := by
  unfold State.status1Hold
  split
  · split
    · exact ⟨_, _, _, _, _, _, _, rfl⟩
    · exact .refl s
  · exact .refl s

/-- A result is written, and posted in P0 to P2 (R496). -/
theorem State.pwrResult_onlyReported (s : State) (code : Nat) (target : PState) (unit : Nat) :
    ∃ p : Pwr, OnlyReported { s with pwr := p } (s.pwrResult code target unit) ∧ p.trans = s.pwr.trans ∧ p.pend = s.pwr.pend := by
  unfold State.pwrResult
  dsimp only
  split
  · exact ⟨_, State.post_onlyReported _ _ _ _, rfl, rfl⟩
  · exact ⟨_, .refl _, rfl, rfl⟩

/-- A reset leaves no transition under way and none waiting (R63). -/
theorem State.abandonTransition_abandons (s : State) :
    ∃ p : Pwr, OnlyReported { s with pwr := p } s.abandonTransition ∧ p.trans = none ∧ p.pend = none := by
  unfold State.abandonTransition
  cases trans : s.pwr.trans with
  | some t =>
    obtain ⟨p, h, gone, dropped⟩ := (s.modPwr fun p => { p with trans := none, pend := none }).pwrResult_onlyReported 7 t.target 0
    exact ⟨p, h, gone, dropped⟩
  | none =>
    cases pend : s.pwr.pend with
    | none => exact ⟨s.pwr, .refl s, trans, pend⟩
    | some target =>
      obtain ⟨p, h, still, dropped⟩ := (s.modPwr fun p => { p with pend := none }).pwrResult_onlyReported 7 target 0
      exact ⟨p, h, still.trans trans, dropped⟩

/-- A domain that goes off answers the pop that stalls there, and nothing but CFG moves. -/
theorem State.dropStall_stalled (s : State) : ∃ c : Cfg, s.dropStall = { s with cfg := c } ∧ c.stalled = none := by
  unfold State.dropStall
  split
  next free => exact ⟨s.cfg, rfl, by simpa using free⟩
  next => exact ⟨_, rfl, rfl⟩

/-! ## The block in a warm reset -/

/-- A warm reset is under way: firmware is stopped, every port closed, no pop stalls and no power transition runs or waits. -/
structure Stopped (s : State) : Prop where
  phase : s.chip.phase = .warm
  firmware : s.chip.fwReady = false
  ports : s.ports = State.reset.ports
  stalled : s.cfg.stalled = none
  trans : s.pwr.trans = none
  pend : s.pwr.pend = none

/-- A change that reaches neither the chip, the ports, CFG nor the power state. -/
theorem Stopped.same {s t : State} (h : Stopped s) (chip : t.chip = s.chip) (ports : t.ports = s.ports) (cfg : t.cfg = s.cfg)
    (pwr : t.pwr = s.pwr) : Stopped t where
  phase := by rw [chip, h.phase]
  firmware := by rw [chip, h.firmware]
  ports := by rw [ports, h.ports]
  stalled := by rw [cfg, h.stalled]
  trans := by rw [pwr, h.trans]
  pend := by rw [pwr, h.pend]

theorem Stopped.ite {s t : State} {c : Prop} [Decidable c] (hs : Stopped s) (ht : Stopped t) : Stopped (if c then s else t) := by
  split
  · exact hs
  · exact ht

theorem Stopped.foldl {α : Type} {f : State → α → State} (step : ∀ s x, Stopped s → Stopped (f s x)) (rest : List α) {s : State}
    (h : Stopped s) : Stopped (rest.foldl f s) :=
  List.foldlRecOn rest f h fun s hs x _ => step s x hs

theorem Stopped.modSeq {s : State} (h : Stopped s) (l : Nat) (f : Seq → Seq) : Stopped (s.modSeq l f) := h.same rfl rfl rfl rfl
theorem Stopped.modArb {s : State} (h : Stopped s) (l : Nat) (f : Arb → Arb) : Stopped (s.modArb l f) := h.same rfl rfl rfl rfl

/-- A number is taken. -/
theorem Stopped.fresh {s : State} (h : Stopped s) : Stopped s.fresh.2 := ⟨h.phase, h.firmware, h.ports, h.stalled, h.trans, h.pend⟩

theorem Stopped.report {s : State} (h : Stopped s) (r : Rep) (grain : Nat) : Stopped (s.report r grain) := by
  have only := s.report_onlyReported r grain
  obtain ⟨pulse, chip⟩ := only.chip
  exact {
    phase := by rw [chip]; exact h.phase
    firmware := by rw [chip]; exact h.firmware
    ports := by rw [only.ports, h.ports]
    stalled := by rw [(s.report_aside r grain).cfg h.stalled, h.stalled]
    trans := by rw [only.pwr, h.trans]
    pend := by rw [only.pwr, h.pend] }

/-! ## Its Landings drain -/

theorem Stopped.enterStaging {s : State} (h : Stopped s) (l : Nat) (a : Access) : Stopped (s.enterStaging l a) := by
  unfold State.enterStaging
  refine .ite h ?_
  extract_lets b t u
  have staged : Stopped t := h.modArb l _
  have marked : Stopped u := .ite { staged with ports := State.excuseAll_ports staged.ports l } staged
  rwa [State.noteStamp_of_closed marked.ports]

theorem Stopped.stage {s : State} (h : Stopped s) (l : Nat) (a : Access) : Stopped (s.stage l a) :=
  .foldl (fun _ a hs => hs.enterStaging l a) _ (h.modArb l _)

/-- A dirty line goes back to its Landing as a write of the block's own. -/
theorem Stopped.writeBack {s : State} (h : Stopped s) (g : Nat) (c : CacheLine) : Stopped (s.writeBack g c) := by
  unfold State.writeBack State.ownWrite State.ownPut
  extract_lets t
  have counted : Stopped t := .ite (h.same rfl rfl rfl rfl) h
  exact .ite counted (counted.fresh.stage _ _)

theorem Stopped.spillMeta {s : State} (h : Stopped s) (l : Nat) : Stopped (s.spillMeta l) :=
  (Stopped.foldl (fun _ c hs => hs.writeBack _ c) _ h).same rfl rfl rfl rfl

theorem Stopped.queueOwn {s : State} (h : Stopped s) (l : Nat) : Stopped (s.queueOwn l) := by
  unfold State.queueOwn
  exact (h.modArb l _).modSeq l _

/-- Calibration work that is given up may be reported, and no more. -/
theorem Stopped.abortCal {s : State} (h : Stopped s) (l cause : Nat) : Stopped (s.abortCal l cause) := by
  unfold State.abortCal
  extract_lets c margin n work t u v
  have given : Stopped v := h.same rfl rfl rfl rfl
  exact .ite h (.ite (given.report _ _) given)

theorem Stopped.startDrain {s : State} (h : Stopped s) (l : Nat) : Stopped (s.startDrain l) :=
  (((((h.spillMeta l).queueOwn l).modArb l _).modSeq l _).abortCal l 7).same rfl rfl rfl rfl

theorem Stopped.dropUnacked {s : State} (h : Stopped s) (l : Nat) : Stopped (s.dropUnacked l) := by
  unfold State.dropUnacked
  exact (h.modSeq l _).modArb l _

theorem Stopped.warmLanding {s : State} (h : Stopped s) (l : Nat) : Stopped (s.warmLanding l) := by
  unfold State.warmLanding
  split
  · exact h
  · exact h
  · exact h
  · exact h.dropUnacked l
  · exact (h.dropUnacked l).startDrain l

theorem Stopped.drainRepairs {s : State} (h : Stopped s) : Stopped s.drainRepairs :=
  .foldl (fun _ _ hs => .foldl (fun _ _ ht => ht.fresh.modSeq _ _) _ hs) _ h

/-- The block as WARM_RST_N stops it, before its Landings drain: firmware, the power transition, a stalled pop and the ports (R61 step 1,
R63). -/
def State.warmBegun (s : State) : State :=
  let t := s.modChip fun c => { c with phase := .warm, fwReady := false, verified := none, bootBuf := [] }
  { t.abandonTransition.dropStall with ports := s.ports.map Port.drop }

theorem State.warm_eq (s : State) :
    let u := s.warmBegun.drainRepairs
    let drained := eachBelow u.nLand (fun l s => s.warmLanding l) u
    s.warm = { drained with misc := { drained.misc with repairs := [] } } := rfl

theorem State.warmBegun_stopped (s : State) : Stopped s.warmBegun := by
  unfold State.warmBegun
  extract_lets t stopped
  obtain ⟨p, abandoned, trans, pend⟩ := t.abandonTransition_abandons
  obtain ⟨c, dropped, stalled⟩ := t.abandonTransition.dropStall_stalled
  obtain ⟨pulse, chip⟩ := abandoned.chip
  replace dropped : stopped = { t.abandonTransition with cfg := c } := dropped
  have closed : s.ports.map Port.drop = State.reset.ports := by
    ext i hi
    simp [Port.drop, State.reset]
  have pwr : stopped.pwr = p := (congrArg State.pwr dropped).trans abandoned.pwr
  replace chip : stopped.chip = { t.chip with status1Pulse := pulse } := (congrArg State.chip dropped).trans chip
  exact {
    phase := congrArg Chip.phase chip
    firmware := congrArg Chip.fwReady chip
    ports := closed
    stalled := (congrArg (fun s => s.cfg.stalled) dropped).trans stalled
    trans := (congrArg Pwr.trans pwr).trans trans
    pend := (congrArg Pwr.pend pwr).trans pend }

/-- The drain of the Landings leaves the block stopped. -/
theorem State.warm_stopped (s : State) : Stopped s.warm := by
  rw [State.warm_eq]
  have drained := Stopped.foldl (fun _ l hs => hs.warmLanding l) (List.range s.warmBegun.drainRepairs.nLand)
    s.warmBegun_stopped.drainRepairs
  exact drained.same rfl rfl rfl rfl

/-! ## A drain that runs out of time -/

/-- The writes of one Landing go; nothing else of any Landing moves but its plans and open rows. -/
theorem State.abandonWrites_land (s : State) (l k : Nat) :
    (s.abandonWrites l).land k =
      (s.modSeq l fun q => { q with wq := [], planNow := [], planNext := [], wrote := [], rows := [] }).land k := by
  unfold State.abandonWrites
  dsimp only
  split <;> rfl

end Sys2Proof.Machine

section
open Sys2Proof Sys2Proof.Machine Sys2Proof.Slice

/-- Settles O15: the warm reset by `State.warm_stopped`, its drain's timeout by `State.abandonWrites_land`, its end field by field. -/
theorem warmResetStopsDrainsAndEnds : Obligations.WarmResetStopsDrainsAndEnds := by
  unfold Obligations.WarmResetStopsDrainsAndEnds
  refine ⟨?stops, ?held, ?timeout, ?rests, ?ends, ?waits⟩
  case stops =>
    intro s out on
    obtain ⟨phase, firmware, ports, stalled, trans, pend⟩ := s.warm_stopped
    exact ⟨s.warm, if_pos ⟨out, on⟩, phase, firmware, ports, stalled, rfl, trans, pend⟩
  case held =>
    intro s off
    exact if_neg fun ⟨out, on⟩ => off.elim on (· out)
  case timeout =>
    intro s l warm drains
    refine ⟨(s.abandonWrites l).modSeq l fun q => { q with lstate := .sr }, if_pos ⟨warm, drains⟩, ?_, ?_, ?_, fun k hk => ?_⟩
    · rw [State.modSeq_land_self]
    · rw [State.modSeq_land_self, State.abandonWrites_land, State.modSeq_land_self]
    · rw [State.modSeq_land_self, State.abandonWrites_land, State.modSeq_land_self]
    · have apart : l.val ≠ k.val := fun e => hk (Fin.ext e.symm)
      rw [State.modSeq_land_ne _ _ _ _ apart, State.abandonWrites_land, State.modSeq_land_ne _ _ _ _ apart]
  case rests =>
    intro s l rests
    exact if_neg fun ⟨warm, drains⟩ => rests.elim (· warm) (Bool.eq_false_iff.1 drains)
  case ends =>
    intro s warm quiet
    exact ⟨s.warmEnd, if_pos ⟨warm, quiet⟩, by and_intros <;> rfl⟩
  case waits =>
    intro s waits
    exact if_neg fun ⟨warm, quiet⟩ => waits.elim (· warm) fun drains => Bool.eq_false_iff.1 drains quiet

end

section
open Sys2Proof Sys2Proof.Machine Sys2Proof.Slice

/-- Settles O18: each row is its condition, which the hypotheses meet, and then its one effect. -/
theorem pinsReportReturnAndToggle : Obligations.PinsReportReturnAndToggle := by
  unfold Obligations.PinsReportReturnAndToggle
  refine ⟨?release, ?phyRise, ?galRise, ?coreRise, ?cpRise, ?asleep, ?toggles, ?faulty, fun s => rfl, ?therm, ?pwrGood, ?refclk, ?coreFall,
    ?cpFall, ?galFall, ?phyFall⟩
  case release => exact fun s awake => if_pos awake
  case phyRise =>
    intro s l awake
    exact if_neg (by simp [awake])
  case galRise =>
    intro s g awake
    exact if_neg (by simp [awake])
  case coreRise =>
    intro s awake cp
    exact (if_neg (by simp [awake])).trans (if_pos cp)
  case cpRise =>
    intro s awake core
    exact (if_neg (by simp [awake])).trans (if_pos core)
  case asleep =>
    intro s pin asleep noWait
    rw [exec_pgInputRise_held pin asleep]
    have stays : (s.chip.setPg pin true).railWait = false := by
      cases pin <;> exact noWait
    simp [State.modChip, stays]
  case toggles =>
    intro s awake on clear runs
    exact if_pos (by simp [awake, on, clear, runs])
  case faulty =>
    intro s faulty
    exact if_neg (by simp [faulty])
  case therm =>
    intro s awake high
    exact if_pos (by simp [awake, high])
  case pwrGood =>
    intro s awake enabled good
    exact if_pos (by simp [awake, enabled, good])
  case refclk => exact fun s awake => if_pos awake
  case coreFall =>
    intro s awake on good
    exact (if_pos awake).trans (congrArg Host.Outcome.next (if_pos (by simp [on, good])))
  case cpFall =>
    intro s awake on good
    exact (if_pos awake).trans (congrArg Host.Outcome.next (if_pos (by simp [on, good])))
  case galFall =>
    intro s g awake on good
    exact (if_pos awake).trans (congrArg Host.Outcome.next (if_pos (by simp [on, good])))
  case phyFall =>
    intro s l awake on good started
    exact (if_pos awake).trans (congrArg Host.Outcome.next (if_pos (by simp [on, good, started])))

end

/-! SUPPORT. A wake: the request of a source that finds the block asleep (R488, R489). -/

namespace Sys2Proof.Machine

/-- In P3 the domains return as they were, and the report held there is recorded (R489, R513). -/
theorem State.wakeDomains_onlyReported (s : State) :
    OnlyReported (if s.pwr.state = .p3 then s.modChip fun c => { c with coreOn := true, galOn := s.pwr.galWas, phyOn := s.pwr.phyWas } else s)
      s.wakeDomains := by
  unfold State.wakeDomains
  split
  · dsimp only
    split
    · exact (State.modFlt_onlyReported _ _).trans (State.reportAt_onlyReported _ _ _ _)
    · exact .refl _
  · exact .refl s

/-- Asleep, the block is in a state deeper than P0. -/
theorem asleep_deeper {s : State} (h : Sys2Proof.Slice.Asleep s) :
    s.pwr.state ≠ .p0 ∧ s.pwr.state ≠ .p4 ∧ PState.p0.num < s.pwr.state.num := by
  obtain ⟨deep, -⟩ := h
  rcases deep with p | p | p <;> rw [p] <;> decide

/-- A source that finds the block asleep begins the transition to P0 (R483). -/
theorem State.wakeFrom_asleep {s : State} (h : Sys2Proof.Slice.Asleep s) (src : Nat) : s.wakeFrom src = s.beginTransition .p0 s.now src := by
  obtain ⟨above, powered, -⟩ := asleep_deeper h
  obtain ⟨-, rests, out, runs⟩ := h
  have asks : s.wakeFrom src = s.powerRequest .p0 src := by simp [State.wakeFrom, rests, out, above, powered]
  rw [asks, State.powerRequest]
  simp [rests, runs, Ne.symm above]

/-- That transition is a wake, under the code of its source (R489). -/
theorem State.beginTransition_wakes {s : State} (h : Sys2Proof.Slice.Asleep s) (src : Nat) :
    Sys2Proof.Slice.Wakes s (s.beginTransition .p0 s.now src) src := by
  obtain ⟨-, -, up⟩ := asleep_deeper h
  unfold State.beginTransition
  extract_lets wakes tr held begun
  have rises : wakes = true := decide_eq_true up
  rw [if_pos rises]
  have same : OnlyReported s held := s.status1Hold_onlyReported 4
  have pwr : begun.pwr = { s.pwr with trans := some tr, lastWake := src } := by
    rw [State.modPwr_pwr, same.pwr, if_pos rises]
  have woken := begun.wakeDomains_onlyReported
  have kept : begun.wakeDomains.pwr = begun.pwr := by
    rw [woken.pwr]
    split <;> rfl
  refine ⟨tr, ?_, rfl, rfl, if_pos rises, rfl, rfl, ?_, ?_, fun p3 => ?_⟩
  · rw [kept, pwr]
  · rw [kept, pwr]
  · rw [kept, pwr]
  · have deep : begun.pwr.state = .p3 := by rw [pwr]; exact p3
    rw [if_pos deep, pwr] at woken
    obtain ⟨pulse, chip⟩ := woken.chip
    rw [chip]
    exact ⟨rfl, rfl, rfl⟩

theorem State.wakeFrom_wakes {s : State} (h : Sys2Proof.Slice.Asleep s) (src : Nat) : Sys2Proof.Slice.Wakes s (s.wakeFrom src) src := by
  rw [State.wakeFrom_asleep h]
  exact State.beginTransition_wakes h src

/-- An enabled source whose event stands wakes the block. -/
theorem exec_wake_wakes {s : State} {src : WakeSource} (h : Sys2Proof.Slice.Asleep s)
    (enabled : (src == .request || s.wakeEnabled (wakeCode src - 1)) = true) (acts : s.sourceActs src = true) :
    ∃ t, exec (.wake src) s = .next t ∧ Sys2Proof.Slice.Wakes s t (wakeCode src) :=
  ⟨_, if_pos (by rw [enabled, acts]; rfl), State.wakeFrom_wakes h _⟩

/-- A source whose event does not stand, or that is not enabled, does nothing. -/
theorem exec_wake_ignored {s : State} {src : WakeSource}
    (idle : (src == .request || s.wakeEnabled (wakeCode src - 1)) = false ∨ s.sourceActs src = false) : exec (.wake src) s = .next s := by
  refine if_neg ?_
  rcases idle with h | h <;> simp [h]

/-- The timer of an entry has run out (R497). -/
theorem State.timerOut_asleep {s : State} (h : Sys2Proof.Slice.Asleep s) (timed : s.pwr.timer ≠ 0)
    (ended : s.pwr.reachedAt + 1000 * s.pwr.timer.toNat ≤ s.now) : s.timerOut = true := by
  rw [State.timerOut, bne_iff_ne.2 timed, bne_iff_ne.2 (asleep_deeper h).1, decide_eq_true ended]
  rfl

/-- A request that waits for the wake at a port is an event of that source. -/
theorem State.sourceActs_port {s : State} {p : PortId} {x : Txn} (on : s.chip.coreOn = true) (here : x ∈ (s.port p).txns)
    (waits : x.wait = .wake) (open_ : x.resp = none) : s.sourceActs .port = true := by
  have port : s.port p ∈ s.ports.toList := by simp [State.port]
  simp only [State.sourceActs, State.coreAwake, on, Bool.true_and, List.any_eq_true]
  exact ⟨_, port, x, here, by simp [waits, open_]⟩

end Sys2Proof.Machine

section
open Sys2Proof Sys2Proof.Machine Sys2Proof.Slice

/-- Settles O33: a source that acts wakes the block by `exec_wake_wakes`, one that does not changes nothing by `exec_wake_ignored`. -/
theorem enabledSourcesWakeTheBlock : Obligations.EnabledSourcesWakeTheBlock := by
  unfold Obligations.EnabledSourcesWakeTheBlock
  refine ⟨?pin, ?pinOff, ?timer, ?timerOff, ?request, ?fault, ?faultOff, ?port, ?doorbell, ?off⟩
  case pin => exact fun s asleep on => ⟨s.wakeFrom 1, if_pos on, State.wakeFrom_wakes asleep 1⟩
  case pinOff =>
    intro s off
    exact if_neg (by simp [off])
  case timer =>
    intro s asleep on timed ended
    have out := State.timerOut_asleep asleep timed ended
    exact ⟨⟨s.wakeFrom 5, if_pos (by simp [out, on]), State.wakeFrom_wakes asleep 5⟩, exec_wake_wakes (src := .timer) asleep on out⟩
  case timerOff =>
    intro s off
    have idle : s.wakeEnabled 4 = false ∨ s.timerOut = false := by
      refine off.imp_right fun h => ?_
      rcases h with zero | early
      · simp [State.timerOut, zero]
      · simp [State.timerOut, early]
    refine ⟨if_neg ?_, exec_wake_ignored (src := .timer) idle⟩
    rcases idle with h | h <;> simp [h]
  case request => exact fun s asleep => exec_wake_wakes (src := .request) asleep rfl rfl
  case fault =>
    intro s asleep on faulty
    exact exec_wake_wakes (src := .fault) asleep on (by simpa [State.sourceActs] using faulty)
  case faultOff =>
    intro s clear empty
    exact exec_wake_ignored (.inr (by simp [State.sourceActs, clear, empty]))
  case port =>
    intro s p x asleep on core here waits open_
    exact exec_wake_wakes (src := .port) asleep on (State.sourceActs_port core here waits open_)
  case doorbell => exact fun s asleep on core => exec_wake_wakes (src := .dmaDoorbell) asleep on core
  case off =>
    intro s off
    exact ⟨exec_wake_ignored (.inr (by simp [State.sourceActs, State.coreAwake, off])), exec_wake_ignored (.inr off)⟩

end

/-! SUPPORT. The hand-over to training once module power is good (R65, R305): the Landings that do not wait for it keep their outcome, and
PWR_GOOD and the wait stand. One lemma per function, in the model's order. -/

namespace Sys2Proof.Machine

/-- The outcome of a Landing's start so far: its code, and whether its start still goes on. -/
def Landing.outcome (x : Landing) : Nat × Bool := (x.sbd.reason, x.sbd.waiting)

/-- PWR_GOOD and the wait for it stand, and the Landings of a kind keep their outcome. -/
structure Spares (kind : Nat → Prop) (s t : State) : Prop where
  good : t.chip.pwrGood = s.chip.pwrGood
  wait : t.misc.discovery.waitPower = s.misc.discovery.waitPower
  outcome : ∀ k, kind k → (t.land k).outcome = (s.land k).outcome

theorem Spares.refl {kind : Nat → Prop} (s : State) : Spares kind s s := ⟨rfl, rfl, fun _ _ => rfl⟩

theorem Spares.trans {kind : Nat → Prop} {s t u : State} (h : Spares kind s t) (k : Spares kind t u) : Spares kind s u where
  good := k.good.trans h.good
  wait := k.wait.trans h.wait
  outcome l spared := (k.outcome l spared).trans (h.outcome l spared)

theorem Spares.ite {kind : Nat → Prop} {s t u : State} {c : Prop} [Decidable c] (ht : Spares kind s t) (hu : Spares kind s u) :
    Spares kind s (if c then t else u) := by
  split
  · exact ht
  · exact hu

theorem foldl_spares {α : Type} {kind : Nat → Prop} {f : State → α → State} {rest : List α}
    (h : ∀ s, ∀ x ∈ rest, Spares kind s (f s x)) (s : State) : Spares kind s (rest.foldl f s) :=
  List.foldlRecOn rest f (.refl s) fun u hu x hx => hu.trans (h u x hx)

section
variable {kind : Nat → Prop}

/-- A change that reaches neither the Landings nor PWR_GOOD nor the wait for it. -/
theorem Spares.of_eq {s t : State} (landings : t.landings = s.landings) (good : t.chip.pwrGood = s.chip.pwrGood)
    (wait : t.misc.discovery.waitPower = s.misc.discovery.waitPower) : Spares kind s t :=
  ⟨good, wait, fun k _ => by rw [State.land, State.land, landings]⟩

theorem OnlyReported.spares {s t : State} (h : OnlyReported s t) : Spares kind s t := by
  obtain ⟨_, _, _, _, _, _, _, rfl⟩ := h
  exact .of_eq rfl rfl rfl

/-! ## Changes of a Landing -/

/-- A change that leaves the outcome of the Landing. -/
theorem State.modLand_spares (s : State) (l : Nat) {f : Landing → Landing} (h : ∀ x, (f x).outcome = x.outcome) :
    Spares kind s (s.modLand l f) :=
  ⟨rfl, rfl, fun k _ => State.modLand_land_proj Landing.outcome h s l k⟩

theorem State.modArb_spares (s : State) (l : Nat) (f : Arb → Arb) : Spares kind s (s.modArb l f) := s.modLand_spares l fun _ => rfl
theorem State.modSeq_spares (s : State) (l : Nat) (f : Seq → Seq) : Spares kind s (s.modSeq l f) := s.modLand_spares l fun _ => rfl
theorem State.modMnt_spares (s : State) (l : Nat) (f : Mnt → Mnt) : Spares kind s (s.modMnt l f) := s.modLand_spares l fun _ => rfl
theorem State.modPhy_spares (s : State) (l : Nat) (f : Phy → Phy) : Spares kind s (s.modPhy l f) := s.modLand_spares l fun _ => rfl
theorem State.modCal_spares (s : State) (l : Nat) (f : Cal → Cal) : Spares kind s (s.modCal l f) := s.modLand_spares l fun _ => rfl
theorem State.bumpL_spares (s : State) (l off n : Nat) : Spares kind s (s.bumpL l off n) := s.modLand_spares l fun _ => rfl
theorem State.putLand_spares (s : State) (l off : Nat) (v : W32) : Spares kind s (s.putLand l off v) := s.modLand_spares _ fun _ => rfl
theorem State.loadLand_spares (s : State) (l off : Nat) (v : W32) : Spares kind s (s.loadLand l off v) := s.modLand_spares _ fun _ => rfl

theorem State.modSbd_spares (s : State) (l : Nat) {f : Sbd → Sbd} (h : ∀ b, ((f b).reason, (f b).waiting) = (b.reason, b.waiting)) :
    Spares kind s (s.modSbd l f) := s.modLand_spares l fun x => h x.sbd

/-- Any change of a Landing that is not of the kind. -/
theorem State.modSbd_spares_other (s : State) {l : Nat} (f : Sbd → Sbd) (other : ¬ kind l) : Spares kind s (s.modSbd l f) :=
  ⟨rfl, rfl, fun k spared => by rw [State.modSbd_land_ne s l k f fun e => other (e ▸ spared)]⟩

/-! ## The way back into self-refresh -/

theorem State.issueOwn_spares (s : State) (l : Nat) (w : Want) : Spares kind s (s.issueOwn l w) := by
  unfold State.issueOwn
  exact s.modSeq_spares l _

theorem State.closeRank_spares (s : State) (l : Nat) (e : Nat × Nat) : Spares kind s (s.closeRank l e) := by
  unfold State.closeRank
  exact .ite ((s.issueOwn_spares l _).trans (State.modSeq_spares _ l _)) (.refl s)

theorem State.enterSr_spares (s : State) (l : Nat) (e : Nat × Nat) : Spares kind s (s.enterSr l e) := by
  unfold State.enterSr
  split
  next cmds d _ =>
    extract_lets ideal f late dec awake refreshed counted delayed
    have awoken : Spares kind s awake := .ite (s.issueOwn_spares l _) (.refl s)
    have refreshes : Spares kind awake refreshed :=
      (awake.closeRank_spares l e).trans
        (foldl_spares (fun s w _ => (s.issueOwn_spares l w).trans (State.modMnt_spares _ l _)) _)
    have counts : Spares kind refreshed counted := .ite (.refl _) (State.bumpL_spares _ l _ _)
    have delays : Spares kind counted delayed := .ite (.refl _) (State.bumpL_spares _ l _ _)
    exact (((awoken.trans refreshes).trans counts).trans delays).trans (State.issueOwn_spares _ l _)

theorem State.intoSelfRefresh_spares (s : State) (l : Nat) : Spares kind s (s.intoSelfRefresh l) := by
  unfold State.intoSelfRefresh
  extract_lets entered owed staged deep final resting drained
  have enters : Spares kind s entered := foldl_spares (fun s e _ => s.enterSr_spares l e) s
  have rests : Spares kind entered drained :=
    ((((entered.modMnt_spares l _).trans (State.modArb_spares _ l _)).trans (State.modPhy_spares _ l _)).trans
      (State.modSeq_spares _ l _)).trans (State.modLand_spares _ l (by intro x; rfl))
  exact (enters.trans rests).trans (.ite (.of_eq rfl rfl rfl) (.refl _))

theorem State.unplaceAll_spares (s : State) (l : Nat) (cs : List PlanCmd) : Spares kind s (s.unplaceAll l cs) := by
  refine foldl_spares (fun s c _ => ?_) s
  unfold State.unplace
  exact (s.modSeq_spares l _).trans (State.modMnt_spares _ l _)

theorem State.backToSr_spares (s : State) (l : Nat) : Spares kind s (s.backToSr l) :=
  .ite (.refl s) (((s.unplaceAll_spares l _).trans (State.intoSelfRefresh_spares _ l)).trans (State.modSeq_spares _ l _))

/-! ## A Landing made ready -/

theorem State.loadTimed_spares (s : State) (l off : Nat) (w : W32) : Spares kind s (s.loadTimed l off w) := by
  unfold State.loadTimed
  split
  · exact .ite (.refl s) ((s.putLand_spares l off w).trans (foldl_spares (fun s k _ => s.modLand_spares k (by intro x; rfl)) _))
  · exact .ite ((s.loadLand_spares l off w).trans (State.modLand_spares _ l (by intro x; rfl))) (s.loadLand_spares l off w)

theorem State.populate_spares (s : State) (l rate : Nat) : Spares kind s (s.populate l rate) := by
  unfold State.populate
  exact ((foldl_spares (fun s e _ => s.loadTimed_spares l e.1 e.2) s).trans (State.modSeq_spares _ l _)).trans
    (State.modLand_spares _ l (by intro x; rfl))

theorem State.programRcds_spares (s : State) (l rate : Nat) : Spares kind s (s.programRcds l rate) := by
  unfold State.programRcds
  exact s.modSbd_spares l (by intro b; rfl)

/-- A Landing that is made ready is not one of those spared. -/
theorem State.readyLanding_spares (s : State) {l : Nat} (rate : Nat) (other : ¬ kind l) : Spares kind s (s.readyLanding l rate) := by
  unfold State.readyLanding
  extract_lets stilled deep fresh waiting
  have still : Spares kind s stilled := (s.backToSr_spares l).trans (State.modSeq_spares _ l _)
  have begun : Spares kind stilled fresh := (stilled.modPhy_spares l _).trans (State.modCal_spares _ l _)
  have waits : Spares kind fresh waiting := fresh.modSbd_spares_other _ other
  have on : Spares kind waiting
      (waiting.modChip fun c => { c with drstN := c.drstN.setIfInBounds l true, phyOn := c.phyOn.setIfInBounds l true }) :=
    .of_eq rfl rfl rfl
  exact ((((still.trans begun).trans waits).trans on).trans (State.populate_spares _ l rate)).trans (State.programRcds_spares _ l rate)

theorem State.setPll_spares (s : State) (g rate : Nat) : Spares kind s (s.setPll g rate) :=
  (s.loadLand_spares _ _ _).trans (.of_eq rfl rfl rfl)

theorem State.beginTraining_spares (s : State) (l : Nat) : Spares kind s (s.beginTraining l) := by
  unfold State.beginTraining
  exact ((s.modSbd_spares l (by intro b; rfl)).trans (State.modCal_spares _ l _)).trans (State.status1Hold_onlyReported _ 3).spares

theorem State.offerSnapshots_spares (s : State) (l : Nat) : Spares kind s (s.offerSnapshots l) := by
  unfold State.offerSnapshots
  extract_lets a b used store kept
  have stored : Spares kind s kept := .of_eq rfl rfl rfl
  exact stored.trans (kept.modCal_spares l _)

/-! ## The end of a start -/

/-- A report below class F, with the fence that it starts, leaves the outcomes alone. -/
theorem State.raise_spares (s : State) {r : Rep} (f : Option Fence) (h : r.cls ≠ 3) : Spares kind s (s.raise r f) := by
  have fences (u : State) (x : Fence) : Spares kind u (u.startFence x) := .ite (.refl u) (.of_eq rfl rfl rfl)
  unfold State.raise
  refine .ite (s.report_onlyReported r _).spares ?_
  extract_lets grain reported fenced
  have reports : Spares kind s reported := (s.report_onlyReported r grain).spares
  rw [if_neg h]
  refine reports.trans ?_
  cases f with
  | none => exact .refl _
  | some x => exact fences _ x

theorem State.fenceUnstarted_spares (s : State) : Spares kind s s.fenceUnstarted :=
  foldl_spares (fun s l _ => .ite (s.raise_spares _ (show srcClass 14 4 ≠ 3 by decide)) (.refl s)) s

theorem State.endStarts_spares (s : State) : Spares kind s s.endStarts := by
  unfold State.endStarts
  extract_lets d busy
  split
  · exact .refl s
  · refine .ite (.refl s) ?_
    have done (u : State) : Spares kind u (u.modMisc fun x => { x with discovery := { x.discovery with mailbox := none, done := true } }) :=
      .of_eq rfl rfl rfl
    exact (s.fenceUnstarted_spares.trans (done _)).trans (.ite (.of_eq rfl rfl rfl) (.of_eq rfl rfl rfl))

end

/-! ## Module power -/

/-- No start of the Landing goes on. -/
def State.Idle (s : State) (k : Nat) : Prop := (s.land k).sbd.waiting = false

/-- Of the Landings only those are left off whose start goes on (R65). -/
theorem State.checkRails_spares (s : State) : Spares s.Idle s s.checkRails := by
  refine List.foldlRecOn _ _ (.refl s) fun u hu l _ => hu.trans ?_
  dsimp only
  split
  · exact .refl u
  next starts =>
    refine (u.modSbd_spares_other _ fun idle => starts ?_).trans (State.post_onlyReported _ _ _ _).spares
    have out : (u.land l).sbd.waiting = false := (congrArg Prod.snd (hu.outcome l idle)).trans idle
    simp [out]

/-- The wait for module power ends, and a Landing that does not wait keeps its outcome (R305 steps 5 to 7). -/
theorem State.powerUp_spares (s : State) : ∃ u : State, Spares s.Idle s u ∧
    Spares s.Idle (u.modMisc fun x => { x with discovery := { x.discovery with waitPower := false } }) s.powerUp := by
  unfold State.powerUp
  extract_lets checked d mine ended plls trained
  have checks : Spares s.Idle s checked := s.checkRails_spares
  refine ⟨checked, checks, ?_⟩
  have locks : Spares s.Idle ended plls := by
    refine foldl_spares (fun u g _ => ?_) ended
    refine .ite ?_ (.ite (.refl u) (.of_eq rfl rfl rfl))
    extract_lets on
    have switched : Spares s.Idle u on := .of_eq rfl rfl rfl
    exact .ite switched (switched.trans (State.setPll_spares _ g _))
  have begins : Spares s.Idle plls trained := by
    refine foldl_spares (fun u l hl => ?_) plls
    have starts : ¬ s.Idle l := by
      intro idle
      have rests : (checked.land l).sbd.waiting = false := (congrArg Prod.snd (checks.outcome l idle)).trans idle
      exact Bool.eq_false_iff.1 rests (List.mem_filter.1 hl).2
    extract_lets ready hot
    have readied : Spares s.Idle u ready := (u.readyLanding_spares _ starts).trans (State.offerSnapshots_spares _ l)
    have heated : Spares s.Idle ready hot := .ite (.refl _) (ready.modMnt_spares l _)
    exact (readied.trans heated).trans (.ite (hot.modSbd_spares l (by intro b; rfl)) (hot.beginTraining_spares l))
  exact (locks.trans begins).trans trained.endStarts_spares

theorem State.powerUp_wait (s : State) : s.powerUp.misc.discovery.waitPower = false := by
  obtain ⟨u, _, after⟩ := s.powerUp_spares
  exact after.wait

theorem State.powerUp_good (s : State) : s.powerUp.chip.pwrGood = s.chip.pwrGood := by
  obtain ⟨u, before, after⟩ := s.powerUp_spares
  exact after.good.trans before.good

theorem State.powerUp_outcome {s : State} {k : Nat} (idle : s.Idle k) : (s.powerUp.land k).outcome = (s.land k).outcome := by
  obtain ⟨u, before, after⟩ := s.powerUp_spares
  exact (after.outcome k idle).trans (before.outcome k idle)

/-! ## Landings refused -/

/-- Of the numbers below `n` only a Landing's own moves what the others leave alone. -/
theorem eachBelow_own {α : Type} (g : State → α) {f : Nat → State → State} {k : Nat} (others : ∀ i s, i ≠ k → g (f i s) = g s)
    (s : State) {n : Nat} (h : k < n) : ∃ u, g u = g s ∧ g (eachBelow n f s) = g (f k u) := by
  have before : ∀ m, m ≤ k → g (eachBelow m f s) = g s := by
    intro m
    induction m with
    | zero => exact fun _ => rfl
    | succ m ih =>
      intro hm
      rw [eachBelow_succ, others _ _ (by omega), ih (by omega)]
  induction n with
  | zero => omega
  | succ n ih =>
    rw [eachBelow_succ]
    by_cases hk : n = k
    · subst hk
      exact ⟨_, before n (Nat.le_refl n), rfl⟩
    · obtain ⟨u, same, after⟩ := ih (by omega)
      exact ⟨u, same, (others _ _ hk).trans after⟩

/-- A Landing that waits for module power and is to blame for its absence is refused, and event 11h says so (R305 step 5). -/
def State.refuseUnpowered (bad : Nat → Bool) (l : Nat) (s : State) : State :=
  if (s.land l).sbd.waiting && bad l then (s.refuseLanding l 0xB).post 0x11 1 [at_ 0 l, at_ 0 0xB] else s

theorem State.post_land (s : State) (type prio : Nat) (data : List W32) (k : Nat) : (s.post type prio data).land k = s.land k := by
  rw [State.land, State.land, (s.post_aside type prio data).landings]

theorem State.refuseUnpowered_land_ne (bad : Nat → Bool) {l k : Nat} (s : State) (other : l ≠ k) :
    (State.refuseUnpowered bad l s).land k = s.land k := by
  unfold State.refuseUnpowered
  split
  · rw [State.post_land, State.refuseLanding, State.modSbd_land_ne _ _ _ _ other]
  · rfl

/-- Each of them ends with code Bh. -/
theorem State.refuseUnpowered_outcome {s : State} {bad : Nat → Bool} {l : LandingId} (here : l.val < s.nLand)
    (waits : (s.land l).sbd.waiting = true) (refused : bad l = true) :
    ((eachBelow s.nLand (State.refuseUnpowered bad) s).land l).outcome = (0xB, false) := by
  obtain ⟨u, same, after⟩ := eachBelow_own (fun s => (s.land l).outcome)
    (fun i s other => congrArg Landing.outcome (State.refuseUnpowered_land_ne bad s other)) s here
  have still : (u.land l).sbd.waiting = true := (congrArg Prod.snd same).trans waits
  rw [after, State.refuseUnpowered, if_pos (by simp [still, refused]), State.post_land, State.refuseLanding, State.modSbd_land_self]
  rfl

end Sys2Proof.Machine

section
open Sys2Proof Sys2Proof.Machine Sys2Proof.Slice

/-- Settles O34: the hand-over ends the wait for module power (`State.powerUp_wait`) and leaves a refused Landing its code
(`State.refuseUnpowered_outcome`, `State.powerUp_outcome`); the rows of the PLLs are their conditions and then their one effect. -/
theorem modulePowerAndPllsComeAndGo : Obligations.ModulePowerAndPllsComeAndGo := by
  unfold Obligations.ModulePowerAndPllsComeAndGo
  refine ⟨?rise, ?goesOn, ?timeout, ?lock, ?loss⟩
  case rise =>
    intro s awake enabled low free
    exact (if_pos (by simp [awake, enabled, low])).trans (if_neg (ne_true_of_eq_false free))
  case goesOn =>
    intro s awake enabled low waits
    let t := (s.modChip fun c => { c with pwrGood := true }).levelOff 15 5 0
    exact ⟨t.powerUp, (if_pos (by simp [awake, enabled, low])).trans (if_pos waits), t.powerUp_good, t.powerUp_wait⟩
  case timeout =>
    intro s bad waits low
    let t := eachBelow s.nLand (State.refuseUnpowered fun l => bad.isEmpty || bad.any fun f => f.val == l) s
    refine ⟨t.powerUp, if_neg (by simp [waits, low]), t.powerUp_wait, fun l here starts listed => ?_⟩
    have refused : (t.land l).outcome = (0xB, false) := by
      refine State.refuseUnpowered_outcome here starts ?_
      rcases listed with rfl | listed
      · rfl
      · exact Bool.or_eq_true_iff.2 (.inr (List.any_eq_true.2 ⟨l, listed, beq_self_eq_true _⟩))
    have kept := (State.powerUp_outcome (congrArg Prod.snd refused)).trans refused
    exact ⟨congrArg Prod.fst kept, congrArg Prod.snd kept⟩
  case lock =>
    intro s g on core out
    exact if_pos (by simp [on, core, out])
  case loss =>
    intro s g locked u four
    have lost : exec (.pllLockLoss g) s =
        if (List.range 4).any (fun i => (s.land (4 * g.val + i)).seq.lstate != .sr) then
          .next (u.levelReport (rep 7 4 g 0) (some { u.landFence four (rep 7 4 g 0) with noDrain := true }))
        else .next u := if_neg (by simp [locked])
    refine ⟨fun rest => lost.trans (if_neg ?_), fun moves => lost.trans (if_pos ?_)⟩
    · simpa using rest
    · simpa using moves

end

/-! SUPPORT. The flits of a port: a request not taken, one whose `TAG` is outstanding, one refused and one accepted (R71, R72, R85, R86),
and the response to a request that stands alone on its port (R81, R94). -/

namespace Sys2Proof.Machine

open Sys2Proof.Slice (acceptedTxn Accepts AnsweredAtOnce)

/-! ## Credits of a flit -/

theorem Port.holds_req {x : Port} (h : 0 < x.req) : x.holds false = true := decide_eq_true h
theorem Port.holds_wrq {x : Port} (h : 0 < x.wrq) : x.holds true = true := decide_eq_true h

theorem State.takes_of_opened {s : State} {p : PortId} {wrq : Bool} (opened : (s.port p).state = .opened) (on : s.chip.coreOn = true)
    (credit : (s.port p).holds wrq = true) : s.takes p wrq = true := by
  simp [State.takes, opened, on, credit]

theorem State.holds_of_takes {s : State} {p : PortId} {wrq : Bool} (taken : s.takes p wrq = true) : (s.port p).holds wrq = true := by
  rw [State.takes, Bool.and_eq_true] at taken
  exact taken.2

/-- The port with one credit of the class spent. -/
def Port.spend (x : Port) (wrq : Bool) : Port := if wrq then { x with wrq := x.wrq - 1 } else { x with req := x.req - 1 }

theorem Port.spend_txns (x : Port) (wrq : Bool) : (x.spend wrq).txns = x.txns := by cases wrq <;> rfl
theorem Port.spend_seqs (x : Port) (wrq : Bool) : (x.spend wrq).seqs = x.seqs := by cases wrq <;> rfl

/-- A credit that was held, spent and returned. -/
theorem Port.spend_returned {x : Port} {wrq : Bool} (held : x.holds wrq = true) :
    (if wrq then (x.spend wrq).req else (x.spend wrq).req + 1) = x.req ∧
      (if wrq then (x.spend wrq).wrq + 1 else (x.spend wrq).wrq) = x.wrq := by
  cases wrq
  · exact ⟨Nat.sub_add_cancel (of_decide_eq_true held : 0 < x.req), rfl⟩
  · exact ⟨rfl, Nat.sub_add_cancel (of_decide_eq_true held : 0 < x.wrq)⟩

theorem State.debit_port (s : State) (p : PortId) (wrq : Bool) : (s.debit p wrq).port p = (s.port p).spend wrq :=
  State.modPort_port_self s p _

theorem State.debit_tagUsed (s : State) (p : PortId) (wrq : Bool) (tag : BitVec 12) :
    ((s.debit p wrq).port p).tagUsed tag = (s.port p).tagUsed tag := by
  rw [s.debit_port, Port.tagUsed, Port.spend_txns, Port.tagUsed]

theorem State.debit_malformed (s : State) (p : PortId) (wrq : Bool) (opc : Opc) (h : Header) (place : Option (Nat × Nat)) :
    (s.debit p wrq).malformed p opc h place = s.malformed p opc h place := by
  unfold State.malformed
  rw [s.debit_port, Port.seqOf, Port.spend_seqs, Port.seqOf]

theorem State.debit_lookup (s : State) (p : Nat) (wrq : Bool) (h : Header) (need : Right) :
    (s.debit p wrq).lookup p h need = s.lookup p h need := rfl

/-! ## Changes of one port -/

/-- Nothing moves of the other ports, the Landings, the Galleries, the halls, the DMA channels and the responses. -/
structure OnlyPort (s t : State) (p : PortId) : Prop where
  ports : ∀ k : PortId, k ≠ p → t.port k = s.port k
  landings : t.landings = s.landings
  galleries : t.galleries = s.galleries
  halls : t.halls = s.halls
  dma : t.dma = s.dma
  sent : t.sent = s.sent

theorem OnlyPort.trans {s t u : State} {p : PortId} (h : OnlyPort s t p) (k : OnlyPort t u p) : OnlyPort s u p where
  ports q other := (k.ports q other).trans (h.ports q other)
  landings := k.landings.trans h.landings
  galleries := k.galleries.trans h.galleries
  halls := k.halls.trans h.halls
  dma := k.dma.trans h.dma
  sent := k.sent.trans h.sent

theorem State.modPort_onlyPort (s : State) (p : PortId) (f : Port → Port) : OnlyPort s (s.modPort p f) p :=
  ⟨fun k other => State.modPort_port_ne s p k f fun e => other (Fin.ext e.symm), rfl, rfl, rfl, rfl, rfl⟩

/-! ## The record of a request on its port -/

/-- Nothing moves of the ports, the Landings, the Galleries, the halls, the DMA channels and the responses. -/
structure OnlyCounted (s t : State) : Prop where
  ports : t.ports = s.ports
  landings : t.landings = s.landings
  galleries : t.galleries = s.galleries
  halls : t.halls = s.halls
  dma : t.dma = s.dma
  sent : t.sent = s.sent

theorem OnlyCounted.refl (s : State) : OnlyCounted s s := ⟨rfl, rfl, rfl, rfl, rfl, rfl⟩

theorem OnlyCounted.trans {s t u : State} (h : OnlyCounted s t) (k : OnlyCounted t u) : OnlyCounted s u :=
  ⟨k.ports.trans h.ports, k.landings.trans h.landings, k.galleries.trans h.galleries, k.halls.trans h.halls, k.dma.trans h.dma,
    k.sent.trans h.sent⟩

theorem OnlyCounted.port {s t : State} (h : OnlyCounted s t) (k : Nat) : t.port k = s.port k := by rw [State.port, h.ports, State.port]

theorem OnlyCounted.onlyPort {s t : State} (h : OnlyCounted s t) (p : PortId) : OnlyPort s t p :=
  ⟨fun k _ => h.port k, h.landings, h.galleries, h.halls, h.dma, h.sent⟩

theorem State.newTxn_onlyCounted (s : State) (p : Nat) (opc : Opc) (h : Header) (poison : Bool) (data : BitVec 512) (be : BitVec 64)
    (place : Option (Nat × Nat)) : OnlyCounted s (s.newTxn p opc h poison data be place).2 := by
  simp only [State.newTxn]
  generalize (_ && _ && decide (p < 8) : Bool) = denied
  cases denied <;> exact ⟨rfl, rfl, rfl, rfl, rfl, rfl⟩

theorem State.countAccepted_onlyCounted (s : State) (p : Nat) (opc : Opc) : OnlyCounted s (s.countAccepted p opc) := by
  unfold State.countAccepted
  split
  · exact ⟨rfl, rfl, rfl, rfl, rfl, rfl⟩
  · split
    · exact ⟨rfl, rfl, rfl, rfl, rfl, rfl⟩
    · exact .refl s

/-- The record of a request that a port takes. -/
def State.txnOf (s : State) (p : Nat) (opc : Opc) (h : Header) (poison : Bool) (data : BitVec 512) (be : BitVec 64)
    (place : Option (Nat × Nat)) : Txn := ((s.debit p opc.wrq).newTxn p opc h poison data be place).1

/-- The block with that record on its port. -/
def State.withTxn (s : State) (p : Nat) (opc : Opc) (h : Header) (poison : Bool) (data : BitVec 512) (be : BitVec 64)
    (place : Option (Nat × Nat)) : State :=
  (((s.debit p opc.wrq).newTxn p opc h poison data be place).2.countAccepted p opc).modPort p fun x =>
    { x with txns := x.txns ++ [s.txnOf p opc h poison data be place] }

section
variable (s : State) (p : PortId) (opc : Opc) (h : Header) (poison : Bool) (data : BitVec 512) (be : BitVec 64)
  (place : Option (Nat × Nat))

theorem State.withTxn_counted :
    OnlyCounted (s.debit p opc.wrq) (((s.debit p opc.wrq).newTxn p opc h poison data be place).2.countAccepted p opc) :=
  (State.newTxn_onlyCounted _ p opc h poison data be place).trans (State.countAccepted_onlyCounted _ p opc)

theorem State.withTxn_onlyPort : OnlyPort s (s.withTxn p opc h poison data be place) p :=
  ((s.modPort_onlyPort p _).trans ((s.withTxn_counted p opc h poison data be place).onlyPort p)).trans (State.modPort_onlyPort _ p _)

/-- The request stands last, and a credit of its class is spent. -/
theorem State.withTxn_port : (s.withTxn p opc h poison data be place).port p =
    { (s.port p).spend opc.wrq with txns := (s.port p).txns ++ [s.txnOf p opc h poison data be place] } := by
  rw [State.withTxn, State.modPort_port_self, (s.withTxn_counted p opc h poison data be place).port p, s.debit_port, Port.spend_txns]

/-- One that resolves carries the place and the stamp of R78 and R79. -/
theorem State.txnOf_placed (n off : Nat) : s.txnOf p opc h poison data be (some (n, off)) = acceptedTxn s p opc h poison data be n off := by
  have now {c : Prop} [Decidable c] (t : State) (a : Nat) : (if c then t.bumpB a 1 else t).now = t.now := by split <;> rfl
  have serves {c : Prop} [Decidable c] (t : State) (a : Nat) : (if c then t.bumpB a 1 else t).hostServes = t.hostServes := by split <;> rfl
  have notDbg : (p.val != 8) = decide (p.val ≠ 8) := by simp [bne, Bool.beq_eq_decide_eq]
  simp only [State.txnOf, State.newTxn, now, serves, notDbg]
  rfl

end

/-! ## What a flit comes to -/

section
variable {s : State} {p : PortId} {opc : Opc} {h : Header} {poison : Bool} {data : BitVec 512} {be : BitVec 64}

theorem State.request_untaken (untaken : s.takes p opc.wrq = false) : s.request p opc h poison data be = s := if_pos (by simp [untaken])

/-- A `TAG` that is outstanding (R72). -/
theorem State.request_duplicate (taken : s.takes p opc.wrq = true) (used : (s.port p).tagUsed h.tag = true) :
    s.request p opc h poison data be = ((s.debit p opc.wrq).credit p opc.wrq).portFault p 1 :=
  (if_neg (by simp [taken])).trans (if_pos ((s.debit_tagUsed p opc.wrq h.tag).trans used))

/-- What refuses a request, by the ranks of R86: Halt, then a broken rule of the protocol, then the Hall Map. -/
def State.Refuses (s : State) (p : PortId) (opc : Opc) (h : Header) (st : Status) : Prop :=
  (s.chip.halted = true ∧ st = .halted) ∨
  (s.chip.halted = false ∧ (∀ place, s.malformed p opc h place = true) ∧ st = .malformed) ∨
  (s.chip.halted = false ∧ s.malformed p opc h none = false ∧ s.lookup p h (opc.right h.lock) = .bad st)

/-- The block as the answer to a refused request is formed: its record stands on the port, and where the Hall Map refused it a broken
sequence that it closes has gone (R86, R120). -/
def State.refusing (s : State) (p : PortId) (opc : Opc) (h : Header) (poison : Bool) (data : BitVec 512) (be : BitVec 64)
    (st : Status) : State :=
  if st = .unmapped ∨ st = .denied then (s.withTxn p opc h poison data be none).dropLost p opc h
  else s.withTxn p opc h poison data be none

theorem State.request_refused {st : Status} (taken : s.takes p opc.wrq = true) (unused : (s.port p).tagUsed h.tag = false)
    (refused : s.Refuses p opc h st) :
    s.request p opc h poison data be =
      (s.refusing p opc h poison data be st).formS p (s.txnOf p opc h poison data be none).id st := by
  have fresh : ((s.debit p opc.wrq).port p).tagUsed h.tag = false := (s.debit_tagUsed p opc.wrq h.tag).trans unused
  have halt : (s.debit p opc.wrq).chip = s.chip := rfl
  unfold State.request
  simp only [taken, fresh, halt, s.debit_malformed, s.debit_lookup]
  rcases refused with ⟨halted, rfl⟩ | ⟨runs, broken, rfl⟩ | ⟨runs, sound, bad⟩
  · simp only [halted]
    rfl
  · simp only [runs, broken]
    rfl
  · simp only [runs, bad, sound]
    rfl

/-- A locked read opens a sequence, which waits for its read to be routed (R88). -/
def State.openSeq (s : State) (p : PortId) (h : Header) (n off : Nat) : State :=
  let spot := ((s.hall n).map fun x => x.line off).getD (0, 0)
  s.modPort p fun x => { x with seqs := x.seqs ++
    [{ ldid := h.ldid.toNat, dpa := dpa h, active := false, hall := n, off := off, landing := spot.1, addr := spot.2, broken := false }] }

theorem State.request_resolved {n off : Nat} (taken : s.takes p opc.wrq = true) (unused : (s.port p).tagUsed h.tag = false)
    (runs : s.chip.halted = false) (found : s.lookup p h (opc.right h.lock) = .ok n off)
    (sound : s.malformed p opc h (some (n, off)) = false) :
    s.request p opc h poison data be =
      (if h.lock && opc == .mrd then (s.withTxn p opc h poison data be (some (n, off))).openSeq p h n off
        else s.withTxn p opc h poison data be (some (n, off))).pump := by
  have fresh : ((s.debit p opc.wrq).port p).tagUsed h.tag = false := (s.debit_tagUsed p opc.wrq h.tag).trans unused
  have halt : (s.debit p opc.wrq).chip = s.chip := rfl
  unfold State.request
  simp only [taken, fresh, halt, s.debit_malformed, s.debit_lookup, found, sound, runs]
  rfl

theorem State.withTxn_accepts (n off : Nat) :
    Accepts s (s.withTxn p opc h poison data be (some (n, off))) p (acceptedTxn s p opc h poison data be n off) := by
  obtain ⟨ports, landings, galleries, halls, dma, -⟩ := s.withTxn_onlyPort p opc h poison data be (some (n, off))
  have port := s.withTxn_port p opc h poison data be (some (n, off))
  rw [s.txnOf_placed] at port
  have named : (acceptedTxn s p opc h poison data be n off).opc = opc := rfl
  rw [Accepts, port, named]
  refine ⟨rfl, ?_, ?_, ?_, ports, landings, galleries, halls, dma⟩ <;> cases opc.wrq <;> rfl

/-- A sequence that opens is no part of what `Accepts` says of the port. -/
theorem State.openSeq_accepts {u : State} {t : Txn} (accepts : Accepts s u p t) (n off : Nat) : Accepts s (u.openSeq p h n off) p t := by
  obtain ⟨txns, req, wrq, state, ports, landings, galleries, halls, dma⟩ := accepts
  have others : ∀ k : PortId, k ≠ p → (u.openSeq p h n off).port k = u.port k := (u.modPort_onlyPort p _).ports
  rw [Accepts, State.openSeq, State.modPort_port_self]
  exact ⟨txns, req, wrq, state, fun k other => (others k other).trans (ports k other), landings, galleries, halls, dma⟩

/-- A request that resolves and breaks no rule is accepted (R71, R78, R79). -/
theorem State.request_accepted {n off : Nat} (taken : s.takes p opc.wrq = true) (unused : (s.port p).tagUsed h.tag = false)
    (runs : s.chip.halted = false) (found : s.lookup p h (opc.right h.lock) = .ok n off)
    (sound : s.malformed p opc h (some (n, off)) = false) :
    ∃ u, s.request p opc h poison data be = State.pump u ∧ Accepts s u p (acceptedTxn s p opc h poison data be n off) := by
  refine ⟨_, State.request_resolved taken unused runs found sound, ?_⟩
  have accepts := State.withTxn_accepts (s := s) (p := p) (opc := opc) (h := h) (poison := poison) (data := data) (be := be) n off
  split
  · exact State.openSeq_accepts accepts n off
  · exact accepts

end

/-! ## What a response carries (R83, R84) -/

section
variable (s : State) (p : Nat) {t : Txn} {st : Status} {poison : Bool} {data : BitVec 512}

theorem State.respOf_data_of_poison (h : (s.respOf p t st poison data).poison = true) : (s.respOf p t st poison data).data = 0 := by
  have bad : t.opc.dat = true ∧ (poison || st != .ok) = true := Bool.and_eq_true_iff.1 h
  simp [State.respOf, bad]

theorem State.respOf_data_of_refused (h : st ≠ .ok) : (s.respOf p t st poison data).data = 0 := by simp [State.respOf, h]

/-- An answer formed without data. -/
theorem State.respOf_data_none : (s.respOf p t st poison 0).data = 0 := ite_self _

theorem State.respOf_dload : (s.respOf p t st poison data).dload =
    if st = .halted then 0 else (t.landing.map fun l => (s.land l).seq.load).getD 0 := rfl

theorem State.respOf_dload_zero (h : t.landing = none ∨ st = .halted) : (s.respOf p t st poison data).dload = 0 := by
  rw [State.respOf_dload]
  rcases h with unserved | halted
  · rw [unserved]
    exact ite_self _
  · exact if_pos halted

theorem State.respOf_dload_le : (s.respOf p t st poison data).dload ≤ 3 := by
  rw [State.respOf_dload]
  split
  · exact Nat.zero_le 3
  · cases t.landing with
    | none => exact Nat.zero_le 3
    | some l => exact Nat.min_le_left 3 _

end

/-! ## The response to a request that stands alone on its port -/

theorem Port.sendable_alone {x : Port} {t : Txn} {r : Resp} (alone : x.txns = [t]) (formed : t.resp = some r)
    (credit : 0 < x.cpl ∧ 0 < x.dat) : x.sendable x.txns none = some t := by
  have held : (if r.dat then decide (0 < x.dat) else decide (0 < x.cpl)) = true := by
    split
    · exact decide_eq_true credit.2
    · exact decide_eq_true credit.1
  simp [alone, Port.sendable, formed, held]

/-- A port that owes no answer has none to send. -/
theorem State.trySend_none {s : State} {p : Nat} (none : (s.port p).txns = []) (n : Nat) : s.trySend p n = s := by
  cases n with
  | zero => rfl
  | succ n =>
    unfold State.trySend
    rw [none]
    refine State.modPort_of_eq ?_
    generalize s.port p = x at none ⊢
    cases x
    cases none
    rfl

/-- The port after a response has left: a credit is spent, the request's own is back, and it is outstanding no more (R81, R93). -/
def Port.answered (x : Port) (t : Txn) (r : Resp) : Port :=
  { x with txns := x.txns.filter fun e => e.id != t.id
           cpl := if r.dat then x.cpl else x.cpl - 1
           dat := if r.dat then x.dat - 1 else x.dat
           req := if t.opc.wrq || t.credited then x.req else x.req + 1
           wrq := if t.opc.wrq && !t.credited then x.wrq + 1 else x.wrq }

/-- A late response of a request that no Landing has served counts at its port only. -/
theorem State.countLate_onlyCounted {t : Txn} (unserved : t.landing = none) (s : State) (p : Nat) : OnlyCounted s (s.countLate p t) := by
  unfold State.countLate
  rw [unserved]
  split <;> exact ⟨rfl, rfl, rfl, rfl, rfl, rfl⟩

theorem State.send_unserved {t : Txn} (unserved : t.landing = none) (s : State) (p : PortId) (r : Resp) :
    (s.send p t r).port p = (s.port p).answered t r ∧
      ∃ late header, (s.send p t r).sent = { r with late := late, header := header } :: s.sent := by
  let left : State := { s with sent := { r with late := s.isLate p t, header := ({ r with late := s.isLate p t } : Resp).word } :: s.sent }
  have counted : OnlyCounted (left.modPort p fun x => x.answered t r) (s.send p t r) := by
    have refused {c : Prop} [Decidable c] (u : State) (a : Nat) : OnlyCounted u (if c then u.bumpB a 1 else u) := by
      split <;> exact ⟨rfl, rfl, rfl, rfl, rfl, rfl⟩
    unfold State.send
    dsimp only
    split
    · exact (refused _ _).trans (State.countLate_onlyCounted unserved _ p)
    · exact refused _ _
  exact ⟨(counted.port p).trans (State.modPort_port_self left p _), _, _, counted.sent⟩

/-- A request whose response is formed. -/
def Txn.answeredBy (t : Txn) (r : Resp) : Txn := { t with resp := some r, wait := .formed }

/-- The response to a request that stands alone leaves at once where its credit is held, and carries nothing. -/
theorem State.formS_alone {u : State} {p : PortId} {t : Txn} (alone : (u.port p).txns = [t]) (unanswered : t.resp = none)
    (credit : 0 < (u.port p).cpl ∧ 0 < (u.port p).dat) (unserved : t.landing = none) (owed : t.credited = false) (st : Status) :
    (∃ r : Resp, (u.formS p t.id st).sent = r :: u.sent ∧ r.port = p ∧ r.status = st ∧ r.tag = t.hdr.tag ∧ r.ldid = t.hdr.ldid ∧
      r.data = 0 ∧ r.dload = 0) ∧
    ((u.formS p t.id st).port p).txns = [] ∧
    ((u.formS p t.id st).port p).req = (if t.opc.wrq then (u.port p).req else (u.port p).req + 1) ∧
    ((u.formS p t.id st).port p).wrq = (if t.opc.wrq then (u.port p).wrq + 1 else (u.port p).wrq) := by
  let r := u.respOf p t st (st != .ok) 0
  let v := u.modTxn p t.id fun t => t.answeredBy r
  have port : v.port p = { u.port p with txns := [t.answeredBy r] } := by
    refine (State.modPort_port_self u p _).trans ?_
    rw [Port.modTxn, alone]
    simp [mapIf]
  have found : (u.port p).txn t.id = some t := by simp [Port.txn, alone]
  have sendable : (v.port p).sendable (v.port p).txns none = some (t.answeredBy r) := by
    rw [port]
    exact Port.sendable_alone rfl rfl credit
  obtain ⟨after, late, header, sent⟩ := State.send_unserved (t := t.answeredBy r) unserved v p r
  have empty : ((v.send p (t.answeredBy r) r).port p).txns = [] := by
    rw [after, Port.answered, port]
    simp
  have flushed : u.formS p t.id st = v.send p (t.answeredBy r) r := by
    have one : (v.port p).txns.length = 1 := by rw [port]; rfl
    calc u.formS p t.id st = v.flushPort p := by simp only [State.formS, State.form, found, unanswered]; rfl
      _ = (v.send p (t.answeredBy r) r).trySend p 1 := by simp only [State.flushPort, one, State.trySend, sendable]; rfl
      _ = v.send p (t.answeredBy r) r := State.trySend_none empty 1
  have noLoad : r.dload = 0 := u.respOf_dload_zero p (.inl unserved)
  rw [flushed]
  refine ⟨⟨_, sent, rfl, rfl, rfl, rfl, State.respOf_data_none u p, noLoad⟩, empty, ?_, ?_⟩ <;>
  · rw [after, port]
    simp [Port.answered, Txn.answeredBy, owed]

/-! ## A request refused on a port with nothing outstanding -/

section
variable {s : State} {p : PortId} {opc : Opc} {h : Header} {poison : Bool} {data : BitVec 512} {be : BitVec 64}

/-- All that a lost sequence changes is its port's list of them. -/
theorem State.dropLost_port (s : State) (p : PortId) (opc : Opc) (h : Header) :
    (∃ seqs, (s.dropLost p opc h).port p = { s.port p with seqs := seqs }) ∧ (s.dropLost p opc h).sent = s.sent := by
  unfold State.dropLost
  split
  · exact ⟨⟨_, State.modPort_port_self s p _⟩, rfl⟩
  · exact ⟨⟨(s.port p).seqs, rfl⟩, rfl⟩

theorem State.refusing_port (s : State) (p : PortId) (opc : Opc) (h : Header) (poison : Bool) (data : BitVec 512) (be : BitVec 64)
    (st : Status) :
    (∃ seqs, (s.refusing p opc h poison data be st).port p =
      { (s.port p).spend opc.wrq with txns := (s.port p).txns ++ [s.txnOf p opc h poison data be none], seqs := seqs }) ∧
      (s.refusing p opc h poison data be st).sent = s.sent := by
  have port := s.withTxn_port p opc h poison data be none
  have sent := (s.withTxn_onlyPort p opc h poison data be none).sent
  unfold State.refusing
  split
  · obtain ⟨⟨seqs, lost⟩, kept⟩ := (s.withTxn p opc h poison data be none).dropLost_port p opc h
    exact ⟨⟨seqs, by rw [lost, port]⟩, kept.trans sent⟩
  · exact ⟨⟨_, port⟩, sent⟩

/-- Its credit comes back with the answer, which carries nothing (R84, R85, R93). -/
theorem State.request_answered {st : Status} (taken : s.takes p opc.wrq = true) (refused : s.Refuses p opc h st)
    (empty : (s.port p).txns = []) (cpl : 0 < (s.port p).cpl) (dat : 0 < (s.port p).dat) :
    AnsweredAtOnce s (s.request p opc h poison data be) p h st := by
  have unused : (s.port p).tagUsed h.tag = false := by rw [Port.tagUsed, empty]; rfl
  rw [State.request_refused taken unused refused]
  obtain ⟨⟨seqs, port⟩, sent⟩ := s.refusing_port p opc h poison data be st
  rw [empty] at port
  have alone := congrArg Port.txns port
  have held : 0 < ((s.refusing p opc h poison data be st).port p).cpl ∧ 0 < ((s.refusing p opc h poison data be st).port p).dat := by
    rw [port]
    unfold Port.spend
    split <;> exact ⟨cpl, dat⟩
  obtain ⟨⟨r, answer, carries⟩, none, req, wrq⟩ := State.formS_alone alone rfl held rfl rfl st
  obtain ⟨reqBack, wrqBack⟩ := Port.spend_returned (State.holds_of_takes taken)
  obtain ⟨toPort, status, tag, ldid, noData, noLoad⟩ := carries
  rw [port] at req wrq
  exact ⟨r, answer.trans (congrArg _ sent), toPort, status, tag, ldid, noData, noLoad, none, req.trans reqBack, wrq.trans wrqBack⟩

end

end Sys2Proof.Machine

section
open Sys2Proof Sys2Proof.Machine Sys2Proof.Slice

/-- Settles O24: a request that resolves is accepted by `State.request_accepted`, a refused one answered by `State.request_answered`, and
one whose `TAG` is outstanding a fault of its port by `State.request_duplicate`. -/
theorem requestsAreAcceptedAndStamped : Obligations.RequestsAreAcceptedAndStamped := by
  unfold Obligations.RequestsAreAcceptedAndStamped
  intro s p h opened on
  have taken {wrq : Bool} (credit : (s.port p).holds wrq = true) : s.takes p wrq = true := State.takes_of_opened opened on credit
  refine ⟨?accepted, ?answered, ?duplicate⟩
  case accepted =>
    intro n off runs unused
    have accepted (opc : Opc) (poison : Bool) (data : BitVec 512) (be : BitVec 64) (credit : (s.port p).holds opc.wrq = true)
        (found : s.lookup p h (opc.right h.lock) = .ok n off) (sound : s.malformed p opc h (some (n, off)) = false) :
        ∃ u, (.next (s.request p opc h poison data be) : Out) = .next (State.pump u) ∧
          Accepts s u p (acceptedTxn s p opc h poison data be n off) := by
      obtain ⟨u, same, accepts⟩ := State.request_accepted (taken credit) unused runs found sound
      exact ⟨u, congrArg _ same, accepts⟩
    refine ⟨?mrd, ?unlk, ?mwr, ?mwrp⟩
    case mrd => exact fun credit found sound => accepted .mrd _ _ _ (Port.holds_req credit) found sound
    case unlk => exact fun credit found sound => accepted .unlk _ _ _ (Port.holds_req credit) found sound
    case mwr => exact fun credit found unlocked poison data => accepted .mwr _ _ _ (Port.holds_wrq credit) found unlocked
    case mwrp => exact fun credit found unlocked poison data be => accepted .mwrp _ _ _ (Port.holds_wrq credit) found unlocked
  case answered =>
    intro empty cpl dat poison data be
    have answered (opc : Opc) {st : Status} (poison : Bool) (data : BitVec 512) (be : BitVec 64) (credit : (s.port p).holds opc.wrq = true)
        (refused : s.Refuses p opc h st) :
        ∃ t, (.next (s.request p opc h poison data be) : Out) = .next t ∧ AnsweredAtOnce s t p h st :=
      ⟨_, rfl, State.request_answered (taken credit) refused empty cpl dat⟩
    refine ⟨fun halted => ?halt, fun st runs unlocked => ?unresolved⟩
    case halt =>
      have refused (opc : Opc) : s.Refuses p opc h .halted := .inl ⟨halted, rfl⟩
      refine ⟨fun credit => ?reads, fun credit => ?writes⟩
      case reads => exact ⟨answered .mrd _ _ _ (Port.holds_req credit) (refused _), answered .unlk _ _ _ (Port.holds_req credit) (refused _)⟩
      case writes => exact ⟨answered .mwr _ _ _ (Port.holds_wrq credit) (refused _), answered .mwrp _ _ _ (Port.holds_wrq credit) (refused _)⟩
    case unresolved =>
      refine ⟨fun credit bad => ?read, fun credit bad => ?writes⟩
      case read =>
        have sound : s.malformed p .mrd h none = false := by simp [State.malformed, unlocked]
        exact answered .mrd _ _ _ (Port.holds_req credit) (.inr (.inr ⟨runs, sound, by rwa [unlocked]⟩))
      case writes =>
        exact ⟨answered .mwr _ _ _ (Port.holds_wrq credit) (.inr (.inr ⟨runs, unlocked, bad⟩)),
          answered .mwrp _ _ _ (Port.holds_wrq credit) (.inr (.inr ⟨runs, unlocked, bad⟩))⟩
  case duplicate =>
    intro used poison data be
    have fault (opc : Opc) (poison : Bool) (data : BitVec 512) (be : BitVec 64) (credit : (s.port p).holds opc.wrq = true) :
        (.next (s.request p opc h poison data be) : Out) = .next (((s.debit p opc.wrq).credit p opc.wrq).portFault p 1) :=
      congrArg _ (State.request_duplicate (taken credit) used)
    exact ⟨fun credit => ⟨fault .mrd _ _ _ (Port.holds_req credit), fault .unlk _ _ _ (Port.holds_req credit)⟩,
      fun credit => ⟨fault .mwr _ _ _ (Port.holds_wrq credit), fault .mwrp _ _ _ (Port.holds_wrq credit)⟩⟩

end

/-! SUPPORT. Hints that leave the block as it is (R75). -/

namespace Sys2Proof.Machine

section
variable {s : State} {p : PortId} {h : Header}

theorem State.hintFlit_untaken (untaken : s.takes p false = false) : s.hintFlit p h = s := if_pos (by simp [untaken])

/-- A hint in Halt, with `LOCK` set or outside P0 is discarded (R75; log entry 93, DESIGN CHOICE). -/
theorem State.hintFlit_discarded (discarded : h.lock = true ∨ s.chip.halted = true ∨ s.hostServes = false) : s.hintFlit p h = s := by
  have drop : (s.chip.halted || h.lock || !s.hostServes) = true := by
    rcases discarded with lock | halted | asleep
    · simp [lock]
    · simp [halted]
    · simp [asleep]
  exact ite_eq_left_iff.2 fun _ => if_pos drop

theorem State.hintFlit_unresolved {st : Status} (bad : s.lookup p h .read = .bad st) : s.hintFlit p h = s := by
  simp [State.hintFlit, bad]

end

end Sys2Proof.Machine

section
open Sys2Proof Sys2Proof.Machine Sys2Proof.Slice

/-- Settles O25: a hint that resolves is its route, any other and a flit that is not taken leave the block as it is. -/
theorem hintsCreditsAndUntakenFlitsLeaveNoTransaction : Obligations.HintsCreditsAndUntakenFlitsLeaveNoTransaction := by
  unfold Obligations.HintsCreditsAndUntakenFlitsLeaveNoTransaction
  refine ⟨?routed, ?discarded, ?returned, ?closed, ?noRead, ?noWrite⟩
  case routed =>
    intro s p h n off taken runs unlocked serves found
    change Host.Outcome.next (s.hintFlit p h) = _
    simp [State.hintFlit, taken, runs, unlocked, serves, found]
  case discarded =>
    intro s p h discarded
    refine congrArg Host.Outcome.next ?_
    rcases discarded with lock | halted | asleep | ⟨st, bad⟩
    · exact State.hintFlit_discarded (.inl lock)
    · exact State.hintFlit_discarded (.inr (.inl halted))
    · exact State.hintFlit_discarded (.inr (.inr asleep))
    · exact State.hintFlit_unresolved bad
  case returned => exact fun s p cpl dat standing => if_neg standing
  case closed => exact fun s p cpl dat closed => if_pos closed
  case noRead =>
    intro s p h untaken
    exact ⟨congrArg Host.Outcome.next (State.request_untaken (opc := .mrd) untaken),
      congrArg Host.Outcome.next (State.hintFlit_untaken untaken), congrArg Host.Outcome.next (State.request_untaken (opc := .unlk) untaken)⟩
  case noWrite =>
    intro s p h untaken poison data be
    exact ⟨congrArg Host.Outcome.next (State.request_untaken (opc := .mwr) untaken),
      congrArg Host.Outcome.next (State.request_untaken (opc := .mwrp) untaken)⟩

/-- Settles O26: a malformed opcode is a request that R89 refuses, answered by `State.request_answered`; what a response carries is read off
`State.respOf`. -/
theorem malformedAndRefusedAnswersCarryNothing : Obligations.MalformedAndRefusedAnswersCarryNothing := by
  unfold Obligations.MalformedAndRefusedAnswersCarryNothing
  refine ⟨?malformed, ?other, ?classless, ?classed, ?carries⟩
  case malformed =>
    intro s p h opc range taken runs empty cpl dat
    have refused : s.Refuses p (.bad (opc.getLsbD 4)) h .malformed := .inr (.inl ⟨runs, fun _ => rfl, rfl⟩)
    exact ⟨_, if_pos range, State.request_answered taken refused empty cpl dat⟩
  case other =>
    intro s p h opc range
    exact if_neg (by omega)
  case classless => exact fun s p h opc range taken => if_pos ⟨range, taken⟩
  case classed =>
    intro s p h opc low high
    exact if_neg fun named => absurd named.1 (by omega)
  case carries =>
    intro s p t st poison data
    exact ⟨s.respOf_data_of_poison p, s.respOf_data_of_refused p, s.respOf_dload_zero p, s.respOf_dload_le p⟩

end

/-! SUPPORT. The end of a port's closing: its sequences end, and of the mailboxes only those whose `PORT_CLOSE` waits for it move
(R95, R96). -/

namespace Sys2Proof.Machine

theorem State.endSeq_boxes (s : State) (p ldid : Nat) : (s.endSeq p ldid).boxes = s.boxes := by
  unfold State.endSeq
  split <;> rfl

theorem State.portClosed_box (s : State) (p m : Nat) : (s.portClosed p).box m = s.box m := by
  have boxes := foldl_proj State.boxes (f := fun u (q : LockSeq) => u.endSeq p q.ldid) (fun u q => u.endSeq_boxes p q.ldid)
    (s.port p).seqs s
  exact congrArg (fun b : Vector Mailbox 9 => (b[m]?).getD Mailbox.reset) boxes

/-- A closed port holds nothing but its count of faults. -/
theorem State.portClosed_port (s : State) (p : PortId) : ∃ faults, (s.portClosed p).port p = { Port.reset with faults := faults } :=
  ⟨_, State.modPort_port_self _ p _⟩

/-- The command of a mailbox completes where it is a `PORT_CLOSE` that waits for the port. -/
def State.endClose (p m : Nat) (s : State) : State :=
  if (s.box m).state = MbState.busy ∧ (s.box m).started ∧ (s.box m).opc = 0x0102 ∧ fld ((s.box m).word 2) 2 0 = p then
    s.finishS m .ok
  else s

theorem State.endClose_ports (p m : Nat) (s : State) : (s.endClose p m).ports = s.ports := by
  unfold State.endClose
  split <;> rfl

theorem State.endClose_box_ne (p : Nat) {i m : Nat} (s : State) (other : i ≠ m) : (s.endClose p i).box m = s.box m := by
  unfold State.endClose
  split
  · exact State.modBox_box_ne s i m _ other
  · rfl

/-- The block after the last answer of a closing port. -/
def State.portEnded (s : State) (p : Nat) : State := eachBelow 9 (State.endClose p) (s.portClosed p)

theorem exec_portCloseDone {s : State} {p : Fin 8} (closing : (s.port p).state = .closing) (empty : (s.port p).txns = []) :
    exec (.portCloseDone p) s = .next (s.portEnded p).pump := if_pos ⟨closing, List.isEmpty_iff.2 empty⟩

theorem State.portEnded_port (s : State) (p : PortId) : ∃ faults, (s.portEnded p).port p = { Port.reset with faults := faults } := by
  have ports : (s.portEnded p).ports = (s.portClosed p).ports := eachBelow_proj State.ports (State.endClose_ports p) 9 _
  obtain ⟨faults, closed⟩ := s.portClosed_port p
  exact ⟨faults, by rw [State.port, ports, ← State.port, closed]⟩

/-- Every mailbox is visited once. -/
theorem State.portEnded_box (s : State) (p : Nat) (m : MailboxId) :
    ∃ u : State, u.box m = s.box m ∧ (s.portEnded p).box m = (u.endClose p m).box m := by
  obtain ⟨u, same, after⟩ := eachBelow_own (fun s => s.box m) (fun i s other => s.endClose_box_ne p other) (s.portClosed p) m.isLt
  exact ⟨u, same.trans (s.portClosed_box p m), after⟩

end Sys2Proof.Machine

section
open Sys2Proof Sys2Proof.Machine Sys2Proof.Slice

/-- Settles O27: the port is reset by `State.portEnded_port`, and each mailbox completes or stays by `State.endClose`. -/
theorem portCloseEndsWithTheLastAnswer : Obligations.PortCloseEndsWithTheLastAnswer := by
  unfold Obligations.PortCloseEndsWithTheLastAnswer
  intro s p closing empty
  obtain ⟨faults, closed⟩ := s.portEnded_port p.castSucc
  rw [Fin.val_castSucc] at closed
  refine ⟨s.portEnded p, exec_portCloseDone closing empty, ?state, ?req, ?wrq, ?cpl, ?dat, ?completes, ?stays⟩
  case completes =>
    intro m busy started opcode named
    obtain ⟨u, same, after⟩ := s.portEnded_box p m
    rw [← same] at busy started opcode named ⊢
    rw [after, State.endClose, if_pos ⟨busy, started, opcode, named⟩]
    exact State.finish_box_self u m _ _ _
  case stays =>
    intro m other
    obtain ⟨u, same, after⟩ := s.portEnded_box p m
    rw [← same] at other ⊢
    rw [after, State.endClose, if_neg fun ⟨_, _, opcode, _⟩ => other opcode]
  all_goals
    rw [closed]
    rfl

end

/-! SUPPORT. The address map read backwards (R113, R114): the chunk offsets are the interleave's inverse, and a line's coordinates its digits. -/

namespace Sys2Proof.Machine

/-! ## The interleave -/

theorem foldl_xor_lt {α : Type} {n : Nat} (f : α → Nat) (small : ∀ k, f k < 2 ^ n) :
    ∀ (l : List α) {h : Nat}, h < 2 ^ n → l.foldl (fun h k => h ^^^ f k) h < 2 ^ n
  | [], _, hh => hh
  | k :: l, _, hh => foldl_xor_lt f small l (Nat.xor_lt_two_pow hh (small k))

theorem chunkHash_lt (q : Nat) : chunkHash q < 64 :=
  foldl_xor_lt (n := 6) _ (fun _ => Nat.mod_lt _ (by decide)) _ (by decide)

/-- The rotation of a row of chunks is undone by its inverse (R113). -/
theorem unrotate {n slot hash : Nat} (member : slot < n) (small : hash < 64) : ((slot + n * 64 - hash) % n + hash) % n = slot := by
  rw [Nat.mod_add_mod, Nat.sub_add_cancel (by omega), Nat.add_mul_mod_self_left, Nat.mod_eq_of_lt member]

theorem interleave_chunkOffset (members : List Nat) (ext : List (List Nat)) {slot r : Nat} (q : Nat) (member : slot < members.length)
    (inside : r < 256) :
    interleave members ext (chunkOffset members.length slot q + r) =
      (members.getD slot 0, ((ext.getD slot []).getD ((q * 256 + r) / granuleBytes) 0) * granuleBytes + (q * 256 + r) % granuleBytes) := by
  have some : 0 < members.length := Nat.zero_lt_of_lt member
  have rotated : (slot + members.length * 64 - chunkHash q) % members.length < members.length := Nat.mod_lt _ some
  have chunk : (chunkOffset members.length slot q + r) / 256 =
      members.length * q + (slot + members.length * 64 - chunkHash q) % members.length := by
    rw [chunkOffset, Nat.mul_comm q]
    omega
  have low : (chunkOffset members.length slot q + r) % 256 = r := by
    rw [chunkOffset]
    omega
  simp only [interleave, chunk, low, Nat.mul_add_div some, Nat.div_eq_of_lt rotated, Nat.mul_add_mod, Nat.mod_mod, Nat.add_zero,
    unrotate member (chunkHash_lt q)]

/-! ## Coordinates -/

/-- Widths of the column's upper part and of the bank within its group (R114). -/
def Geom.colWidth (g : Geom) : Nat := if g.x8 then 5 else 6
def Geom.bankWidth (g : Geom) : Nat := if g.bank4 then 2 else 1

theorem Geom.banks_eq (g : Geom) : g.banks = 2 ^ g.bankWidth := by
  unfold Geom.banks Geom.bankWidth
  split <;> rfl

/-- The row of an address of the Landing is what is left above the rank. -/
theorem row_lt {a c b k r : Nat} (inside : a < 2 ^ (6 + 5 + c + b + k + r)) : a / 64 / 32 / 2 ^ c / 2 ^ b / 2 ^ k < 2 ^ r := by
  simp only [Nat.div_div_eq_div_mul]
  refine Nat.div_lt_of_lt_mul (lt_of_lt_of_eq inside ?_)
  simp only [pow_add]
  rfl

theorem addrOf_coordOf (g : Geom) {a : Nat} (line : a % 64 = 0)
    (inside : a < 2 ^ (6 + 5 + g.colWidth + g.bankWidth + g.rankBits + (16 + g.rowBits))) : addrOf g (coordOf g a) = a := by
  have row := Nat.mod_eq_of_lt (row_lt inside)
  have column (hi lo : Nat) (bit : lo < 2) : (2 * hi + lo) / 2 = hi ∧ (2 * hi + lo) % 2 = lo := by omega
  obtain ⟨high, low⟩ := column (a / 64 / 32 % 2 ^ g.colWidth) (a / 64 / 2 % 2) (Nat.mod_lt _ (by decide))
  unfold Geom.colWidth Geom.bankWidth at *
  simp only [addrOf, coordOf, Nat.xor_assoc, Nat.xor_self, Nat.xor_zero, row, high, low, Nat.div_add_mod']
  omega

theorem coordOf_inside (g : Geom) (a : Nat) :
    (coordOf g a).sub < 2 ∧ (coordOf g a).bg < 8 ∧ (coordOf g a).bank < g.banks ∧ (coordOf g a).rank < g.ranks ∧
      (coordOf g a).row < 2 ^ (16 + g.rowBits) ∧ (coordOf g a).col < 2 * 2 ^ g.colWidth := by
  have high : a / 64 / 32 % 2 ^ g.colWidth < 2 ^ g.colWidth := Nat.mod_lt _ (Nat.two_pow_pos _)
  refine ⟨Nat.mod_lt _ (by decide), ?group, ?bank, Nat.mod_lt _ (Nat.two_pow_pos _), Nat.mod_lt _ (Nat.two_pow_pos _), ?column⟩
  case group => exact Nat.xor_lt_two_pow (n := 3) (Nat.mod_lt _ (by decide)) (Nat.mod_lt _ (by decide))
  case bank =>
    rw [Geom.banks_eq]
    exact Nat.xor_lt_two_pow (Nat.mod_lt _ (Nat.two_pow_pos _)) (Nat.mod_lt _ (Nat.two_pow_pos _))
  case column =>
    change 2 * (a / 64 / 32 % 2 ^ g.colWidth) + a / 64 / 2 % 2 < _
    omega

end Sys2Proof.Machine

section
open Sys2Proof Sys2Proof.Machine Sys2Proof.Slice

/-- Settles O13: the coordinates are the digits of the line's number, hashed by an exclusive or that undoes itself, and the chunk offsets
undo the rotation of the interleave. -/
theorem addressesNameEachLineOnce : Obligations.AddressesNameEachLineOnce := by
  unfold Obligations.AddressesNameEachLineOnce
  refine ⟨?coordinates, ?chunks⟩
  case coordinates => exact fun g a line inside => ⟨addrOf_coordOf g line inside, coordOf_inside g a⟩
  case chunks => exact fun members ext slot q r member inside => interleave_chunkOffset members ext q member inside

end

/-! SUPPORT. The window commands and `TIER_POOL`, each by its outcomes. -/

namespace Sys2Proof.Machine

open Sys2Proof.Slice (Begins Awake worksInHalt boxesOn answered)

/-! ## Commands that need DRAM -/

/-- A command with DRAM work that begins in P0, with no power request pending, has its effect. -/
theorem amiom_of_awake {s : State} {m : MailboxId} {opc : Nat} (f : State → State) (h : Begins s m opc) (awake : Awake s)
    (halt : worksInHalt.contains opc = true → ((opcodeRow opc).map (·.2)).getD false = true) : s.amiom m opc f = .next (f s).pump := by
  obtain ⟨busy, waits, opcode, ready, may, works⟩ := h
  exact amiom_begins f busy waits opcode ready may (works.imp_right halt) (.inr awake)

/-! ## Nothing but the Landings moves -/

/-- Nothing moves but the Landings. -/
def OnlyLandings (s t : State) : Prop := ∃ landings, t = { s with landings := landings }

theorem OnlyLandings.refl (s : State) : OnlyLandings s s := ⟨s.landings, rfl⟩

theorem OnlyLandings.trans {s t u : State} : OnlyLandings s t → OnlyLandings t u → OnlyLandings s u
  | ⟨_, ht⟩, ⟨landings, hu⟩ => ⟨landings, by rw [hu, ht]⟩

theorem OnlyLandings.box {s t : State} (h : OnlyLandings s t) (m : Nat) : t.box m = s.box m := by
  obtain ⟨_, rfl⟩ := h
  rfl

theorem OnlyLandings.gal {s t : State} (h : OnlyLandings s t) (g : Nat) : t.gal g = s.gal g := by
  obtain ⟨_, rfl⟩ := h
  rfl

theorem State.setStep_onlyLandings (s : State) (l : Nat) : OnlyLandings s (s.setStep l) := by
  unfold State.setStep
  dsimp only
  split
  · exact .refl s
  · exact ⟨_, rfl⟩

theorem State.setSteps_onlyLandings (s : State) (ls : List Nat) : OnlyLandings s (s.setSteps ls) :=
  foldl_related OnlyLandings.refl OnlyLandings.trans State.setStep_onlyLandings ls s

/-! ## `WINDOW_ADD` and `WINDOW_REMOVE` -/

section
variable {s : State} {m : MailboxId} {h : Hall}

theorem exec_windowAdd (begins : Begins s m 0x0407) : exec (.windowAdd m) s = .next (s.windowAdd m).pump :=
  amiom_of_begins (fun s => s.windowAdd m) begins (by decide) (by decide)

theorem exec_windowRemove (begins : Begins s m 0x0408) : exec (.windowRemove m) s = .next (s.windowRemove m).pump :=
  amiom_of_begins (fun s => s.windowRemove m) begins (by decide) (by decide)

theorem State.windowAdd_unknown (gone : s.hallStands (fld ((s.box m).word 2) 9 0) = false) : s.windowAdd m = s.finishS m .notFound := by
  simp [State.windowAdd, gone]

/-- The window that `WINDOW_ADD` asks for. -/
def State.newWindow (s : State) (m : Nat) : Window :=
  { num := s.freeWindow, hall := fld ((s.box m).word 2) 9 0, port := fld ((s.box m).word 3) 2 0, ldid := fld ((s.box m).word 3) 7 4
    base := windowBase ((s.box m).word 4) ((s.box m).word 5), rw := ((s.box m).word 3).getLsbD 8, active := false }

/-- On a hall that takes windows the base decides, then the windows that stand, then their number (R105, R106). -/
theorem State.windowAdd_of_stands (stands : s.hallStands (fld ((s.box m).word 2) 9 0) = true)
    (here : s.hall (fld ((s.box m).word 2) 9 0) = some h) (standing : h.phase ≠ .releasing) (keyed : h.enc = true → h.keyLoaded = true) :
    s.windowAdd m =
      if windowBase ((s.box m).word 4) ((s.box m).word 5) % granuleBytes ≠ 0 ∨
        2 ^ 52 < windowBase ((s.box m).word 4) ((s.box m).word 5) + h.bytes then s.finishS m .badParam
      else if s.overlaps (fld ((s.box m).word 3) 2 0) (fld ((s.box m).word 3) 7 4) (windowBase ((s.box m).word 4) ((s.box m).word 5)) h.bytes
      then s.finishS m .overlap
      else if 4096 ≤ s.windows.length then s.finishS m .noSpace
      else ((State.storeChanged { s with windows := s.windows ++ [s.newWindow m] }).defer (.windowOn s.freeWindow)).finishAtBoundary m
        [at_ 0 s.freeWindow] := by
  have takes : ¬(h.phase = .releasing ∨ (h.enc = true ∧ (!h.keyLoaded) = true)) := by
    rintro (phase | ⟨enc, unkeyed⟩)
    · exact standing phase
    · simp [keyed enc] at unkeyed
  unfold State.windowAdd
  simp only [stands, here, if_true, if_neg takes]
  rfl

/-- A change that takes effect at the boundary, at which the command ends with results. -/
theorem State.defer_finishAtBoundary_results (s : State) (m : MailboxId) (d : Deferred) (res : List W32) :
    (s.defer d).finishAtBoundary m res = { s with
      misc := { s.misc with deferred := s.misc.deferred ++ [d, .done m (s.box m).taken res] }
      boxes := boxesOn s m } := by
  have both := List.append_cons s.misc.deferred d [.done m (s.box m).taken res]
  rw [both]
  rfl

theorem State.windowRemove_known (known : ∃ w ∈ s.windows, w.num = fld ((s.box m).word 2) 11 0) :
    s.windowRemove m = (s.storeChanged.defer (.windowOff (fld ((s.box m).word 2) 11 0))).finishAtBoundary m [] := by
  refine if_pos ?_
  simpa using known

theorem State.windowRemove_unknown (unknown : ∀ w ∈ s.windows, w.num ≠ fld ((s.box m).word 2) 11 0) :
    s.windowRemove m = s.finishS m .notFound := by
  refine if_neg ?_
  simpa using unknown

end

/-! ## `TIER_POOL` -/

section
variable {s : State} {m : MailboxId} {g : GalleryId}

theorem exec_tierPool (begins : Begins s m 0x0501) (awake : Awake s) : exec (.tierPool m) s = .next (s.tierPool m).pump :=
  amiom_of_awake (fun s => s.tierPool m) begins awake (by decide)

theorem State.takeSets_length (s : State) (g skip k : Nat) : (s.takeSets g skip k).length = k := by simp [State.takeSets]

theorem Gallery.trimAux_poolExt (x : Gallery) (sets : Nat) : (x.trimAux sets).poolExt = x.poolExt := rfl
theorem Gallery.trimAux_poolMax (x : Gallery) (sets : Nat) : (x.trimAux sets).poolMax = x.poolMax := rfl

theorem State.tierPool_refused (named : fld ((s.box m).word 2) 1 0 = g.val)
    (refused : s.nGal ≤ g.val ∨ ((s.box m).word 3).toNat < ((s.box m).word 4).toNat ∨
      ((s.box m).word 3).toNat < (s.gal g).poolExt.length) : s.tierPool m = s.finishS m .badParam := by
  simp only [State.tierPool, named]
  exact if_pos refused

/-- The pool of a Gallery has a new limit and size. -/
def State.PoolSet (s u : State) (m : MailboxId) (g : GalleryId) (most : Nat) (ext : List (List Nat)) : Prop :=
  ∃ w, u.box m = (s.box m).finish .ok [w] [] ∧ (u.gal g).poolMax = most ∧ (u.gal g).poolExt = ext

/-- A pool that does not lose frames, with room for the sets that it and its auxiliary area gain, gets them (R402, R404). -/
theorem State.tierPool_set (named : fld ((s.box m).word 2) 1 0 = g.val) {most target more moreAux : Nat}
    (hmost : ((s.box m).word 3).toNat = most) (htarget : ((s.box m).word 4).toNat = target) (present : g.val < s.nGal)
    (within : target ≤ most) (grows : (s.gal g).poolExt.length ≤ target) (hmore : more = target - (s.gal g).poolExt.length)
    (haux : moreAux = s.auxSets g most - (s.gal g).auxExt.length)
    (room : more + moreAux = 0 ∨ s.roomFor ((List.range 4).map fun i => 4 * g.val + i) (more + moreAux) (more + moreAux) = true) :
    s.PoolSet (s.tierPool m) m g most (((s.gal g).poolExt ++ s.takeSets g 0 more).take target) := by
  subst hmore haux
  have accepted : ¬(s.nGal ≤ g.val ∨ most < target ∨ most < (s.gal g).poolExt.length) := by omega
  have kept : decide (target < (s.gal g).poolExt.length) = false := decide_eq_false (by omega)
  simp only [State.tierPool, named, hmost, htarget, if_neg accepted, kept, Bool.false_and, Bool.or_false]
  rw [if_neg (by rcases room with none | room <;> simp_all)]
  have steps := State.setSteps_onlyLandings
  refine ⟨_, (State.finish_box_self _ m _ _ _).trans (congrArg (Mailbox.finish · _ _ _) ((steps _ _).box m)), ?limit, ?sets⟩
  case limit => rw [State.finish_gal, (steps _ _).gal, State.modGal_gal_self, Gallery.trimAux_poolMax]
  case sets => rw [State.finish_gal, (steps _ _).gal, State.modGal_gal_self, Gallery.trimAux_poolExt]

end

end Sys2Proof.Machine

section
open Sys2Proof Sys2Proof.Machine Sys2Proof.Slice

/-- Settles O58: each command begins (`amiom_of_begins`, `amiom_of_awake`) and answers by its outcome; a pool that grows gains the sets that
are missing (`State.tierPool_set`). -/
theorem windowAndPoolCommandsHaveTheirEffect : Obligations.WindowAndPoolCommandsHaveTheirEffect := by
  unfold Obligations.WindowAndPoolCommandsHaveTheirEffect
  refine ⟨?add, ?remove, ?pool⟩
  case add =>
    intro s m begins
    rw [exec_windowAdd begins]
    refine ⟨fun gone => ?_, fun h stands here standing keyed => ?_⟩
    · rw [State.windowAdd_unknown gone]; rfl
    rw [State.windowAdd_of_stands stands here standing keyed]
    refine ⟨fun bad => ?_, fun aligned inside => ⟨fun overlap => ?_, fun apart room => ?_, fun apart full => ?_⟩⟩
    · rw [if_pos bad]; rfl
    all_goals rw [if_neg (not_or.2 ⟨not_not.2 aligned, Nat.not_lt.2 inside⟩)]
    · rw [if_pos overlap]; rfl
    · rw [if_neg (ne_true_of_eq_false apart), if_neg (Nat.not_le.2 room), State.defer_finishAtBoundary_results]; rfl
    · rw [if_neg (ne_true_of_eq_false apart), if_pos full]; rfl
  case remove =>
    intro s m begins
    rw [exec_windowRemove begins]
    refine ⟨fun known => ?_, fun unknown => ?_⟩
    · rw [State.windowRemove_known known, State.defer_finishAtBoundary]; rfl
    · rw [State.windowRemove_unknown unknown]; rfl
  case pool =>
    intro s m g begins awake named
    rw [exec_tierPool begins awake]
    refine ⟨fun refused => ?refused, fun present same full fits => ?same, fun present within grows room => ?grows⟩
    case refused => rw [State.tierPool_refused named refused]; rfl
    case same =>
      obtain ⟨w, box, limit, sets⟩ := State.tierPool_set named rfl rfl present full.le (by omega) rfl rfl (.inl (by omega))
      refine ⟨_, w, rfl, box, limit, sets.trans ?_⟩
      rw [full, same, Nat.sub_self, List.take_left']
      rfl
    case grows =>
      obtain ⟨w, box, limit, sets⟩ := State.tierPool_set named rfl rfl present within grows rfl rfl (.inr room)
      refine ⟨_, w, rfl, box, limit, ?_⟩
      rw [sets, List.length_take, List.length_append, State.takeSets_length]
      omega

end

/-! SUPPORT. `KEK_LOAD` and the hall commands, each by its outcomes. -/

namespace Sys2Proof.Machine

open Sys2Proof.Slice (Begins Awake worksInHalt boxesOn boxesDone answered)

/-! ## A hall among the halls -/

theorem OnlyLandings.boxesOn {s t : State} (h : OnlyLandings s t) (m : MailboxId) : Slice.boxesOn t m = Slice.boxesOn s m := by
  obtain ⟨_, rfl⟩ := h
  rfl

/-- A hall put in place, its members' scrub steps set anew and its command going on (R118, R119). -/
theorem State.putHall_goesOn (s : State) (m : MailboxId) (n : Nat) (x : Hall) (ls : List Nat) :
    (((s.putHall n x).setSteps ls).goesOn m).boxes = boxesOn s m ∧ (((s.putHall n x).setSteps ls).goesOn m).hall n = some x := by
  obtain ⟨_, steps⟩ := State.setSteps_onlyLandings (s.putHall n x) ls
  rw [steps]
  exact ⟨rfl, State.putHall_hall_self s n x⟩

/-! ## `KEK_LOAD` -/

section
variable {s : State} {m : MailboxId}

theorem exec_kekLoad (begins : Begins s m 0x0401) : exec (.kekLoad m) s = .next (s.kekLoad m).pump :=
  amiom_of_begins (fun s => s.kekLoad m) begins (by decide) (by decide)

theorem State.kekLoad_locked (locked : s.misc.kekLock = true) : s.kekLoad m = s.finishS m .resourceBusy := if_pos locked

theorem State.kekLoad_unlocked (unlocked : s.misc.kekLock = false) :
    s.kekLoad m = if (s.box m).plen ≠ 32 then s.finishS m .badParam
      else (s.modMisc fun x => { x with kek := some (s.box m).payload, kekLock := ((s.box m).word 2).getLsbD 0 }).finishS m .ok :=
  if_neg (ne_true_of_eq_false unlocked)

end

/-! ## `HALL_CREATE` -/

section
variable {s : State} {m : MailboxId}

theorem exec_hallCreate (begins : Begins s m 0x0402) (awake : Awake s) : exec (.hallCreate m) s = .next (s.hallCreate m).pump :=
  amiom_of_awake (fun s => s.hallCreate m) begins awake (by decide)

/-- The hall that `HALL_CREATE` asks for, with nothing allocated, and its size. -/
def Mailbox.asksHall (b : Mailbox) : Hall := newHall (BitVec.ofNat 12 (fld (b.word 3) 11 0)) (b.word 5)
def Mailbox.asksSize (b : Mailbox) : Nat := fld (b.word 4) 15 0

theorem State.hallCreate_taken {x : Hall} (taken : s.hall (fld ((s.box m).word 2) 9 0) = some x) :
    s.hallCreate m = s.finishS m
      (if x.phase = .releasing ∨ (s.runner 0x0404 (fld ((s.box m).word 2) 9 0)).isSome = true then .resourceBusy else .badState) := by
  simp [State.hallCreate, taken]

/-- The hall that a creation leaves. -/
def State.createdHall (s : State) (h : Hall) (g : Nat) (heat : List (Nat × Nat)) (key : List Byte) : Hall :=
  let x : Hall := { s.extendHall h g with
    size := g, heat := heat, heatSize := g, zeroPos := List.replicate h.members.length 0
    metaPos := List.replicate h.members.length 0, keyLoaded := true }
  if h.enc then { x with key := key, check := keyCheck key } else x

/-- The properties of a hall that `HALL_CREATE` and `HALL_QUERY` name. -/
def Hall.properties (h : Hall) : BitVec 12 × Bool × Bool × Bool × Bool × Bool := (h.set, h.enc, h.integ, h.cmp, h.elastic, h.dl)

theorem State.createdHall_standing (s : State) (h : Hall) (g : Nat) (heat : List (Nat × Nat)) (key : List Byte) :
    ((s.createdHall h g heat key).phase, (s.createdHall h g heat key).size, (s.createdHall h g heat key).w,
      (s.createdHall h g heat key).keyLoaded, (s.createdHall h g heat key).properties) = (h.phase, g, h.w, true, h.properties) := by
  unfold State.createdHall
  dsimp only
  split <;> rfl

theorem State.createdHall_ext_length (s : State) (h : Hall) (g : Nat) (heat : List (Nat × Nat)) (key : List Byte) :
    (s.createdHall h g heat key).ext.length = h.members.length := by
  unfold State.createdHall
  dsimp only
  split <;> simp [State.extendHall]

theorem State.createdHall_key (s : State) {h : Hall} (g : Nat) (heat : List (Nat × Nat)) (key : List Byte) (enc : h.enc = true) :
    (s.createdHall h g heat key).key = key ∧ (s.createdHall h g heat key).check = keyCheck key := by
  rw [State.createdHall, if_pos enc]
  exact ⟨rfl, rfl⟩

/-- Every member has room for the hall that the command asks for (R112). -/
def State.roomForNew (s : State) (h : Hall) (g : Nat) : Bool :=
  s.roomFor h.members (perLanding h.integ h.cmp g h.members.length) (perCommit h.integ h.cmp h.elastic g h.members.length)

/-- The key of a new hall: the one that the payload wraps, where the hall is encrypted (R362). -/
def State.newKey (s : State) (b : Mailbox) : Option (List Byte) := if b.asksHall.enc then s.unwrap b.payload else some []

/-- With room for the hall's granules, the room for its heat runs decides, then its key. -/
def State.createIn (s : State) (m : Nat) : State :=
  match s.heatFor { (s.box m).asksHall with heatSize := (s.box m).asksSize } with
  | none => s.finishS m .noSpace
  | some heat => match s.newKey (s.box m) with
    | none => s.finishS m .badKey
    | some key => ((s.putHall (fld ((s.box m).word 2) 9 0)
        (s.createdHall (s.box m).asksHall (s.box m).asksSize heat key)).setSteps
          (s.createdHall (s.box m).asksHall (s.box m).asksSize heat key).members).goesOn m

/-- For a free number the properties decide, then the room for granules (R118, R472). -/
theorem State.hallCreate_free (free : s.hall (fld ((s.box m).word 2) 9 0) = none) :
    s.hallCreate m =
      if s.badProperties (s.box m).asksHall (s.box m).asksSize ((s.box m).word 5) (s.box m).plen then s.finishS m .badParam
      else if !s.roomForNew (s.box m).asksHall (s.box m).asksSize then s.finishS m .noSpace
      else s.createIn m := by
  unfold State.hallCreate
  simp only [free]
  rfl

section
variable (free : s.hall (fld ((s.box m).word 2) 9 0) = none)
include free

theorem State.hallCreate_badProperties
    (bad : s.badProperties (s.box m).asksHall (s.box m).asksSize ((s.box m).word 5) (s.box m).plen = true) :
    s.hallCreate m = s.finishS m .badParam := by
  rw [State.hallCreate_free free, if_pos bad]

variable (good : s.badProperties (s.box m).asksHall (s.box m).asksSize ((s.box m).word 5) (s.box m).plen = false)
include good

theorem State.hallCreate_noRoom (full : s.roomForNew (s.box m).asksHall (s.box m).asksSize = false) :
    s.hallCreate m = s.finishS m .noSpace := by
  rw [State.hallCreate_free free, if_neg (ne_true_of_eq_false good), if_pos (by simp [full])]

theorem State.hallCreate_room (room : s.roomForNew (s.box m).asksHall (s.box m).asksSize = true) : s.hallCreate m = s.createIn m := by
  rw [State.hallCreate_free free, if_neg (ne_true_of_eq_false good), if_neg (by simp [room])]

theorem State.hallCreate_noHeat (room : s.roomForNew (s.box m).asksHall (s.box m).asksSize = true)
    (noHeat : s.heatFor { (s.box m).asksHall with heatSize := (s.box m).asksSize } = none) :
    s.hallCreate m = s.finishS m .noSpace := by
  rw [State.hallCreate_room free good room, State.createIn, noHeat]

theorem State.hallCreate_badKey {heat : List (Nat × Nat)} (room : s.roomForNew (s.box m).asksHall (s.box m).asksSize = true)
    (heated : s.heatFor { (s.box m).asksHall with heatSize := (s.box m).asksSize } = some heat) (noKey : s.newKey (s.box m) = none) :
    s.hallCreate m = s.finishS m .badKey := by
  simp only [State.hallCreate_room free good room, State.createIn, heated, noKey]

theorem State.hallCreate_created {heat : List (Nat × Nat)} {key : List Byte}
    (room : s.roomForNew (s.box m).asksHall (s.box m).asksSize = true)
    (heated : s.heatFor { (s.box m).asksHall with heatSize := (s.box m).asksSize } = some heat) (keyed : s.newKey (s.box m) = some key) :
    (s.hallCreate m).boxes = boxesOn s m ∧
      (s.hallCreate m).hall (fld ((s.box m).word 2) 9 0) = some (s.createdHall (s.box m).asksHall (s.box m).asksSize heat key) := by
  simp only [State.hallCreate_room free good room, State.createIn, heated, keyed]
  exact s.putHall_goesOn m _ _ _

end

end

/-! ## `HALL_RESIZE` -/

section
variable {s : State} {m : MailboxId} {h : Hall}

theorem exec_hallResize (begins : Begins s m 0x0403) (awake : Awake s) : exec (.hallResize m) s = .next (s.hallResize m).pump :=
  amiom_of_awake (fun s => s.hallResize m) begins awake (by decide)

theorem State.hallResize_unknown (gone : s.hallStands (fld ((s.box m).word 2) 9 0) = false) : s.hallResize m = s.finishS m .notFound := by
  simp [State.hallResize, gone]

/-- The hall with its unfinished resize undone stands among the halls, and its members' scrub steps are set anew (R119). -/
def State.unresized (s : State) (n : Nat) (h : Hall) : State := (s.putHall n h.settled).setSteps h.members

section
variable (stands : s.hallStands (fld ((s.box m).word 2) 9 0) = true) (here : s.hall (fld ((s.box m).word 2) 9 0) = some h)
  (standing : h.phase ≠ .releasing)
include stands here standing

theorem State.hallResize_badSize (bad : fld ((s.box m).word 3) 15 0 < h.members.length) : s.hallResize m = s.finishS m .badParam := by
  simp [State.hallResize, stands, here, standing, bad]

/-- A size that the hall may have is compared with the one it has (R119). -/
theorem State.hallResize_sized (least : h.members.length ≤ fld ((s.box m).word 3) 15 0)
    (even : fld ((s.box m).word 3) 15 0 % max 1 h.members.length = 0)
    (apart : h.size < fld ((s.box m).word 3) 15 0 → s.windowClash (fld ((s.box m).word 2) 9 0) (fld ((s.box m).word 3) 15 0) = false) :
    s.hallResize m =
      if fld ((s.box m).word 3) 15 0 = h.size then (s.unresized (fld ((s.box m).word 2) 9 0) h).finishS m .ok
      else if h.size < fld ((s.box m).word 3) 15 0 then
        (s.unresized (fld ((s.box m).word 2) 9 0) h).growHall m (fld ((s.box m).word 2) 9 0) h.settled (fld ((s.box m).word 3) 15 0)
      else ((s.unresized (fld ((s.box m).word 2) 9 0) h).defer
        (.shrink (fld ((s.box m).word 2) 9 0) (fld ((s.box m).word 3) 15 0))).goesOn m := by
  have fits : ¬(fld ((s.box m).word 3) 15 0 < h.members.length ∨ fld ((s.box m).word 3) 15 0 % max 1 h.members.length ≠ 0 ∨
      (h.size < fld ((s.box m).word 3) 15 0 ∧
        s.windowClash (fld ((s.box m).word 2) 9 0) (fld ((s.box m).word 3) 15 0) = true)) := by
    rintro (low | odd | ⟨grows, clash⟩)
    · omega
    · exact odd even
    · exact absurd clash (ne_true_of_eq_false (apart grows))
  unfold State.hallResize
  simp only [stands, here, if_true, if_neg standing, if_neg fits]
  rfl

end

/-! ### Growth -/

section
variable (t : State) (m n g : Nat) (h : Hall)

/-- The members have room for what a growth adds (R112, R119). -/
def State.roomToGrow (t : State) (h : Hall) (g : Nat) : Bool :=
  t.roomFor h.members
    (perLanding h.integ h.cmp g h.members.length - perLanding h.integ h.cmp h.size h.members.length)
    (perCommit h.integ h.cmp h.elastic g h.members.length - perCommit h.integ h.cmp h.elastic h.size h.members.length)

/-- The heat runs are too short for the new size, and no Gallery has room for longer ones (R393). -/
def State.heatFull (t : State) (h : Hall) (g : Nat) : Bool := decide (h.heatSize < g) && (t.heatFor { h with heatSize := g }).isNone

theorem State.growHall_full (full : t.roomToGrow h g = false ∨ t.heatFull h g = true) : t.growHall m n h g = t.finishS m .noSpace := by
  rcases room : t.roomToGrow h g with _ | _
  · exact if_pos (congrArg not room)
  · exact (if_neg (ne_true_of_eq_false (congrArg not room))).trans (if_pos (full.resolve_left (by simp [room])))

/-- The hall as it is while it grows. -/
def State.growingHall (t : State) (h : Hall) (g : Nat) : Hall :=
  { t.extendHall h g with phase := .growing g, metaPos := List.replicate h.members.length 0, metaOut := [] }

theorem State.growHall_grows (room : t.roomToGrow h g = true) (heat : t.heatFull h g = false) :
    t.growHall m n h g = ((t.putHall n (t.growingHall h g)).setSteps h.members).goesOn m :=
  (if_neg (ne_true_of_eq_false (congrArg not room))).trans (if_neg (ne_true_of_eq_false heat))

end

end

/-! ## `HALL_RELEASE` and `HALL_QUERY` -/

section
variable {s : State} {m : MailboxId}

theorem exec_hallRelease (begins : Begins s m 0x0404) (awake : Awake s) : exec (.hallRelease m) s = .next (s.hallRelease m).pump :=
  amiom_of_awake (fun s => s.hallRelease m) begins awake (by decide)

theorem State.hallRelease_unknown (gone : s.hall (fld ((s.box m).word 2) 9 0) = none) : s.hallRelease m = s.finishS m .notFound := by
  simp [State.hallRelease, gone]

theorem State.hallRelease_known (known : s.hall (fld ((s.box m).word 2) 9 0) ≠ none) :
    s.hallRelease m = (s.defer (.releaseWindows (fld ((s.box m).word 2) 9 0))).goesOn m := by
  obtain ⟨h, here⟩ := Option.ne_none_iff_exists'.1 known
  simp [State.hallRelease, here]

theorem exec_hallQuery (begins : Begins s m 0x0405) : exec (.hallQuery m) s = .next (s.hallQuery m).pump :=
  amiom_of_begins (fun s => s.hallQuery m) begins (by decide) (by decide)

theorem State.hallQuery_unknown (gone : (s.seen m).hallStands (fld ((s.box m).word 2) 9 0) = false) :
    s.hallQuery m = s.finishS m .notFound := by
  simp [State.hallQuery, gone]

/-- A query answers what it saw: the flags, set, size, attributes and epoch of the hall, and four words more (R472). -/
theorem State.hallQuery_known {h : Hall} (stands : (s.seen m).hallStands (fld ((s.box m).word 2) 9 0) = true)
    (here : (s.seen m).hall (fld ((s.box m).word 2) 9 0) = some h) :
    ∃ flags low high windows pass pay, s.hallQuery m = s.finish m .ok
      [flags, at_ 0 h.set.toNat, at_ 0 h.size, h.attrs, at_ 0 ((s.seen m).epoch (fld ((s.box m).word 2) 9 0)), low, high, windows, pass] pay := by
  unfold State.hallQuery
  simp only [stands, here, if_true]
  exact ⟨_, _, _, _, _, _, rfl⟩

end

/-! ## `HALL_KEY_LOAD` -/

section
variable {s : State} {m : MailboxId} {h : Hall}

theorem exec_hallKeyLoad (begins : Begins s m 0x0406) (awake : Awake s) : exec (.hallKeyLoad m) s = .next (s.hallKeyLoad m).pump :=
  amiom_of_awake (fun s => s.hallKeyLoad m) begins awake (by decide)

theorem State.hallKeyLoad_unknown (gone : s.hallStands (fld ((s.box m).word 2) 9 0) = false) : s.hallKeyLoad m = s.finishS m .notFound := by
  simp [State.hallKeyLoad, gone]

section
variable (stands : s.hallStands (fld ((s.box m).word 2) 9 0) = true) (here : s.hall (fld ((s.box m).word 2) 9 0) = some h)
include stands here

theorem State.hallKeyLoad_needless (needless : h.enc = false ∨ h.keyLoaded = true) : s.hallKeyLoad m = s.finishS m .badState := by
  have refused : (!h.enc || h.keyLoaded) = true := by simpa using needless
  simp only [State.hallKeyLoad, stands, here, if_true, refused]

variable (enc : h.enc = true) (unkeyed : h.keyLoaded = false)
include enc unkeyed

theorem State.hallKeyLoad_badLength (bad : (s.box m).plen ≠ 104) : s.hallKeyLoad m = s.finishS m .badParam := by
  simp [State.hallKeyLoad, stands, here, enc, unkeyed, bad]

variable (sized : (s.box m).plen = 104)
include sized

theorem State.hallKeyLoad_unwrapped_none (none : s.unwrap (s.box m).payload = none) : s.hallKeyLoad m = s.finishS m .badKey := by
  simp [State.hallKeyLoad, stands, here, enc, unkeyed, sized, none]

/-- A key that unwraps is taken where it is the one of the hall's check word (R363). -/
theorem State.hallKeyLoad_unwrapped {key : List Byte} (unwrapped : s.unwrap (s.box m).payload = some key) :
    s.hallKeyLoad m = if keyCheck key ≠ h.check then s.finishS m .badKey
      else ((s.putHall (fld ((s.box m).word 2) 9 0) { h with key := key, keyLoaded := true }).defer
        (.activateHall (fld ((s.box m).word 2) 9 0))).finishS m .ok := by
  simp [State.hallKeyLoad, stands, here, enc, unkeyed, sized, unwrapped]

end

end

end Sys2Proof.Machine

section
open Sys2Proof Sys2Proof.Machine Sys2Proof.Slice

/-- Settles O57: every command begins (`amiom_of_begins`, `amiom_of_awake`) and answers by its outcome; a creation leaves
`State.createdHall`, a growth `State.growingHall`. -/
theorem hallCommandsHaveTheirEffect : Obligations.HallCommandsHaveTheirEffect := by
  unfold Obligations.HallCommandsHaveTheirEffect
  refine ⟨?kek, ?create, ?resize, ?release, ?query, ?key⟩
  case kek =>
    intro s m begins
    rw [exec_kekLoad begins]
    refine ⟨fun locked => ?_, fun unlocked bad => ?_, fun unlocked good => ?_⟩
    · rw [State.kekLoad_locked locked]; rfl
    · rw [State.kekLoad_unlocked unlocked, if_pos bad]; rfl
    · rw [State.kekLoad_unlocked unlocked, if_neg (not_not.2 good)]; rfl
  case create =>
    intro s m begins awake
    rw [exec_hallCreate begins awake]
    refine ⟨fun x taken => ?_, fun free bad => ?_, fun free good => ⟨fun full => ?_, fun room => ⟨fun noHeat => ?_, fun heat => ?_⟩⟩⟩
    · rw [State.hallCreate_taken taken]; rfl
    · rw [State.hallCreate_badProperties free bad]; rfl
    · rw [State.hallCreate_noRoom free good full]; rfl
    · rw [State.hallCreate_noHeat free good room noHeat]; rfl
    · obtain ⟨runs, heated⟩ := Option.ne_none_iff_exists'.1 heat
      refine ⟨_, rfl, ?_⟩
      change match s.newKey (s.box m) with
        | none => _
        | some key => _
      rcases keyed : s.newKey (s.box m) with _ | key
      · rw [State.hallCreate_badKey free good room heated keyed]
        exact ⟨rfl, rfl⟩
      · obtain ⟨boxes, hall⟩ := State.hallCreate_created free good room heated keyed
        have standing := s.createdHall_standing (s.box m).asksHall (s.box m).asksSize runs key
        simp only [Hall.properties, Prod.mk.injEq] at standing
        obtain ⟨phase, size, w, loaded, set, enc, integ, cmp, elastic, dl⟩ := standing
        exact ⟨boxes, _, hall, phase, size, set, w, enc, integ, cmp, elastic, dl, loaded,
          s.createdHall_ext_length _ _ _ _, s.createdHall_key _ _ _⟩
  case resize =>
    intro s m begins awake
    rw [exec_hallResize begins awake]
    refine ⟨fun gone => ?_, fun h stands here standing => ⟨fun bad => ?_, fun least even grows apart => ?_, fun least even => ⟨fun shrinks => ?_, fun same => ?_⟩⟩⟩
    · rw [State.hallResize_unknown gone]; rfl
    · rw [State.hallResize_badSize stands here standing bad]; rfl
    · rw [State.hallResize_sized stands here standing least even fun _ => apart, if_neg (Nat.ne_of_gt grows), if_pos grows]
      refine ⟨fun full => ?_, fun room heat => ?_⟩
      · rw [State.growHall_full (s.unresized _ h) m _ _ h.settled full]; rfl
      · rw [State.growHall_grows (s.unresized _ h) m _ _ h.settled room heat]
        obtain ⟨boxes, hall⟩ := State.putHall_goesOn (s.unresized (fld ((s.box m).word 2) 9 0) h) m (fld ((s.box m).word 2) 9 0)
          (State.growingHall (s.unresized (fld ((s.box m).word 2) 9 0) h) h.settled (fld ((s.box m).word 3) 15 0)) h.settled.members
        exact ⟨_, _, rfl, boxes.trans ((State.setSteps_onlyLandings _ _).boxesOn m), hall, rfl, rfl, rfl⟩
    · rw [State.hallResize_sized stands here standing least even fun grows => absurd grows (Nat.lt_asymm shrinks),
        if_neg (Nat.ne_of_lt shrinks), if_neg (Nat.lt_asymm shrinks)]
      rfl
    · rw [State.hallResize_sized stands here standing least even fun grows => absurd same (Nat.ne_of_gt grows), if_pos same]; rfl
  case release =>
    intro s m begins awake
    rw [exec_hallRelease begins awake]
    refine ⟨fun gone => ?_, fun known => ?_⟩
    · rw [State.hallRelease_unknown gone]; rfl
    · rw [State.hallRelease_known known]; rfl
  case query =>
    intro s m begins
    rw [exec_hallQuery begins]
    refine ⟨fun gone => ?_, fun h stands here => ?_⟩
    · rw [State.hallQuery_unknown gone]; rfl
    · obtain ⟨flags, low, high, windows, pass, pay, answer⟩ := State.hallQuery_known stands here
      rw [answer]
      exact ⟨_, pay, rfl, rfl, rfl, rfl, rfl, rfl⟩
  case key =>
    intro s m begins awake
    rw [exec_hallKeyLoad begins awake]
    refine ⟨fun gone => ?_, fun h stands here => ⟨fun needless => ?_, fun enc unkeyed bad => ?_, fun enc unkeyed sized => ?_⟩⟩
    · rw [State.hallKeyLoad_unknown gone]; rfl
    · rw [State.hallKeyLoad_needless stands here needless]; rfl
    · rw [State.hallKeyLoad_badLength stands here enc unkeyed bad]; rfl
    · rcases unwrapped : s.unwrap (s.box m).payload with _ | key
      · rw [State.hallKeyLoad_unwrapped_none stands here enc unkeyed sized unwrapped]; rfl
      · rw [State.hallKeyLoad_unwrapped stands here enc unkeyed sized unwrapped]
        dsimp only
        split <;> rfl

end

/-! SUPPORT. Zero lines (R115 to R117): a request of the block's own that reaches a Landing stands there as it came, and the line that a
member presents next. -/

namespace Sys2Proof.Machine

/-! ## A request of the block's own stands as it came -/

/-- The request has entered staging unchanged. -/
def Entered (a : Access) (l : List Access) : Prop := { a with entered := true } ∈ l

/-- What a refill keeps of a request of the block's own while the list `rest` has still to try: `Safe`, with all that the request carries. -/
def Remains (a : Access) (rest l : List Access) : Prop :=
  Entered a l ∨ (upstream a.id l).getLast? = some a ∧ rivals a rest < (upstream a.id l).length

/-- A request that enters staging leaves in place those that have entered. -/
theorem Entered.withPlace {s : State} {l : LandingId} {a : Access} (y : Access) {w : List Access} (h : Entered a w) :
    Entered a (s.withPlace l y w) := mem_modify_findIdx (by simp [upstreamOf]) h

/-- The requests of other numbers that wait upstream stay when one enters staging; of its own number the first goes. -/
theorem upstream_withPlace (s : State) (l : Nat) (y : Access) (n : Nat) (w : List Access) :
    upstream n (s.withPlace l y w) = if y.id = n then (upstream n w).tail else upstream n w := by
  have placed : upstreamOf n (s.entering l y) = false := by simp [upstreamOf, s.entering_entered l y]
  split
  next same =>
    subst same
    exact filter_modify_findIdx_tail placed w
  next other => exact filter_modify_findIdx_of_disjoint placed (by simp [upstreamOf]; omega) w

theorem Remains.enter {s : State} {l : LandingId} {a y : Access} {rest : List Access} (own : a.ofPort = false)
    (h : Remains a (y :: rest) (s.land l).arb.staging) : Remains a rest ((s.enterStaging l y).land l).arb.staging := by
  have fewer : rivals a rest ≤ rivals a (y :: rest) := (List.sublist_cons_self y rest).countP_le
  rcases s.enterStaging_staging l y with same | taken
  · rw [same]
    exact h.imp_right fun ⟨last, room⟩ => ⟨last, by omega⟩
  rw [taken]
  rcases h with entered | ⟨last, room⟩
  · exact .inl (entered.withPlace y)
  by_cases mine : y = a
  · subst mine
    refine .inl ?_
    rw [Entered, ← s.entering_of_not_ofPort l own]
    refine mem_modify_findIdx_new fun none => ?_
    rw [upstream, none] at last
    cases last
  refine .inr ?_
  rw [upstream_withPlace]
  split
  next named =>
    have counted : rivals a (y :: rest) = rivals a rest + 1 := by simp [rivals, named, mine]
    rw [List.getLast?_tail, List.length_tail, if_neg (by omega)]
    exact ⟨last, by omega⟩
  next => exact ⟨last, by omega⟩

theorem Remains.refill {l : LandingId} {a : Access} (own : a.ofPort = false) : ∀ (rest : List Access) {s : State},
    Remains a rest (s.land l).arb.staging → Remains a [] ((rest.foldl (fun s y => s.enterStaging l y) s).land l).arb.staging
  | [], _, h => h
  | _ :: rest, _, h => Remains.refill own rest (h.enter own)

/-- Of the last request of its number that waits, fewer rivals try than places wait. -/
theorem rivals_lt_upstream {a : Access} {w : List Access} (last : (upstream a.id w).getLast? = some a) :
    rivals a (((w.filter fun a => !a.entered).filter (·.isClaim)) ++ (w.filter fun a => !a.entered).filter fun a => !a.isClaim) <
      (upstream a.id w).length := by
  have order := List.filter_append_perm (fun a : Access => a.isClaim) (w.filter fun a => !a.entered)
  have counted : (w.filter fun a => !a.entered).countP (fun y => y.id == a.id && y != a) = (upstream a.id w).countP fun y => y != a := by
    simp [upstream, upstreamOf, List.countP_filter, Bool.and_assoc, Bool.and_comm]
  rw [rivals, order.countP_eq, counted, List.countP_lt_length_iff]
  exact ⟨a, List.mem_of_getLast? last, by simp⟩

/-- A request of the block's own that comes to a Landing stands there, in staging or upstream of it, with all that it carries (R127). -/
theorem State.stage_mem (s : State) (l : LandingId) {a : Access} (own : a.ofPort = false) :
    ∃ entered, { a with entered := entered } ∈ ((s.stage l a).land l).arb.staging := by
  have come : Remains { a with entered := false } [] ((s.stage l a).land l).arb.staging := by
    refine Remains.refill (a := { a with entered := false }) own _ (.inr ?_)
    rw [State.modArb_land_self]
    have last : (upstream a.id ((s.land l).arb.staging ++ [{ a with entered := false }])).getLast? = some { a with entered := false } := by
      simp [upstream, upstreamOf]
    exact ⟨last, rivals_lt_upstream (a := { a with entered := false }) last⟩
  rcases come with entered | ⟨last, -⟩
  · exact ⟨true, entered⟩
  · exact ⟨false, List.mem_of_mem_filter (List.mem_of_getLast? last)⟩

/-! ## The line that a member presents next -/

theorem idxOf?_getD {members : List Nat} {l slot : Nat} (member : members.idxOf? l = some slot) :
    slot < members.length ∧ members.getD slot 0 = l := by
  obtain ⟨inside, here, -⟩ := List.findIdx?_eq_some_iff_getElem.1 member
  exact ⟨inside, (List.getD_eq_getElem _ _ inside).trans (eq_of_beq here)⟩

/-- The lines that a member zeroes are its own (R113, R115). -/
theorem Hall.homeSpot_zeroOff {h : Hall} {l slot : Nat} (member : h.members.idxOf? l = some slot) (pos : Nat) :
    (h.homeSpot (h.zeroOff slot pos)).l = l := by
  obtain ⟨inside, here⟩ := idxOf?_getD member
  have line : h.zeroOff slot pos / 64 * 64 = h.zeroOff slot pos := by
    unfold Hall.zeroOff chunkOffset
    omega
  change (interleave h.members h.ext (h.zeroOff slot pos / 64 * 64)).1 = l
  rw [line, Hall.zeroOff, interleave_chunkOffset _ _ _ inside (by omega), here]

/-- The request that zeroes a line of a hall. -/
def Hall.zeroLine (h : Hall) (n off : Nat) (stamp : BitVec 32) (id : Nat) : Access :=
  { access id (.zero n) 11 stamp .write (h.homeSpot off).addr with
    hall := some n, tagAt := (h.homeSpot off).tagAt, off := off, ready := true }

theorem State.stageZero_mem (s : State) (n : Nat) (h : Hall) (off : Nat) (stamp : BitVec 32) {l : LandingId} (here : (h.homeSpot off).l = l) :
    ∃ id entered, { h.zeroLine n off stamp id with entered := entered } ∈ ((s.stageZero n h off stamp).land l).arb.staging := by
  unfold State.stageZero
  dsimp only
  rw [here]
  exact ⟨_, State.stage_mem _ l rfl⟩

/-- Without ahead regions no line is passed over. -/
theorem State.nextZero_of_no_ahead {s : State} (none : s.ahead = []) (n : Nat) (h : Hall) (slot fuel pos : Nat) :
    s.nextZero n h slot fuel pos = pos := by
  cases fuel with
  | zero => rfl
  | succ fuel => simp [State.nextZero, State.aheadOf, none]

/-- A hall being released, and a member whose Landing does not serve, have no line to zero (R120, R115). -/
theorem State.zeroNext_resting {s : State} {l n : Nat} {h : Hall} (here : s.hall n = some h)
    (rests : h.phase = .releasing ∨ s.mayZero l = false) : s.zeroNext l n = s := by
  have still : (h.phase == .releasing || !s.mayZero l) = true := by simpa using rests
  unfold State.zeroNext
  rw [here]
  dsimp only
  split
  · rfl
  · exact if_pos still

/-- The record of a hall whose member `slot` has presented the line at its position `pos`. -/
def Hall.presented (h : Hall) (slot pos : Nat) : Hall :=
  { h with zeroPos := modAt h.zeroPos slot fun _ => pos + 1, zeroOut := h.zeroOut ++ [h.zeroOff slot pos] }

/-- A ready hall without ahead regions presents its member's next line behind the watermark (R115). -/
theorem State.zeroNext_behind {s : State} {l n slot : Nat} {h : Hall} (here : s.hall n = some h) (member : h.members.idxOf? l = some slot)
    (ready : h.phase = .ready) (none : s.ahead = []) (may : s.mayZero l = true)
    (left : 64 * h.zeroPos.getD slot 0 < h.reach / max 1 h.members.length)
    (unfenced : s.spotFenced (h.homeSpot (h.zeroOff slot (h.zeroPos.getD slot 0))) = false) :
    s.zeroNext l n = (s.advanceW n h (h.presented slot (h.zeroPos.getD slot 0))).stageZero n h (h.zeroOff slot (h.zeroPos.getD slot 0))
      (beStamp s.now) := by
  have serves : (h.phase == .releasing || !s.mayZero l) = false := by simp [ready, may]
  have standing : h.zeroesMeta = false := by simp [Hall.zeroesMeta, ready]
  have more : (decide (h.reach / max 1 h.members.length ≤ 64 * h.zeroPos.getD slot 0) ||
      s.spotFenced (h.homeSpot (h.zeroOff slot (h.zeroPos.getD slot 0)))) = false := by
    rw [decide_eq_false (Nat.not_le.2 left), unfenced]
    rfl
  unfold State.zeroNext
  simp only [here, member, serves, none, List.find?_nil, standing, State.nextZero_of_no_ahead none, more, Bool.false_and]
  simp [ready, Hall.presented]

/-! ## The ahead table -/

theorem State.post_ahead (s : State) (type prio : Nat) (data : List W32) : (s.post type prio data).ahead = s.ahead := by
  obtain ⟨_, _, _, post⟩ := s.post_frame type prio data
  rw [post]

theorem State.advanceW_ahead (s : State) (n : Nat) (old new : Hall) : (s.advanceW n old new).ahead = s.ahead := by
  unfold State.advanceW State.advance
  dsimp only
  split
  · exact State.post_ahead _ _ _ _
  · rfl

theorem State.zeroTags_ahead (s : State) (n : Nat) (h : Hall) (region low : Nat) : (s.zeroTags n h region low).ahead = s.ahead := by
  unfold State.zeroTags
  split
  · rfl
  · exact eachBelow_proj State.ahead (by intro g s; rfl) 3 s

end Sys2Proof.Machine

section
open Sys2Proof Sys2Proof.Machine Sys2Proof.Slice

/-- Settles O29: the member's next line is `State.zeroNext_behind`, and it stands at the Landing by `State.stageZero_mem`. -/
theorem zeroingFillsLinesAndFreesEntries : Obligations.ZeroingFillsLinesAndFreesEntries := by
  unfold Obligations.ZeroingFillsLinesAndFreesEntries
  refine ⟨?next, ?rests, ?done, ?freed⟩
  case next =>
    intro s l n h slot here member ready none may p sp left unfenced
    have next := State.zeroNext_behind here member ready none may left unfenced
    obtain ⟨id, entered, stands⟩ := State.stageZero_mem (s.advanceW n h (h.presented slot p)) n h (h.zeroOff slot p) (beStamp s.now) (Hall.homeSpot_zeroOff member _)
    rw [← next] at stands
    refine ⟨s.zeroNext l n, { h.zeroLine n (h.zeroOff slot p) (beStamp s.now) id with entered := entered }, rfl, ?_,
      rfl, rfl, rfl, rfl, rfl, rfl, rfl, rfl, rfl, rfl⟩
    rw [Hall.homeSpot_zeroOff member]
    exact stands
  case rests =>
    intro s l n h here rests
    exact congrArg (fun s => Host.Outcome.next (State.pump s)) (State.zeroNext_resting here rests)
  case done =>
    intro s n region a h entry here zeroing idle
    refine ⟨State.advanceW (State.zeroTags { s with
      ahead := mapIf (fun e => e.hall == n.val && e.region == region) (fun e => { e with done := true }) s.ahead } n h region a.low) n h h,
      ?_, ?_⟩
    · change execAheadZeroingDone n region s = _
      simp [execAheadZeroingDone, entry, here, zeroing, idle]
    · rw [State.advanceW_ahead, State.zeroTags_ahead]
      simp [mapIf]
  case freed =>
    intro s n region a h entry here done passed
    change execAheadEntryFree n region s = _
    simp [execAheadEntryFree, entry, here, done, passed]

end

/-! SUPPORT. What carrying on the work that waits (`State.pump`) leaves alone: the repairs, the claims, Halt, the power state, the windows
and the epochs. One lemma per function, in the model's order. -/

namespace Sys2Proof.Machine

/-- What no request, descriptor, page move or lost tag line that goes on moves. -/
structure Unmoved where
  repairs : List Repair
  claims : List ClaimRec
  halted : Bool
  pwr : Pwr
  windows : List Window
  epochs : List (Nat × Nat)

/-- The unmoved part of a state. -/
def State.unmoved (s : State) : Unmoved := ⟨s.misc.repairs, s.misc.claims, s.chip.halted, s.pwr, s.windows, s.epochs⟩

/-! ## Parts of the state -/

/-- A state rebuilt around the same chip, windows, epochs, power state and `misc`. -/
@[simp ↓] theorem State.unmoved_mk (s : State) (pending cfg lands gals ports sent halls away ahead dma desc boxes eq arcade store flt blk shot
      shots) :
    (State.mk pending s.chip cfg lands gals ports sent halls s.epochs s.windows away ahead dma desc boxes eq arcade store s.pwr flt s.misc blk
      shot shots).unmoved = s.unmoved := rfl

@[simp ↓] theorem State.modLand_unmoved (s : State) (l : Nat) (f : Landing → Landing) : (s.modLand l f).unmoved = s.unmoved := rfl
@[simp ↓] theorem State.modArb_unmoved (s : State) (l : Nat) (f : Arb → Arb) : (s.modArb l f).unmoved = s.unmoved := rfl
@[simp ↓] theorem State.modSeq_unmoved (s : State) (l : Nat) (f : Seq → Seq) : (s.modSeq l f).unmoved = s.unmoved := rfl
@[simp ↓] theorem State.modGal_unmoved (s : State) (g : Nat) (f : Gallery → Gallery) : (s.modGal g f).unmoved = s.unmoved := rfl
@[simp ↓] theorem State.modPort_unmoved (s : State) (p : Nat) (f : Port → Port) : (s.modPort p f).unmoved = s.unmoved := rfl
@[simp ↓] theorem State.modTxn_unmoved (s : State) (p id : Nat) (f : Txn → Txn) : (s.modTxn p id f).unmoved = s.unmoved := rfl
@[simp ↓] theorem State.modCh_unmoved (s : State) (n : Nat) (f : Dma → Dma) : (s.modCh n f).unmoved = s.unmoved := rfl
@[simp ↓] theorem State.bumpL_unmoved (s : State) (l off n : Nat) : (s.bumpL l off n).unmoved = s.unmoved := rfl
@[simp ↓] theorem State.bumpG_unmoved (s : State) (g off n : Nat) : (s.bumpG g off n).unmoved = s.unmoved := rfl
@[simp ↓] theorem State.bumpB_unmoved (s : State) (a n : Nat) : (s.bumpB a n).unmoved = s.unmoved := rfl
@[simp ↓] theorem State.finish_unmoved (s : State) (m : Nat) (st : AStatus) (res : List W32) (pay : List Byte) :
    (s.finish m st res pay).unmoved = s.unmoved := rfl
@[simp ↓] theorem State.finishS_unmoved (s : State) (m : Nat) (st : AStatus) : (s.finishS m st).unmoved = s.unmoved := rfl
@[simp ↓] theorem State.history_unmoved (s : State) (r : Record) : (s.history r).unmoved = s.unmoved := rfl
@[simp ↓] theorem State.fresh_unmoved (s : State) : s.fresh.2.unmoved = s.unmoved := rfl
@[simp ↓] theorem State.draw_unmoved (s : State) (e : Nat) : (s.draw e).2.unmoved = s.unmoved := rfl
@[simp ↓] theorem State.putHall_unmoved (s : State) (h : Nat) (x : Hall) : (s.putHall h x).unmoved = s.unmoved := rfl

/-- A change of `misc` that leaves the repairs and the claims. -/
@[simp ↓] theorem State.modMisc_unmoved (s : State) (f : Misc → Misc) (repairs : ∀ m, (f m).repairs = m.repairs)
    (claims : ∀ m, (f m).claims = m.claims) : (s.modMisc f).unmoved = s.unmoved := by
  simp [State.unmoved, State.modMisc, repairs, claims]

theorem OnlyReported.unmoved {s t : State} (h : OnlyReported s t) : t.unmoved = s.unmoved := by
  obtain ⟨_, _, _, _, _, _, _, rfl⟩ := h
  rfl

theorem OnlyPorts.unmoved {s t : State} (h : OnlyPorts s t) : t.unmoved = s.unmoved := by
  obtain ⟨_, _, rfl⟩ := h
  rfl

/-! ## Choices and folds -/

@[simp ↓] theorem ite_unmoved {c : Prop} [Decidable c] (a b : State) : (if c then a else b).unmoved = if c then a.unmoved else b.unmoved :=
  apply_ite State.unmoved c a b

@[simp ↓] theorem ite_fst_unmoved {α : Type} {c : Prop} [Decidable c] (a b : State × α) :
    (if c then a else b).1.unmoved = if c then a.1.unmoved else b.1.unmoved := apply_ite (fun x : State × α => x.1.unmoved) c a b

@[simp ↓] theorem ite_snd_unmoved {α : Type} {c : Prop} [Decidable c] (a b : α × State) :
    (if c then a else b).2.unmoved = if c then a.2.unmoved else b.2.unmoved := apply_ite (fun x : α × State => x.2.unmoved) c a b

@[simp ↓] theorem foldl_unmoved {α : Type} {f : State → α → State} (h : ∀ s x, (f s x).unmoved = s.unmoved) (l : List α) (s : State) :
    (l.foldl f s).unmoved = s.unmoved := foldl_proj State.unmoved h l s

@[simp ↓] theorem eachBelow_unmoved (n : Nat) (f : Nat → State → State) (s : State) (h : ∀ i s, (f i s).unmoved = s.unmoved) :
    (eachBelow n f s).unmoved = s.unmoved := eachBelow_proj State.unmoved h n s

/-- The state of a pair is as it was. -/
def SecondStays {α : Type} (s : State) (r : α × State) : Prop := r.2.unmoved = s.unmoved

/-- The state of a pair is as it was. -/
def FirstStays {α : Type} (s : State) (r : State × α) : Prop := r.1.unmoved = s.unmoved

theorem FirstStays.ite {α : Type} {s : State} {c : Prop} [Decidable c] {a b : State × α} (ha : FirstStays s a) (hb : FirstStays s b) :
    FirstStays s (if c then a else b) := by
  split
  · exact ha
  · exact hb

/-! ## Responses -/

@[simp ↓] theorem State.report_unmoved (s : State) (r : Rep) (grain : Nat) : (s.report r grain).unmoved = s.unmoved :=
  (s.report_onlyReported r grain).unmoved

@[simp ↓] theorem State.countLate_unmoved (s : State) (p : Nat) (t : Txn) : (s.countLate p t).unmoved = s.unmoved := by
  unfold State.countLate
  dsimp only
  split
  · rfl
  · split
    · rfl
    · simp [(State.status1Hold_onlyReported _ 2).unmoved]

@[simp ↓] theorem State.send_unmoved (s : State) (p : Nat) (t : Txn) (r : Resp) : (s.send p t r).unmoved = s.unmoved := by simp [State.send]

@[simp ↓] theorem State.trySend_unmoved (s : State) (p n : Nat) : (s.trySend p n).unmoved = s.unmoved := by
  induction n generalizing s with
  | zero => rfl
  | succ n ih =>
    unfold State.trySend
    split
    · rfl
    · split
      · rfl
      · rw [ih, State.send_unmoved]

@[simp ↓] theorem State.form_unmoved (s : State) (p id : Nat) (st : Status) (poison : Bool) (data : BitVec 512) :
    (s.form p id st poison data).unmoved = s.unmoved := by
  unfold State.form
  split
  · rfl
  · split
    · rfl
    · exact State.trySend_unmoved _ _ _

@[simp ↓] theorem State.formS_unmoved (s : State) (p id : Nat) (st : Status) : (s.formS p id st).unmoved = s.unmoved :=
  s.form_unmoved p id st _ 0

/-! ## Lines and metadata -/

theorem State.enterStaging_unmoved (s : State) (l : Nat) (a : Access) : (s.enterStaging l a).unmoved = s.unmoved := by
  rcases s.enterStaging_cases l a with same | placed
  · rw [same]
  · exact placed.unmoved

@[simp ↓] theorem State.stage_unmoved (s : State) (l : Nat) (a : Access) : (s.stage l a).unmoved = s.unmoved :=
  State.refill_proj State.unmoved State.enterStaging_unmoved _ l

@[simp ↓] theorem State.touch_unmoved (s : State) (g : Nat) (k : MetaKind) (lpa : Nat) : (s.touch g k lpa).unmoved = s.unmoved := rfl

@[simp ↓] theorem State.writeBack_unmoved (s : State) (g : Nat) (c : CacheLine) : (s.writeBack g c).unmoved = s.unmoved := by
  simp [State.writeBack, State.ownWrite, State.ownPut]

@[simp ↓] theorem State.editMeta_unmoved (s : State) (g : Nat) (k : MetaKind) (lpa : Nat) (f : BitVec 512 → BitVec 512) :
    (s.editMeta g k lpa f).unmoved = s.unmoved := by rw [State.editMeta, State.modGal_unmoved]

@[simp ↓] theorem State.needMeta_unmoved (s : State) (g : Nat) (k : MetaKind) (lpa : Nat) (hall : Option Nat) (stamp : BitVec 32) (dl : Bool)
    (req : Nat) : (s.needMeta g k lpa hall stamp dl req).2.unmoved = s.unmoved := by
  unfold State.needMeta State.issueFetch
  dsimp only
  split <;> simp

/-! ## Heat and the page map -/

@[simp ↓] theorem State.hotCheck_unmoved (s : State) (g n p : Nat) : (s.hotCheck g n p).unmoved = s.unmoved := by
  fun_cases State.hotCheck s g n p <;> rfl

@[simp ↓] theorem State.raiseHeat_unmoved (s : State) (g lpa : Nat) (a : HeatAt) : (s.raiseHeat g lpa a).unmoved = s.unmoved := by
  unfold State.raiseHeat
  split <;> rfl

@[simp ↓] theorem State.sampleAt_unmoved (s : State) (g n : Nat) (h : Hall) (p : Nat) (read : Bool) :
    (s.sampleAt g n h p read).unmoved = s.unmoved := by
  have spots (l : List HeatAt) (f : State → HeatAt → State) (hf : ∀ s a, (f s a).unmoved = s.unmoved) :
      (if read then (l.foldl f s).hotCheck g n p else l.foldl f s).unmoved = s.unmoved := by
    split <;> simp [hf]
  unfold State.sampleAt
  dsimp only
  split
  · rfl
  · split
    · rfl
    · exact spots _ _ fun s a => by split <;> simp

@[simp ↓] theorem State.heatSample_unmoved (s : State) (n : Nat) (h : Hall) (off req : Nat) (read : Bool) :
    (s.heatSample n h off req read).unmoved = s.unmoved := by simp [State.heatSample]

@[simp ↓] theorem State.countResv_unmoved (s : State) (n p g : Nat) (d : Int) : (s.countResv n p g d).unmoved = s.unmoved := by
  fun_cases State.countResv s n p g d <;> rfl

@[simp ↓] theorem State.setPageEntry_unmoved (s : State) (h : Hall) (p : Nat) (e : PageEntry) : (s.setPageEntry h p e).unmoved = s.unmoved := by
  simp [State.setPageEntry]

@[simp ↓] theorem State.startFence_unmoved (s : State) (f : Fence) : (s.startFence f).unmoved = s.unmoved := by
  unfold State.startFence
  split <;> rfl

/-- A report below class F brings no Halt. -/
theorem State.raise_unmoved (s : State) {r : Rep} (f : Option Fence) (below : r.cls ≠ 3) : (s.raise r f).unmoved = s.unmoved := by
  unfold State.raise
  split
  · exact s.report_unmoved r _
  · dsimp only
    split <;> simp

@[simp ↓] theorem State.decodeError_unmoved (s : State) (g kind n p seg : Nat) : (s.decodeError g kind n p seg).unmoved = s.unmoved := by
  unfold State.decodeError
  dsimp only
  rw [State.raise_unmoved _ _ (show srcClass 11 1 ≠ 3 by decide)]
  rfl

@[simp ↓] theorem State.countPage_unmoved (s : State) (n p g : Nat) (dPool dCmp : Int) :
    (s.countPage n p g dPool dCmp).unmoved = s.unmoved := by
  unfold State.countPage State.modHall
  split <;> rfl

@[simp ↓] theorem State.unreserve_unmoved (s : State) (g n p : Nat) : (s.unreserve g n p).unmoved = s.unmoved := by
  unfold State.unreserve
  split
  · rfl
  · exact s.countResv_unmoved n p g (-1)

theorem State.losePage_unmoved (s : State) (n p : Nat) (h : Hall) : (s.losePage n p h).unmoved = s.unmoved := by
  have away (u : State) : ((u.setAway n p lostEntry).dropDecoded (h.home p) n p).unmoved = u.unmoved := rfl
  unfold State.losePage
  dsimp only
  split
  · rw [State.unreserve_unmoved, State.countPage_unmoved, away, State.setPageEntry_unmoved]
  · rw [State.countPage_unmoved, away, State.setPageEntry_unmoved]

/-- The branches are read off the unapplied definition, as for `State.soundEntry_kept`. -/
@[simp ↓] theorem State.soundEntry_unmoved (s : State) (h : Hall) (n p : Nat) : (s.soundEntry h n p).2.unmoved = s.unmoved := by
  suffices SecondStays s (s.soundEntry h n p) from this
  have lost : (((s.losePage n p h).bumpG (h.home p) 0x403C 1).decodeError (h.home p) 8 n p 0).unmoved = s.unmoved := by
    rw [State.decodeError_unmoved, State.bumpG_unmoved, State.losePage_unmoved]
  generalize hf : @State.soundEntry = f
  delta State.soundEntry at hf
  subst hf
  beta_reduce
  generalize State.entryOf = entry
  split
  · rfl
  · split
    · rfl
    · exact lost

/-! ## Routing -/

@[simp ↓] theorem State.askMeta_unmoved (s : State) (k : Ask) (kind : MetaKind) (lpa : Nat) (stamp : BitVec 32) (dl : Bool) :
    (s.askMeta k kind lpa stamp dl).2.unmoved = s.unmoved := by
  unfold State.askMeta
  dsimp only
  split <;> simp

@[simp ↓] theorem State.placeSeq_unmoved (s : State) (k : Ask) (l addr : Nat) (active : Bool) :
    (s.placeSeq k l addr active).unmoved = s.unmoved := by
  fun_cases State.placeSeq s k l addr active <;> rfl

@[simp ↓] theorem State.stageAt_unmoved (s : State) (k : Ask) (sp : Spot) (h : Hall) : (s.stageAt k sp h).1.unmoved = s.unmoved := by
  unfold State.stageAt
  dsimp only
  split
  · rfl
  · simp only [State.stage_unmoved, State.fresh_unmoved, State.placeSeq_unmoved, ite_unmoved, State.heatSample_unmoved, ite_self]
    split
    · rw [ite_unmoved, State.askMeta_unmoved, ite_self]
    · rfl

theorem State.lockHome_unmoved {s t : State} {k : Ask} {h : Hall} (ht : s.lockHome k h = some t) : t.unmoved = s.unmoved := by
  unfold State.lockHome at ht
  dsimp only at ht
  (repeat' split at ht) <;> cases ht <;> simp

theorem State.fetchSegment_unmoved {s t : State} {g n : Nat} {h : Hall} {p : Nat} {e : PageEntry} {seg : Nat} {stamp acc : BitVec 32}
    {dl : Bool} {req : Nat} {join : SegFetch → SegFetch} (ht : s.fetchSegment g n h p e seg stamp acc dl req join = some t) :
    t.unmoved = s.unmoved := by
  unfold State.fetchSegment at ht
  dsimp only at ht
  split at ht
  · cases ht
  · rw [← Option.some.inj ht, foldl_unmoved]
    · rfl
    · intro s sp
      split <;> simp

@[simp ↓] theorem State.readCompressed_unmoved (s : State) (k : Ask) (h : Hall) (g p : Nat) (e : PageEntry) :
    (s.readCompressed k h g p e).1.unmoved = s.unmoved := by
  unfold State.readCompressed
  dsimp only
  split
  · simp
  · split
    · simp [State.modSeg]
    · split
      · next t ht => simpa using State.fetchSegment_unmoved ht
      · simp

@[simp ↓] theorem State.awaitPromotion_unmoved (s : State) (k : Ask) (h : Hall) (g p : Nat) (e : PageEntry) :
    (s.awaitPromotion k h g p e).1.unmoved = s.unmoved := by
  fun_cases State.awaitPromotion s k h g p e <;> rfl

/-- The branches are read off the unapplied definition, as for `State.soundEntry_kept`. -/
@[simp ↓] theorem State.routeMapped_unmoved (s : State) (k : Ask) (h : Hall) : (s.routeMapped k h).1.unmoved = s.unmoved := by
  suffices FirstStays s (s.routeMapped k h) from this
  generalize hf : @State.routeMapped = f
  delta State.routeMapped at hf
  subst hf
  beta_reduce
  extract_lets p g lpa
  split
  · rfl
  have asked := State.askMeta_unmoved s k .pageMap lpa k.stamp k.dl
  generalize s.askMeta k .pageMap lpa k.stamp k.dl = r at asked ⊢
  obtain ⟨hit, t⟩ := r
  have read : (if hit then t.soundEntry h k.hall p else (none, t)).2.unmoved = s.unmoved := by
    split
    · exact (State.soundEntry_unmoved t h k.hall p).trans asked
    · exact asked
  dsimp only
  generalize (if hit then t.soundEntry h k.hall p else (none, t)) = r at read ⊢
  obtain ⟨e, u⟩ := r
  dsimp only at read
  cases e with
  | none => exact read
  | some e =>
    have stay (x : Routed) : FirstStays s (u, x) := read
    have plain (sp : Spot) : FirstStays s (u.stageAt k sp h) := (State.stageAt_unmoved u k sp h).trans read
    have promo : FirstStays s (u.awaitPromotion k h g p e) := (State.awaitPromotion_unmoved u k h g p e).trans read
    refine .ite (plain _) (.ite ?lost (.ite (.ite (stay _) (plain _)) (.ite (stay _) (.ite (stay _) (.ite (stay _) (.ite (stay _)
      (.ite ?locked promo)))))))
    case lost =>
      split
      · exact stay _
      · exact stay _
      · exact promo
    case locked =>
      split
      next v hv => exact (State.readCompressed_unmoved v k h g p e).trans ((State.lockHome_unmoved hv).trans read)
      next => exact stay _

@[simp ↓] theorem State.routeAsk_unmoved (s : State) (k : Ask) : (s.routeAsk k).1.unmoved = s.unmoved := by
  fun_cases State.routeAsk s k <;> simp

/-! ## The Control Processor, the ports and the DMA channels -/

@[simp ↓] theorem State.cpuEnds_unmoved (s : State) (w : Nat) (r : Arrival) : (s.cpuEnds w r).unmoved = s.unmoved := by
  unfold State.cpuEnds
  split
  · rfl
  · next k _ => cases k.mailbox <;> cases r <;> rfl

@[simp ↓] theorem State.cpuIssue_unmoved (s : State) (w : CpuWork) : (s.cpuIssue w).unmoved = s.unmoved := by
  unfold State.cpuIssue
  dsimp only
  (repeat' split) <;> simp

@[simp ↓] theorem State.cpuPump_unmoved (s : State) : s.cpuPump.unmoved = s.unmoved := by simp [State.cpuPump]

@[simp ↓] theorem State.routeTxn_unmoved (s : State) (p : Nat) (t : Txn) : (s.routeTxn p t).unmoved = s.unmoved := by
  unfold State.routeTxn State.closeBroken State.excuse
  dsimp only
  (repeat' split) <;> simp

@[simp ↓] theorem State.pumpPort_unmoved (s : State) (p : Nat) : (s.pumpPort p).unmoved = s.unmoved := by
  unfold State.pumpPort
  split
  · rfl
  · exact foldl_unmoved (fun s id => by split <;> simp) _ s

@[simp ↓] theorem State.dmaArrive_unmoved (s : State) (ch : Nat) (wr : Bool) (i : Nat) (a : Arrival) :
    (s.dmaArrive ch wr i a).unmoved = s.unmoved := rfl

@[simp ↓] theorem State.dmaIssueLine_unmoved (s : State) (ch : Nat) (r : DmaRun) (wr : Bool) (i : Nat) (ln : DmaLine) :
    (s.dmaIssueLine ch r wr i ln).unmoved = s.unmoved := by
  unfold State.dmaIssueLine
  dsimp only
  (repeat' split) <;> simp

@[simp ↓] theorem State.dmaPump_unmoved (s : State) (ch : Nat) : (s.dmaPump ch).unmoved = s.unmoved := by
  unfold State.dmaPump
  dsimp only
  split
  · rfl
  split
  · rfl
  rw [foldl_unmoved, foldl_unmoved, foldl_unmoved]
  · intro s i
    split
    · rfl
    · split <;> simp
  · intro s i
    split <;> simp
  · intro s i
    split
    · rfl
    split
    · split
      · rfl
      · split <;> simp
    · rfl

/-! ## Page moves and lost tag lines -/

@[simp ↓] theorem State.putPool_unmoved (s : State) (g f : Nat) (e : PoolEntry) : (s.putPool g f e).unmoved = s.unmoved := by
  simp [State.putPool]

@[simp ↓] theorem State.markIncomp_unmoved (s : State) (n p : Nat) : (s.markIncomp n p).unmoved = s.unmoved := by
  fun_cases State.markIncomp s n p <;> simp

@[simp ↓] theorem State.abandonMove_unmoved (s : State) (g id : Nat) : (s.abandonMove g id).unmoved = s.unmoved := rfl
@[simp ↓] theorem State.modMove_unmoved (s : State) (g id : Nat) (f : Move → Move) : (s.modMove g id f).unmoved = s.unmoved := rfl

@[simp ↓] theorem State.dropMove_unmoved (s : State) (g : Nat) (m : Move) : (s.dropMove g m).unmoved = s.unmoved := by
  have dropped (u : State) : (u.dropMoveAccesses g m.id).unmoved = u.unmoved := eachBelow_unmoved 12 _ u fun _ _ => rfl
  simp [State.dropMove, State.freeAlcoves, dropped]

@[simp ↓] theorem State.stageMove_unmoved (s : State) (g : Nat) (m : Move) (i : Nat) (op : AccOp) (sp : Spot) (data : BitVec 512)
    (poison : Bool) : (s.stageMove g m i op sp data poison).unmoved = s.unmoved := by
  unfold State.stageMove
  split <;> simp

@[simp ↓] theorem State.encodeMove_unmoved (s : State) (g : Nat) (m : Move) : (s.encodeMove g m).unmoved = s.unmoved := by
  unfold State.encodeMove State.takeAlcoves
  dsimp only
  (repeat' split) <;> simp

@[simp ↓] theorem State.writePromotion_unmoved (s : State) (g : Nat) (m : Move) : (s.writePromotion g m).unmoved = s.unmoved := by
  unfold State.writePromotion
  split <;> simp

@[simp ↓] theorem State.moveOn_unmoved (s : State) (g id : Nat) : (s.moveOn g id).unmoved = s.unmoved := by
  fun_cases State.moveOn s g id <;> simp

@[simp ↓] theorem State.movePump_unmoved (s : State) : s.movePump.unmoved = s.unmoved := by simp [State.movePump]

@[simp ↓] theorem State.unlockLine_unmoved (s : State) (l addr : Nat) (mine : LockCause → Bool) :
    (s.unlockLine l addr mine).unmoved = s.unmoved := by rw [State.unlockLine, State.modArb_unmoved, State.modSeq_unmoved]

@[simp ↓] theorem State.tagLossStep_unmoved (s : State) (g : Nat) (e : LostTag) : (s.tagLossStep g e).unmoved = s.unmoved := by
  unfold State.tagLossStep
  dsimp only
  (repeat' split) <;> simp

@[simp ↓] theorem State.tagLosses_unmoved (s : State) : s.tagLosses.unmoved = s.unmoved := by simp [State.tagLosses]

/-- What goes on moves no repair, no claim, no window and no epoch, and brings neither Halt nor a power transition. -/
@[simp ↓] theorem State.pump_unmoved (s : State) : s.pump.unmoved = s.unmoved := by simp [State.pump]

end Sys2Proof.Machine

/-! SUPPORT. A state in which lifting a row fence at the end of a repair brings Halt: the counterexample of O51. -/

namespace Sys2Proof.Machine

/-- Writing a repair's lines back moves no repair. -/
@[simp ↓] theorem State.writeRow_unmoved (s : State) (r : Repair) : (s.writeRow r).unmoved = s.unmoved := by
  rw [State.writeRow, foldl_unmoved]
  intro s ln
  rw [State.stage_unmoved, State.fresh_unmoved]

theorem State.writeRow_repairs (s : State) (r : Repair) : (s.writeRow r).misc.repairs = s.misc.repairs :=
  congrArg Unmoved.repairs (s.writeRow_unmoved r)

/-- Where lifting the row's fence leaves no repair and the row takes writes, none is there when the lines go back. -/
theorem State.pprDone_repairs_of_lifted {s : State} {l : Nat} {r : Repair} (found : s.repairOf l = some r)
    (staged : (s.land l).seq.geom.rowLines ≤ r.staged.length) (back : r.back = none) (halted : s.chip.halted = false) (holdNs : Nat)
    (gone : (s.liftRow l r.coord).misc.repairs = []) (free : (s.liftRow l r.coord).writeBarred l r.coord = false) :
    (s.pprDone l true holdNs).misc.repairs = [] := by
  simp [State.pprDone, found, Nat.not_lt.mpr staged, back, halted, free, State.writeRow_repairs, State.modMisc, gone, mapIf]

/-! ## The counterexample -/

/-- The row under repair: row 5 of bank 0. -/
def doomedRow : Coord := { sub := 0, rank := 0, bg := 0, bank := 0, row := 5, col := 0 }

/-- A repair of mailbox 0 on Landing 0 with all 128 lines of the row staged. -/
def doomedRepair : Repair :=
  { mailbox := 0, landing := 0, coord := doomedRow, dev := 0, hard := false, serial := 0, own := true
    staged := List.replicate 128 (0, 0, false), back := none, left := [] }

/-- The shadow fence of the row. -/
def rowFence : Fence :=
  { id := 1, grain := .row, landing := 0, group := [0], coord := doomedRow, gallery := 0, port := 0, src := 0, time := 0, active := true
    settled := true, settledAt := 0, shadow := true, rows := [], noDrain := false }

/-- A level report of class F on the fenced row: it is repeated when the fence is lifted. -/
def fatalLevel : Rep := { rep 6 2 0 0 with cls := 3, land := some 0, coord := some doomedRow }

/-- The reset state with the repair, the fence of its row and the level report. -/
def doomed : State :=
  { State.reset with
    misc := { State.reset.misc with repairs := [doomedRepair] }
    flt := { State.reset.flt with fences := [rowFence], levels := [fatalLevel] } }

theorem doomed_repairOf : doomed.repairOf 0 = some doomedRepair := by decide +kernel

theorem doomed_staged : (doomed.land 0).seq.geom.rowLines ≤ doomedRepair.staged.length := by decide +kernel

theorem doomed_halted : doomed.chip.halted = false := by decide +kernel

/-- Lifting the fence repeats the report, which brings Halt, and Halt ends the repair. -/
theorem doomed_liftRow_repairs : (doomed.liftRow 0 doomedRepair.coord).misc.repairs = [] := by decide +kernel

/-- With its fence lifted the row takes writes. -/
theorem doomed_liftRow_writeBarred : (doomed.liftRow 0 doomedRepair.coord).writeBarred 0 doomedRepair.coord = false := by decide +kernel

/-- The repair is gone when its row has been programmed. -/
theorem doomed_pprDone_repairs : (doomed.pprDone 0 true 0).misc.repairs = [] :=
  State.pprDone_repairs_of_lifted doomed_repairOf doomed_staged rfl doomed_halted 0 doomed_liftRow_repairs doomed_liftRow_writeBarred

/-- States that go on to the same state hold the same repairs. -/
theorem State.repairs_eq_of_pump_eq {s t : State} (h : s.pump = t.pump) : s.misc.repairs = t.misc.repairs := by
  have eq := congrArg State.unmoved h
  rw [State.pump_unmoved, State.pump_unmoved] at eq
  exact congrArg Unmoved.repairs eq

end Sys2Proof.Machine

section
open Sys2Proof Sys2Proof.Machine Sys2Proof.Slice

/-- Refutes O51: in `doomed` a class F level report stands on the row under repair. `PPR_PROGRAM_DONE` lifts the row's fence, which repeats
the report and brings Halt (R515); Halt ends the repair, so none is left that could write its lines back, though the row takes writes again.
The statement has no premise that shuts this state out. We know of no run that reaches it: the levels that R515 keeps are not of class F by
their sources. The failing clause is the last; a premise that the lift leaves the block out of Halt is what it lacks. -/
theorem not_hallWorkCompletesItsCommand : ¬ Obligations.HallWorkCompletesItsCommand := by
  unfold Obligations.HallWorkCompletesItsCommand
  rintro ⟨-, -, -, repair⟩
  obtain ⟨-, freed⟩ := repair doomed 0 true 0 doomedRepair 0 doomed_repairOf rfl doomed_staged rfl doomed_halted
  obtain ⟨u, r, run, found, -⟩ := freed doomed_liftRow_writeBarred
  have same : (doomed.pprDone 0 true 0).pump = u.pump := Host.Outcome.next.inj run
  have gone : u.misc.repairs = [] := (State.repairs_eq_of_pump_eq same).symm.trans doomed_pprDone_repairs
  simp [State.repairOf, gone] at found

end

/-! SUPPORT. Stamps are ranked as the times are that they stand for (R130). -/

namespace Sys2Proof.Machine

/-- R130 in whole numbers. -/
theorem nearer_iff (a b : BitVec 32) : nearer a b = true ↔
    1 ≤ (b.toNat + 2 ^ 32 - a.toNat) % 2 ^ 32 ∧ (b.toNat + 2 ^ 32 - a.toNat) % 2 ^ 32 ≤ 2 ^ 31 - 1 := by
  have distance : (b - a).toNat = (b.toNat + 2 ^ 32 - a.toNat) % 2 ^ 32 := by
    rw [BitVec.toNat_sub]
    have := a.isLt
    omega
  rw [nearer, distance, Bool.and_eq_true, decide_eq_true_eq, decide_eq_true_eq, Nat.le_sub_one_iff_lt (by decide)]

/-- Between times that lie within 2^31 ns the stamps are ranked as the times are. -/
theorem nearer_ofNat_iff {t u : Nat} (ahead : t < u + 2 ^ 31) (behind : u < t + 2 ^ 31) :
    nearer (BitVec.ofNat 32 t) (BitVec.ofNat 32 u) = true ↔ t < u := by
  rw [nearer_iff, BitVec.toNat_ofNat, BitVec.toNat_ofNat]
  omega

end Sys2Proof.Machine

section
open Sys2Proof Sys2Proof.Machine Sys2Proof.Slice

/-- Settles O9: `nearer_iff` is the rule's range, and `nearer_ofNat_iff` ranks the stamps of times. -/
theorem stampsCompareInSerialArithmetic : Obligations.StampsCompareInSerialArithmetic :=
  ⟨nearer_iff, nearer_self, fun _ _ => nearer_ofNat_iff⟩

end

/-! SUPPORT. The reset of the Control Processor step by step: commands end, claims are released, repairs and open merges are broken, and the
processor's own work is forgotten (R142, R432, R464). -/

namespace Sys2Proof.Machine

/-! ## What ending the repairs leaves alone -/

/-- What reports, released claims and ended repairs leave alone: ports, halls, mailboxes and the Control Processor's work items. -/
structure CpSide where
  ports : Vector Port 9
  halls : List (Nat × Hall)
  boxes : Vector Mailbox 9
  work : List CpuWork

/-- That part of a state. -/
def State.cpSide (s : State) : CpSide := ⟨s.ports, s.halls, s.boxes, s.misc.cpuWork⟩

theorem OnlyReported.cpSide {s t : State} (h : OnlyReported s t) : t.cpSide = s.cpSide := by
  obtain ⟨_, _, _, _, _, _, _, rfl⟩ := h
  rfl

theorem State.drainRepair_misc (s : State) (r : Repair) : (s.drainRepair r).misc = s.misc :=
  foldl_proj State.misc (by intro s x; rfl) _ s

theorem State.drainRepair_cpSide (s : State) (r : Repair) : (s.drainRepair r).cpSide = s.cpSide :=
  foldl_proj State.cpSide (by intro s x; rfl) _ s

theorem State.dropRepair_cpSide (s : State) (r : Repair) : (s.dropRepair r).cpSide = s.cpSide := by
  unfold State.dropRepair
  rfl

theorem State.endRepairs_cpSide (s : State) : s.endRepairs.cpSide = s.cpSide :=
  foldl_proj State.cpSide (fun s r => (State.dropRepair_cpSide _ r).trans (s.drainRepair_cpSide r)) _ s

/-- The end of a repair may release a claim, and makes none. -/
theorem State.dropRepair_claims {s : State} (free : s.misc.claims = []) (r : Repair) : (s.dropRepair r).misc.claims = [] := by
  change (if r.own then s.misc.claims else s.misc.claims.filter _) = []
  rw [free, List.filter_nil, ite_self]

theorem State.endRepairs_claims {s : State} (free : s.misc.claims = []) : s.endRepairs.misc.claims = [] :=
  List.foldlRecOn (motive := fun t : State => t.misc.claims = []) _ _ free fun t ht r _ =>
    State.dropRepair_claims (by rw [State.drainRepair_misc, ht]) r

/-! ## The Control Processor's work is forgotten -/

/-- Work items end: ports, halls and claims stay, no item comes, and no mailbox answers where no item is a mailbox's. -/
structure WorkEnds (s t : State) : Prop where
  ports : t.ports = s.ports
  halls : t.halls = s.halls
  claims : t.misc.claims = s.misc.claims
  work : t.misc.cpuWork ⊆ s.misc.cpuWork
  boxes : (∀ w ∈ s.misc.cpuWork, w.mailbox = none) → t.boxes = s.boxes

theorem WorkEnds.refl (s : State) : WorkEnds s s := ⟨rfl, rfl, rfl, fun _ h => h, fun _ => rfl⟩

theorem WorkEnds.trans {s t u : State} (h : WorkEnds s t) (k : WorkEnds t u) : WorkEnds s u where
  ports := k.ports.trans h.ports
  halls := k.halls.trans h.halls
  claims := k.claims.trans h.claims
  work := List.Subset.trans k.work h.work
  boxes free := (k.boxes fun w hw => free w (h.work hw)).trans (h.boxes free)

/-- An access of the processor ends its work item; after a fault its command answers, or a note joins the history where there is none. -/
theorem State.cpuEnds_workEnds (s : State) (w : Nat) (r : Arrival) : WorkEnds s (s.cpuEnds w r) := by
  unfold State.cpuEnds
  split
  · exact .refl s
  next k found =>
    have listed : k ∈ s.misc.cpuWork := List.mem_of_find?_eq_some found
    have ended (d : BitVec 512) (fault : Bool) : WorkEnds s (s.modMisc fun m =>
        { m with cpuWork := m.cpuWork.filter (fun e => e.id != w), cpuData := d, cpuFault := fault }) :=
      ⟨rfl, rfl, rfl, List.filter_subset_self _, fun _ => rfl⟩
    have noted {t : State} (h : WorkEnds s t) : WorkEnds s (match k.mailbox with
        | some m => t.finishS m .failed
        | none => t.history (.background k.hall k.off)) := by
      split
      next m waits => exact ⟨h.ports, h.halls, h.claims, h.work, fun free => absurd (waits.symm.trans (free k listed)) nofun⟩
      next => exact ⟨h.ports, h.halls, h.claims, h.work, h.boxes⟩
    cases r with
    | data d => exact ended d false
    | ordered => exact ended 0 false
    | poison => exact noted (ended 0 true)
    | refused st => exact noted (ended 0 true)

theorem State.modArb_workEnds (s : State) (l : Nat) (f : Arb → Arb) : WorkEnds s (s.modArb l f) :=
  ⟨rfl, rfl, rfl, List.Subset.refl _, fun _ => rfl⟩

theorem State.modSeq_workEnds (s : State) (l : Nat) (f : Seq → Seq) : WorkEnds s (s.modSeq l f) :=
  ⟨rfl, rfl, rfl, List.Subset.refl _, fun _ => rfl⟩

theorem State.dropAccess_workEnds (s : State) (l id : Nat) : WorkEnds s (s.dropAccess l id) := by
  unfold State.dropAccess
  exact (s.modArb_workEnds l _).trans (State.modSeq_workEnds _ l _)

theorem State.unlockLine_workEnds (s : State) (l addr : Nat) (mine : LockCause → Bool) : WorkEnds s (s.unlockLine l addr mine) := by
  unfold State.unlockLine
  exact (s.modSeq_workEnds l _).trans (State.modArb_workEnds _ l _)

theorem State.deliver_of_cpu {a : Access} {w : Nat} (mine : a.client = .cpu w) (s : State) (l : Nat) (r : Arrival) :
    s.deliver l a r = s.cpuEnds w r := by
  unfold State.deliver
  rw [mine]

theorem State.refuseOne_workEnds (s : State) (l : Nat) {a : Access} {w : Nat} (st : Status) (mine : a.client = .cpu w) :
    WorkEnds s (s.refuseOne l a st) := by
  rw [State.refuseOne, State.deliver_of_cpu mine]
  exact ((s.dropAccess_workEnds l a.id).trans (State.unlockLine_workEnds _ l _ _)).trans (State.cpuEnds_workEnds _ w _)

/-- The processor's open merges are broken, and of its other work only the page-map lines are left (R142, R432). -/
theorem State.breakCpu_workEnds (s : State) :
    WorkEnds (s.modMisc fun m => { m with cpuWork := m.cpuWork.filter (·.mapLine) }) s.breakCpu := by
  unfold State.breakCpu
  extract_lets filtered mine
  unfold eachBelow
  refine foldl_related .refl .trans (fun s l => ?_) _ _
  refine List.foldlRecOn _ _ (.refl s) fun u hu a merge => hu.trans ?_
  have merges : mine a = true := (List.mem_filter.1 merge).2
  cases client : a.client with
  | cpu w => exact u.refuseOne_workEnds l _ client
  | _ => simp [mine, client] at merges

/-! ## The reset of the Control Processor -/

/-- A mailbox after the reset: a command rung or taken ends with FW_RESTART (R464). -/
def Mailbox.restarted (b : Mailbox) : Mailbox := if b.state = .pending ∨ b.state = .busy then b.finish .fwRestart [] [] else b

/-- The reset at one mailbox. -/
def State.restartBox (m : Nat) (s : State) : State :=
  if (s.box m).state = .pending ∨ (s.box m).state = .busy then s.finishS m .fwRestart else s

theorem State.restartBox_box_self (s : State) (m : MailboxId) : (s.restartBox m).box m = (s.box m).restarted := by
  unfold State.restartBox Mailbox.restarted
  split
  · exact s.finish_box_self m _ _ _
  · rfl

theorem State.restartBox_box_ne (s : State) {m k : Nat} (other : m ≠ k) : (s.restartBox m).box k = s.box k := by
  unfold State.restartBox
  split
  · exact s.finish_box_ne m k _ _ _ other
  · rfl

/-- The reset at every mailbox. -/
def State.restartBoxes (s : State) : State := eachBelow 9 State.restartBox s

theorem State.restartBoxes_box (s : State) (m : MailboxId) : s.restartBoxes.box m = (s.box m).restarted := by
  obtain ⟨u, before, own⟩ := eachBelow_own (fun s => s.box m) (fun _ s other => s.restartBox_box_ne other) s m.isLt
  exact own.trans ((u.restartBox_box_self m).trans (congrArg Mailbox.restarted before))

/-- What the end of a mailbox's command leaves alone, the reset of the mailboxes leaves alone. -/
theorem State.restartBoxes_proj {α : Type} (g : State → α) (h : ∀ s m, g (s.finishS m .fwRestart) = g s) (s : State) :
    g s.restartBoxes = g s := by
  refine eachBelow_proj g (fun m s => ?_) 9 s
  unfold State.restartBox
  split
  · exact h s m
  · rfl

/-- Every claim is released with event 19h (R464), and DISCOVER's mailbox is forgotten. -/
def State.releaseClaims (s : State) : State :=
  (s.misc.claims.foldl (fun s c => s.post 0x19 1 [c.word, c.held]) s).modMisc fun m =>
    { m with claims := [], discovery := { m.discovery with mailbox := none } }

theorem State.releaseClaims_cpSide (s : State) : s.releaseClaims.cpSide = s.cpSide :=
  foldl_proj State.cpSide (fun s _ => (s.post_onlyReported _ _ _).cpSide) s.misc.claims s

/-- The core starts again: the boot ROM runs, and the Record Store counts the reset. -/
def State.restartCore (s : State) : State :=
  let s := { s with store := { s.store with cpResets := satInc s.store.cpResets, changed := true } }
  s.modChip fun c => { c with fwReady := false, verified := none, bootBuf := [], status1Pulse := false }

/-- The reset in its steps. -/
theorem State.cpReset_steps (s : State) : s.cpReset = s.restartBoxes.releaseClaims.endRepairs.breakCpu.restartCore := by
  unfold State.cpReset
  extract_lets ended posted broken stored
  have boxes : ended = s.restartBoxes := rfl
  have work : broken = ended.releaseClaims.endRepairs.breakCpu := rfl
  rw [← boxes, ← work]
  rfl

/-- After the reset firmware does not run, no claim stands, and of the processor's work only page-map lines are left; ports and halls stay. -/
structure Restarted (s t : State) : Prop where
  fwReady : t.chip.fwReady = false
  verified : t.chip.verified = none
  claims : t.misc.claims = []
  work : ∀ w ∈ t.misc.cpuWork, w.mapLine = true
  ports : t.ports = s.ports
  halls : t.halls = s.halls
  boxes : (∀ w ∈ s.misc.cpuWork, w.mapLine = true → w.mailbox = none) → ∀ m : MailboxId, t.box m = (s.box m).restarted

theorem State.cpReset_restarted (s : State) : Restarted s s.cpReset := by
  rw [State.cpReset_steps]
  have ends := s.restartBoxes.releaseClaims.endRepairs.breakCpu_workEnds
  have side : s.restartBoxes.releaseClaims.endRepairs.cpSide = s.restartBoxes.cpSide :=
    (State.endRepairs_cpSide _).trans (State.releaseClaims_cpSide _)
  have free : s.restartBoxes.releaseClaims.endRepairs.misc.claims = [] := State.endRepairs_claims rfl
  generalize s.restartBoxes.releaseClaims.endRepairs = u at ends side free ⊢
  injection side with ports halls boxes work
  have asked : ∀ w ∈ u.misc.cpuWork.filter (·.mapLine), w ∈ s.misc.cpuWork ∧ w.mapLine = true := by
    rw [show u.misc.cpuWork = s.misc.cpuWork from work.trans (s.restartBoxes_proj (fun s => s.misc.cpuWork) fun _ _ => rfl)]
    exact fun w hw => List.mem_filter.1 hw
  generalize u.breakCpu = t at ends ⊢
  exact {
    fwReady := rfl
    verified := rfl
    claims := ends.claims.trans free
    work := fun w hw => (asked w (ends.work hw)).2
    ports := ends.ports.trans (ports.trans (s.restartBoxes_proj State.ports fun _ _ => rfl))
    halls := ends.halls.trans (halls.trans (s.restartBoxes_proj State.halls fun _ _ => rfl))
    boxes := by
      intro unasked m
      have same : t.boxes = s.restartBoxes.boxes :=
        (ends.boxes fun w hw => unasked w (asked w hw).1 (asked w hw).2).trans boxes
      refine Eq.trans ?_ (s.restartBoxes_box m)
      exact congrArg (fun b : Vector Mailbox 9 => (b[m.val]?).getD Mailbox.reset) same }

end Sys2Proof.Machine

section
open Sys2Proof Sys2Proof.Machine Sys2Proof.Slice

/-- Settles O17: the report moves neither mailboxes nor work (`State.raise_onlyReported`), and the reset is `State.cpReset_restarted`. -/
theorem watchdogRestartsFirmware : Obligations.WatchdogRestartsFirmware := by
  unfold Obligations.WatchdogRestartsFirmware
  intro s out on awake
  have runs : exec .watchdogExpiry s = .next (s.raise (rep 14 1 0 0) none).cpReset := if_pos ⟨out, on, awake⟩
  have reset := (s.raise (rep 14 1 0 0) none).cpReset_restarted
  have side := (s.raise_onlyReported (r := rep 14 1 0 0) (show srcClass 14 1 ≠ 3 by decide)).cpSide
  generalize s.raise (rep 14 1 0 0) none = u at runs reset side
  injection side with ports halls boxes work
  refine ⟨_, runs, reset.fwReady, reset.verified, reset.claims, reset.work, fun unasked => ?_,
    reset.ports.trans ports, reset.halls.trans halls⟩
  have ends (m : MailboxId) : u.cpReset.box m = (s.box m).restarted := by
    rw [reset.boxes (work ▸ unasked) m, State.box, boxes, State.box]
  refine ⟨fun m held => ?_, fun m rests => ?_⟩
  · rw [ends, Mailbox.restarted, if_pos held]
  · rw [ends, Mailbox.restarted, if_neg ?_]
    rcases rests with state | state <;> simp [state]

end

/-! SUPPORT. The Landing's arbiter: what a requester presents, who wins a decision and what it leaves (R128 to R135), and that a lock which is
broken leaves the grant (R139, R142). -/

namespace Sys2Proof.Machine

/-! ## A cycle of the arbiter with nothing upstream, held or granted -/

theorem State.refill_of_entered {s : State} {l : Nat} (entered : ∀ x ∈ (s.land l).arb.staging, x.entered = true) : s.refill l = s := by
  have none_up : (s.land l).arb.staging.filter (fun a => !a.entered) = [] := List.filter_eq_nil_iff.2 fun x hx => by simp [entered x hx]
  simp [State.refill, none_up]

theorem State.readmit_of_none_held {s : State} {l : Nat} (free : (s.land l).seq.held = []) : s.readmit l = s := by
  rw [State.readmit, free, List.foldl_nil]

/-! ## Presented requests -/

theorem State.eligibles_subset (s : State) (l : Nat) (before rest : List Access) : s.eligibles l before rest ⊆ rest := by
  induction rest generalizing before with
  | nil => exact List.Subset.refl _
  | cons a rest ih =>
    have more := ih (before ++ [a])
    unfold State.eligibles
    dsimp only
    split
    · exact List.cons_subset_cons a more
    · exact List.subset_cons_of_subset a more

/-- The better of a request and the best so far. -/
def betterOf (b : Option Access) (a : Access) : Option Access :=
  match b with
  | none => some a
  | some x => if x.better a then some a else some x

theorem State.presents_eq (s : State) (l r : Nat) :
    s.presents l r = (s.eligibles l [] ((s.land l).arb.staged r)).foldl betterOf none := rfl

theorem betterOf_cases (b : Option Access) (a : Access) : betterOf b a = some a ∨ betterOf b a = b := by
  unfold betterOf
  split
  · exact .inl rfl
  · split
    · exact .inl rfl
    · exact .inr rfl

/-- A requester presents one of its staged requests. -/
theorem State.presents_mem {s : State} {l r : Nat} {a : Access} (h : s.presents l r = some a) : a ∈ (s.land l).arb.staged r := by
  refine s.eligibles_subset l [] _ ?_
  rw [State.presents_eq] at h
  refine List.foldlRecOn (motive := fun o : Option Access => ∀ b, o = some b → b ∈ s.eligibles l [] ((s.land l).arb.staged r))
    _ betterOf (by simp) ?_ a h
  intro best known x listed b hb
  rcases betterOf_cases best x with new | old
  · rw [new] at hb
    exact Option.some.inj hb ▸ listed
  · rw [old] at hb
    exact known b hb

theorem State.presents_req {s : State} {l r : Nat} {a : Access} (h : s.presents l r = some a) : a.req = r := by
  have mine := (List.mem_filter.1 (State.presents_mem h)).2
  simp only [Bool.and_eq_true, beq_iff_eq] at mine
  exact mine.1

/-! ## The scan of R132 -/

/-- One requester of the scan. -/
def scanStep (cand : List Access) (ptr : Nat) (acc : Option Access × Bool) (i : Nat) : Option Access × Bool :=
  match cand.find? fun a => a.req == (ptr + i) % 12 with
  | none => acc
  | some a =>
    match acc.1 with
    | none => (some a, acc.2)
    | some w => if nearer a.stamp w.stamp then (some a, acc.2) else (acc.1, acc.2 || a.stamp == w.stamp)

theorem scanRank_eq (cand : List Access) (ptr : Nat) : scanRank cand ptr = (List.range 12).foldl (scanStep cand ptr) (none, false) := rfl

theorem scanStep_mem {cand : List Access} {ptr i : Nat} {acc : Option Access × Bool} (known : ∀ w, acc.1 = some w → w ∈ cand) :
    ∀ w, (scanStep cand ptr acc i).1 = some w → w ∈ cand := by
  intro w hw
  unfold scanStep at hw
  split at hw
  · exact known w hw
  next a found =>
    have listed := List.mem_of_find?_eq_some found
    split at hw
    · exact Option.some.inj hw ▸ listed
    · split at hw
      · exact Option.some.inj hw ▸ listed
      · exact known w hw

/-- The winner of a scan is one of the candidates. -/
theorem scanRank_mem {cand : List Access} {ptr : Nat} {w : Access} (h : (scanRank cand ptr).1 = some w) : w ∈ cand := by
  rw [scanRank_eq] at h
  exact List.foldlRecOn (motive := fun acc : Option Access × Bool => ∀ w, acc.1 = some w → w ∈ cand) _ (scanStep cand ptr)
    (by simp) (fun _ known _ _ => scanStep_mem known) w h

theorem scanStep_isSome {cand : List Access} {ptr i : Nat} {acc : Option Access × Bool}
    (h : acc.1.isSome = true ∨ ∃ a ∈ cand, a.req = (ptr + i) % 12) : (scanStep cand ptr acc i).1.isSome = true := by
  unfold scanStep
  split
  next none_here =>
    refine h.resolve_right ?_
    rintro ⟨a, ha, req⟩
    simpa [req] using List.find?_eq_none.1 none_here a ha
  next =>
    split
    · rfl
    next won =>
      split
      · rfl
      · simp [won]

/-- A ranked request among the candidates: the scan has a winner. -/
theorem scanRank_isSome {cand : List Access} {a : Access} (ptr : Nat) (ha : a ∈ cand) (ranked : a.req < 12) :
    (scanRank cand ptr).1.isSome = true := by
  have turn : (ptr + (a.req + 12 - ptr % 12) % 12) % 12 = a.req := by omega
  have visited : (a.req + 12 - ptr % 12) % 12 ∈ List.range 12 := List.mem_range.2 (Nat.mod_lt _ (by decide))
  obtain ⟨before, after, split_here⟩ := List.append_of_mem visited
  rw [scanRank_eq, split_here, List.foldl_append, List.foldl_cons]
  exact List.foldlRecOn (motive := fun acc : Option Access × Bool => acc.1.isSome = true) _ (scanStep cand ptr)
    (scanStep_isSome (.inr ⟨a, ha, turn.symm⟩)) fun _ won _ _ => scanStep_isSome (.inl won)

/-! ## The decision in its parts -/

/-- A request as the decision sees it: one presented for the first time notes the cycle. -/
def State.noticed (s : State) (l : Nat) (a : Access) : Access :=
  if a.first.isNone && ((List.range 13).filterMap fun r => s.presents l r).any (fun b => b.id == a.id) then { a with first := some s.chip.cycle }
  else a

/-- The presented requests, as seen. -/
def State.shown (s : State) (l : Nat) : List Access := ((List.range 13).filterMap fun r => s.presents l r).map (s.noticed l)

/-- An emergency of the Maintenance Unit among those shown. -/
def State.emergencyShown (s : State) (l : Nat) : Option Access := (s.shown l).find? fun a => a.req == 11 && a.emergency

/-- A request of DBG among those shown. -/
def State.dbgShown (s : State) (l : Nat) : Option Access := (s.shown l).find? fun a => a.req == 12

/-- The Landing with the cycles noted, and its lock suspended under an emergency. -/
def State.noted (s : State) (l : Nat) : State :=
  (s.modArb l fun x => { x with staging := x.staging.map (s.noticed l) }).modArb l fun x =>
    { x with lock := x.lock.map fun k =>
      { k with suspended := (s.emergencyShown l).isSome || (s.dbgShown l).isSome
               wasSuspended := k.wasSuspended || ((s.emergencyShown l).isSome || (s.dbgShown l).isSome) } }

/-- The candidates: under a lock its owner's requests alone, unless it is suspended. -/
def State.candidates (s : State) (l : Nat) : List Access :=
  match ((s.noted l).land l).arb.lock with
  | some k => if k.suspended then s.shown l else (s.shown l).filter fun a => a.req == k.owner || (s.noted l).servesSeq k a
  | none => s.shown l

/-- The winner, and whether a tie occurred. -/
def State.decided (s : State) (l : Nat) : Option Access × Bool :=
  match s.emergencyShown l, s.dbgShown l with
  | some w, _ => (some w, false)
  | none, some w => (some w, false)
  | none, none => scanRank ((s.candidates l).filter fun a => a.req < 12) ((s.noted l).land l).arb.tiePtr

/-- The winner leaves staging, and the other candidates lose. -/
def State.award (s : State) (l : Nat) (cand : List Access) (tie : Bool) (w : Access) : State :=
  (cand.filter fun a => a.req != w.req).foldl (fun s a => s.loses l a) (s.modArb l fun x =>
    { x with staging := x.staging.filter (fun a => a.id != w.id), grantNext := some w
             tiePtr := if tie then (w.req + 1) % 12 else x.tiePtr })

theorem State.chooseWinner_of_decided {s : State} {l : Nat} {w : Access} {tie : Bool} (h : s.decided l = (some w, tie)) :
    s.chooseWinner l = (s.noted l).award l (s.candidates l) tie w := by
  have parts : s.chooseWinner l = match (s.decided l).1 with
    | none => s.noted l
    | some w => (s.noted l).award l (s.candidates l) (s.decided l).2 w := rfl
  rw [parts, h]

/-! ## What a decision leaves staged and granted -/

@[simp] theorem State.noticed_id (s : State) (l : Nat) (a : Access) : (s.noticed l a).id = a.id := by
  unfold State.noticed
  split <;> rfl

@[simp] theorem State.noticed_req (s : State) (l : Nat) (a : Access) : (s.noticed l a).req = a.req := by
  unfold State.noticed
  split <;> rfl

@[simp] theorem State.noticed_emergency (s : State) (l : Nat) (a : Access) : (s.noticed l a).emergency = a.emergency := by
  unfold State.noticed
  split <;> rfl

@[simp] theorem State.noticed_entered (s : State) (l : Nat) (a : Access) : (s.noticed l a).entered = a.entered := by
  unfold State.noticed
  split <;> rfl

/-- What stands staged and granted at a Landing. -/
def Landing.standing (x : Landing) : List Access × Option Access := (x.arb.staging, x.arb.grantNext)

theorem State.loses_standing (s : State) (l k : Nat) (a : Access) : ((s.loses l a).land k).standing = (s.land k).standing := by
  have counted : ((s.bumpL l (0x104 + 0x10 * a.req) 1).land k).standing = (s.land k).standing :=
    State.modLand_land_proj Landing.standing (by intro x; rfl) s l k
  unfold State.loses
  dsimp only
  split
  · exact counted
  · exact (State.modLand_land_proj Landing.standing (by intro x; rfl) _ l k).trans counted

/-- The winner is granted next and stands staged no more; the others stay as the decision saw them. -/
theorem State.chooseWinner_standing {s : State} {l : LandingId} {w : Access} {tie : Bool} (h : s.decided l = (some w, tie)) :
    ((s.chooseWinner l).land l).standing =
      (((s.land l).arb.staging.map (s.noticed l)).filter (fun a => a.id != w.id), some w) := by
  rw [State.chooseWinner_of_decided h, State.award, foldl_proj (fun s => (s.land l).standing) fun s a => s.loses_standing l l a]
  simp [State.noted, Landing.standing]

/-- The request has been chosen: it is granted in the next cycle, and no staged request has its number (R131, R132). -/
def Grants (s : State) (l : Nat) (a : Access) : Prop :=
  ∃ g, (s.land l).arb.grantNext = some g ∧ g.id = a.id ∧ ∀ x ∈ (s.land l).arb.staging, x.id ≠ a.id

/-- A cycle with every request staged and none held or granted is its decision. -/
theorem State.execArbDecision_grants {s : State} {l : LandingId} {a : Access} (admits : (s.land l).admits = true) (runs : s.chip.halted = false)
    (free : (s.land l).seq.held = []) (entered : ∀ x ∈ (s.land l).arb.staging, x.entered = true)
    (idle : (s.land l).arb.grantNext = none) (wins : (s.decided l).1 = some (s.noticed l a)) :
    exec (.arbDecision l) s = .next (s.chooseWinner l).pump ∧ Grants (s.chooseWinner l) l a := by
  have works : s.arbitrates l = true := by simp [State.arbitrates, admits, runs]
  have stands := State.chooseWinner_standing (s := s) (l := l) (tie := (s.decided l).2) (Prod.ext wins rfl)
  obtain ⟨staged, granted⟩ := Prod.ext_iff.1 stands
  change ((s.chooseWinner l).land l).arb.staging = _ at staged
  change ((s.chooseWinner l).land l).arb.grantNext = _ at granted
  have still : ∀ x ∈ ((s.chooseWinner l).land l).arb.staging, x.entered = true := by
    intro x hx
    obtain ⟨y, hy, rfl⟩ := List.mem_map.1 (List.mem_filter.1 (staged ▸ hx)).1
    simpa using entered y hy
  refine ⟨?_, s.noticed l a, granted, s.noticed_id l a, fun x hx => ?_⟩
  · have cycle : s.arbitrate l = s.chooseWinner l := by
      unfold State.arbitrate
      simp [works, admits, State.readmit_of_none_held free, State.refill_of_entered entered, idle, State.refill_of_entered still]
    change execArbDecision l s = _
    simp [execArbDecision, idle, cycle]
  · have other := (List.mem_filter.1 (staged ▸ hx)).2
    simpa using other

/-! ## Who wins -/

theorem State.mem_shown {s : State} {l r : Nat} {a : Access} (below : r < 13) (h : s.presents l r = some a) : s.noticed l a ∈ s.shown l :=
  List.mem_map_of_mem (List.mem_filterMap.2 ⟨r, List.mem_range.2 below, h⟩)

/-- What is shown is what some requester presents. -/
theorem State.presents_of_mem_shown {s : State} {l : Nat} {x : Access} (h : x ∈ s.shown l) :
    ∃ b, s.presents l x.req = some b ∧ x = s.noticed l b := by
  obtain ⟨b, hb, rfl⟩ := List.mem_map.1 h
  obtain ⟨r, -, presents⟩ := List.mem_filterMap.1 hb
  exact ⟨b, by rw [s.noticed_req, State.presents_req presents, presents], rfl⟩

/-- An emergency that the Maintenance Unit presents wins, whatever the others present (R131). -/
theorem State.decided_of_emergency {s : State} {l : Nat} {a : Access} (h : s.presents l 11 = some a) (urgent : a.emergency = true) :
    (s.decided l).1 = some (s.noticed l a) := by
  have found : s.emergencyShown l = some (s.noticed l a) := by
    cases first : s.emergencyShown l with
    | none =>
      refine absurd (List.find?_eq_none.1 first _ (State.mem_shown (by decide) h)) ?_
      simp [State.presents_req h, urgent]
    | some x =>
      obtain ⟨b, presents, rfl⟩ := State.presents_of_mem_shown (List.mem_of_find?_eq_some first)
      have mine := List.find?_some first
      simp only [Bool.and_eq_true, beq_iff_eq] at mine
      rw [mine.1, h] at presents
      rw [Option.some.inj presents]
  rw [State.decided, found]

/-- Without a lock every request shown is a candidate. -/
theorem State.candidates_of_no_lock {s : State} {l : LandingId} (free : (s.land l).arb.lock = none) : s.candidates l = s.shown l := by
  simp [State.candidates, State.noted, free]

/-- A request presented alone wins. -/
theorem State.decided_of_alone {s : State} {l : LandingId} {r : RequesterId} {a : Access} (free : (s.land l).arb.lock = none)
    (h : s.presents l r = some a) (alone : ∀ k : RequesterId, k ≠ r → s.presents l k = none) :
    (s.decided l).1 = some (s.noticed l a) := by
  have only : ∀ x ∈ s.shown l, x = s.noticed l a := by
    intro x hx
    obtain ⟨b, hb, rfl⟩ := List.mem_map.1 hx
    obtain ⟨k, below, presents⟩ := List.mem_filterMap.1 hb
    by_cases mine : (⟨k, List.mem_range.1 below⟩ : RequesterId) = r
    · subst mine
      rw [Option.some.inj (presents.symm.trans h)]
    · exact absurd (presents.symm.trans (alone _ mine)) nofun
  have listed : s.noticed l a ∈ s.shown l := State.mem_shown r.isLt h
  unfold State.decided
  split
  next w found => exact congrArg some (only w (List.mem_of_find?_eq_some found))
  next w _ found => exact congrArg some (only w (List.mem_of_find?_eq_some found))
  next _ other =>
    have ranked : (s.noticed l a).req < 12 := by
      have notDbg := List.find?_eq_none.1 other _ listed
      have req := State.presents_req h
      simp only [State.noticed_req, beq_iff_eq] at notDbg ⊢
      omega
    rw [State.candidates_of_no_lock free]
    have won := scanRank_isSome (cand := (s.shown l).filter fun a => a.req < 12) ((s.noted l).land l).arb.tiePtr
      (List.mem_filter.2 ⟨listed, by simpa using ranked⟩) ranked
    obtain ⟨w, hw⟩ := Option.isSome_iff_exists.1 won
    rw [hw, only w (List.mem_filter.1 (scanRank_mem hw)).1]

/-! ## A lock that is broken leaves the grant -/

/-- The locked sequence that holds the grant of a Landing. -/
def State.grantLock (s : State) (k : Nat) : Option GrantLock := (s.land k).arb.lock

theorem OnlyReported.grantLock {s t : State} (h : OnlyReported s t) (k : Nat) : t.grantLock k = s.grantLock k := by
  obtain ⟨_, _, _, _, _, _, _, rfl⟩ := h
  rfl

theorem State.modLand_grantLock (s : State) (l k : Nat) {f : Landing → Landing} (h : ∀ x, (f x).arb.lock = x.arb.lock) :
    (s.modLand l f).grantLock k = s.grantLock k := State.modLand_land_proj (fun x => x.arb.lock) h s l k

@[simp] theorem State.modSeq_grantLock (s : State) (l k : Nat) (f : Seq → Seq) : (s.modSeq l f).grantLock k = s.grantLock k :=
  s.modLand_grantLock l k (by intro x; rfl)

@[simp] theorem State.bumpL_grantLock (s : State) (l off n k : Nat) : (s.bumpL l off n).grantLock k = s.grantLock k :=
  s.modLand_grantLock l k (by intro x; rfl)

theorem State.modArb_grantLock (s : State) (l k : Nat) {f : Arb → Arb} (h : ∀ x, (f x).lock = x.lock) :
    (s.modArb l f).grantLock k = s.grantLock k := s.modLand_grantLock l k fun x => h x.arb

@[simp] theorem State.modPort_grantLock (s : State) (p k : Nat) (f : Port → Port) : (s.modPort p f).grantLock k = s.grantLock k := rfl
@[simp] theorem State.modGal_grantLock (s : State) (g k : Nat) (f : Gallery → Gallery) : (s.modGal g f).grantLock k = s.grantLock k := rfl
@[simp] theorem State.modCh_grantLock (s : State) (n k : Nat) (f : Dma → Dma) : (s.modCh n f).grantLock k = s.grantLock k := rfl
@[simp] theorem State.modMisc_grantLock (s : State) (k : Nat) (f : Misc → Misc) : (s.modMisc f).grantLock k = s.grantLock k := rfl
@[simp] theorem State.finishS_grantLock (s : State) (m : Nat) (st : AStatus) (k : Nat) : (s.finishS m st).grantLock k = s.grantLock k := rfl
@[simp] theorem State.bumpB_grantLock (s : State) (a n k : Nat) : (s.bumpB a n).grantLock k = s.grantLock k := rfl

theorem State.countLate_grantLock (s : State) (p : Nat) (t : Txn) (k : Nat) : (s.countLate p t).grantLock k = s.grantLock k := by
  unfold State.countLate
  dsimp only
  split
  · rfl
  · split
    · rfl
    next l _ =>
      have counted : ((((s.bumpB (userCount p 0x18) 1).bumpL l 0x40 1).status1Hold 2)).grantLock k = s.grantLock k := by
        simp [(State.status1Hold_onlyReported _ 2).grantLock]
      split
      · simpa using counted
      · split
        · exact counted
        · exact ((State.report_onlyReported _ _ _).grantLock k).trans counted

theorem State.send_grantLock (s : State) (p : Nat) (t : Txn) (r : Resp) (k : Nat) : (s.send p t r).grantLock k = s.grantLock k := by
  unfold State.send
  extract_lets late r sent spent counted
  have same : counted.grantLock k = s.grantLock k := by
    unfold counted
    split <;> rfl
  split
  · exact (State.countLate_grantLock _ p t k).trans same
  · exact same

theorem State.trySend_grantLock (s : State) (p n k : Nat) : (s.trySend p n).grantLock k = s.grantLock k := by
  induction n generalizing s with
  | zero => rfl
  | succ n ih =>
    unfold State.trySend
    split
    · rfl
    · split
      · rfl
      · exact (ih _).trans (s.send_grantLock p _ _ k)

theorem State.form_grantLock (s : State) (p id : Nat) (st : Status) (poison : Bool) (data : BitVec 512) (k : Nat) :
    (s.form p id st poison data).grantLock k = s.grantLock k := by
  unfold State.form
  split
  · rfl
  · split
    · rfl
    · exact State.trySend_grantLock _ p _ k

@[simp] theorem State.formS_grantLock (s : State) (p id : Nat) (st : Status) (k : Nat) : (s.formS p id st).grantLock k = s.grantLock k :=
  s.form_grantLock p id st _ 0 k

theorem State.answerSeg_grantLock (s : State) (f : SegFetch) (ans : Nat → Arrival) (k : Nat) :
    (s.answerSeg f ans).grantLock k = s.grantLock k := by
  unfold State.answerSeg
  refine (foldl_proj (fun s => s.grantLock k) (by intro s w; rfl) _ _).trans (foldl_proj (fun s => s.grantLock k) (fun s w => ?_) _ s)
  split <;> exact s.form_grantLock _ _ _ _ _ k

theorem State.drainRepair_grantLock (s : State) (r : Repair) (k : Nat) : (s.drainRepair r).grantLock k = s.grantLock k :=
  foldl_proj (fun s => s.grantLock k) (fun s _ => s.fresh.2.modSeq_grantLock _ k _) _ s

theorem State.dropRepair_grantLock (s : State) (r : Repair) (k : Nat) : (s.dropRepair r).grantLock k = s.grantLock k := by
  unfold State.dropRepair
  dsimp only
  rw [State.modMisc_grantLock, State.modArb_grantLock _ _ _ (by intro x; rfl), State.modSeq_grantLock]

theorem State.failRepair_grantLock (s : State) (l k : Nat) : (s.failRepair l).grantLock k = s.grantLock k := by
  unfold State.failRepair
  split
  · rfl
  next r _ => rw [State.finishS_grantLock, State.dropRepair_grantLock, State.drainRepair_grantLock]

theorem State.modHall_grantLock (s : State) (n k : Nat) (f : Hall → Hall) : (s.modHall n f).grantLock k = s.grantLock k := by
  unfold State.modHall
  split <;> rfl

/-- A line that is due again moves its hall alone. -/
theorem State.zeroEnds_grantLock (s : State) (n off k : Nat) : (s.zeroEnds n off false).grantLock k = s.grantLock k := by
  unfold State.zeroEnds
  split
  · rfl
  · simp only [Bool.false_eq_true, if_false]
    split <;> rfl

theorem State.cpuEnds_grantLock (s : State) (w : Nat) (r : Arrival) (k : Nat) : (s.cpuEnds w r).grantLock k = s.grantLock k := by
  unfold State.cpuEnds
  split
  · rfl
  next c _ => cases c.mailbox <;> cases r <;> rfl

/-- A refused request's client hears of it, and no grant moves. -/
theorem State.deliver_refused_grantLock (s : State) (l : Nat) (a : Access) (st : Status) (k : Nat) :
    (s.deliver l a (.refused st)).grantLock k = s.grantLock k := by
  unfold State.deliver
  cases a.client with
  | host p id => exact s.formS_grantLock p id st k
  | dma ch i => rfl
  | tier g id i => rfl
  | seg g f i =>
    dsimp only
    split
    · rfl
    · rw [State.modGal_grantLock]
      split
      · rw [State.abandonMove, State.modMove, State.modGal_grantLock, State.answerSeg_grantLock]
      · exact State.answerSeg_grantLock s _ _ k
  | fill g kind lpa => rfl
  | zero n => exact s.zeroEnds_grantLock n a.off k
  | zeroMeta n i => exact s.modHall_grantLock n k _
  | cpu w => exact s.cpuEnds_grantLock w _ k
  | scrub => rfl
  | own => rfl
  | ppr => exact s.failRepair_grantLock l k

theorem State.dropAccess_grantLock (s : State) (l id k : Nat) : (s.dropAccess l id).grantLock k = s.grantLock k := by
  unfold State.dropAccess
  exact (State.modSeq_grantLock _ l k _).trans (s.modArb_grantLock l k (by intro x; rfl))

theorem State.modLand_land_cases (s : State) (l k : Nat) (f : Landing → Landing) :
    (s.modLand l f).land k = s.land k ∨ (s.modLand l f).land k = f (s.land k) := by
  by_cases here : l = k
  · subst here
    by_cases present : l < 12
    · exact .inr (s.modLand_land_self ⟨l, present⟩ f)
    · exact .inl (by simp [State.modLand, State.setLand, State.land, present])
  · exact .inl (s.modLand_land_ne l k f here)

/-- A released line gives no Landing a lock. -/
theorem State.unlockLine_grantLock {s : State} {k : Nat} (free : s.grantLock k = none) (l addr : Nat) (mine : LockCause → Bool) :
    (s.unlockLine l addr mine).grantLock k = none := by
  unfold State.unlockLine
  rw [← s.modSeq_grantLock l k] at free
  rcases State.modLand_land_cases _ l k _ with same | released
  · rw [State.grantLock, State.modArb, same]
    exact free
  · rw [State.grantLock, State.modArb, released]
    dsimp only
    rw [show (State.land _ k).arb.lock = none from free]
    exact free

theorem State.refuseOne_grantLock {s : State} {k : Nat} (free : s.grantLock k = none) (l : Nat) (a : Access) (st : Status) :
    (s.refuseOne l a st).grantLock k = none := by
  rw [State.refuseOne, State.deliver_refused_grantLock]
  exact State.unlockLine_grantLock ((s.dropAccess_grantLock l a.id k).trans free) l _ _

theorem State.breakSeq_grantLock {s : State} {k : Nat} (free : s.grantLock k = none) (p ldid : Nat) (st : Status) :
    (s.breakSeq p ldid st).grantLock k = none := by
  unfold State.breakSeq
  split
  · exact free
  next q _ =>
    have released := State.unlockLine_grantLock free q.landing q.addr fun c => c == .bpp p ldid
    dsimp only
    split
    · exact released
    next a _ =>
      have dropped := (State.dropAccess_grantLock _ q.landing a.id k).trans released
      split
      · exact (State.formS_grantLock _ p _ st k).trans dropped
      · exact dropped

/-- The expired sequence leaves the grant (R139). -/
theorem State.expireLock_grantLock (s : State) (l : LandingId) : (s.expireLock l).grantLock l = none := by
  unfold State.expireLock
  split
  next free => exact free
  next c _ =>
    have left : (((s.bumpL l 0x48 1).modArb l fun x => { x with lock := none }).grantLock l) = none := by
      rw [State.grantLock, State.modArb_land_self]
    dsimp only
    split
    · exact State.breakSeq_grantLock left _ _ _
    · split
      · exact State.refuseOne_grantLock left _ _ _
      · exact left
    · exact left

/-! ## Starvation (R134) -/

/-- The request is noted as reported. -/
def State.markStarved (s : State) (l : Nat) (a : Access) : State := s.modArb l fun x => { x with starved := x.starved ++ [a.id] }

theorem State.markStarved_starved (s : State) (l : LandingId) (a : Access) :
    ((s.markStarved l a).land l).arb.starved = (s.land l).arb.starved ++ [a.id] := by
  rw [State.markStarved, State.modArb_land_self]

/-- What 3/01h says of a request of requester `r`. -/
def State.starvedRep (s : State) (l r : Nat) (a : Access) : Rep :=
  { repL 3 1 l (at_ 0 r) with port := if r < 8 then some r else none, coord := some (s.coord l a.addr) }

/-- A requester's only request at a Landing, more than 1,000,000 ns past its stamp and not reported before, is reported. -/
theorem State.execStarvation_reports {s : State} {l : LandingId} {r : RequesterId} {a : Access} (ranked : r.val ≠ 12)
    (staged : (s.land l).arb.staging = [a]) (mine : a.req = r) (entered : a.entered = true) (past : nearer a.stamp (stampOf s.now) = true)
    (late : 1000000 < (stampOf s.now - a.stamp).toNat) (fresh : (s.land l).arb.starved.contains a.id = false) :
    exec (.starvation l r) s = .next (State.raise (s.markStarved l a) ((s.markStarved l a).starvedRep l r a) none) := by
  have alone : (s.land l).arb.staged r.val = [a] := by simp [Arb.staged, staged, mine, entered]
  change execStarvation l r s = _
  unfold execStarvation
  dsimp only
  rw [if_neg ranked, alone, List.find?_cons_of_pos (by rw [past, decide_eq_true late, fresh]; rfl)]
  rfl

end Sys2Proof.Machine

section
open Sys2Proof Sys2Proof.Machine Sys2Proof.Slice

/-- Settles O23: a decision grants its winner (`State.execArbDecision_grants`), which is the emergency or the one request presented; a lock
that is broken leaves the grant by `State.expireLock_grantLock`. -/
theorem arbiterGrantsAndTimes : Obligations.ArbiterGrantsAndTimes := by
  unfold Obligations.ArbiterGrantsAndTimes
  refine ⟨?emergency, ?alone, ?backoff, ?starved, ?unranked, ?lock⟩
  case emergency =>
    intro s l a admits runs free entered idle presents urgent
    obtain ⟨step, g, granted⟩ := State.execArbDecision_grants admits runs free entered idle (State.decided_of_emergency presents urgent)
    exact ⟨_, g, step, granted⟩
  case alone =>
    intro s l r a admits runs free entered idle unlocked presents alone
    obtain ⟨step, g, granted⟩ := State.execArbDecision_grants admits runs free entered idle (State.decided_of_alone unlocked presents alone)
    exact ⟨_, g, step, granted⟩
  case backoff =>
    intro s l r t waits passed
    change execBackoffExpiry l r s = _
    unfold execBackoffExpiry State.modArb State.modLand State.setLand
    dsimp only
    rw [waits]
    dsimp only
    rw [if_pos passed]
  case starved =>
    intro s l r a ranked staged mine entered past late fresh
    refine ⟨_, _, State.execStarvation_reports ranked staged mine entered past late (by simp [fresh]), ?_, rfl, rfl, rfl, rfl, rfl⟩
    rw [State.markStarved_starved, fresh, List.nil_append]
  case unranked =>
    intro s l
    rfl
  case lock =>
    intro s l k held
    refine ⟨fun expired => ⟨s.expireLock l, ?_, s.expireLock_grantLock l⟩, fun below => ?_⟩
    · change execLockExpiry l s = _
      rw [execLockExpiry, held]
      exact if_pos expired
    · change execLockExpiry l s = _
      rw [execLockExpiry, held]
      exact if_neg (Nat.not_le_of_lt below)

end

/-! SUPPORT. The sequencer's own commands: a free edge of the next plan, and what a command placed there leaves (R156, R162, R163, R184). -/

namespace Sys2Proof.Machine

/-- A placed command joins the next plan at its edge, with the rows and the ranks in POWER_DOWN that it leaves. -/
theorem State.record_seq (s : State) (l : LandingId) (k n : Nat) (w : Want) (v : Served) :
    ∃ c hist, ((s.record l k n w v).land l).seq = { (s.land l).seq with
        planNext := (s.land l).seq.planNext ++ [c], hist := hist, rows := (s.land l).seq.rowsAfter w n
        pd := if w.cmd = .pdExit then (s.land l).seq.pd.filter (fun e => !(e.1 == w.sub && e.2 == w.rank)) else (s.land l).seq.pd } ∧
      c.cmd = w.cmd ∧ c.sub = w.sub ∧ c.rank = w.rank ∧ c.bg = w.bg ∧ c.bank = w.bank ∧ c.edge = k := by
  unfold State.record
  extract_lets ck q after closed named sample t
  have same : (t.land l).seq = (s.land l).seq := by
    simp only [t]
    split
    · rw [State.modMnt_land_self]
    · rfl
  rw [State.modSeq_land_self, same]
  exact ⟨_, _, rfl, rfl, rfl, rfl, rfl, rfl, rfl⟩

/-- A free edge lies in the next tread. -/
theorem State.firstEdge_le_of_ownEdge {s : State} {l k : Nat} {w : Want} (h : s.ownEdge l w = some k) :
    firstEdge (s.land l).seq.geom.rate (s.tread + 1) ≤ k := by
  unfold State.ownEdge at h
  extract_lets q lo hi mine at h
  split at h
  · cases h
  · obtain ⟨i, -, rfl⟩ := List.mem_map.1 (List.mem_of_find?_eq_some h)
    exact Nat.le_add_right lo i

theorem State.placeOwn_of_edge {s : State} {l k : Nat} {w : Want} (h : s.ownEdge l w = some k) :
    s.placeOwn l w = some (s.record l k (s.tread + 1) w Served.own) := by
  rw [State.placeOwn, h, Option.map_some]

theorem State.placeOwn_of_no_edge {s : State} {l : Nat} {w : Want} (h : s.ownEdge l w = none) : s.placeOwn l w = none := by
  rw [State.placeOwn, h, Option.map_none]

/-! ## Ranks that power down -/

theorem execPowerDownEntry_of_edge {s : State} {l : LandingId} {sub : Fin 2} {rank : Fin 8} {k : Nat}
    (may : s.mayPowerDown l sub rank = true) (edge : s.ownEdge l (rankWant .pdEnter (sub.val, rank.val)) = some k) :
    execPowerDownEntry l sub rank s = .next ((s.record l k (s.tread + 1) (rankWant .pdEnter (sub.val, rank.val)) Served.own).modSeq l
      fun q => { q with pd := q.pd ++ [(sub.val, rank.val)] }) := by
  rw [execPowerDownEntry, if_pos may, State.placeOwn_of_edge edge]

theorem execPowerDownEntry_waits {s : State} {l : LandingId} {sub : Fin 2} {rank : Fin 8}
    (h : s.mayPowerDown l sub rank = false ∨ s.ownEdge l (rankWant .pdEnter (sub.val, rank.val)) = none) :
    execPowerDownEntry l sub rank s = .next s := by
  unfold execPowerDownEntry
  rcases h with may | full
  · rw [may]
    rfl
  · rw [State.placeOwn_of_no_edge full, ite_self]

/-! ## Rows -/

/-- The precharge of a bank's open row. -/
def closingWant (sub rank bg bank row : Nat) : Want :=
  { cmd := .pre, sub := sub, rank := rank, bg := bg, bank := bank, row := row, col := 0 }

/-- A precharge leaves its bank no open row. -/
theorem Seq.rowAt_of_rowsAfter_closingWant {q r : Seq} {sub rank bg bank row n : Nat}
    (rows : r.rows = q.rowsAfter (closingWant sub rank bg bank row) n) : r.rowAt sub rank bg bank = none := by
  rw [Seq.rowAt, rows, List.find?_eq_none]
  intro o kept here
  have other := (List.mem_filter.1 kept).2
  simp_all [closingWant]

theorem execPageTimeout_of_due {s : State} {l : LandingId} {sub : Fin 2} {rank bg : Fin 8} {bank : Fin 4} {o : OpenRow}
    (row : (s.land l).seq.rowAt sub rank bg bank = some o) (policy : fld (s.lv l 0x400) 1 0 = 2) (runs : (s.land l).seq.lstate = .run)
    (old : o.used + fld (s.lv l 0x400) 15 8 ≤ s.tread) :
    execPageTimeout l sub rank bg bank s = .next ((s.placeOwn l (closingWant sub rank bg bank o.row)).getD s) := by
  unfold execPageTimeout
  dsimp only
  rw [row]
  exact if_pos ⟨policy, runs, old⟩

/-- A row stays that is young or has no free edge, and every row does under another page policy. -/
theorem execPageTimeout_waits {s : State} {l : LandingId} {sub : Fin 2} {rank bg : Fin 8} {bank : Fin 4}
    (h : ∀ o, (s.land l).seq.rowAt sub rank bg bank = some o → fld (s.lv l 0x400) 1 0 ≠ 2 ∨ s.tread < o.used + fld (s.lv l 0x400) 15 8 ∨
      s.ownEdge l (closingWant sub rank bg bank o.row) = none) : execPageTimeout l sub rank bg bank s = .next s := by
  unfold execPageTimeout
  dsimp only
  split
  next o row =>
    rcases h o row with policy | young | full
    · exact if_neg fun due => policy due.1
    · exact if_neg fun due => Nat.not_le_of_lt young due.2.2
    · split
      · exact congrArg (fun t => Host.Outcome.next (Option.getD t s)) (State.placeOwn_of_no_edge full)
      · rfl
  next => rfl

/-! ## Hints -/

theorem execHintDrop_of_dropped {s : State} {l : LandingId} {id : Nat} {a : Access}
    (found : ((s.land l).seq.hints.find? fun e => e.id == id) = some a) (old : 2 ≤ (s.land l).seq.hintPlans id ∨ s.hintStands l a = false) :
    execHintDrop l id s = .next ((s.modSeq l fun q =>
      { q with hints := q.hints.filter (fun e => e.id != id), hintAge := q.hintAge.filter fun e => e.1 != id }).bumpL l 0x434 1) := by
  unfold execHintDrop
  dsimp only
  rw [found]
  refine if_pos ?_
  rcases old with old | fallen
  · rw [decide_eq_true old, Bool.true_or]
  · rw [fallen, Bool.not_false, Bool.or_true]

theorem execHintDrop_waits {s : State} {l : LandingId} {id : Nat} {a : Access}
    (found : ((s.land l).seq.hints.find? fun e => e.id == id) = some a) (young : (s.land l).seq.hintPlans id < 2)
    (stands : s.hintStands l a = true) : execHintDrop l id s = .next s := by
  unfold execHintDrop
  dsimp only
  rw [found]
  exact if_neg (by simp [young, stands])

end Sys2Proof.Machine

section
open Sys2Proof Sys2Proof.Machine Sys2Proof.Slice

/-- Settles O44: a command of the sequencer's own joins the next plan at its free edge (`State.record_seq`), and without one the rank or the
row waits. -/
theorem idleRanksRowsAndHintsAreLetGo : Obligations.IdleRanksRowsAndHintsAreLetGo := by
  unfold Obligations.IdleRanksRowsAndHintsAreLetGo
  refine ⟨?enters, ?stays, ?row, ?otherPolicy, ?hint⟩
  case enters =>
    intro s l sub rank k idleLong runs valid inRange banksIdle noWork awake edge
    have may : s.mayPowerDown l sub rank = true := by
      unfold State.mayPowerDown
      simp only [runs, valid, inRange, banksIdle, noWork, awake]
      rcases idleLong with p1 | ⟨enabled, undated, old⟩
      · simp [p1]
      · simp only [enabled, undated, old]
        simp
    obtain ⟨c, hist, seq, cmd, subIs, rankIs, -, -, edgeIs⟩ :=
      s.record_seq l k (s.tread + 1) (rankWant .pdEnter (sub.val, rank.val)) Served.own
    refine ⟨_, c, execPowerDownEntry_of_edge may edge, ?_, ?_, cmd, subIs, rankIs, edgeIs, State.firstEdge_le_of_ownEdge edge⟩
    · rw [State.modSeq_land_self, seq]
      rfl
    · rw [State.modSeq_land_self, seq]
  case stays =>
    intro s l sub rank reason
    refine execPowerDownEntry_waits ?_
    rcases reason with full | busy | ⟨notP1, disabled⟩
    · exact .inr full
    · refine .inl ?_
      simp [State.mayPowerDown, busy]
    · refine .inl ?_
      unfold State.mayPowerDown
      simp only [disabled]
      simp [notP1]
  case row =>
    intro s l sub rank bg bank o row policy runs
    refine ⟨fun k old edge => ?_, fun reason => execPageTimeout_waits fun o' row' => ?_⟩
    · obtain ⟨c, hist, seq, cmd, subIs, rankIs, bgIs, bankIs, edgeIs⟩ :=
        s.record_seq l k (s.tread + 1) (closingWant sub rank bg bank o.row) Served.own
      refine ⟨_, c, ?_, congrArg Seq.planNext seq, cmd, subIs, rankIs, bgIs, bankIs, edgeIs,
        Seq.rowAt_of_rowsAfter_closingWant (n := s.tread + 1) (congrArg Seq.rows seq)⟩
      have placed : s.placeOwn l (closingWant sub rank bg bank o.row) = _ := State.placeOwn_of_edge edge
      exact (execPageTimeout_of_due row policy runs old).trans (by rw [placed, Option.getD_some])
    · obtain rfl : o = o' := Option.some.inj (row.symm.trans row')
      exact .inr reason
  case otherPolicy =>
    intro s l sub rank bg bank policy
    exact execPageTimeout_waits fun _ _ => .inl policy
  case hint =>
    intro s l id a found
    refine ⟨fun old => ⟨_, execHintDrop_of_dropped found old, ?_, ?_, fun j other => ?_⟩, execHintDrop_waits found⟩
    · rw [State.bumpL, State.modLand_land_self, State.modSeq_land_self]
    · rw [State.bumpL, State.modLand_land_self, State.modSeq_land_self]
    · have apart : l.val ≠ j.val := fun same => other (Fin.ext same.symm)
      rw [State.bumpL, State.modLand_land_ne _ _ _ _ apart, State.modSeq_land_ne _ _ _ _ apart]

end

/-! SUPPORT. A claim that is presented stands at its Landing as it was presented, whatever else waits there (R126, R127). `Queued` and `Secured`
say of the request itself what `Waits` and `Safe` say of one of its kind and stamp: its number, requester and urgency stay too. -/

namespace Sys2Proof.Machine

/-- The request itself has entered staging, or is the last of its number that waits upstream. -/
def Queued (a : Access) (l : List Access) : Prop :=
  { a with entered := true } ∈ l ∨ (upstream a.id l).getLast? = some a

/-- The same while the list `rest` has still to try: fewer rivals come than places wait under its number. -/
def Secured (a : Access) (rest l : List Access) : Prop :=
  { a with entered := true } ∈ l ∨ ((upstream a.id l).getLast? = some a ∧ rivals a rest < (upstream a.id l).length)

theorem Secured.enter {s : State} {l : LandingId} {a y : Access} {rest : List Access} (own : a.ofPort = false)
    (h : Secured a (y :: rest) (s.land l).arb.staging) : Secured a rest ((s.enterStaging l y).land l).arb.staging := by
  have fewer : rivals a rest ≤ rivals a (y :: rest) := (List.sublist_cons_self y rest).countP_le
  have placed (n : Nat) : upstreamOf n (s.entering l y) = false := by simp [upstreamOf, s.entering_entered]
  rcases s.enterStaging_staging l y with same | taken
  · rw [same]
    exact h.imp_right fun h => ⟨h.1, Nat.lt_of_le_of_lt fewer h.2⟩
  rw [taken, State.withPlace]
  rcases h with entered | ⟨last, room⟩
  · exact .inl (mem_modify_findIdx (by simp [upstreamOf]) entered)
  by_cases itself : y = a
  · subst itself
    rw [s.entering_of_not_ofPort l own]
    refine .inl (mem_modify_findIdx_new fun none => ?_)
    simp [upstream, none] at last
  by_cases number : y.id = a.id
  · have counted : rivals a (y :: rest) = rivals a rest + 1 := by simp [rivals, number, itself]
    refine .inr ?_
    rw [number, upstream, filter_modify_findIdx_tail (placed a.id), List.getLast?_tail, List.length_tail]
    change (if (upstream a.id _).length = 1 then none else (upstream a.id _).getLast?) = some a ∧ _ < (upstream a.id _).length - 1
    rw [if_neg (by omega)]
    exact ⟨last, by omega⟩
  · refine .inr ?_
    rw [upstream, filter_modify_findIdx_of_disjoint (placed a.id) (by simp [upstreamOf]; omega)]
    exact ⟨last, Nat.lt_of_le_of_lt fewer room⟩

theorem Secured.tried {l : LandingId} {a : Access} (own : a.ofPort = false) (rest : List Access) {s : State}
    (h : Secured a rest (s.land l).arb.staging) : Queued a ((rest.foldl (fun s y => s.enterStaging l y) s).land l).arb.staging := by
  induction rest generalizing s with
  | nil => exact h.imp_right And.left
  | cons y rest ih => exact ih (h.enter own)

theorem Queued.refill {s : State} {l : LandingId} {a : Access} (own : a.ofPort = false) (h : Queued a (s.land l).arb.staging) :
    Queued a ((s.refill l).land l).arb.staging := by
  refine Secured.tried own _ (h.imp_right fun last => ⟨last, ?_⟩)
  have order := List.filter_append_perm (fun a : Access => a.isClaim) ((s.land l).arb.staging.filter fun a => !a.entered)
  have counted : ((s.land l).arb.staging.filter fun a => !a.entered).countP (fun y => y.id == a.id && y != a) =
      (upstream a.id (s.land l).arb.staging).countP fun y => y != a := by
    simp [upstream, upstreamOf, List.countP_filter, Bool.and_assoc, Bool.and_comm]
  unfold rivals
  rw [order.countP_eq, counted, List.countP_lt_length_iff]
  exact ⟨a, List.mem_of_getLast? last, by simp⟩

theorem Queued.stage {s : State} {l : LandingId} {a b : Access} (own : a.ofPort = false)
    (h : Queued a ((s.land l).arb.staging ++ [{ b with entered := false }])) : Queued a ((s.stage l b).land l).arb.staging := by
  refine Queued.refill own ?_
  rw [State.modArb_land_self]
  exact h

theorem Queued.append {a b : Access} {l : List Access} (other : b.id ≠ a.id) (h : Queued a l) : Queued a (l ++ [b]) := by
  have same : upstream a.id (l ++ [b]) = upstream a.id l := by simp [upstream, upstreamOf, other]
  exact h.imp (List.mem_append_left _) fun last => same ▸ last

/-! ## Claims -/

/-- The request that presents a claim of the Maintenance Unit. -/
def claimAccess (id : Nat) (k : ClaimKind) (stamp : BitVec 32) (emergency : Bool) : Access :=
  { access id .own 11 stamp (.claim k) 0 with emergency := emergency }

/-- The claim stands at the Landing under a number given out since `n`. -/
def Asked (n : Nat) (s : State) (l : Nat) (k : ClaimKind) (stamp : BitVec 32) (emergency : Bool) : Prop :=
  ∃ id, n ≤ id ∧ id < s.chip.nextId ∧ Queued (claimAccess id k stamp emergency) (s.land l).arb.staging

theorem Asked.claims {s t : State} {l : LandingId} {k : ClaimKind} {stamp : BitVec 32} {emergency : Bool}
    (h : Asked s.chip.nextId t l k stamp emergency) : Sys2Proof.Slice.Claims s t l k stamp emergency := by
  obtain ⟨id, new, -, entered | last⟩ := h
  · exact ⟨_, entered, rfl, rfl, rfl, rfl, new⟩
  · exact ⟨_, List.mem_of_mem_filter (List.mem_of_getLast? last), rfl, rfl, rfl, rfl, new⟩

theorem State.present_asked {n : Nat} {s : State} (known : n ≤ s.chip.nextId) (l : LandingId) (k : ClaimKind) (stamp : BitVec 32)
    (emergency : Bool) : Asked n (s.present l k stamp emergency) l k stamp emergency := by
  refine ⟨s.chip.nextId, known, ?_, Queued.stage (b := claimAccess s.chip.nextId k stamp emergency) rfl (.inr ?_)⟩
  · rw [State.present_nextId]
    exact Nat.lt_succ_self _
  · simp [upstream, upstreamOf, claimAccess, access]

theorem Asked.present {n : Nat} {s : State} {l : LandingId} {k : ClaimKind} {stamp : BitVec 32} {emergency : Bool}
    (h : Asked n s l k stamp emergency) (k' : ClaimKind) (stamp' : BitVec 32) (emergency' : Bool) :
    Asked n (s.present l k' stamp' emergency') l k stamp emergency := by
  obtain ⟨id, new, given, queued⟩ := h
  refine ⟨id, new, ?_, Queued.stage rfl (queued.append (Nat.ne_of_gt given))⟩
  rw [State.present_nextId]
  exact Nat.lt_succ_of_lt given

/-- Claims presented one after another all stand. -/
theorem foldl_present_asked {α : Type} (kind : α → ClaimKind) (stamp : BitVec 32) (emergency : Bool) (l : LandingId) {n : Nat} {e : α}
    {rest : List α} {s : State} (known : n ≤ s.chip.nextId) (h : e ∈ rest ∨ Asked n s l (kind e) stamp emergency) :
    Asked n (rest.foldl (fun s e => s.present l (kind e) stamp emergency) s) l (kind e) stamp emergency := by
  induction rest generalizing s with
  | nil => exact h.resolve_left List.not_mem_nil
  | cons x rest ih =>
    refine ih ?_ ?_
    · rw [State.present_nextId]
      exact Nat.le_succ_of_le known
    · rcases h with listed | asked
      · rcases List.mem_cons.1 listed with rfl | later
        · exact .inr (State.present_asked known l _ stamp emergency)
        · exact .inl later
      · exact .inr (asked.present _ _ _)

/-- A claim that is presented moves nothing of a Landing but its arbiter. -/
theorem State.present_land_proj {α : Type} (g : Landing → α) (h : ∀ x arb, g { x with arb := arb } = g x) (s : State) (l : Nat)
    (k : ClaimKind) (stamp : BitVec 32) (emergency : Bool) (i : Nat) : g ((s.present l k stamp emergency).land i) = g (s.land i) := by
  have staged (u : State) (j : Nat) (f : Arb → Arb) : g ((u.modArb j f).land i) = g (u.land i) :=
    State.modLand_land_proj g (fun x => h x _) u j i
  refine (State.refill_proj (fun u => g (u.land i)) (fun u j a => ?_) _ l).trans (staged _ l _)
  rcases u.enterStaging_cases j a with same | placed
  · rw [same]
  · rw [placed.land]
    exact staged u j _

end Sys2Proof.Machine

/-! SUPPORT. ALERT_N at a Landing: what is discarded at its fall, the retry, and the back-off that the Maintenance Unit takes over (R187 to R189,
R232 to R234). -/

namespace Sys2Proof.Machine

/-! ## Plans discarded -/

/-- A command taken back leaves no command of the next plan at its edge and subchannel. -/
theorem foldl_unplace_planNext (l : LandingId) (cs : List PlanCmd) (s : State) :
    ((cs.foldl (fun s c => s.unplace l c) s).land l).seq.planNext =
      (s.land l).seq.planNext.filter fun e => cs.all fun c => !(e.edge == c.edge && e.sub == c.sub) := by
  induction cs generalizing s with
  | nil => simp
  | cons c cs ih =>
    have taken : ((s.unplace l c).land l).seq.planNext = (s.land l).seq.planNext.filter fun e => !(e.edge == c.edge && e.sub == c.sub) := by
      rw [State.unplace, State.modMnt_land_self, State.modSeq_land_self]
    rw [List.foldl_cons, ih, taken, List.filter_filter]
    simp [List.all_cons, Bool.and_comm]

theorem State.unplaceAll_planNext {s : State} {l : LandingId} {cs : List PlanCmd} (all : (s.land l).seq.planNext ⊆ cs) :
    ((s.unplaceAll l cs).land l).seq.planNext = [] := by
  rw [State.unplaceAll, foldl_unplace_planNext, List.filter_eq_nil_iff]
  intro e planned stays
  have listed := (List.mergeSort_perm cs fun a b => decide (b.edge ≤ a.edge)).mem_iff.2 (all planned)
  simpa using List.all_eq_true.1 stays e listed

/-- The state of a Landing and the retry that it is in. -/
def Landing.retrying (x : Landing) : LState × Option Retry := (x.seq.lstate, x.seq.retry)

theorem State.unplaceAll_retrying (s : State) (l : Nat) (cs : List PlanCmd) (k : Nat) :
    ((s.unplaceAll l cs).land k).retrying = (s.land k).retrying := by
  refine foldl_proj (fun s => (s.land k).retrying) (fun s c => ?_) _ s
  exact (State.modLand_land_proj Landing.retrying (by intro x; rfl) _ l k).trans
    (State.modLand_land_proj Landing.retrying (by intro x; rfl) s l k)

/-- The plans are discarded on a Landing that retries nothing: none is left for the next tread. -/
theorem State.discardPlans_land {s : State} {l : LandingId} (free : (s.land l).seq.retry = none) (k : Nat) :
    ((s.discardPlans l k).land l).retrying = (s.land l).retrying ∧ ((s.discardPlans l k).land l).seq.planNext = [] := by
  unfold State.discardPlans
  simp only [free, Option.isSome_none, Bool.false_eq_true, if_false]
  exact ⟨(State.modLand_land_proj Landing.retrying (by intro x; rfl) _ l l).trans (s.unplaceAll_retrying l _ l),
    (State.modLand_land_proj (fun x => x.seq.planNext) (by intro x; rfl) _ l l).trans
      (State.unplaceAll_planNext (List.subset_append_right _ _))⟩

/-- The retry that the fall of ALERT_N begins (R187, R188). -/
def State.retryAtFall (s : State) (l : Nat) : Retry :=
  let q := (s.land l).seq
  let k := edgeOfCycle q.geom.rate s.chip.cycle
  { fall := s.chip.cycle, window := ((q.past ++ q.planNow).filter fun c => decide (c.edge < k)).filter fun c => decide (k ≤ c.edge + s.lookback l)
    tries := 0, rising := none, done := none, back := q.lstate, parity := false }

/-- The fall on a Landing that retries nothing begins a retry, with no plan for the next tread. -/
theorem State.alertFall_begins {s : State} {l : LandingId} (free : (s.land l).seq.retry = none) :
    ((s.alertFall l).land l).retrying = (.retry, some (s.retryAtFall l)) ∧ ((s.alertFall l).land l).seq.planNext = [] := by
  unfold State.alertFall
  extract_lets q k lb issued window gone t
  have fresh : q.retry.isSome = false := by rw [free, Option.isSome_none]
  obtain ⟨retrying, noPlan⟩ := State.discardPlans_land free k
  obtain ⟨state, retry⟩ := Prod.ext_iff.1 retrying
  change ((s.discardPlans l k).land l).seq.lstate = _ at state
  change ((s.discardPlans l k).land l).seq.retry = _ at retry
  rw [fresh, if_neg Bool.false_ne_true]
  simp [t, State.modSeq_land_self, Landing.retrying, retry, state, noPlan, free, State.retryAtFall, issued, window, k, q, lb]

/-! ## The retraining step given up -/

/-- What an alert and its back-off have to do with of a Landing: its state and retry, the Maintenance Unit, and the words in force. -/
def Landing.alertPart (x : Landing) : LState × Option Retry × Mnt × Words := (x.seq.lstate, x.seq.retry, x.mnt, x.page.live)

theorem State.abortCal_alertPart (s : State) (l cause k : Nat) : ((s.abortCal l cause).land k).alertPart = (s.land k).alertPart := by
  unfold State.abortCal
  extract_lets c margin n work t u v
  have given : (v.land k).alertPart = (s.land k).alertPart :=
    calc (v.land k).alertPart
      _ = (u.land k).alertPart := (State.modLand_land_proj Landing.alertPart (by intro x; rfl) _ l k).trans
            (State.modLand_land_proj Landing.alertPart (by intro x; rfl) u l k)
      _ = (s.land k).alertPart := (State.modLand_land_proj Landing.alertPart (by intro x; rfl) t l k).trans
            (State.modLand_land_proj Landing.alertPart (by intro x; rfl) s l k)
  split
  · rfl
  · split
    · rw [State.land, (v.report_aside _ _).landings]
      exact given
    · exact given

theorem State.dropStep_alertPart (s : State) (l cause k : Nat) : ((s.dropStep l cause).land k).alertPart = (s.land k).alertPart := by
  unfold State.dropStep
  dsimp only
  split
  · exact (State.abortCal_alertPart _ l cause k).trans (State.modLand_land_proj Landing.alertPart (by intro x; rfl) s l k)
  · rfl

theorem State.dropStep_cycle (s : State) (l cause : Nat) : (s.dropStep l cause).chip.cycle = s.chip.cycle :=
  congrArg Kept.cycle (s.dropStep_kept l cause)

theorem State.dropStep_parMax (s : State) (l cause i : Nat) : (s.dropStep l cause).parMax i = s.parMax i := by
  have live : ((s.dropStep l cause).land (homeLand i 0x40C)).page.live = (s.land (homeLand i 0x40C)).page.live :=
    congrArg (fun p => p.2.2.2) (s.dropStep_alertPart l cause _)
  rw [State.parMax, State.lv, live]
  rfl

/-- An alert that is a back-off: the Maintenance Unit takes it, and the Landing returns unless a parity retry has to be made again. -/
theorem State.takeAbo_alertPart (s : State) (l : LandingId) (r : Retry) (risen : Bool) :
    ((s.takeAbo l r risen).land l).alertPart =
      (if r.parity then (s.land l).seq.lstate else r.back, if r.parity then some { r with rising := some s.chip.cycle } else none,
        { (s.land l).mnt with abo := some { fall := r.fall, presented := false, actStopped := false, risen := risen }
                              aboFlight := (s.land l).mnt.aboFlight + 1 }, (s.land l).page.live) := by
  unfold State.takeAbo
  extract_lets t u
  rw [State.dropStep_alertPart]
  simp only [u, t, State.modSeq_land_self, State.bumpL, State.modLand_land_self, State.modMnt_land_self, Landing.alertPart]
  cases r.parity <;> rfl

/-- The same field by field. -/
theorem State.takeAbo_land (s : State) (l : LandingId) (r : Retry) (risen : Bool) :
    ((s.takeAbo l r risen).land l).mnt.abo = some { fall := r.fall, presented := false, actStopped := false, risen := risen } ∧
      ((s.takeAbo l r risen).land l).mnt.aboFlight = (s.land l).mnt.aboFlight + 1 ∧
      (r.parity = false → ((s.takeAbo l r risen).land l).seq.retry = none ∧ ((s.takeAbo l r risen).land l).seq.lstate = r.back) ∧
      (r.parity = true → ((s.takeAbo l r risen).land l).seq.retry = some { r with rising := some s.chip.cycle }) := by
  have part := s.takeAbo_alertPart l r risen
  simp only [Landing.alertPart, Prod.mk.injEq] at part
  obtain ⟨state, retry, mnt, -⟩ := part
  refine ⟨congrArg Mnt.abo mnt, congrArg Mnt.aboFlight mnt, fun clean => ?_, fun again => ?_⟩
  · simp [retry, state, clean]
  · simp [retry, again]

end Sys2Proof.Machine

/-! SUPPORT. The replay of a parity retry (R188), and the commands of an alert, an equation per case. -/

namespace Sys2Proof.Machine

/-! ## The replay -/

theorem State.replayAt_samePlans (s : State) (l lo : Nat) (w : Want) (v : Served) : SamePlans s (s.replayAt l lo w v) := by
  unfold State.replayAt
  extract_lets q k faced placed rfm bank
  have turned : SamePlans s faced := .ite (s.faceBus_samePlans l _ _) (.refl s)
  have recorded : SamePlans s placed := turned.trans (State.recordAct_samePlans _ l k _ w v)
  have relieved (f : Mnt → Mnt) : SamePlans s (placed.modMnt l f) := recorded.trans (State.modMnt_samePlans _ l f)
  split
  · exact relieved _
  · exact relieved _
  · exact relieved _
  · exact relieved _
  · exact recorded

theorem State.replayOne_samePlans (s : State) (l lo : Nat) (c : PlanCmd) : SamePlans s (s.replayOne l lo c) := by
  unfold State.replayOne
  extract_lets w own v closed isOpen
  have closes : SamePlans s closed := by
    simp only [closed]
    split
    · exact s.replayAt_samePlans l lo _ _
    · exact .refl s
  have opened : SamePlans closed (if isOpen then closed else closed.replayAt l lo { w with cmd := .act, col := 0 } Served.own) :=
    .ite (.refl _) (closed.replayAt_samePlans l lo _ _)
  exact closes.trans (.ite (.ite (.refl _) (State.replayAt_samePlans _ l lo w v))
    (.ite (opened.trans (State.replayAt_samePlans _ l lo w v)) (State.replayAt_samePlans _ l lo w v)))

theorem State.replayAbo_samePlans (s : State) (l lo : Nat) : SamePlans s (s.replayAbo l lo) := by
  unfold State.replayAbo
  dsimp only
  split
  · exact .refl s
  · exact (((s.modArb_samePlans l _).trans (State.modSeq_samePlans _ l (by intro q; rfl))).trans
      (foldl_samePlans (fun s e => s.replayAt_samePlans l lo _ _) _ _)).trans (State.modMnt_samePlans _ l _)

/-- A replay is one more try of the retry, in which the Landing stays. -/
theorem State.parityRetry_retrying (s : State) (l : LandingId) (r : Retry) (rise : Nat) :
    ∃ k, ((s.parityRetry l r rise).land l).retrying = ((s.land l).seq.lstate, some { r with tries := r.tries + 1, done := some k }) := by
  unfold State.parityRetry
  extract_lets rate lo awake closed served replayed last rl
  have replays : SamePlans s replayed :=
    (((foldl_samePlans (fun s e => s.replayAt_samePlans l lo _ _) _ s).trans
      (foldl_samePlans (fun s e => s.replayAt_samePlans l lo _ _) _ awake)).trans (closed.replayAbo_samePlans l lo)).trans
      (foldl_samePlans (fun s c => s.replayOne_samePlans l lo c) _ served)
  have state : (replayed.land l).seq.lstate = (s.land l).seq.lstate := congrArg Prod.fst (replays l)
  refine ⟨last + rl + 8, ?_⟩
  rw [State.bumpL, State.modLand_land_self, State.modSeq_land_self]
  exact congrArg (·, _) state

/-! ## The fall and the rise of ALERT_N -/

/-- At rest the fall is only counted (R233). -/
theorem execAlertNFall_ignored {s : State} {l : LandingId} (started : (s.land l).sbd.started = true) (on : s.chip.coreOn = true)
    (retry : (s.land l).seq.retry = none) (abo : (s.land l).mnt.abo = none)
    (rest : (s.land l).seq.lstate = .sr ∨ (s.land l).seq.lstate = .fenced ∨ (s.land l).seq.lstate = .halt) :
    execAlertNFall l s = .next (s.bumpL l 0x698 1) := by
  rcases rest with state | state | state <;> simp [execAlertNFall, started, on, retry, abo, state]

theorem execAlertNFall_begins {s : State} {l : LandingId} (started : (s.land l).sbd.started = true) (on : s.chip.coreOn = true)
    (retry : (s.land l).seq.retry = none) (abo : (s.land l).mnt.abo = none)
    (works : (s.land l).seq.lstate = .run ∨ (s.land l).seq.lstate = .drain) : execAlertNFall l s = .next (s.alertFall l) := by
  rcases works with state | state <;> simp [execAlertNFall, started, on, retry, abo, state]

section
variable {s : State} {l : LandingId} {r : Retry} (retry : (s.land l).seq.retry = some r) (low : r.rising = none)
include retry low

theorem execAlertNRise_of_long (long : s.parityLength l r.fall = false) : execAlertNRise l s = .next (s.takeAbo l r true) := by
  simp [execAlertNRise, retry, low, long]

theorem execAlertNRise_of_short (short : s.parityLength l r.fall = true) (left : r.tries < s.parMax l) :
    execAlertNRise l s = .next ((s.dropStep l 7).modSeq l fun q =>
      { q with retry := some { r with rising := some s.chip.cycle, parity := true } }) := by
  simp [execAlertNRise, retry, low, short, State.dropStep_parMax, State.dropStep_cycle, Nat.not_le_of_lt left]

/-- The Landing is fenced once its retries are spent (R189). -/
theorem execAlertNRise_of_spent (short : s.parityLength l r.fall = true) (spent : s.parMax l ≤ r.tries) :
    ∃ u : State, execAlertNRise l s = .next (u.raise (repL 4 2 l 0) (some ((s.dropStep l 7).landFence [l.val] (repL 4 2 l 0)))) := by
  refine ⟨(s.dropStep l 7).modSeq l fun q => { q with retry := some { r with rising := some s.chip.cycle, done := none, parity := true } }, ?_⟩
  simp [execAlertNRise, retry, low, short, State.dropStep_parMax, State.dropStep_cycle, spent]

theorem execAlertClassifyTimeout_of_low : execAlertClassifyTimeout l s = .next (s.takeAbo l r false) := by
  simp [execAlertClassifyTimeout, retry, low]

end

theorem execAlertNRise_of_abo {s : State} {l : LandingId} {a : Abo} (retry : (s.land l).seq.retry = none)
    (abo : (s.land l).mnt.abo = some a) :
    execAlertNRise l s = .next ((s.modMnt l fun m => { m with abo := some { a with risen := true } }).levelOff 5 2 l) := by
  simp [execAlertNRise, retry, abo]

theorem execParityRetry_of_risen {s : State} {l : LandingId} {r : Retry} {rise : Nat} (retry : (s.land l).seq.retry = some r)
    (risen : r.rising = some rise) (undone : r.done = none) (parity : r.parity = true) (state : (s.land l).seq.lstate = .retry)
    (left : r.tries < s.parMax l) : execParityRetry l s = .next (s.parityRetry l r rise) := by
  simp [execParityRetry, retry, risen, undone, parity, state, left]

/-! ## The back-off -/

/-- A Landing that a change leaves as it is leaves the state as it is. -/
theorem State.modLand_of_eq {s : State} {l : LandingId} {f : Landing → Landing} (h : f (s.land l) = s.land l) : s.modLand l f = s := by
  have same : s.landings.setIfInBounds l.val (s.land l) = s.landings := by
    ext i hi
    by_cases here : l.val = i
    · simp [State.land, ← here]
    · simp [here]
  rw [State.modLand, h, State.setLand, same]

/-- Rounds of one RFM to each rank are one list of RFMs, since no claim that is presented changes the ranks. -/
theorem foldl_aboRounds {l : Nat} (stamp : BitVec 32) {ranks : List (Nat × Nat)} (rounds : List Nat) {s : State}
    (same : (s.land l).rankList = ranks) :
    rounds.foldl (fun s _ => (s.land l).rankList.foldl (fun s e => s.present l (.aboRfm e.1 e.2) stamp true) s) s =
      (rounds.flatMap fun _ => ranks).foldl (fun s e => s.present l (.aboRfm e.1 e.2) stamp true) s := by
  induction rounds generalizing s with
  | nil => rfl
  | cons n rounds ih =>
    rw [List.foldl_cons, List.flatMap_cons, List.foldl_append, same]
    refine ih (Eq.trans ?_ same)
    exact foldl_proj (fun s => (s.land l).rankList) (fun s e => s.present_land_proj Landing.rankList (by intros; rfl) l _ _ _ l) _ s

/-- A back-off is marked presented, and each of its rounds presents an RFM to every rank. -/
def State.aboPresented (s : State) (l : Nat) (a : Abo) : State :=
  ((List.range (s.aboCount l)).flatMap fun _ => (s.land l).rankList).foldl
    (fun s e => s.present l (.aboRfm e.1 e.2) (stampOf (a.fall / 2)) true)
    (s.modMnt l fun m => { m with abo := some { a with presented := true } })

theorem State.aboPresented_abo (s : State) (l : LandingId) (a : Abo) :
    ((s.aboPresented l a).land l).mnt.abo = some { a with presented := true } := by
  unfold State.aboPresented
  refine (foldl_proj (fun s => (s.land l).mnt.abo) (fun s e => ?_) _ _).trans ?_
  · exact s.present_land_proj (fun x => x.mnt.abo) (by intros; rfl) l _ _ _ l
  · rw [State.modMnt_land_self]

theorem State.aboPresented_claims (s : State) (l : LandingId) (a : Abo) {e : Nat × Nat} (ranked : e ∈ (s.land l).rankList) :
    Sys2Proof.Slice.Claims s (s.aboPresented l a) l (.aboRfm e.1 e.2) (stampOf (a.fall / 2)) true := by
  have one : 0 ∈ List.range (s.aboCount l) := List.mem_range.2 (Nat.two_pow_pos _)
  exact (foldl_present_asked (fun e : Nat × Nat => ClaimKind.aboRfm e.1 e.2) _ true l (Nat.le_refl _)
    (.inl (List.mem_flatMap.2 ⟨0, one, ranked⟩))).claims

section
variable {s : State} {l : LandingId} {a : Abo} (abo : (s.land l).mnt.abo = some a)
include abo

theorem execAboPresent_of_due (fresh : a.presented = false) (serves : s.mntServes l = true)
    (due : a.fall + 2 * fld (s.lv l 0x618) 15 8 ≤ s.chip.cycle) : execAboPresent l s = .next (s.aboPresented l a) := by
  have same : ((s.modMnt l fun m => { m with abo := some { a with presented := true } }).land l).rankList = (s.land l).rankList := by
    rw [State.modMnt_land_self]
    rfl
  have count : (s.modMnt l fun m => { m with abo := some { a with presented := true } }).aboCount l = s.aboCount l := by
    have live := State.modLand_land_proj (f := fun x => { x with mnt := { x.mnt with abo := some { a with presented := true } } })
      (fun x => x.page.live) (by intro x; rfl) s l (homeLand l 0x618)
    exact congrArg (fun w => 2 ^ fld (getW (landDefault 0x618) w 0x618) 17 16) live
  unfold execAboPresent
  rw [abo]
  dsimp only
  rw [if_neg (by simp [fresh, serves, State.pastNs, due]), foldl_aboRounds _ _ same, count]
  rfl

theorem execAboPresent_waits (early : s.chip.cycle < a.fall + 2 * fld (s.lv l 0x618) 15 8) : execAboPresent l s = .next s := by
  simp [execAboPresent, abo, State.pastNs, Nat.not_le_of_lt early]

/-- ACTs stop once the window has passed (R232). -/
theorem execAboActWindowEnd_of_past (past : a.fall + 2 * fld (s.lv l 0x618) 7 0 ≤ s.chip.cycle) :
    execAboActWindowEnd l s = .next (s.modMnt l fun m => { m with abo := some { a with actStopped := true } }) := by
  simp [execAboActWindowEnd, State.modMnt, State.modLand, abo, State.pastNs, past]

theorem execAboActWindowEnd_early (early : s.chip.cycle < a.fall + 2 * fld (s.lv l 0x618) 7 0) : execAboActWindowEnd l s = .next s := by
  refine congrArg Host.Outcome.next (State.modLand_of_eq ?_)
  simp [abo, State.pastNs, Nat.not_le_of_lt early]
  rw [← abo]

/-- A back-off ends with the alert risen and its last RFM over (R232). -/
theorem execAboEnd_of_over (presented : a.presented = true) (placed : (s.land l).claimed ClaimKind.isAbo = false) (risen : a.risen = true)
    (ended : s.rfmsOver l = true) : execAboEnd l s = .next ((s.modMnt l fun m => { m with abo := none }).levelOff 5 2 l) := by
  simp [execAboEnd, abo, presented, placed, risen, ended]

theorem execAboEnd_waits (h : a.risen = false ∨ s.rfmsOver l = false) : execAboEnd l s = .next s := by
  rcases h with low | flies
  · simp [execAboEnd, abo, low]
  · simp [execAboEnd, abo, flies]

theorem execAlertStuck_reports (presented : a.presented = true) (placed : (s.land l).claimed ClaimKind.isAbo = false)
    (low : a.risen = false) (old : s.rfmsOld l = true) (fresh : s.levelHolds 5 2 l = false) :
    execAlertStuck l s = .next (s.levelReport (repL 5 2 l 0) (some (s.landFence [l.val] (repL 5 2 l 0)))) := by
  simp [execAlertStuck, abo, presented, placed, low, old, fresh]

theorem execAlertStuck_of_risen (risen : a.risen = true) : execAlertStuck l s = .next s := by simp [execAlertStuck, abo, risen]

end

end Sys2Proof.Machine

section
open Sys2Proof Sys2Proof.Machine Sys2Proof.Slice

/-- Settles O43: the fall begins a retry (`State.alertFall_begins`), an alert that is a back-off is taken over (`State.takeAbo_land`), a
parity alert is replayed (`State.parityRetry_retrying`), and a back-off that is presented stands as emergencies at the Landing
(`State.aboPresented_claims`). -/
theorem alertsAreRetriedOrServed : Obligations.AlertsAreRetriedOrServed := by
  unfold Obligations.AlertsAreRetriedOrServed
  refine ⟨?fall, ?low, ?rises, ?replay, ?serves, ?ends⟩
  case fall =>
    intro s l started on retry abo
    refine ⟨execAlertNFall_ignored started on retry abo, fun works => ?_⟩
    obtain ⟨retrying, noPlan⟩ := State.alertFall_begins retry
    obtain ⟨state, begun⟩ := Prod.ext_iff.1 retrying
    exact ⟨_, _, execAlertNFall_begins started on retry abo works, state, begun, rfl, rfl, rfl, rfl, rfl, noPlan⟩
  case low =>
    intro s l r retry low
    refine ⟨fun short left => ⟨_, execAlertNRise_of_short retry low short left, ?_, ?_⟩, fun short spent => ?_, fun long => ?_, ?_⟩
    · rw [State.modSeq_land_self]
    · rw [State.modSeq_land_self]
      exact congrArg Prod.fst (s.dropStep_alertPart l 7 l)
    · obtain ⟨u, step⟩ := execAlertNRise_of_spent retry low short spent
      exact ⟨u, _, step, rfl, rfl⟩
    · obtain ⟨abo, -, ends, again⟩ := s.takeAbo_land l r true
      exact ⟨_, execAlertNRise_of_long retry low long, abo, ends, again⟩
    · exact ⟨_, execAlertClassifyTimeout_of_low retry low, s.takeAbo_land l r false⟩
  case rises => exact fun s l a retry abo => execAlertNRise_of_abo retry abo
  case replay =>
    intro s l r retry risen undone parity state left
    obtain ⟨rise, risen⟩ := Option.isSome_iff_exists.1 risen
    obtain ⟨k, retrying⟩ := s.parityRetry_retrying l r rise
    obtain ⟨stays, again⟩ := Prod.ext_iff.1 retrying
    exact ⟨_, k, execParityRetry_of_risen retry risen undone parity state left, again, stays.trans state⟩
  case serves =>
    intro s l a abo
    exact ⟨fun fresh serves due => ⟨_, execAboPresent_of_due abo fresh serves due, s.aboPresented_abo l a, fun e => s.aboPresented_claims l a⟩,
      execAboPresent_waits abo, execAboActWindowEnd_of_past abo, execAboActWindowEnd_early abo⟩
  case ends =>
    intro s l a abo presented placed
    exact ⟨execAboEnd_of_over abo presented placed, execAboEnd_waits abo, execAlertStuck_reports abo presented placed,
      execAlertStuck_of_risen abo⟩

end

/-! SUPPORT. The clock period of a data rate and the word of `SEQ_TCK` (R195). -/

namespace Sys2Proof.Machine

/-- The period is the one whole number of picoseconds with `RATE` periods within 2,000,000 ps and `RATE` longer ones past it. -/
theorem tckOf_bounds {rate : Nat} (moves : 0 < rate) : tckOf rate * rate ≤ 2000000 ∧ 2000000 < (tckOf rate + 1) * rate := by
  have floor : tckOf rate = 2000000 / rate := if_neg moves.ne'
  rw [floor]
  exact ⟨Nat.div_mul_le_self 2000000 rate, Nat.mul_comm rate _ ▸ Nat.lt_mul_div_succ 2000000 moves⟩

theorem ruleAt_tck : ruleAt 0x8C4 = none := by decide

/-- `SEQ_TCK` is no rule register and reads the period, and 0 without geometry (R196). -/
theorem State.rulePage_tck (s : State) (l : Nat) :
    s.rulePage l 0x8C4 = BitVec.ofNat 32 (if (s.land l).seq.geom.valid then tckOf (s.land l).seq.geom.rate else 0) := by
  simp [State.rulePage, ruleAt_tck, at_]

end Sys2Proof.Machine

section
open Sys2Proof Sys2Proof.Machine Sys2Proof.Slice

/-- Settles O11: the period is the floor (`tckOf_bounds`), `SEQ_TCK` reads it (`State.rulePage_tck`), and the examples are evaluated. -/
theorem clockPeriodIsTruncated : Obligations.ClockPeriodIsTruncated := by
  unfold Obligations.ClockPeriodIsTruncated
  refine ⟨fun rate moves => tckOf_bounds moves, fun s l valid => ?reads, by decide⟩
  case reads => rw [State.rulePage_tck, if_pos valid]

end

/-! SUPPORT. Sensor and PMIC readings with the level conditions that they hold and end, and transactions of the sideband (R220, R304,
R312). -/

namespace Sys2Proof.Machine

/-! ## Level conditions under a report -/

theorem State.modArcade_flt (s : State) (f : Arcade → Arcade) : (s.modArcade f).flt = s.flt := by
  have popped (u : State) : u.popWide.2.flt = u.flt := by
    unfold State.popWide
    split <;> rfl
  unfold State.modArcade State.serveWide
  split
  · split
    · rfl
    · exact popped _
  · rfl

theorem State.post_flt (s : State) (type prio : Nat) (data : List W32) : (s.post type prio data).flt = s.flt := by
  obtain ⟨_, _, _, h⟩ := s.post_frame type prio data
  rw [h]

theorem Flt.latch_levels (f : Flt) (k : Nat) (r : Rep) (time : Nat) : (f.latch k r time).levels = f.levels := by
  unfold Flt.latch
  split <;> rfl

theorem State.reportAt_levels (s : State) (r : Rep) (grain time : Nat) : (s.reportAt r grain time).flt.levels = s.flt.levels := by
  have logged (u : State) (entry : Record) : ((u.snapshot r).history entry).flt = u.flt := u.modArcade_flt _
  unfold State.reportAt
  dsimp only
  split
  · rfl
  · split
    · exact Flt.latch_levels _ _ _ _
    · split
      · rw [logged]
        exact Flt.latch_levels _ _ _ _
      · rw [State.post_flt, logged]
        exact Flt.latch_levels _ _ _ _

theorem State.report_levels (s : State) (r : Rep) (grain : Nat) : (s.report r grain).flt.levels = s.flt.levels := by
  unfold State.report
  split
  · exact s.reportAt_levels r grain s.now
  · split <;> rfl

theorem State.raise_levels (s : State) {r : Rep} (h : r.cls ≠ 3) : (s.raise r none).flt.levels = s.flt.levels := by
  unfold State.raise
  split
  · exact s.report_levels r _
  · simpa [h] using s.report_levels r 0xFF

theorem State.levelOn_holds (s : State) (r : Rep) : (s.levelOn r).flt.levels.contains r = true := by
  unfold State.levelOn
  split
  next held => exact held
  next => simp

theorem State.levelOn_onlyReported (s : State) (r : Rep) : OnlyReported s (s.levelOn r) := by
  unfold State.levelOn
  split
  · exact .refl s
  · exact s.modFlt_onlyReported _

/-- A level source below class F that is reported holds. -/
theorem State.levelReport_holds (s : State) {r : Rep} (h : r.cls ≠ 3) : (s.levelReport r none).flt.levels.contains r = true := by
  rw [State.levelReport, State.raise_levels _ h]
  exact s.levelOn_holds r

theorem State.levelReport_onlyReported (s : State) {r : Rep} (h : r.cls ≠ 3) : OnlyReported s (s.levelReport r none) :=
  (s.levelOn_onlyReported r).trans (State.raise_onlyReported _ h)

theorem State.levelEnd_land (s : State) (r : Rep) (k : Nat) : (s.levelEnd r).land k = s.land k := by
  unfold State.levelEnd
  split <;> rfl

theorem State.levelEnd_ends (s : State) (r : Rep) : (s.levelEnd r).flt.levels.contains r = false := by
  unfold State.levelEnd
  split
  next => simp
  next ended => exact Bool.eq_false_iff.2 ended

theorem OnlyReported.land {s t : State} (h : OnlyReported s t) (k : Nat) : t.land k = s.land k := by
  obtain ⟨_, _, _, _, _, _, _, rfl⟩ := h
  rfl

theorem OnlyReported.box {s t : State} (h : OnlyReported s t) (k : Nat) : t.box k = s.box k := by
  obtain ⟨_, _, _, _, _, _, _, rfl⟩ := h
  rfl

/-! ## Readings of a module (R220, R312) -/

theorem Sbd.setModule_moduleAt (b : Sbd) (slot : Fin 2) (m : Module) : (b.setModule slot m).moduleAt slot = some m := by
  rw [Sbd.moduleAt, Sbd.setModule, Vector.getElem?_setIfInBounds_self_of_lt slot.isLt, Option.getD_some]

/-- Neither source of a module is of class F (R515). -/
theorem sensorRep_cls (l slot : Nat) : (sensorRep l slot).cls ≠ 3 := show srcClass 5 1 ≠ 3 by decide
theorem pmicRep_cls (l slot : Nat) : (pmicRep l slot).cls ≠ 3 := show srcClass 9 2 ≠ 3 by decide

/-- Judging the readings moves neither the modules nor the counts of failed reads. -/
theorem State.judgeHeat_land (s : State) (l : LandingId) :
    ((s.judgeHeat l).land l).sbd = (s.land l).sbd ∧ ((s.judgeHeat l).land l).mnt.fails = (s.land l).mnt.fails := by
  simp [State.judgeHeat]

section
variable {s : State} {l : LandingId} {slot : Fin 2} {m : Module}

/-- The Landing with the failed reads of a slot's sensor counted anew, and its readings judged. -/
def State.failsNoted (s : State) (l : LandingId) (slot : Fin 2) (n : Nat) : State :=
  (s.modMnt l fun x => { x with fails := x.fails.setIfInBounds slot n }).judgeHeat l

theorem State.failsNoted_fails (s : State) (l : LandingId) (slot : Fin 2) (n : Nat) :
    ((s.failsNoted l slot n).land l).mnt.fails[slot.val]? = some n := by
  rw [State.failsNoted, (State.judgeHeat_land _ l).2, State.modMnt_land_self]
  exact Vector.getElem?_setIfInBounds_self_of_lt slot.isLt

theorem State.failsNoted_sbd (s : State) (l : LandingId) (slot : Fin 2) (n : Nat) :
    ((s.failsNoted l slot n).land l).sbd = (s.land l).sbd := by
  rw [State.failsNoted, (State.judgeHeat_land _ l).1, State.modMnt_land_self]

theorem execThermalRead_of_reading (here : (s.land l).sbd.moduleAt slot = some m) (unpaused : s.busPaused l = false)
    (on : s.chip.coreOn = true) (temp : Nat) : ∃ t, exec (.thermalRead l slot (some temp)) s = .next t ∧
      t.land l = ((s.modSbd l fun b => b.setModule slot { m with temp := temp }).failsNoted l slot 0).land l := by
  refine ⟨_, by simp only [exec, execThermalRead, here, unpaused, on]; rfl, ?_⟩
  split
  · rfl
  · rw [State.levelEnd_land, State.levelEnd_land]
    rfl

theorem execThermalRead_of_failure (here : (s.land l).sbd.moduleAt slot = some m) (unpaused : s.busPaused l = false)
    (on : s.chip.coreOn = true) {n : Nat} (failed : ((s.land l).mnt.fails[slot.val]?).getD 0 = n) :
    exec (.thermalRead l slot none) s = .next (if n + 1 = 2 then (s.failsNoted l slot (n + 1)).levelReport (sensorRep l slot) none
      else s.failsNoted l slot (n + 1)) := by
  simp only [exec, execThermalRead, here, unpaused, on, failed]
  rfl

theorem execPmicStatusRead_of_good (here : (s.land l).sbd.moduleAt slot = some m) (unpaused : s.busPaused l = false)
    (on : s.chip.coreOn = true) (status : W32) (fault : Bool) : exec (.pmicStatusRead l slot status false fault) s =
      .next ((s.modSbd l fun b => b.setModule slot { m with pmic := status, pmicBad := fault }).levelEnd (pmicRep l slot)) := by
  simp only [exec, execPmicStatusRead, here, unpaused, on]
  rfl

theorem execPmicStatusRead_of_warning (here : (s.land l).sbd.moduleAt slot = some m) (unpaused : s.busPaused l = false)
    (on : s.chip.coreOn = true) (status : W32) (fault : Bool) :
    ∃ t, exec (.pmicStatusRead l slot status true fault) s = .next t ∧
      t.land l = (s.modSbd l fun b => b.setModule slot { m with pmic := status, pmicBad := true }).land l ∧
      t.flt.levels.contains (pmicRep l slot) = true := by
  cases held : s.flt.levels.contains (pmicRep l slot)
  case true => exact ⟨_, by simp only [exec, execPmicStatusRead, here, unpaused, on, State.modSbd_flt, held]; rfl, rfl, held⟩
  case false =>
    refine ⟨_, by simp only [exec, execPmicStatusRead, here, unpaused, on, State.modSbd_flt, held]; rfl, ?_, ?_⟩
    · rw [(State.post_onlyReported _ _ _ _).land, (State.levelReport_onlyReported _ (pmicRep_cls l slot)).land]
      rfl
    · rw [State.post_flt]
      exact State.levelReport_holds _ (pmicRep_cls l slot)

end

/-! ## Transactions (R304) -/

section
variable {s : State} {bus : Fin 6} {j : SbdJob}

theorem State.sbdStart_box (s : State) (bus k : Nat) : (s.sbdStart bus).box k = s.box k := by
  unfold State.sbdStart
  split
  · rfl
  · dsimp only
    split <;> rfl

/-- A transition pauses a bus that has been freed (log entry 63). -/
theorem State.sbdStart_paused {s : State} (bus : Nat) (moves : s.pwr.trans.isSome = true) : s.sbdStart bus = s := if_pos (by simp [moves])

theorem State.sbdFree_running (s : State) (bus : Nat) : (s.sbdFree bus).sbdRunning bus = none := by
  simp [State.sbdFree, State.sbdRunning, List.find?_filter]

section
variable {m : MailboxId} (running : s.sbdRunning bus = some j) (asked : j.mailbox = some m.val) (busy : (s.box m).state = .busy)
  (xfer : (s.box m).opc = 0x0107)
include running asked busy xfer

theorem execSidebandTransactionDone_of_xfer (data : List Byte) : exec (.sidebandTransactionDone bus data) s =
    .next (((s.sbdFree bus).finish m .ok []
      (if ((s.box m).word 2).getLsbD 16 then fitTo (fld ((s.box m).word 3) 10 0) data else [])).sbdStart bus) := by
  have waits : ((s.sbdFree bus).box m).state = .busy ∧ ((s.sbdFree bus).box m).opc = 0x0107 := ⟨busy, xfer⟩
  simp only [exec, execSidebandTransactionDone, running, asked, if_pos waits]
  rfl

/-- The third timeout is reported, and the transaction fails. -/
theorem execSidebandTimeout_of_spent (spent : 2 ≤ j.tries) : ∃ u, OnlyReported (s.sbdFree bus) u ∧
    exec (.sidebandTimeout bus) s = .next ((u.finishS m .failed).sbdStart bus) := by
  have class9 : ({ rep 9 1 bus.val (at_ 0 j.hid) with land := if j.prio = 3 then some j.landing else none } : Rep).cls ≠ 3 :=
    show srcClass 9 1 ≠ 3 by decide
  have reported := State.raise_onlyReported (s.sbdFree bus) class9
  have waits : ∀ u, OnlyReported (s.sbdFree bus) u → (u.box m).state = .busy ∧ (u.box m).opc = 0x0107 := by
    intro u same
    rw [same.box m]
    exact ⟨busy, xfer⟩
  refine ⟨_, reported, ?_⟩
  simp only [exec, execSidebandTimeout, running, asked, if_neg (Nat.not_lt.2 spent), if_pos (waits _ reported)]

end

theorem execSidebandTimeout_of_left (running : s.sbdRunning bus = some j) (left : j.tries < 2) :
    exec (.sidebandTimeout bus) s = .next { s with
      misc := { s.misc with sbdBusy := mapIf (fun e => e.bus = bus.val) (fun e => { e with tries := e.tries + 1 }) s.misc.sbdBusy } } := by
  simp only [exec, execSidebandTimeout, running, if_pos left]
  rfl

end

end Sys2Proof.Machine

section
open Sys2Proof Sys2Proof.Machine Sys2Proof.Slice

/-- Settles O45: a reading is kept by `Sbd.setModule_moduleAt` and counted by `State.failsNoted_fails`, a source of a module holds by
`State.levelReport_holds` until `State.levelEnd_ends`, and a transaction completes the mailbox that waits for it. -/
theorem sensorsAndSidebandReport : Obligations.SensorsAndSidebandReport := by
  unfold Obligations.SensorsAndSidebandReport
  refine ⟨fun s l slot m here unpaused on => ⟨?reading, ?failure, ?warning, ?good⟩,
    fun s bus data j m running asked busy xfer => ⟨?done, execSidebandTimeout_of_left running, ?spent⟩, ?idle⟩
  case reading =>
    intro temp
    obtain ⟨t, runs, landed⟩ := execThermalRead_of_reading here unpaused on temp
    refine ⟨t, runs, ?_, ?_⟩
    · rw [landed, State.failsNoted_sbd, State.modSbd_land_self]
      exact Sbd.setModule_moduleAt _ slot _
    · rw [landed]
      exact State.failsNoted_fails _ l slot 0
  case failure =>
    refine ⟨_, execThermalRead_of_failure here unpaused on rfl, ?_, fun once => ?_, fun fresh => ?_⟩
    · split
      · rw [(State.levelReport_onlyReported _ (sensorRep_cls l slot)).land]
        exact State.failsNoted_fails s l slot _
      · exact State.failsNoted_fails s l slot _
    · simp only [once, Option.getD_some]
      exact State.levelReport_holds _ (sensorRep_cls l slot)
    · simp only [fresh, Option.getD_some]
      rfl
  case warning =>
    intro status fault
    obtain ⟨t, runs, landed, held⟩ := execPmicStatusRead_of_warning here unpaused on status fault
    refine ⟨t, runs, ?_, held⟩
    rw [landed, State.modSbd_land_self]
    exact Sbd.setModule_moduleAt _ slot _
  case good =>
    intro status fault
    refine ⟨_, execPmicStatusRead_of_good here unpaused on status fault, ?_, State.levelEnd_ends _ _⟩
    rw [State.levelEnd_land, State.modSbd_land_self]
    exact Sbd.setModule_moduleAt _ slot _
  case done =>
    have ended := (State.sbdStart_box ((s.sbdFree bus).finish m .ok []
      (if ((s.box m).word 2).getLsbD 16 then fitTo (fld ((s.box m).word 3) 10 0) data else [])) bus m).trans (State.finish_box_self _ m _ _ _)
    refine ⟨_, execSidebandTransactionDone_of_xfer running asked busy xfer data, ?_, ended, fun moves => ?_⟩
    · rw [ended]
      rfl
    · rw [State.sbdStart_paused (s := (s.sbdFree bus).finish m _ _ _) bus moves]
      exact s.sbdFree_running bus
  case spent =>
    intro spent
    obtain ⟨u, reported, runs⟩ := execSidebandTimeout_of_spent running asked busy xfer spent
    refine ⟨_, runs, ?_⟩
    rw [State.sbdStart_box]
    refine (State.finish_box_self u m .failed [] []).trans ?_
    rw [reported.box m]
    rfl
  case idle =>
    intro s bus data none
    exact ⟨by simp only [exec, execSidebandTransactionDone, none], by simp only [exec, execSidebandTimeout, none]⟩

end

/-! SUPPORT. Folds over a list in which one element's step is followed. -/

namespace Sys2Proof.Machine

/-- The step of one element of a list without repetition: the others come before or after it. -/
theorem foldl_around {α β : Type} (f : β → α → β) {rest : List α} {x : α} (listed : x ∈ rest) (once : rest.Nodup) (s : β) :
    ∃ before after, before ⊆ rest ∧ after ⊆ rest ∧ x ∉ before ∧ x ∉ after ∧ rest.foldl f s = after.foldl f (f (before.foldl f s) x) := by
  obtain ⟨before, after, rfl⟩ := List.append_of_mem listed
  rw [List.nodup_middle, List.nodup_cons, List.mem_append, not_or] at once
  exact ⟨before, after, fun y h => List.mem_append_left _ h, fun y h => List.mem_append_right _ (List.mem_cons_of_mem _ h), once.1.1,
    once.1.2, by rw [List.foldl_append, List.foldl_cons]⟩

/-- What the steps of the elements keep of the state that they began in, all of them keep. -/
theorem foldl_keeps {α β : Type} {R : β → Prop} {f : β → α → β} {rest : List α} (step : ∀ t, ∀ x ∈ rest, R t → R (f t x)) {s : β} (h : R s) :
    R (rest.foldl f s) := by
  induction rest generalizing s with
  | nil => exact h
  | cons x rest ih => exact ih (fun t y hy => step t y (List.mem_cons_of_mem _ hy)) (step s x List.mem_cons_self h)

end Sys2Proof.Machine

/-! SUPPORT. The commands of calibration, ECC, repair and scrub, each by its outcomes. -/

namespace Sys2Proof.Machine

open Sys2Proof.Slice (Begins Awake worksInHalt boxesOn boxesDone answered)

/-! ## `CAL_RUN` -/

/-- Nothing moves but the Landings, and the pulse of STATUS1; the Landing `l` stays. -/
def Elsewhere (l : Nat) (s t : State) : Prop :=
  (∃ landings pulse, t = { s with landings := landings, chip := { s.chip with status1Pulse := pulse } }) ∧ t.land l = s.land l

theorem Elsewhere.refl (l : Nat) (s : State) : Elsewhere l s s := ⟨⟨_, _, rfl⟩, rfl⟩

theorem Elsewhere.trans {l : Nat} {s t u : State} : Elsewhere l s t → Elsewhere l t u → Elsewhere l s u := by
  rintro ⟨⟨_, _, rfl⟩, ht⟩ ⟨⟨_, _, rfl⟩, hu⟩
  exact ⟨⟨_, _, rfl⟩, hu.trans ht⟩

theorem State.modLand_elsewhere {l j : Nat} (other : j ≠ l) (s : State) (f : Landing → Landing) : Elsewhere l s (s.modLand j f) :=
  ⟨⟨_, _, rfl⟩, s.modLand_land_ne j l f other⟩

theorem State.status1Hold_elsewhere (l : Nat) (s : State) (code : Nat) : Elsewhere l s (s.status1Hold code) := by
  unfold State.status1Hold
  split
  · split
    · exact ⟨⟨_, _, rfl⟩, rfl⟩
    · exact .refl l s
  · exact .refl l s

theorem State.requestRun_elsewhere {l j : Nat} (other : j ≠ l) (s : State) : Elsewhere l s (s.requestRun j) := by
  unfold State.requestRun
  dsimp only
  split
  · exact .refl l s
  · split
    · exact (s.modLand_elsewhere other _).trans (State.status1Hold_elsewhere l _ 3)
    · exact (s.modLand_elsewhere other _).trans (State.modLand_elsewhere other _ _)

/-- A run asked of another Landing. -/
theorem State.askCal_elsewhere {l j : Nat} (other : j ≠ l) (s : State) : Elsewhere l s (s.askCal j false) := by
  unfold State.askCal
  rw [if_neg Bool.false_ne_true]
  split
  · exact s.modLand_elsewhere other _
  · dsimp only
    refine (s.modLand_elsewhere other fun x => { x with cal := { x.cal with outcome := none, asked := true } }).trans ?_
    split
    · split
      · exact State.modLand_elsewhere other _ _
      · exact .refl l _
    · exact State.requestRun_elsewhere other _

/-- What stands in a run's way at a Landing is read off the Landing and what moves elsewhere leaves alone. -/
theorem Elsewhere.calBlock {l : Nat} {s t : State} (h : Elsewhere l s t) : t.calBlock l = s.calBlock l ∧ t.landFenced l = s.landFenced l := by
  obtain ⟨⟨_, _, rfl⟩, same⟩ := h
  refine ⟨?_, rfl⟩
  simp only [State.calBlock, State.wakeRun, same]
  rfl

theorem State.landFenced_of_calBlock {s : State} {l : Nat} (may : s.calBlock l = none) : s.landFenced l = false := by
  by_contra fenced
  simp only [State.calBlock, Bool.not_eq_false] at fenced may
  simp only [fenced] at may
  split at may
  · simp at may
  · split at may <;> simp at may

theorem State.askCal_of_fenced {s : State} {l : LandingId} (fenced : s.landFenced l = true) :
    ((s.askCal l false).land l).cal.outcome = some 3 := by
  simp [State.askCal, fenced]

/-- With nothing in its way the run that is asked for starts. -/
theorem State.askCal_starts {s : State} {l : LandingId} (may : s.calBlock l = none) (rests : (s.land l).cal.run = none)
    (none : (s.land l).cal.staged = none) : ∃ r, ((s.askCal l false).land l).cal.run = some r ∧ r.margin = false := by
  have may' : (s.modCal l fun c => { c with outcome := Option.none, asked := true }).calBlock l = Option.none := by
    simp only [State.calBlock, State.wakeRun, State.modCal_land_self] at may ⊢
    exact may
  have asks : s.askCal l false = (s.modCal l fun c => { c with outcome := Option.none, asked := true }).startRun l false := by
    simp [State.askCal, State.landFenced_of_calBlock may, rests, State.requestRun, none, may']
  rw [asks, State.startRun, (State.status1Hold_elsewhere l _ 3).2, State.modCal_land_self]
  exact ⟨_, rfl, rfl⟩

section
variable {s : State} {m : MailboxId}

theorem exec_calRun (begins : Begins s m 0x0301) (awake : Awake s) : exec (.calRun m) s = .next (s.calRun m).pump :=
  amiom_of_awake (fun s => s.calRun m) begins awake (by decide)

theorem State.calRun_badTime (bad : fld ((s.box m).word 3) 9 0 < 1 ∨ 1000 < fld ((s.box m).word 3) 9 0) :
    s.calRun m = s.finishS m .badParam := if_pos bad

/-- The Landings that a mask names (R471). -/
def namedLandings (w : W32) : List Nat := (List.range 12).filter fun l => w.getLsbD l

theorem mem_namedLandings (w : W32) (l : LandingId) : l.val ∈ namedLandings w ↔ w.getLsbD l = true := by simp [namedLandings]

theorem State.calRun_unstarted (low : 1 ≤ fld ((s.box m).word 3) 9 0) (high : fld ((s.box m).word 3) 9 0 ≤ 1000) {l : LandingId}
    (named : ((s.box m).word 2).getLsbD l = true) (waits : (s.land l).sbd.started = false) : s.calRun m = s.finishS m .badState := by
  refine (if_neg (by omega)).trans (if_pos ?_)
  rw [Bool.not_eq_true', List.all_eq_false]
  exact ⟨l, (mem_namedLandings _ l).2 named, by simp [waits]⟩

theorem State.calRun_asks (low : 1 ≤ fld ((s.box m).word 3) 9 0) (high : fld ((s.box m).word 3) 9 0 ≤ 1000)
    (started : ∀ l : LandingId, ((s.box m).word 2).getLsbD l = true → (s.land l).sbd.started = true)
    (run : ((s.box m).word 2).getLsbD 16 = false) :
    s.calRun m = ((namedLandings ((s.box m).word 2)).foldl (fun s l => s.askCal l false) (s.goesOn m)).finishCalRuns := by
  rw [State.calRun, run]
  refine (if_neg (by omega)).trans (if_neg ?_)
  rw [Bool.not_eq_true', Bool.not_eq_false, List.all_eq_true]
  intro l listed
  have below : l < 12 := List.mem_range.1 (List.mem_filter.1 listed).1
  exact started ⟨l, below⟩ ((mem_namedLandings _ ⟨l, below⟩).1 listed)

theorem State.finishCalRuns_land (s : State) (l : Nat) : s.finishCalRuns.land l = s.land l :=
  eachBelow_proj (fun u => u.land l) (fun i u => by dsimp only; split <;> rfl) 9 s

/-- A Landing that is named ends as its own asking leaves it, which finds it and what stands in its way as before the command. -/
theorem State.calRun_land {l : LandingId} (named : ((s.box m).word 2).getLsbD l = true)
    (asks : s.calRun m = ((namedLandings ((s.box m).word 2)).foldl (fun s l => s.askCal l false) (s.goesOn m)).finishCalRuns) :
    ∃ u, Elsewhere l (s.goesOn m) u ∧ (s.calRun m).land l = (u.askCal l false).land l := by
  obtain ⟨before, after, -, -, notBefore, notAfter, split⟩ := foldl_around (fun s l => s.askCal l false)
    ((mem_namedLandings _ l).2 named) (List.nodup_range.filter _) (s.goesOn m)
  have others (rest : List Nat) (apart : l.val ∉ rest) (u : State) : Elsewhere l u (rest.foldl (fun s l => s.askCal l false) u) :=
    foldl_keeps (R := Elsewhere l u) (fun t j hj h => h.trans (t.askCal_elsewhere (ne_of_mem_of_not_mem hj apart))) (.refl l u)
  refine ⟨_, others before notBefore _, ?_⟩
  rw [asks, State.finishCalRuns_land, split]
  exact (others after notAfter _).2

end

/-! ## `CAL_SAVE` and `CAL_RESTORE` -/

section
variable {s : State} {m : MailboxId} {l : LandingId} {sub : Fin 2}

theorem exec_calSave (begins : Begins s m 0x0302) : exec (.calSave m) s = .next (s.calSave m).pump :=
  amiom_of_begins (fun s => s.calSave m) begins (by decide) (by decide)

theorem State.calSave_unstarted (named : fld ((s.box m).word 2) 3 0 = l.val) (waits : (s.land l).sbd.started = false) :
    s.calSave m = s.finishS m .badState := by
  simp [State.calSave, named, waits]

theorem State.calSave_answers (named : fld ((s.box m).word 2) 3 0 = l.val) (started : (s.land l).sbd.started = true)
    (unstored : ((s.box m).word 2).getLsbD 8 = false) :
    s.calSave m = s.finish m .ok [] (s.calRecord l (fld ((s.box m).word 2) 4 4)) := by
  simp only [State.calSave, named, started, unstored, Bool.not_true, if_neg Bool.false_ne_true]

theorem exec_calRestore (begins : Begins s m 0x0303) : exec (.calRestore m) s = .next (s.calRestore m).pump :=
  amiom_of_begins (fun s => s.calRestore m) begins (by decide) (by decide)

/-- The record in the payload is one that the Landing can hold for its start (R344). -/
abbrev State.restores (s : State) (m : MailboxId) (l : LandingId) (sub : Fin 2) : Prop :=
  l.val < s.nLand ∧ (s.land l).sbd.reached = true ∧ (s.land l).sbd.started = false ∧ (s.land l).seq.lstate = .sr ∧
    s.recordOk l sub (s.box m).payload = true

theorem State.calRestore_eq (named : numAt (s.box m).payload 5 1 = l.val) (half : numAt (s.box m).payload 6 1 = sub.val) :
    s.calRestore m = if s.restores m l sub then
        (s.modCal l fun c => { c with held := c.held.setIfInBounds sub (some (s.box m).payload) }).finishS m .ok
      else s.finishS m .badParam := by
  simp only [State.calRestore, named, half, sub.isLt, Bool.and_eq_true, decide_eq_true_eq, Bool.not_eq_true', beq_iff_eq, and_true, and_assoc]

end

/-! ## `ECC_DECLARE` -/

section
variable {s : State} {m : MailboxId} {l : LandingId}

theorem exec_eccDeclare (begins : Begins s m 0x0601) : exec (.eccDeclare m) s = .next (s.eccDeclare m).pump :=
  amiom_of_begins (fun s => s.eccDeclare m) begins (by decide) (by decide)

/-- The device that `ECC_DECLARE` names is one of a rank of the Landing (R260). -/
abbrev State.declarable (s : State) (l : LandingId) (w : W32) : Prop :=
  l.val < s.nLand ∧ (s.land l).seq.geom.valid = true ∧ fld w 10 8 < (s.land l).seq.geom.ranks ∧
    fld w 15 12 ≤ (if (s.land l).seq.geom.x8 then 4 else 9)

theorem State.eccDeclare_undeclarable (named : fld ((s.box m).word 2) 3 0 = l.val) (bad : ¬ s.declarable l ((s.box m).word 2)) :
    s.eccDeclare m = s.finishS m .badParam := by
  refine if_pos ?_
  rw [named]
  by_contra good
  simp only [not_or, Nat.not_le, Nat.not_lt, Bool.not_eq_true', Bool.not_eq_false] at good
  exact bad good

theorem State.eccDeclare_declares (named : fld ((s.box m).word 2) 3 0 = l.val) (fits : s.declarable l ((s.box m).word 2))
    (none : s.erased l { sub := fld ((s.box m).word 2) 4 4, rank := fld ((s.box m).word 2) 10 8, bg := 0, bank := 0, row := 0, col := 0 } =
      Option.none) :
    s.eccDeclare m = (s.defer (.declare l (fld ((s.box m).word 2) 4 4) (fld ((s.box m).word 2) 10 8) (fld ((s.box m).word 2) 15 12))).finish m .ok
      [if (s.land l).seq.geom.x8 then 1 else 0] [] := by
  obtain ⟨present, valid, rank, device⟩ := fits
  have fits : ¬ (s.nLand ≤ l.val ∨ (!(s.land l).seq.geom.valid) = true ∨ (s.land l).seq.geom.ranks ≤ fld ((s.box m).word 2) 10 8 ∨
      (if (s.land l).seq.geom.x8 then 4 else 9) < fld ((s.box m).word 2) 15 12) := by
    simp only [not_or, Nat.not_le, Nat.not_lt, valid]
    exact ⟨present, Bool.false_ne_true, rank, device⟩
  simp only [State.eccDeclare, named, none, if_neg fits]
  simp

end

/-! ## `PPR_RUN` -/

section
variable {s : State} {m : MailboxId} {l : LandingId} {spare : Bool}

theorem exec_pprRun (begins : Begins s m 0x0602) (awake : Awake s) (spare : Bool) : exec (.pprRun m spare) s = .next (s.pprRun m spare).pump :=
  amiom_of_awake (fun s => s.pprRun m spare) begins awake (by decide)

/-- The place or the device of `PPR_RUN` does not fit the Landing (R263). -/
def State.misplaced (s : State) (m : MailboxId) (l : LandingId) (spare : Bool) : Bool :=
  s.badRepair l (s.box m).repairCoord (fld ((s.box m).word 4) 3 0) (((s.box m).word 2).getLsbD 31) spare

theorem State.pprRun_unstarted (named : fld ((s.box m).word 2) 3 0 = l.val) (waits : (s.land l).sbd.started = false) :
    s.pprRun m spare = s.finishS m .badState := by
  simp [State.pprRun, named, waits]

theorem State.pprRun_misplaced (named : fld ((s.box m).word 2) 3 0 = l.val) (started : (s.land l).sbd.started = true)
    (bad : s.misplaced m l spare = true) : s.pprRun m spare = s.finishS m .badParam := by
  rw [State.misplaced] at bad
  simp only [State.pprRun, named, started, bad, Bool.not_true, if_neg Bool.false_ne_true, if_pos]

/-- The repair that `PPR_RUN` begins at a Landing whose window nobody holds. -/
def State.newRepair (s : State) (m : MailboxId) (l : LandingId) : Repair :=
  { mailbox := m, landing := l, coord := (s.box m).repairCoord, dev := fld ((s.box m).word 4) 3 0, hard := ((s.box m).word 2).getLsbD 31
    serial := s.rankSerial l (s.box m).repairCoord.rank, own := false, staged := [], back := none, left := [] }

theorem State.pprRun_begins (named : fld ((s.box m).word 2) 3 0 = l.val) (started : (s.land l).sbd.started = true)
    (good : s.misplaced m l spare = false) (unclaimed : s.claimOf 1 l = none) (free : s.repairOf l = none) (sound : s.landFenced l = false) :
    s.pprRun m spare = (s.goesOn m).beginRepair (s.newRepair m l) := by
  rw [State.misplaced] at good
  simp only [State.pprRun, named, started, good, unclaimed, free, sound, Bool.not_true, Option.any_none, Option.isSome_none, Bool.or_false,
    if_neg Bool.false_ne_true]
  rfl

theorem State.stage_boxes (s : State) (l : Nat) (a : Access) : (s.stage l a).boxes = s.boxes := by
  refine State.refill_proj State.boxes (fun u j b => ?_) _ l
  rcases u.enterStaging_cases j b with same | ⟨_, _, placed⟩
  · rw [same]
  · rw [placed]
    rfl

/-- The reads of a row's lines for its repair (R264). -/
def State.readRow (s : State) (l : Nat) (lines : List Nat) : State :=
  lines.foldl (fun s a => s.fresh.2.stage l (access s.fresh.1 .ppr 10 (beStamp s.fresh.2.now) .read a)) s

theorem State.readRow_boxes (s : State) (l : Nat) (lines : List Nat) : (s.readRow l lines).boxes = s.boxes :=
  foldl_proj State.boxes (fun u _ => u.fresh.2.stage_boxes l _) lines s

theorem State.readRow_unmoved (s : State) (l : Nat) (lines : List Nat) : (s.readRow l lines).unmoved = s.unmoved :=
  foldl_proj State.unmoved (fun u _ => u.fresh.2.stage_unmoved l _) lines s

/-- A repair that begins joins the repairs, and takes the window where its holder has not claimed it. -/
theorem State.beginRepair_begins (s : State) (r : Repair) : (s.beginRepair r).boxes = s.boxes ∧
    (s.beginRepair r).misc.repairs = s.misc.repairs ++ [r] ∧ (s.beginRepair r).misc.claims =
      if r.own then s.misc.claims else s.misc.claims ++ [{ res := 1, which := r.landing, param := 0, holder := 15 }] := by
  exact ⟨State.readRow_boxes _ r.landing _, congrArg Unmoved.repairs (State.readRow_unmoved _ r.landing _),
    congrArg Unmoved.claims (State.readRow_unmoved _ r.landing _)⟩

end

/-! ## `SCRUB_SET` -/

/-- A word that differs from the default reads back, in whatever order the list stands. -/
theorem getW_setW_listed {d v : W32} (a : Nat) (h : v ≠ d) : ∀ m : Words, getW d (setW d m a v) a = v
  | [] => by simp [setW, getW, h]
  | (k, w) :: m => by
    unfold setW
    split
    · simp [getW]
    · split
      · simp [getW]
      · simp [getW, *, getW_setW_listed a h m]

section
variable {s : State} {m : MailboxId}

theorem exec_scrubSet (begins : Begins s m 0x0603) : exec (.scrubSet m) s = .next (s.scrubSet m).pump :=
  amiom_of_begins (fun s => s.scrubSet m) begins (by decide) (by decide)

theorem State.scrubSet_badTime (bad : fld ((s.box m).word 3) 31 16 < 1 ∨ 8760 < fld ((s.box m).word 3) 31 16) :
    s.scrubSet m = s.finishS m .badParam := by
  refine if_pos ?_
  rw [Bool.or_eq_true, Bool.or_eq_true, decide_eq_true_eq, decide_eq_true_eq, or_assoc]
  exact .inr bad

/-- Patrol scrub of one Landing as `SCRUB_SET` leaves it: the pass time, `STEP` for it, and the enable. -/
def State.scrubTold (s : State) (l hours : Nat) (on : Bool) : State :=
  let s := (s.modMnt l fun x => { x with passHours := hours }).setStep l
  s.putLand l 0x600 (mergeMask 0x20 (s.lw l 0x600) (at_ 5 (b2n on)))

theorem State.scrubTold_onlyLandings (s : State) (l hours : Nat) (on : Bool) : OnlyLandings s (s.scrubTold l hours on) :=
  OnlyLandings.trans ⟨_, rfl⟩ ((State.setStep_onlyLandings _ l).trans ⟨_, rfl⟩)

theorem State.setStep_land_proj {α : Type} (g : Landing → α) (h : ∀ x page, g { x with page := page } = g x) (s : State) (l k : Nat) :
    g ((s.setStep l).land k) = g (s.land k) := by
  unfold State.setStep
  dsimp only
  split
  · rfl
  · exact State.modLand_land_proj g (fun x => h x _) s _ k

theorem State.setStep_land_ne (s : State) {l k : Nat} (other : l ≠ k) : (s.setStep l).land k = s.land k := by
  unfold State.setStep
  dsimp only
  split
  · rfl
  · exact State.modLand_land_ne s l k _ other

theorem State.scrubTold_land_ne (s : State) {l k : Nat} (hours : Nat) (on : Bool) (other : l ≠ k) :
    (s.scrubTold l hours on).land k = s.land k := by
  refine (State.modLand_land_ne _ l k _ other).trans ((State.setStep_land_ne _ other).trans ?_)
  exact State.modMnt_land_ne s l k _ other

theorem State.scrubTold_passHours (s : State) (l : LandingId) (hours : Nat) (on : Bool) :
    ((s.scrubTold l hours on).land l).mnt.passHours = hours := by
  refine (State.modLand_land_proj (fun x => x.mnt.passHours) (by intros; rfl) _ _ l).trans ?_
  refine (State.setStep_land_proj (fun x => x.mnt.passHours) (by intros; rfl) _ l l).trans ?_
  rw [State.modMnt_land_self]

theorem mergeMask_scrubOn (old : W32) : (mergeMask 0x20 old (at_ 5 (b2n true))).getLsbD 5 = true := by
  simp [mergeMask, at_, b2n]

theorem State.scrubTold_enable (s : State) (l : LandingId) (hours : Nat) : ((s.scrubTold l hours true).lw l 0x600).getLsbD 5 = true := by
  have listed (old : W32) : mergeMask 0x20 old (at_ 5 (b2n true)) ≠ landDefault 0x600 := by
    intro same
    have bit := mergeMask_scrubOn old
    rw [same] at bit
    exact absurd bit (by decide)
  have written (u : State) (v : W32) (h : v ≠ landDefault 0x600) : (u.putLand l 0x600 v).lw l 0x600 = v := by
    have home : homeLand l 0x600 = l.val := rfl
    rw [State.lw, State.putLand, home, State.modLand_land_self]
    exact getW_setW_listed 0x600 h _
  rw [State.scrubTold, written _ _ (listed _)]
  exact mergeMask_scrubOn _

/-- A Landing whose expected pass time exceeds the one asked for in deadline mode is posted (R238). -/
def State.scrubPosted (s : State) (on : Bool) (hours l : Nat) : State :=
  if on && (s.lw l 0).getLsbD 0 && decide (hours < s.passTime l) then s.post 0x1A 2 [at_ 0 l, BitVec.ofNat 32 (s.passTime l)] else s

theorem State.scrubPosted_onlyReported (s : State) (on : Bool) (hours l : Nat) : OnlyReported s (s.scrubPosted on hours l) := by
  unfold State.scrubPosted
  split
  · exact s.post_onlyReported _ _ _
  · exact .refl s

/-- The Landings that `SCRUB_SET` names are told, and the pass times that cannot be met are posted. -/
def State.scrubAll (s : State) (ts : List Nat) (hours : Nat) (on : Bool) : State :=
  ts.foldl (fun s l => s.scrubPosted on hours l) (ts.foldl (fun s l => s.scrubTold l hours on) s)

/-- The Landings that the mailbox's `SCRUB_SET` names, told as it says. -/
def State.scrubSetAt (s : State) (m : MailboxId) : State :=
  s.scrubAll (namedLandings ((s.box m).word 2)) (fld ((s.box m).word 3) 31 16) (((s.box m).word 3).getLsbD 0)

/-- The pass times that `SCRUB_SET` answers, 0 for a Landing that it does not name. -/
def State.passTimes (s : State) (ts : List Nat) : List W32 :=
  (List.range 12).map fun l => if ts.contains l then BitVec.ofNat 32 (s.passTime l) else 0

theorem State.scrubSet_sets (low : 1 ≤ fld ((s.box m).word 3) 31 16) (high : fld ((s.box m).word 3) 31 16 ≤ 8760)
    (present : ∀ l : LandingId, ((s.box m).word 2).getLsbD l = true → l.val < s.nLand) :
    s.scrubSet m = (s.scrubSetAt m).finish m .ok ((s.scrubSetAt m).passTimes (namedLandings ((s.box m).word 2))) [] := by
  refine if_neg ?_
  have known : ((namedLandings ((s.box m).word 2)).any fun l => decide (s.nLand ≤ l)) = false := by
    rw [List.any_eq_false]
    intro l listed
    have below : l < 12 := List.mem_range.1 (List.mem_filter.1 listed).1
    simpa using present ⟨l, below⟩ ((mem_namedLandings _ ⟨l, below⟩).1 listed)
  rw [namedLandings] at known
  rw [known]
  simp
  omega

theorem State.scrubAll_reported (s : State) (ts : List Nat) (hours : Nat) (on : Bool) :
    OnlyReported (ts.foldl (fun s l => s.scrubTold l hours on) s) (s.scrubAll ts hours on) :=
  foldl_related OnlyReported.refl OnlyReported.trans (fun u l => u.scrubPosted_onlyReported on hours l) ts _

theorem State.scrubAll_box (s : State) (ts : List Nat) (hours : Nat) (on : Bool) (k : Nat) : (s.scrubAll ts hours on).box k = s.box k := by
  rw [(s.scrubAll_reported ts hours on).box]
  exact (foldl_related OnlyLandings.refl OnlyLandings.trans (fun u l => u.scrubTold_onlyLandings l hours on) ts s).box k

theorem foldl_scrubTold_land_ne {rest : List Nat} {k : Nat} (apart : k ∉ rest) (hours : Nat) (on : Bool) (s : State) :
    (rest.foldl (fun s l => s.scrubTold l hours on) s).land k = s.land k :=
  foldl_keeps (R := fun u : State => u.land k = s.land k)
    (fun t _ hj h => (t.scrubTold_land_ne hours on (ne_of_mem_of_not_mem hj apart)).trans h) rfl

/-- A Landing that is named ends as it was told. -/
theorem State.scrubAll_land_named (s : State) {ts : List Nat} (once : ts.Nodup) {l : Nat} (named : l ∈ ts) (hours : Nat) (on : Bool) :
    ∃ u : State, (s.scrubAll ts hours on).land l = (u.scrubTold l hours on).land l := by
  obtain ⟨before, after, -, -, -, notAfter, split⟩ := foldl_around (fun s l => s.scrubTold l hours on) named once s
  exact ⟨_, ((s.scrubAll_reported ts hours on).land l).trans (split ▸ foldl_scrubTold_land_ne notAfter hours on _)⟩

theorem State.scrubAll_land_ne (s : State) {ts : List Nat} {k : Nat} (apart : k ∉ ts) (hours : Nat) (on : Bool) :
    (s.scrubAll ts hours on).land k = s.land k :=
  ((s.scrubAll_reported ts hours on).land k).trans (foldl_scrubTold_land_ne apart hours on s)

end

end Sys2Proof.Machine

section
open Sys2Proof Sys2Proof.Machine Sys2Proof.Slice

/-- Settles O56: every command begins (`amiom_of_begins`, `amiom_of_awake`) and answers by its outcome; a Landing that `CAL_RUN` or
`SCRUB_SET` names ends as its own step leaves it (`State.calRun_land`, `State.scrubAll_land_named`). -/
theorem calibrationAndEccCommandsHaveTheirEffect : Obligations.CalibrationAndEccCommandsHaveTheirEffect := by
  unfold Obligations.CalibrationAndEccCommandsHaveTheirEffect
  refine ⟨?run, ?save, ?restore, ?declare, ?repair, ?scrub⟩
  case run =>
    intro s m begins awake
    rw [exec_calRun begins awake]
    refine ⟨fun bad => ?_, fun low high ⟨l, named, waits⟩ => ?_, fun low high started run => ⟨_, rfl, fun l named => ?_⟩⟩
    · rw [State.calRun_badTime bad]; rfl
    · rw [State.calRun_unstarted low high named waits]; rfl
    · obtain ⟨u, same, landed⟩ := State.calRun_land named (State.calRun_asks low high started run)
      obtain ⟨block, fence⟩ := same.calBlock
      have here : u.land l = s.land l := same.2
      rw [landed]
      refine ⟨fun fenced => State.askCal_of_fenced (fence.trans fenced), fun may rests none => ?_⟩
      exact State.askCal_starts (block.trans may) (here ▸ rests) (here ▸ none)
  case save =>
    intro s m l begins named
    rw [exec_calSave begins]
    refine ⟨fun waits => ?_, fun started unstored => ?_⟩
    · rw [State.calSave_unstarted named waits]; rfl
    · rw [State.calSave_answers named started unstored]; rfl
  case restore =>
    intro s m l sub begins named half
    rw [exec_calRestore begins, State.calRestore_eq named half]
    refine ⟨fun bad => ?_, fun good => ?_⟩
    · rw [if_neg bad]; rfl
    · rw [if_pos good]; rfl
  case declare =>
    intro s m l begins named
    rw [exec_eccDeclare begins]
    refine ⟨fun bad => ?_, fun fits none => ?_⟩
    · rw [State.eccDeclare_undeclarable named bad]; rfl
    · rw [State.eccDeclare_declares named fits none]; rfl
  case repair =>
    intro s m spare l begins awake named
    rw [exec_pprRun begins awake]
    refine ⟨fun waits => ?_, fun started bad => ?_, fun started good unclaimed free sound => ?_⟩
    · rw [State.pprRun_unstarted named waits]; rfl
    · rw [State.pprRun_misplaced named started bad]; rfl
    · rw [State.pprRun_begins named started good unclaimed free sound]
      obtain ⟨boxes, repairs, claims⟩ := State.beginRepair_begins (s.goesOn m) (s.newRepair m l)
      refine ⟨_, s.newRepair m l, rfl, boxes, ?_, rfl, rfl, rfl, claims⟩
      have alone : (s.goesOn m).misc.repairs.find? (fun r => r.landing == l.val) = none := free
      rw [State.repairOf, repairs, List.find?_append, alone]
      simp [State.newRepair]
  case scrub =>
    intro s m begins
    rw [exec_scrubSet begins]
    refine ⟨fun bad => ?_, fun low high present => ?_⟩
    · rw [State.scrubSet_badTime bad]; rfl
    · have once : (namedLandings ((s.box m).word 2)).Nodup := List.nodup_range.filter _
      rw [State.scrubSet_sets low high present]
      refine ⟨_, (s.scrubSetAt m).passTimes (namedLandings ((s.box m).word 2)), rfl, ?_, ?_, ?_⟩
      · rw [State.finish_box_self, State.scrubSetAt, State.scrubAll_box]
      · rw [State.passTimes, List.length_map, List.length_range]
      · refine fun l => ⟨fun named => ?_, fun unnamed => ?_⟩
        · obtain ⟨u, landed⟩ := s.scrubAll_land_named once ((mem_namedLandings _ l).2 named) (fld ((s.box m).word 3) 31 16)
            (((s.box m).word 3).getLsbD 0)
          refine ⟨?_, fun on => ?_⟩
          · rw [State.finish_land, State.scrubSetAt, landed]
            exact u.scrubTold_passHours l _ _
          · have enabled := u.scrubTold_enable l (fld ((s.box m).word 3) 31 16)
            rw [on] at landed
            have home : homeLand l 0x600 = l.val := rfl
            rw [State.lw, home] at enabled ⊢
            rw [State.finish_land, State.scrubSetAt, on, landed]
            exact enabled
        · have apart : l.val ∉ namedLandings ((s.box m).word 2) := fun named => by simp [(mem_namedLandings _ l).1 named] at unnamed
          exact s.scrubAll_land_ne apart _ _

end

/-! SUPPORT. What a request that reaches a Landing leaves alone, and what a maintenance window presents and leaves alone (R222). -/

namespace Sys2Proof.Machine

/-! ## A request reaches staging -/

theorem mem_modify_const {α : Type} {x b : α} : ∀ {i : Nat} {l : List α}, x ∈ l.modify i (fun _ => b) → x ∈ l ∨ x = b
  | _, [], h => by simp at h
  | 0, y :: l, h => by
    rw [List.modify_zero_cons, List.mem_cons] at h
    exact h.symm.imp_left (List.mem_cons_of_mem y)
  | i + 1, y :: l, h => by
    rw [List.modify_succ_cons, List.mem_cons] at h
    rcases h with rfl | h
    · exact .inl List.mem_cons_self
    · exact (mem_modify_const h).imp_left (List.mem_cons_of_mem y)

/-- What holds of every request that waits, and of the one that enters, holds of every request after it. -/
theorem State.enterStaging_forall {P : Access → Prop} {s : State} {l : LandingId} {a : Access} (enters : P (s.entering l a))
    (h : ∀ x ∈ (s.land l).arb.staging, P x) : ∀ x ∈ ((s.enterStaging l a).land l).arb.staging, P x := by
  rcases s.enterStaging_staging l a with same | taken
  · rw [same]
    exact h
  · intro x hx
    rw [taken] at hx
    rcases mem_modify_const hx with old | rfl
    · exact h x old
    · exact enters

/-- The requests that a refill tries stood upstream before it. -/
theorem mem_refill {x : Access} {w : List Access}
    (h : x ∈ (w.filter fun a => !a.entered).filter (·.isClaim) ++ (w.filter fun a => !a.entered).filter fun a => !a.isClaim) :
    x ∈ w ∧ x.entered = false := by
  have waits : x ∈ w.filter fun a => !a.entered := (List.mem_append.1 h).elim List.mem_of_mem_filter List.mem_of_mem_filter
  simpa using List.mem_filter.1 waits

theorem State.refill_forall {P : Access → Prop} {s : State} {l : LandingId} (enters : ∀ (u : State) a, P a → P (u.entering l a))
    (h : ∀ x ∈ (s.land l).arb.staging, P x) : ∀ x ∈ ((s.refill l).land l).arb.staging, P x :=
  foldl_keeps (R := fun u : State => ∀ x ∈ (u.land l).arb.staging, P x)
    (fun u a ha => State.enterStaging_forall (enters u a (h a (mem_refill ha).1))) h

theorem State.entering_op (s : State) (l : Nat) (a : Access) : (s.entering l a).op = a.op := by
  unfold State.entering
  split <;> rfl

/-- A Landing without its arbiter. -/
def Landing.unarbitrated (x : Landing) : Landing := { x with arb := Landing.reset.arb }

/-- What no request that enters staging moves: everything but Landings, ports and the block's counts. -/
def State.around (s : State) : State :=
  { s with landings := State.reset.landings, ports := State.reset.ports, blk := State.reset.blk, chip := { s.chip with nextId := 0 } }

theorem Arb.cutDelay_grantNext (x : Arb) (urgent c : Nat) (a : Access) : (x.cutDelay urgent c a).grantNext = x.grantNext := by
  unfold Arb.cutDelay
  split
  · split <;> rfl
  · rfl

theorem OnlyPorts.around {s t : State} (h : OnlyPorts s t) : t.around = s.around := by
  obtain ⟨_, _, rfl⟩ := h
  rfl

theorem State.enterStaging_around (s : State) (l : Nat) (a : Access) : (s.enterStaging l a).around = s.around := by
  rcases s.enterStaging_cases l a with same | placed
  · rw [same]
  · rw [placed.around]
    rfl

theorem State.enterStaging_land_proj {α : Type} (g : Landing → α) (k : Nat) (s : State) (l : Nat) (a : Access)
    (h : g ((s.placeStaged l a).land k) = g (s.land k)) : g ((s.enterStaging l a).land k) = g (s.land k) := by
  rcases s.enterStaging_cases l a with same | placed
  · rw [same]
  · rw [placed.land, h]

/-- A request whose entering moves no port's transactions: it is no port's, no segment read and no emergency. -/
def Access.plain (a : Access) : Bool :=
  !a.emergency && match a.client with
    | .host .. => false
    | .seg .. => false
    | _ => true

/-- A request that has entered, or moves no port when it does. -/
def Access.silent (a : Access) : Bool := a.entered || a.plain

theorem State.noteStamp_of_plain {s : State} {old new : Access} (h : new.plain = true) : s.noteStamp old new = s := by
  unfold Access.plain at h
  unfold State.noteStamp
  split
  next client => simp [client] at h
  next client => simp [client] at h
  next => rfl

theorem Access.ofPort_of_plain {a : Access} (h : a.plain = true) : a.ofPort = false := by
  unfold Access.plain at h
  unfold Access.ofPort
  split
  next client => simp [client] at h
  next client => simp [client] at h
  next => simp

theorem State.enterStaging_ports {a : Access} (h : a.plain = true) (s : State) (l : Nat) : (s.enterStaging l a).ports = s.ports := by
  have own : s.entering l a = { a with entered := true } := s.entering_of_not_ofPort l (Access.ofPort_of_plain h)
  have calm : a.emergency = false := by simpa using (Bool.and_eq_true_iff.1 h).1
  unfold State.enterStaging
  split
  · rfl
  · dsimp only
    rw [own, if_neg (by simp [calm]), State.noteStamp_of_plain (new := { a with entered := true }) h]
    rfl

/-- A refill among requests that are silent moves no port, and leaves them silent. -/
theorem State.refill_silent {s : State} {l : LandingId} (h : ∀ x ∈ (s.land l).arb.staging, x.silent = true) :
    (s.refill l).ports = s.ports ∧ ∀ x ∈ ((s.refill l).land l).arb.staging, x.silent = true := by
  refine ⟨?_, State.refill_forall (fun u a _ => ?_) h⟩
  · refine foldl_keeps (R := fun u : State => u.ports = s.ports) (fun u a ha same => ?_) rfl
    obtain ⟨listed, waits⟩ := mem_refill ha
    have plain : a.plain = true := by simpa [Access.silent, waits] using h a listed
    exact (State.enterStaging_ports plain u l).trans same
  · simp [Access.silent, u.entering_entered]

/-! ## Claims that stand at a Landing -/

/-- The request is a claim of a kind. -/
def Access.works (p : ClaimKind → Bool) (a : Access) : Bool :=
  match a.claimKind with
  | some k => p k
  | none => false

theorem Landing.claimed_eq (x : Landing) (p : ClaimKind → Bool) :
    x.claimed p = (x.arb.staging ++ x.arb.grantNext.toList ++ x.seq.claims).any (Access.works p) := rfl

theorem Access.works_entering (p : ClaimKind → Bool) (s : State) (l : Nat) (a : Access) : (s.entering l a).works p = a.works p := by
  rw [Access.works, Access.claimKind, s.entering_op]
  rfl

theorem Landing.claimed_of_staging {x y : Landing} {p : ClaimKind → Bool} (grant : y.arb.grantNext = x.arb.grantNext)
    (claims : y.seq.claims = x.seq.claims) (staged : (∀ a ∈ x.arb.staging, a.works p = false) → ∀ a ∈ y.arb.staging, a.works p = false)
    (h : x.claimed p = false) : y.claimed p = false := by
  rw [Landing.claimed_eq, List.append_assoc, List.any_append, Bool.or_eq_false_iff, List.any_eq_false] at h ⊢
  rw [grant, claims]
  exact ⟨by simpa using staged (by simpa using h.1), h.2⟩

/-! ## What a window leaves alone -/

/-- What the presenting of due work leaves of a Maintenance Unit: all but the refresh schedules, the window and the scrub lines
presented. -/
def Mnt.steady (m : Mnt) : Mnt :=
  { m with ref := Landing.reset.mnt.ref, lastWindow := none, winPlan := none, winHold := 0, winRef := false, winFull := false
           winScrub := false, scrubOwed := [], scrubPos := 0 }

/-- What the presenting of due work leaves of a Landing: all but its arbiter, its counts, and what its Maintenance Unit notes. -/
def Landing.steady (x : Landing) : Landing :=
  { x with page := { x.page with cnt := [], inc := [] }, arb := Landing.reset.arb, mnt := x.mnt.steady }

/-- A schedule that has moved on: what is presented stays so, and so does a part two that is not owed. -/
def RefSched.onward (r r' : RefSched) : Prop := (r.presented = true → r'.presented = true) ∧ (r.partTwo = none → r'.partTwo = none)

theorem RefSched.onward.refl (r : RefSched) : r.onward r := ⟨id, id⟩
theorem RefSched.onward.trans {a b c : RefSched} (h : a.onward b) (k : b.onward c) : a.onward c := ⟨k.1 ∘ h.1, k.2 ∘ h.2⟩

/-- Work offered to a Landing: claims and scrub reads join its requests, none of the kinds `p` among them, the schedules at the places
`mine` stay, and the rest moves on. -/
structure Offers (l : LandingId) (p : ClaimKind → Bool) (mine : Nat → Prop) (s t : State) : Prop where
  around : t.around = s.around
  others : ∀ k : Nat, k ≠ l.val → t.land k = s.land k
  steady : (t.land l).steady = (s.land l).steady
  window : (t.land l).mnt.lastWindow = (s.land l).mnt.lastWindow ∨ (t.land l).mnt.lastWindow = some s.tread
  known : s.chip.nextId ≤ t.chip.nextId
  asked : ∀ {n k stamp emergency}, Asked n s l k stamp emergency → Asked n t l k stamp emergency
  unclaimed : (s.land l).claimed p = false → (t.land l).claimed p = false
  kept : ∀ i, mine i → (t.land l).mnt.ref[i]? = (s.land l).mnt.ref[i]?
  onward : ∀ (i : Nat) (r : RefSched), (s.land l).mnt.ref[i]? = some r → ∃ r', (t.land l).mnt.ref[i]? = some r' ∧ r.onward r'
  quiet : (∀ x ∈ (s.land l).arb.staging, x.silent = true) → t.ports = s.ports ∧ ∀ x ∈ (t.land l).arb.staging, x.silent = true

namespace Offers

variable {l : LandingId} {p : ClaimKind → Bool} {mine : Nat → Prop} {s t u : State}

theorem refl (l : LandingId) (p : ClaimKind → Bool) (mine : Nat → Prop) (s : State) : Offers l p mine s s where
  around := rfl
  others _ _ := rfl
  steady := rfl
  window := .inl rfl
  known := Nat.le_refl _
  asked := id
  unclaimed := id
  kept _ _ := rfl
  onward _ r h := ⟨r, h, .refl r⟩
  quiet h := ⟨rfl, h⟩

theorem tread (h : Offers l p mine s t) : t.tread = s.tread := congrArg (fun u => u.chip.cycle / 32) h.around

theorem trans (h : Offers l p mine s t) (k : Offers l p mine t u) : Offers l p mine s u where
  around := k.around.trans h.around
  others i apart := (k.others i apart).trans (h.others i apart)
  steady := k.steady.trans h.steady
  window := by
    rcases k.window with same | now
    · rw [same]
      exact h.window
    · exact .inr (h.tread ▸ now)
  known := h.known.trans k.known
  asked a := k.asked (h.asked a)
  unclaimed a := k.unclaimed (h.unclaimed a)
  kept i m := (k.kept i m).trans (h.kept i m)
  onward i r here := by
    obtain ⟨r', here', moved⟩ := h.onward i r here
    obtain ⟨r'', here'', moved'⟩ := k.onward i r' here'
    exact ⟨r'', here'', moved.trans moved'⟩
  quiet calm := by
    obtain ⟨ports, calm'⟩ := h.quiet calm
    obtain ⟨ports', calm''⟩ := k.quiet calm'
    exact ⟨ports'.trans ports, calm''⟩

theorem ite {c : Prop} [Decidable c] (ht : Offers l p mine s t) (hu : Offers l p mine s u) : Offers l p mine s (if c then t else u) := by
  split
  · exact ht
  · exact hu

theorem foldl {α : Type} {f : State → α → State} {rest : List α} (step : ∀ t, ∀ x ∈ rest, Offers l p mine t (f t x)) (s : State) :
    Offers l p mine s (rest.foldl f s) :=
  foldl_keeps (R := Offers l p mine s) (fun t x hx h => h.trans (step t x hx)) (refl l p mine s)

/-- Nothing asked of the kinds and places. -/
theorem any (h : Offers l p mine s t) : Offers l (fun _ => false) (fun _ => False) s t where
  around := h.around
  others := h.others
  steady := h.steady
  window := h.window
  known := h.known
  asked := h.asked
  unclaimed _ := by
    rw [Landing.claimed_eq, List.any_eq_false]
    intro a _
    unfold Access.works
    split <;> exact Bool.false_ne_true
  kept _ := False.elim
  onward := h.onward
  quiet := h.quiet

/-! What a window reads is as it was. -/

theorem mnt (h : Offers l p mine s t) : (t.land l).mnt.steady = (s.land l).mnt.steady := congrArg Landing.mnt h.steady

theorem lv (h : Offers l p mine s t) (j off : Nat) : t.lv j off = s.lv j off := by
  have live : (t.land (homeLand j off)).page.live = (s.land (homeLand j off)).page.live := by
    by_cases here : homeLand j off = l.val
    · rw [here]
      exact congrArg (fun x => x.page.live) h.steady
    · rw [h.others _ here]
  rw [State.lv, live, State.lv]

theorem mntRuns (h : Offers l p mine s t) : t.mntRuns l = s.mntRuns l := by
  have sbd := congrArg Landing.sbd h.steady
  have seq := congrArg Landing.seq h.steady
  have on : t.chip.coreOn = s.chip.coreOn := congrArg (fun u => u.chip.coreOn) h.around
  simp only [Landing.steady] at sbd seq
  rw [State.mntRuns, sbd, seq, on, State.mntRuns]

theorem mntServes (h : Offers l p mine s t) : t.mntServes l = s.mntServes l := by
  have sbd := congrArg Landing.sbd h.steady
  have seq := congrArg Landing.seq h.steady
  have on : t.chip.coreOn = s.chip.coreOn := congrArg (fun u => u.chip.coreOn) h.around
  simp only [Landing.steady] at sbd seq
  rw [State.mntServes, h.mntRuns, sbd, seq, on, State.mntServes]

theorem ranks (h : Offers l p mine s t) : (t.land l).seq.geom = (s.land l).seq.geom := congrArg (fun x => x.seq.geom) h.steady

theorem rankList (h : Offers l p mine s t) : (t.land l).rankList = (s.land l).rankList := by rw [Landing.rankList, h.ranks, Landing.rankList]

theorem windowClaimed (h : Offers l p mine s t) : t.windowClaimed l = s.windowClaimed l := congrArg (fun u => u.windowClaimed l) h.around

theorem windowFree (h : Offers l p mine s t) (free : s.windowFree l = true) : t.windowFree l = true := by
  rw [State.windowFree, State.dlMode, h.lv, h.lv, h.tread] at *
  rcases h.window with same | now
  · rw [same]
    exact free
  · simp [now]

/-- A window that has begun in this tread goes on. -/
theorem lastWindow (h : Offers l p mine s t) (begun : (s.land l).mnt.lastWindow = some s.tread) :
    (t.land l).mnt.lastWindow = some s.tread := h.window.elim (·.trans begun) id

theorem refOf (h : Offers l p mine s t) {b r : Nat} (m : mine (8 * b + r)) : t.refOf l b r = s.refOf l b r := h.kept _ m

end Offers

/-! ## The steps of a window -/

section
variable {l : LandingId} {p : ClaimKind → Bool} {mine : Nat → Prop}

/-- A change of what the Maintenance Unit notes. -/
theorem State.modMnt_offers (s : State) {f : Mnt → Mnt} (steady : (f (s.land l).mnt).steady = (s.land l).mnt.steady)
    (window : (f (s.land l).mnt).lastWindow = (s.land l).mnt.lastWindow ∨ (f (s.land l).mnt).lastWindow = some s.tread)
    (kept : ∀ i, mine i → (f (s.land l).mnt).ref[i]? = (s.land l).mnt.ref[i]?)
    (onward : ∀ (i : Nat) (r : RefSched), (s.land l).mnt.ref[i]? = some r → ∃ r', (f (s.land l).mnt).ref[i]? = some r' ∧ r.onward r') :
    Offers l p mine s (s.modMnt l f) where
  around := rfl
  others k apart := s.modMnt_land_ne l k f apart.symm
  steady := by
    rw [State.modMnt_land_self, Landing.steady, steady]
    rfl
  window := by rwa [State.modMnt_land_self]
  known := Nat.le_refl _
  asked := by
    rintro n k stamp emergency ⟨id, new, given, queued⟩
    exact ⟨id, new, given, by rwa [State.modMnt_land_self]⟩
  unclaimed h := by rwa [State.modMnt_land_self]
  kept := by rwa [State.modMnt_land_self]
  onward := by rwa [State.modMnt_land_self]
  quiet h := ⟨rfl, by rwa [State.modMnt_land_self]⟩

/-- A change of the window or of the scrub lines. -/
theorem State.noteMnt_offers (s : State) {f : Mnt → Mnt} (steady : (f (s.land l).mnt).steady = (s.land l).mnt.steady)
    (ref : (f (s.land l).mnt).ref = (s.land l).mnt.ref)
    (window : (f (s.land l).mnt).lastWindow = (s.land l).mnt.lastWindow ∨ (f (s.land l).mnt).lastWindow = some s.tread) :
    Offers l p mine s (s.modMnt l f) :=
  s.modMnt_offers steady window (fun i _ => by rw [ref]) fun i r here => ⟨r, by rw [ref, here], .refl r⟩

theorem State.bumpL_offers (s : State) (off n : Nat) : Offers l p mine s (s.bumpL l off n) where
  around := rfl
  others k apart := s.modLand_land_ne l k _ apart.symm
  steady := s.modLand_land_proj Landing.steady (by intro x; rfl) l l
  window := .inl (s.modLand_land_proj (fun x => x.mnt.lastWindow) (by intro x; rfl) l l)
  known := Nat.le_refl _
  asked := by
    rintro n k stamp emergency ⟨id, new, given, queued⟩
    exact ⟨id, new, given, by rwa [State.bumpL_staging]⟩
  unclaimed h := (s.modLand_land_proj (fun x => x.claimed p) (by intro x; rfl) l l).trans h
  kept i _ := s.modLand_land_proj (fun x => x.mnt.ref[i]?) (by intro x; rfl) l l
  onward i r here := ⟨r, (s.modLand_land_proj (fun x => x.mnt.ref[i]?) (by intro x; rfl) l l).trans here, .refl r⟩
  quiet h := ⟨rfl, by rwa [State.bumpL_staging]⟩

/-- A request that is offered moves nothing of a Landing but its arbiter. -/
theorem State.stage_land_proj {α : Type} (g : Landing → α) (h : ∀ x arb, g { x with arb := arb } = g x) (s : State) (l : Nat)
    (a : Access) (i : Nat) : g ((s.stage l a).land i) = g (s.land i) := by
  have staged (u : State) (j : Nat) (f : Arb → Arb) : g ((u.modArb j f).land i) = g (u.land i) :=
    State.modLand_land_proj g (fun x => h x _) u j i
  exact (State.refill_proj (fun u => g (u.land i)) (fun u j b => State.enterStaging_land_proj g i u j b (staged u j _)) _ l).trans
    (staged s l _)

theorem State.enterStaging_land_ne {l k : Nat} (other : l ≠ k) (s : State) (a : Access) : (s.enterStaging l a).land k = s.land k :=
  State.enterStaging_land_proj id k s l a (s.modLand_land_ne l k _ other)

theorem State.enterStaging_grantNext (s : State) (l k : Nat) (a : Access) :
    ((s.enterStaging l a).land k).arb.grantNext = (s.land k).arb.grantNext :=
  State.enterStaging_land_proj (fun x => x.arb.grantNext) k s l a
    (State.modLand_land_proj (fun x => x.arb.grantNext) (fun _ => Arb.cutDelay_grantNext _ _ _ _) s l k)

theorem State.stage_land_ne {l k : Nat} (other : l ≠ k) (s : State) (a : Access) : (s.stage l a).land k = s.land k :=
  (foldl_proj (fun u => u.land k) (fun u b => State.enterStaging_land_ne other u b) _ _).trans (s.modLand_land_ne l k _ other)

theorem State.stage_forall {P : Access → Prop} {s : State} {l : LandingId} {a : Access}
    (enters : ∀ (u : State) b, P b → P (u.entering l b)) (new : P { a with entered := false })
    (h : ∀ x ∈ (s.land l).arb.staging, P x) : ∀ x ∈ ((s.stage l a).land l).arb.staging, P x := by
  refine State.refill_forall enters ?_
  rw [State.modArb_land_self]
  intro x hx
  rcases List.mem_append.1 hx with old | newest
  · exact h x old
  · rw [List.mem_singleton.1 newest]
    exact new

/-- A new request of the block's own that is no claim of the kinds. -/
theorem State.stage_offers (s : State) {a : Access} (number : a.id = s.chip.nextId) (plain : a.plain = true) (apart : a.works p = false) :
    Offers l p mine s (s.fresh.2.stage l a) where
  around := (State.refill_proj State.around State.enterStaging_around _ l).trans rfl
  others k other := State.stage_land_ne other.symm s.fresh.2 a
  steady := State.stage_land_proj Landing.steady (by intro x arb; rfl) s.fresh.2 l a l
  window := .inl (State.stage_land_proj (fun x => x.mnt.lastWindow) (by intro x arb; rfl) s.fresh.2 l a l)
  known := by
    rw [State.stage_chip]
    exact Nat.le_succ _
  asked := by
    rintro n k stamp emergency ⟨id, new, given, queued⟩
    refine ⟨id, new, ?_, Queued.stage rfl (queued.append ?_)⟩
    · rw [State.stage_chip]
      exact Nat.lt_succ_of_lt given
    · exact number ▸ Nat.ne_of_gt given
  unclaimed := by
    refine Landing.claimed_of_staging ?_ ?_ fun h => ?_
    · exact (State.refill_proj (fun u => (u.land l).arb.grantNext) (fun u j b => u.enterStaging_grantNext j l b) _ l).trans
        (State.modLand_land_proj (fun x => x.arb.grantNext) (by intro x; rfl) _ _ _)
    · exact State.stage_land_proj (fun x => x.seq.claims) (by intro x arb; rfl) s.fresh.2 l a l
    · exact State.stage_forall (fun u b hb => (b.works_entering p u l).trans hb) apart h
  kept i _ := State.stage_land_proj (fun x => x.mnt.ref[i]?) (by intro x arb; rfl) s.fresh.2 l a l
  onward i r here := ⟨r, (State.stage_land_proj (fun x => x.mnt.ref[i]?) (by intro x arb; rfl) s.fresh.2 l a l).trans here, .refl r⟩
  quiet h := by
    refine State.refill_silent (fun x hx => ?_)
    rw [State.modArb_land_self] at hx
    rcases List.mem_append.1 hx with old | newest
    · exact h x old
    · rw [List.mem_singleton.1 newest]
      exact plain

end

end Sys2Proof.Machine

/-! SUPPORT. The steps of a maintenance window: each offers its work and leaves the rest alone (R222). -/

namespace Sys2Proof.Machine

section
variable {l : LandingId} {p : ClaimKind → Bool} {mine : Nat → Prop}

/-! ## Windows -/

theorem State.openWindow_offers (s : State) : Offers l p mine s (s.openWindow l) := by
  unfold State.openWindow
  refine s.noteMnt_offers ?_ ?_ ?_ <;> split
  case refine_3.isTrue begun => exact .inr begun
  case refine_3.isFalse => exact .inr rfl
  all_goals rfl

theorem State.openWindow_lastWindow (s : State) (l : LandingId) : ((s.openWindow l).land l).mnt.lastWindow = some s.tread := by
  rw [State.openWindow, State.modMnt_land_self]
  dsimp only
  split
  · assumption
  · rfl

theorem State.holdWindow_offers (s : State) (ck : Nat) : Offers l p mine s (s.holdWindow l ck) := s.noteMnt_offers rfl rfl (.inl rfl)

theorem State.takeLeft_offers (s : State) : Offers l p mine s (s.takeLeft l) := s.openWindow_offers.ite (.refl l p mine s)

theorem State.noteLeft_offers (s : State) : Offers l p mine s (s.noteLeft l) :=
  Offers.ite ((s.noteMnt_offers rfl rfl (.inl rfl)).trans (State.bumpL_offers _ _ _)) (.refl l p mine s)

theorem State.present_offers (s : State) {k : ClaimKind} (apart : p k = false) (stamp : BitVec 32) :
    Offers l p mine s (s.present l k stamp false) :=
  s.stage_offers (a := claimAccess s.chip.nextId k stamp false) rfl rfl apart

/-- A window that begins and takes a claim. -/
theorem State.windowClaim_offers (s : State) {k : ClaimKind} (apart : p k = false) (stamp : BitVec 32) :
    Offers l p mine s ((s.openWindow l).present l k stamp false) :=
  s.openWindow_offers.trans (State.present_offers _ apart stamp)

/-- A window that begins with refresh. -/
def State.refreshWindow (s : State) (l : Nat) : State := (s.openWindow l).modMnt l fun m => { m with winRef := true }

theorem State.refreshWindow_offers (s : State) : Offers l p mine s (s.refreshWindow l) :=
  s.openWindow_offers.trans (State.noteMnt_offers _ rfl rfl (.inl rfl))

theorem State.refreshWindow_lastWindow (s : State) (l : LandingId) : ((s.refreshWindow l).land l).mnt.lastWindow = some s.tread := by
  rw [State.refreshWindow, State.modMnt_land_self]
  exact s.openWindow_lastWindow l

/-! ## Refresh -/

theorem State.modRef_refOf (s : State) (l : LandingId) (b r : Nat) (f : RefSched → RefSched) :
    (s.modRef l b r f).refOf l b r = (s.refOf l b r).map f := by
  rw [State.refOf, State.modRef, State.modMnt_land_self, State.refOf]
  dsimp only
  cases h : (s.land l).mnt.ref[8 * b + r]? with
  | none => exact h
  | some x => simp [(Vector.getElem?_eq_some_iff.1 h).1]

theorem State.modRef_offers (s : State) {b r : Nat} {f : RefSched → RefSched} (apart : ¬mine (8 * b + r))
    (moves : ∀ x, s.refOf l b r = some x → x.onward (f x)) : Offers l p mine s (s.modRef l b r f) := by
  unfold State.modRef
  unfold State.refOf at moves
  cases here : (s.land l).mnt.ref[8 * b + r]? with
  | none => exact s.noteMnt_offers (by simp [here]) (by simp [here]) (.inl (by simp [here]))
  | some x =>
    refine s.modMnt_offers (by simp [here, Mnt.steady]) (.inl (by simp [here])) (fun i own => ?_) fun i y listed => ?_
    · have other : 8 * b + r ≠ i := fun same => apart (same ▸ own)
      simp [here, other]
    · by_cases same : 8 * b + r = i
      · subst same
        obtain rfl : x = y := Option.some.inj (here.symm.trans listed)
        obtain ⟨bound, value⟩ := Vector.getElem?_eq_some_iff.1 here
        exact ⟨f x, by simp [bound, value], moves x here⟩
      · exact ⟨y, by simp [here, same, listed], .refl y⟩

/-- A rank whose place and refresh are not those looked at. -/
structure Apart (p : ClaimKind → Bool) (mine : Nat → Prop) (e : Nat × Nat) : Prop where
  place : ¬mine (8 * e.1 + e.2)
  whole : p (.refAb e.1 e.2) = false
  parts : ∀ i, p (.refSb e.1 e.2 i) = false

theorem State.presentInstance_offers (s : State) {e : Nat × Nat} (apart : Apart p mine e) (r : RefSched) :
    Offers l p mine s (s.presentInstance l e.1 e.2 r false) := by
  refine (s.modRef_offers apart.place (f := fun r => { r with presented := true }) fun x _ => ⟨fun _ => rfl, id⟩).trans (Offers.ite ?_ ?_)
  · exact (State.present_offers _ (apart.parts 0) _).trans (State.present_offers _ (apart.parts 1) _)
  · exact State.present_offers _ apart.whole _

theorem State.presentPartTwo_offers (s : State) {e : Nat × Nat} (apart : Apart p mine e) (at0 : Nat) :
    Offers l p mine s (s.presentPartTwo l e.1 e.2 at0 false) := by
  refine (s.modRef_offers apart.place (f := fun r => { r with partTwo := none }) fun x _ => ⟨id, fun _ => rfl⟩).trans ?_
  exact (State.present_offers _ (apart.parts 2) _).trans (State.present_offers _ (apart.parts 3) _)

theorem State.presentRefresh_offers (s : State) {e : Nat × Nat} (apart : Apart p mine e) :
    Offers l p mine s (s.presentRefresh l e.1 e.2) := by
  unfold State.presentRefresh
  split
  · exact .refl l p mine s
  next r here =>
    refine Offers.ite (.refl l p mine s) ?_
    refine Offers.trans (s.modRef_offers apart.place fun x same => ?_)
      ((State.refreshWindow_offers _).trans (State.presentInstance_offers _ apart _))
    rw [here, Option.some.injEq] at same
    exact same ▸ ⟨id, id⟩

/-- The part two of a rank, presented when it is due. -/
def State.partTwoDue (s : State) (l : Nat) (e : Nat × Nat) : State :=
  match (s.refOf l e.1 e.2).bind (·.partTwo) with
  | some t => if t ≤ s.tread then (s.refreshWindow l).presentPartTwo l e.1 e.2 t false else s
  | none => s

theorem State.partTwoDue_offers (s : State) {e : Nat × Nat} (apart : Apart p mine e) : Offers l p mine s (s.partTwoDue l e) := by
  unfold State.partTwoDue
  split
  · exact Offers.ite (s.refreshWindow_offers.trans (State.presentPartTwo_offers _ apart _)) (.refl l p mine s)
  · exact .refl l p mine s

/-- A rank apart, or the one looked at, with no part two to present. -/
def Untwo (p : ClaimKind → Bool) (mine : Nat → Prop) (s : State) (l : Nat) (e : Nat × Nat) : Prop :=
  Apart p mine e ∨ (mine (8 * e.1 + e.2) ∧ (s.refOf l e.1 e.2).bind (·.partTwo) = none)

theorem State.presentPartsTwo_eq (s : State) (l : Nat) (serves : s.mntServes l = true) (free : s.windowFree l = true) :
    s.presentPartsTwo l = (s.land l).rankList.foldl (fun s e => s.partTwoDue l e) s := by
  rw [State.presentPartsTwo, serves, free]
  rfl

theorem foldl_partTwoDue_offers {rest : List (Nat × Nat)} {s : State} (apart : ∀ e ∈ rest, Untwo p mine s l e) :
    Offers l p mine s (rest.foldl (fun s e => s.partTwoDue l e) s) := by
  refine foldl_keeps (R := Offers l p mine s) (fun t e listed h => ?_) (.refl l p mine s)
  rcases apart e listed with apart | ⟨own, none⟩
  · exact h.trans (t.partTwoDue_offers apart)
  · rw [← h.refOf own] at none
    rwa [State.partTwoDue, none]

theorem State.presentPartsTwo_offers {s : State} (apart : ∀ e ∈ (s.land l).rankList, Untwo p mine s l e) :
    Offers l p mine s (s.presentPartsTwo l) :=
  Offers.ite (.refl l p mine s) (foldl_partTwoDue_offers apart)

end

end Sys2Proof.Machine

/-! SUPPORT. A maintenance window in order: refresh, row protection, calibration, ZQ with its latches, and scrub (R222). -/

namespace Sys2Proof.Machine

section
variable {l : LandingId} {p : ClaimKind → Bool} {mine : Nat → Prop}

/-! ## Refresh of a rank looked at -/

/-- The refresh of a rank stands presented in the window of this tread, under its stamp and a number given out since `n`. -/
structure Refreshing (n : Nat) (s : State) (l : LandingId) (e : Nat × Nat) (stamp : BitVec 32) : Prop where
  presented : ∃ r, s.refOf l e.1 e.2 = some r ∧ r.presented = true
  window : (s.land l).mnt.lastWindow = some s.tread
  whole : (s.land l).mnt.sameBank = false → Asked n s l (.refAb e.1 e.2) stamp false
  parts : (s.land l).mnt.sameBank = true → Asked n s l (.refSb e.1 e.2 0) stamp false ∧ Asked n s l (.refSb e.1 e.2 1) stamp false

theorem Offers.sameBank {s t : State} (h : Offers l p mine s t) : (t.land l).mnt.sameBank = (s.land l).mnt.sameBank :=
  congrArg (fun m => m.sameBank) h.mnt

theorem Refreshing.offers {n : Nat} {s t : State} {e : Nat × Nat} {stamp : BitVec 32} (r : Refreshing n s l e stamp)
    (h : Offers l p mine s t) : Refreshing n t l e stamp where
  presented := by
    obtain ⟨r, here, presented⟩ := r.presented
    obtain ⟨r', here', moved⟩ := h.onward _ r here
    exact ⟨r', here', moved.1 presented⟩
  window := by
    rw [h.tread]
    exact h.lastWindow r.window
  whole bank := h.asked (r.whole (h.sameBank ▸ bank))
  parts bank := (r.parts (h.sameBank ▸ bank)).imp h.asked h.asked

theorem State.modRef_sameBank (s : State) (l : LandingId) (b r : Nat) (f : RefSched → RefSched) :
    ((s.modRef l b r f).land l).mnt.sameBank = (s.land l).mnt.sameBank := by
  rw [State.modRef, State.modMnt_land_self]
  dsimp only
  split <;> rfl

theorem State.presentInstance_whole {n : Nat} {s : State} (known : n ≤ s.chip.nextId) (l : LandingId) (b r : Nat) (sched : RefSched)
    (emergency : Bool) (bank : (s.land l).mnt.sameBank = false) :
    Asked n (s.presentInstance l b r sched emergency) l (.refAb b r) (stampOf (16 * sched.sched.next)) emergency := by
  unfold State.presentInstance
  dsimp only
  rw [s.modRef_sameBank, bank]
  exact State.present_asked (s := s.modRef l b r _) known l _ _ _

theorem State.presentInstance_parts {n : Nat} {s : State} (known : n ≤ s.chip.nextId) (l : LandingId) (b r : Nat) (sched : RefSched)
    (emergency : Bool) (bank : (s.land l).mnt.sameBank = true) :
    Asked n (s.presentInstance l b r sched emergency) l (.refSb b r 0) (stampOf (16 * sched.sched.next)) emergency ∧
      Asked n (s.presentInstance l b r sched emergency) l (.refSb b r 1) (stampOf (16 * sched.sched.next)) emergency := by
  unfold State.presentInstance
  dsimp only
  rw [s.modRef_sameBank, bank]
  refine ⟨(State.present_asked (s := s.modRef l b r _) known l _ _ _).present _ _ _, State.present_asked ?_ l _ _ _⟩
  rw [State.present_nextId]
  exact Nat.le_succ_of_le known

theorem State.present_refOf (s : State) (l : LandingId) (k : ClaimKind) (stamp : BitVec 32) (emergency : Bool) (b r : Nat) :
    (s.present l k stamp emergency).refOf l b r = s.refOf l b r :=
  s.present_land_proj (fun x => x.mnt.ref[8 * b + r]?) (by intro x arb; rfl) l k stamp emergency l

theorem State.presentInstance_refOf (s : State) (l : LandingId) (b r : Nat) (sched : RefSched) (emergency : Bool) :
    (s.presentInstance l b r sched emergency).refOf l b r = (s.refOf l b r).map fun x => { x with presented := true } := by
  unfold State.presentInstance
  dsimp only
  split <;> simp only [State.present_refOf, State.modRef_refOf]

theorem apart_any (e : Nat × Nat) : Apart (fun _ => false) (fun _ => False) e := ⟨id, rfl, fun _ => rfl⟩

theorem State.refreshWindow_refreshing {n : Nat} {s : State} (known : n ≤ s.chip.nextId) {e : Nat × Nat} {x : RefSched}
    (here : s.refOf l e.1 e.2 = some x) (r : RefSched) :
    Refreshing n ((s.refreshWindow l).presentInstance l e.1 e.2 r false) l e (stampOf (16 * r.sched.next)) := by
  have opened : Offers l (fun _ => false) (fun _ => True) s (s.refreshWindow l) := s.refreshWindow_offers
  have shown := State.presentInstance_offers (l := l) (s.refreshWindow l) (apart_any e) r
  exact {
    presented := by
      rw [State.presentInstance_refOf, opened.refOf trivial, here]
      exact ⟨_, rfl, rfl⟩
    window := by
      rw [shown.tread]
      exact shown.lastWindow (opened.tread ▸ s.refreshWindow_lastWindow l)
    whole bank := State.presentInstance_whole (known.trans opened.known) l _ _ r false (shown.sameBank ▸ bank)
    parts bank := State.presentInstance_parts (known.trans opened.known) l _ _ r false (shown.sameBank ▸ bank) }

/-- The refresh of a rank that is ready is presented. -/
theorem State.presentRefresh_refreshing {n : Nat} {s : State} (known : n ≤ s.chip.nextId) {e : Nat × Nat} {r : RefSched}
    (here : s.refOf l e.1 e.2 = some r) (ready : s.refreshReady l e.1 e.2 r = true) (free : s.windowFree l = true) :
    Refreshing n (s.presentRefresh l e.1 e.2) l e (stampOf (16 * r.sched.next)) := by
  unfold State.presentRefresh
  rw [here]
  dsimp only
  rw [ready, free, if_neg (by decide)]
  have begun : (s.modRef l e.1 e.2 fun _ => { r with sched := schedOwe (s.land l).mnt.flight s.tread r.sched }).refOf l e.1 e.2 =
      some { r with sched := schedOwe (s.land l).mnt.flight s.tread r.sched } := by
    rw [State.modRef_refOf, here]
    rfl
  exact State.refreshWindow_refreshing (n := n) (by exact known) begun _

/-! ## The window in parts -/

/-- A window's refresh: every part two, and the refresh of every rank, that is due. -/
def State.windowRefresh (s : State) (l : Nat) : State :=
  (s.land l).rankList.foldl (fun s e => s.presentRefresh l e.1 e.2) ((s.takeLeft l).presentPartsTwo l)

/-- A window up to the ZQ Starts. -/
def State.windowRows (s : State) (l : Nat) : State := (((s.windowRefresh l).presentRows l).presentCal l).presentZq l

/-- A window up to the latches. -/
def State.windowLatches (s : State) (l : Nat) : State :=
  ((s.windowRows l).land l).mnt.zqOpen.foldl (fun s e => s.presentLatch l e.1 e.2.1) (s.windowRows l)

theorem State.maintenanceWindow_eq {s : State} (serves : s.mntServes l = true) (free : s.windowFree l = true) :
    s.maintenanceWindow l = ((s.windowLatches l).presentScrub l).noteLeft l := by
  rw [State.maintenanceWindow, serves, free]
  rfl

theorem Landing.rankList_nodup (x : Landing) : x.rankList.Nodup := by
  refine List.nodup_flatMap.2 ⟨fun b _ => (List.nodup_range).map (by intro a b h; exact (Prod.mk.inj h).2), ?_⟩
  refine List.nodup_range.imp fun {a b} other => ?_
  simp only [Function.onFun, List.disjoint_left, List.mem_map]
  rintro _ ⟨r, _, rfl⟩ ⟨r', _, same⟩
  exact other (Prod.mk.inj same).1.symm

theorem Landing.mem_rankList {x : Landing} {e : Nat × Nat} : e ∈ x.rankList ↔ e.1 < 2 ∧ e.2 < 8 ∧ e.2 < x.seq.geom.ranks := by
  obtain ⟨b, r⟩ := e
  simp [Landing.rankList]

/-- A rank looked at: its own place and its own refresh. -/
def placeOf (e : Nat × Nat) (i : Nat) : Prop := i = 8 * e.1 + e.2

theorem apart_of_ne {x : Landing} {e y : Nat × Nat} (he : e ∈ x.rankList) (hy : y ∈ x.rankList) (other : y ≠ e) :
    Apart (ClaimKind.refreshes e.1 e.2) (placeOf e) y := by
  obtain ⟨-, narrow, -⟩ := Landing.mem_rankList.1 he
  obtain ⟨-, narrow', -⟩ := Landing.mem_rankList.1 hy
  have differ : ¬(y.1 = e.1 ∧ y.2 = e.2) := fun same => other (Prod.ext same.1 same.2)
  refine ⟨fun same => differ ?_, ?_, fun i => ?_⟩
  · unfold placeOf at same
    omega
  · simpa [ClaimKind.refreshes] using differ
  · simpa [ClaimKind.refreshes] using differ

end

end Sys2Proof.Machine

/-! SUPPORT. What a maintenance window presents of refresh (R212, R219, R222). -/

namespace Sys2Proof.Machine

section
variable {l : LandingId} {p : ClaimKind → Bool} {mine : Nat → Prop}

/-! ## Refresh that is ready -/

theorem State.refreshReady_iff {s : State} {l b r : Nat} {x : RefSched} :
    s.refreshReady l b r x = true ↔ s.mntServes l = true ∧ r < (s.land l).seq.geom.ranks ∧ x.presented = false ∧ x.partTwo = none ∧
      (s.land l).claimed (ClaimKind.refreshes b r) = false ∧ x.sched.next ≤ s.tread := by
  simp [State.refreshReady, and_assoc]

/-- A rank that is ready stays so while the others are served. -/
theorem Offers.refreshReady {s t : State} {e : Nat × Nat} {r : RefSched} (h : Offers l (ClaimKind.refreshes e.1 e.2) mine s t)
    (ready : s.refreshReady l e.1 e.2 r = true) : t.refreshReady l e.1 e.2 r = true := by
  obtain ⟨serves, ranked, fresh, whole, free, due⟩ := State.refreshReady_iff.1 ready
  exact State.refreshReady_iff.2 ⟨h.mntServes.trans serves, by rwa [h.ranks], fresh, whole, h.unclaimed free, by rwa [h.tread]⟩

theorem State.partsTwo_offers {s : State} {e : Nat × Nat} (listed : e ∈ (s.land l).rankList)
    (none : (s.refOf l e.1 e.2).bind (·.partTwo) = none) :
    Offers l (ClaimKind.refreshes e.1 e.2) (placeOf e) s ((s.takeLeft l).presentPartsTwo l) := by
  have left : Offers l (ClaimKind.refreshes e.1 e.2) (placeOf e) s (s.takeLeft l) := s.takeLeft_offers
  refine left.trans (State.presentPartsTwo_offers fun y hy => ?_)
  rw [left.rankList] at hy
  by_cases same : y = e
  · subst same
    exact .inr ⟨rfl, by rwa [left.refOf rfl]⟩
  · exact .inl (apart_of_ne listed hy same)

/-- The refresh of every rank that is ready is presented. -/
theorem State.windowRefresh_refreshing {s : State} {e : Nat × Nat} {r : RefSched} (listed : e ∈ (s.land l).rankList)
    (here : s.refOf l e.1 e.2 = some r) (ready : s.refreshReady l e.1 e.2 r = true) (free : s.windowFree l = true) :
    Refreshing s.chip.nextId (s.windowRefresh l) l e (stampOf (16 * r.sched.next)) := by
  have none : (s.refOf l e.1 e.2).bind (·.partTwo) = none := by
    rw [here]
    exact (State.refreshReady_iff.1 ready).2.2.2.1
  obtain ⟨before, after, earlier, -, other, -, order⟩ :=
    foldl_around (fun s e => s.presentRefresh l e.1 e.2) listed (Landing.rankList_nodup _) ((s.takeLeft l).presentPartsTwo l)
  have offered := (State.partsTwo_offers listed none).trans (Offers.foldl (f := fun s e => s.presentRefresh l e.1 e.2) (rest := before)
    (fun u y hy => u.presentRefresh_offers (apart_of_ne listed (earlier hy) fun same => other (same ▸ hy))) _)
  have shown := State.presentRefresh_refreshing offered.known ((offered.refOf rfl).trans here) (offered.refreshReady ready)
    (offered.windowFree free)
  rw [State.windowRefresh, order]
  exact shown.offers (Offers.foldl (f := fun s e => s.presentRefresh l e.1 e.2) (rest := after)
    (fun u y _ => u.presentRefresh_offers (apart_any y)) _)

/-! ## The rest of a window, which presents latches last -/

/-- Every kind looked at is a latch's. -/
def LatchesOnly (p : ClaimKind → Bool) : Prop := ∀ k, p k = true → ∃ b r, k = .zqLatch b r

theorem LatchesOnly.spares (only : LatchesOnly p) {k : ClaimKind} (other : ∀ b r, k ≠ .zqLatch b r) : p k = false := by
  by_contra found
  obtain ⟨b, r, same⟩ := only k (by simpa using found)
  exact other b r same

theorem LatchesOnly.apart (only : LatchesOnly p) (e : Nat × Nat) : Apart p (fun _ => False) e :=
  ⟨id, only.spares (by simp), fun _ => only.spares (by simp)⟩

theorem rfmClaim_ne_zqLatch (sb : Bool) (k : Nat × Nat × Nat × Nat) (b r : Nat) : rfmClaim sb k ≠ .zqLatch b r := by
  unfold rfmClaim
  split <;> simp

theorem drfmClaim_ne_zqLatch (sb : Bool) (k : Nat × Nat × Nat × Nat) (b r : Nat) : drfmClaim sb k ≠ .zqLatch b r := by
  unfold drfmClaim
  split <;> simp

theorem State.windowRefresh_offers (only : LatchesOnly p) (s : State) : Offers l p (fun _ => False) s (s.windowRefresh l) := by
  refine s.takeLeft_offers.trans ?_
  refine (State.presentPartsTwo_offers fun y _ => .inl (only.apart y)).trans ?_
  exact Offers.foldl (f := fun s e => s.presentRefresh l e.1 e.2) (fun u y _ => u.presentRefresh_offers (only.apart y)) _

/-- The owed claim of a bank, presented unless it stands or the bank is fenced. -/
theorem State.rowClaim_offers (s : State) {k : ClaimKind} (apart : p k = false) (stamp : BitVec 32) {skip : Prop} [Decidable skip] :
    Offers l p mine s (if skip then s else (s.openWindow l).present l k stamp false) :=
  Offers.ite (.refl l p mine s) (s.windowClaim_offers apart stamp)

theorem State.presentRows_offers (only : LatchesOnly p) (s : State) : Offers l p mine s (s.presentRows l) := by
  refine Offers.ite (.refl l p mine s) (Offers.trans (Offers.foldl (fun u e _ => ?_) _) (Offers.foldl (fun u e _ => ?_) _))
  · exact u.rowClaim_offers (only.spares (rfmClaim_ne_zqLatch _ _)) _
  · exact u.rowClaim_offers (only.spares (drfmClaim_ne_zqLatch _ _)) _

theorem State.presentCal_offers (only : LatchesOnly p) (s : State) : Offers l p mine s (s.presentCal l) := by
  have one (ck : Nat) (k : ClaimKind) (other : ∀ b r, k ≠ .zqLatch b r) (stamp : BitVec 32) :
      Offers l p mine s (((s.openWindow l).holdWindow l ck).present l k stamp false) :=
    (s.openWindow_offers.trans (State.holdWindow_offers _ ck)).trans (State.present_offers _ (only.spares other) stamp)
  unfold State.presentCal
  refine Offers.ite (.refl l p mine s) ?_
  dsimp only
  split
  · exact Offers.ite (one _ .commit (by simp) _) (.refl l p mine s)
  · exact Offers.ite (.refl l p mine s) (Offers.ite (one _ .retrain (by simp) _) (.refl l p mine s))
  · exact .refl l p mine s

theorem State.presentZq_offers (only : LatchesOnly p) (s : State) : Offers l p mine s (s.presentZq l) := by
  unfold State.presentZq
  refine Offers.ite (.refl l p mine s) (s.openWindow_offers.trans ?_)
  exact Offers.foldl (fun u e _ => u.present_offers (only.spares (by simp)) _) _

theorem State.windowRows_offers (only : LatchesOnly p) (s : State) : Offers l p (fun _ => False) s (s.windowRows l) :=
  (((s.windowRefresh_offers only).trans (State.presentRows_offers only _)).trans (State.presentCal_offers only _)).trans
    (State.presentZq_offers only _)

theorem latchesOnly_none : LatchesOnly fun _ => false := by
  intro k h
  simp at h

theorem State.presentLatch_offers (s : State) {b r : Nat} (apart : p (.zqLatch b r) = false) : Offers l p mine s (s.presentLatch l b r) := by
  unfold State.presentLatch
  dsimp only
  split
  · exact Offers.ite (.refl l p mine s) (s.windowClaim_offers apart _)
  · exact .refl l p mine s

/-- A scrub read joins the Landing's requests. -/
theorem State.scrubRead_offers (s : State) (stamp : BitVec 32) (a : Nat) :
    Offers l p mine s (s.fresh.2.stage l (access s.fresh.1 .scrub 11 stamp .read a)) :=
  s.stage_offers rfl rfl rfl

theorem State.presentScrub_offers (s : State) : Offers l p mine s (s.presentScrub l) := by
  unfold State.presentScrub
  extract_lets m
  split
  · exact .refl l p mine s
  next due owed _ _ =>
    split
    · exact .refl l p mine s
    · extract_lets want
      generalize s.scrubLines l _ _ _ _ _ _ = batch
      obtain ⟨lines, pos, passes⟩ := batch
      have reads : Offers l p mine s (lines.foldl (fun s line =>
          s.fresh.2.stage l (access s.fresh.1 .scrub 11 (stampOf (16 * due)) .read (64 * line))) (s.openWindow l)) :=
        s.openWindow_offers.trans (Offers.foldl (fun u line _ => u.scrubRead_offers _ _) _)
      have counted := Offers.ite (c := passes = 0) reads (reads.trans (State.bumpL_offers _ 0x6A4 passes))
      exact (counted.trans (State.holdWindow_offers _ (4 * want))).trans (State.noteMnt_offers _ rfl rfl (.inl rfl))

theorem State.windowLatches_offers (s : State) : Offers l (fun _ => false) (fun _ => False) (s.windowRows l) (s.windowLatches l) :=
  Offers.foldl (f := fun s (e : Nat × Nat × Nat) => s.presentLatch l e.1 e.2.1) (fun u _ _ => u.presentLatch_offers rfl) _

/-- What a window presents after refresh leaves refresh as it stands. -/
theorem State.afterRefresh_offers {s : State} (serves : s.mntServes l = true) (free : s.windowFree l = true) :
    Offers l (fun _ => false) (fun _ => False) (s.windowRefresh l) (s.maintenanceWindow l) := by
  rw [State.maintenanceWindow_eq serves free]
  have rows : Offers l (fun _ => false) (fun _ => False) (s.windowRefresh l) (s.windowRows l) :=
    ((State.presentRows_offers latchesOnly_none _).trans (State.presentCal_offers latchesOnly_none _)).trans
      (State.presentZq_offers latchesOnly_none _)
  exact (Offers.trans (rows.trans s.windowLatches_offers) (State.presentScrub_offers _)).trans (State.noteLeft_offers _)

theorem State.maintenanceWindow_offers (s : State) : Offers l (fun _ => false) (fun _ => False) s (s.maintenanceWindow l) := by
  by_cases guards : s.mntServes l = true ∧ s.windowFree l = true
  · exact (s.windowRefresh_offers latchesOnly_none).trans (State.afterRefresh_offers guards.1 guards.2)
  · rw [State.maintenanceWindow, if_pos (by simpa [imp_iff_not_or] using guards)]
    exact .refl l _ _ s

/-- The refresh of every rank that is ready stands when the window has been served. -/
theorem State.maintenanceWindow_refreshing {s : State} {e : Nat × Nat} {r : RefSched} (listed : e ∈ (s.land l).rankList)
    (here : s.refOf l e.1 e.2 = some r) (ready : s.refreshReady l e.1 e.2 r = true) (free : s.windowFree l = true) :
    Refreshing s.chip.nextId (s.maintenanceWindow l) l e (stampOf (16 * r.sched.next)) :=
  (State.windowRefresh_refreshing listed here ready free).offers
    (State.afterRefresh_offers (State.refreshReady_iff.1 ready).1 free)

end

end Sys2Proof.Machine

/-! SUPPORT. A rank's refresh at its debt cap (R213): what becomes urgent is placed, and the emergency is presented. -/

namespace Sys2Proof.Machine

/-! ## Placing leaves the refresh granularity and the request numbers -/

/-- Every Landing refreshes in the same granularity, and no request was numbered. -/
structure Placing (s t : State) : Prop where
  bank : ∀ k : Nat, (t.land k).mnt.sameBank = (s.land k).mnt.sameBank
  number : t.chip.nextId = s.chip.nextId

theorem Placing.refl (s : State) : Placing s s := ⟨fun _ => rfl, rfl⟩

theorem Placing.trans {s t u : State} (h : Placing s t) (k : Placing t u) : Placing s u :=
  ⟨fun i => (k.bank i).trans (h.bank i), k.number.trans h.number⟩

theorem Placing.ite {s t u : State} {c : Prop} [Decidable c] (ht : Placing s t) (hu : Placing s u) : Placing s (if c then t else u) := by
  split
  · exact ht
  · exact hu

theorem State.modLand_placing (s : State) (l : Nat) {f : Landing → Landing} (h : ∀ x, (f x).mnt.sameBank = x.mnt.sameBank) :
    Placing s (s.modLand l f) :=
  ⟨fun k => s.modLand_land_proj (fun x => x.mnt.sameBank) h l k, rfl⟩

theorem State.modSeq_placing (s : State) (l : Nat) (f : Seq → Seq) : Placing s (s.modSeq l f) := s.modLand_placing l fun _ => rfl
theorem State.modArb_placing (s : State) (l : Nat) (f : Arb → Arb) : Placing s (s.modArb l f) := s.modLand_placing l fun _ => rfl
theorem State.modCal_placing (s : State) (l : Nat) (f : Cal → Cal) : Placing s (s.modCal l f) := s.modLand_placing l fun _ => rfl
theorem State.bumpL_placing (s : State) (l off n : Nat) : Placing s (s.bumpL l off n) := s.modLand_placing l fun _ => rfl

theorem State.modMnt_placing (s : State) (l : Nat) {f : Mnt → Mnt} (h : ∀ m, (f m).sameBank = m.sameBank) : Placing s (s.modMnt l f) :=
  s.modLand_placing l fun x => h x.mnt

theorem OnlyReported.placing {s t : State} (h : OnlyReported s t) : Placing s t := by
  obtain ⟨_, _, _, _, _, _, _, rfl⟩ := h
  exact ⟨fun _ => rfl, rfl⟩

theorem State.record_placing (s : State) (l k n : Nat) (w : Want) (v : Served) : Placing s (s.record l k n w v) := by
  unfold State.record
  extract_lets ck q after closed named sample t
  have sampled : Placing s t := .ite (s.modMnt_placing l (by intro m; rfl)) (.refl s)
  exact sampled.trans (t.modSeq_placing l _)

theorem State.startRefresh_placing (s : State) (l sub rank : Nat) (emergency : Bool) : Placing s (s.startRefresh l sub rank emergency) := by
  have counted {c : Prop} [Decidable c] (u : State) (off : Nat) : Placing u (if c then u.bumpL l off 1 else u) :=
    .ite (u.bumpL_placing l off 1) (.refl u)
  unfold State.startRefresh
  dsimp only
  split
  · exact .refl s
  · refine .ite (.refl s) (.trans ?_ (counted _ _))
    exact ((s.modMnt_placing l (by intro m; rfl)).trans (State.bumpL_placing _ l _ _)).trans (counted _ _)

theorem State.startZq_placing (s : State) (l : Nat) : Placing s (s.startZq l) := .ite (.refl s) (s.modMnt_placing l (by intro m; rfl))

theorem State.claimPlaced_placing (s : State) (l k : Nat) (emergency : Bool) (kind : ClaimKind) :
    Placing s (s.claimPlaced l k emergency kind) := by
  have settled (u : State) {f : Mnt → Mnt} (h : ∀ m, (f m).sameBank = m.sameBank) (off : Nat) : Placing u ((u.modMnt l f).bumpL l off 1) :=
    (u.modMnt_placing l h).trans (State.bumpL_placing _ l off 1)
  unfold State.claimPlaced
  extract_lets rfm dec imt
  split
  · exact (s.startRefresh_placing l _ _ emergency).trans (State.modMnt_placing _ l (by intro m; rfl))
  · exact Placing.trans (.ite (s.startRefresh_placing l _ _ emergency) (.refl s)) (State.modMnt_placing _ l (by intro m; rfl))
  · exact settled _ (by intro m; rfl) _
  · exact settled _ (by intro m; rfl) _
  · exact settled _ (by intro m; rfl) _
  · exact settled _ (by intro m; rfl) _
  · exact s.modMnt_placing l (by intro m; rfl)
  · exact (s.startZq_placing l).trans (State.modMnt_placing _ l (by intro m; rfl))
  · exact s.modMnt_placing l (by intro m; rfl)
  · exact .refl s

theorem State.placeClaim_placing (s : State) (l k n : Nat) (a : Access) (kind : ClaimKind) (w : Want) :
    Placing s (s.placeClaim l k n a kind w) := by
  have noted : Placing s (s.noteWindow l n a) := .ite (s.modMnt_placing l (by intro m; rfl)) (.refl s)
  refine (noted.trans (State.record_placing _ l k n w _)).trans (.ite (.refl _) ?_)
  exact Placing.trans (.ite (.refl _) (State.claimPlaced_placing _ l k _ kind)) (State.modSeq_placing _ l _)

theorem Mnt.untake_sameBank (m : Mnt) (c : PlanCmd) : (m.untake c).sameBank = m.sameBank := by
  unfold Mnt.untake
  extract_lets k m₁ m₂
  have counted : m₁.sameBank = m.sameBank := by
    simp only [m₁]
    split <;> rfl
  have sampled : m₂.sameBank = m₁.sameBank := by
    simp only [m₂]
    split <;> rfl
  split <;> exact sampled.trans counted

theorem State.unplaceAll_placing (s : State) (l : Nat) (cs : List PlanCmd) : Placing s (s.unplaceAll l cs) :=
  foldl_related Placing.refl Placing.trans
    (fun u c => (u.modSeq_placing l _).trans (State.modMnt_placing _ l fun m => m.untake_sameBank c)) _ s

/-- Emergency claims are placed as claims. -/
theorem State.placeUrgent_placing {a : Access} {kind : ClaimKind} (claim : a.claimKind = some kind) (l k last limit fuel : Nat) (s : State) :
    Placing s (s.placeUrgent l k last limit a fuel) := by
  induction fuel generalizing s with
  | zero => exact .refl s
  | succ fuel ih =>
    unfold State.placeUrgent
    dsimp only
    split
    · exact .refl s
    · refine .ite (.refl s) ?_
      split
      · exact (s.unplaceAll_placing l _).trans (ih _)
      · rw [claim]
        exact (s.placeClaim_placing l _ _ a kind _).trans (ih _)

theorem State.breakStep_placing (s : State) (l : Nat) : Placing s (s.breakStep l) := by
  unfold State.breakStep
  refine Placing.ite (.trans (s.modSeq_placing l fun q => { q with quietTo := 0 }) ?_) (.refl s)
  generalize s.modSeq l (fun q => { q with quietTo := 0 }) = u
  unfold State.abortCal
  extract_lets c margin n work t v x
  have given : Placing u x :=
    (((u.modArb_placing l _).trans (t.modSeq_placing l _)).trans (v.modCal_placing l _)).trans (State.bumpL_placing _ l _ _)
  exact .ite (.refl u) (.ite (given.trans (x.report_onlyReported _ _).placing) given)

theorem State.placeEmergency_placing {a : Access} {kind : ClaimKind} (claim : a.claimKind = some kind) (s : State) (l : Nat) :
    Placing s (s.placeEmergency l a) :=
  .ite (.refl s) ((State.placeUrgent_placing claim l _ _ _ 12 s).trans (State.modSeq_placing _ l _))

theorem State.excuse_placing (s : State) (l : Nat) : Placing s (s.excuse l) := ⟨fun _ => rfl, rfl⟩

theorem State.urge_placing (s : State) (l : Nat) (p : ClaimKind → Bool) : Placing s (s.urge l p) := by
  unfold State.urge
  extract_lets up t
  exact ((s.modArb_placing l _).trans (t.modSeq_placing l _)).trans (State.excuse_placing _ l)

theorem State.placeUrged_placing (s : State) (l : Nat) (p : ClaimKind → Bool) : Placing s (s.placeUrged l p) := by
  refine foldl_keeps (R := Placing s) (fun u a listed h => h.trans ((u.breakStep_placing l).trans ?_)) (.refl s)
  have urged := (List.mem_filter.1 listed).2
  cases claim : a.claimKind with
  | none => simp [claim] at urged
  | some kind => exact State.placeEmergency_placing claim _ l

/-! ## The emergency -/

/-- A rank at its debt cap, with nothing of an earlier one left, has its refresh presented as an emergency. -/
theorem State.refreshEmergency_asked {s : State} {l : LandingId} {b rank : Nat} {r : RefSched} (here : s.refOf l b rank = some r)
    (serves : s.mntServes l = true) (ranked : rank < (s.land l).seq.geom.ranks)
    (capped : 4 ≤ (schedOwe (s.land l).mnt.flight s.tread r.sched).debt) (fresh : r.presented = false) (one : r.partTwo = none)
    (bank : (s.land l).mnt.sameBank = false) :
    Asked s.chip.nextId (s.refreshEmergency l b rank) l (.refAb b rank) (stampOf (16 * r.sched.next)) true := by
  obtain ⟨sched, two, shown⟩ := r
  obtain rfl : two = none := one
  obtain rfl : shown = false := fresh
  set owing : RefSched := { sched := schedOwe (s.land l).mnt.flight s.tread sched, partTwo := none, presented := false }
  have begun : Offers l (fun _ => false) (fun _ => False) s (s.modRef l b rank fun _ => owing) :=
    s.modRef_offers id fun x same => by
      rw [here, Option.some.injEq] at same
      exact same ▸ ⟨id, id⟩
  have placed := (State.urge_placing (s.modRef l b rank fun _ => owing) l (ClaimKind.refreshes b rank)).trans
    (State.placeUrged_placing _ l (ClaimKind.refreshes b rank))
  have presents : s.refreshEmergency l b rank = (((s.modRef l b rank fun _ => owing).urge l (ClaimKind.refreshes b rank)).placeUrged l
      (ClaimKind.refreshes b rank)).presentInstance l b rank owing true := by
    rw [State.refreshEmergency, here]
    dsimp only
    rw [if_neg]
    · exact if_neg Bool.false_ne_true
    · rw [begun.mntServes, begun.ranks, serves]
      simp [ranked, capped]
  rw [presents]
  refine State.presentInstance_whole (sched := owing) ?_ l b rank true ?_
  · rw [placed.number]
    exact begun.known
  · rw [placed.bank, begun.sameBank, bank]

end Sys2Proof.Machine

/-! SUPPORT. Part two of same-bank refresh in a maintenance window (R219, R222). -/

namespace Sys2Proof.Machine

section
variable {l : LandingId} {p : ClaimKind → Bool} {mine : Nat → Prop}

/-- Part two of a rank's refresh stands presented under its stamp and numbers given out since `n`, and none is owed. -/
structure PartTwoShown (n : Nat) (s : State) (l : LandingId) (e : Nat × Nat) (stamp : BitVec 32) : Prop where
  third : Asked n s l (.refSb e.1 e.2 2) stamp false
  fourth : Asked n s l (.refSb e.1 e.2 3) stamp false
  settled : ∃ r, s.refOf l e.1 e.2 = some r ∧ r.partTwo = none

theorem PartTwoShown.offers {n : Nat} {s t : State} {e : Nat × Nat} {stamp : BitVec 32} (shown : PartTwoShown n s l e stamp)
    (h : Offers l p mine s t) : PartTwoShown n t l e stamp where
  third := h.asked shown.third
  fourth := h.asked shown.fourth
  settled := by
    obtain ⟨r, here, none⟩ := shown.settled
    obtain ⟨r', here', moved⟩ := h.onward _ r here
    exact ⟨r', here', moved.2 none⟩

theorem State.presentPartTwo_shown {n : Nat} {s : State} (known : n ≤ s.chip.nextId) {e : Nat × Nat} {r : RefSched}
    (here : s.refOf l e.1 e.2 = some r) (at0 : Nat) :
    PartTwoShown n (s.presentPartTwo l e.1 e.2 at0 false) l e (stampOf (16 * at0)) where
  third := by
    unfold State.presentPartTwo
    exact (State.present_asked (s := s.modRef l e.1 e.2 _) known l _ _ _).present _ _ _
  fourth := by
    unfold State.presentPartTwo
    refine State.present_asked ?_ l _ _ _
    rw [State.present_nextId]
    exact Nat.le_succ_of_le known
  settled := by
    unfold State.presentPartTwo
    refine ⟨{ r with partTwo := none }, ?_, rfl⟩
    dsimp only
    rw [State.present_refOf, State.present_refOf, State.modRef_refOf, here]
    rfl

theorem State.partTwoDue_shown {n : Nat} {s : State} (known : n ≤ s.chip.nextId) {e : Nat × Nat} {at0 : Nat}
    (owed : (s.refOf l e.1 e.2).bind (·.partTwo) = some at0) (due : at0 ≤ s.tread) :
    PartTwoShown n (s.partTwoDue l e) l e (stampOf (16 * at0)) := by
  obtain ⟨r, here, -⟩ := Option.bind_eq_some_iff.1 owed
  have opened : Offers l (fun _ => false) (fun _ => True) s (s.refreshWindow l) := s.refreshWindow_offers
  unfold State.partTwoDue
  rw [owed]
  dsimp only
  rw [if_pos due]
  exact State.presentPartTwo_shown (known.trans opened.known) ((opened.refOf trivial).trans here) at0

/-- Every part two that is due stands when the window has been served. -/
theorem State.maintenanceWindow_partTwo {s : State} (serves : s.mntServes l = true) (free : s.windowFree l = true) {e : Nat × Nat}
    (listed : e ∈ (s.land l).rankList) {at0 : Nat} (owed : (s.refOf l e.1 e.2).bind (·.partTwo) = some at0) (due : at0 ≤ s.tread) :
    PartTwoShown s.chip.nextId (s.maintenanceWindow l) l e (stampOf (16 * at0)) := by
  have left : Offers l (fun _ => false) (placeOf e) s (s.takeLeft l) := s.takeLeft_offers
  have ranks : e ∈ ((s.takeLeft l).land l).rankList := by rwa [left.rankList]
  obtain ⟨before, after, earlier, -, other, -, order⟩ :=
    foldl_around (fun s e => s.partTwoDue l e) ranks (Landing.rankList_nodup _) (s.takeLeft l)
  have apart (y : Nat × Nat) (hy : y ∈ before) : Apart (fun _ => false) (placeOf e) y :=
    ⟨(apart_of_ne ranks (earlier hy) fun same => other (same ▸ hy)).place, rfl, fun _ => rfl⟩
  have offered := left.trans (Offers.foldl (f := fun s e => s.partTwoDue l e) (fun u y hy => u.partTwoDue_offers (apart y hy)) _)
  have shown := State.partTwoDue_shown offered.known ((congrArg (·.bind (·.partTwo)) (offered.refOf rfl)).trans owed)
    (by rwa [offered.tread])
  have parts : PartTwoShown s.chip.nextId ((s.takeLeft l).presentPartsTwo l) l e (stampOf (16 * at0)) := by
    rw [State.presentPartsTwo_eq _ _ (left.mntServes.trans serves) (left.windowFree free), order]
    exact shown.offers (Offers.foldl (f := fun s e => s.partTwoDue l e) (fun u y _ => u.partTwoDue_offers (apart_any y)) _)
  have refreshed : PartTwoShown s.chip.nextId (s.windowRefresh l) l e (stampOf (16 * at0)) :=
    parts.offers (Offers.foldl (f := fun s e => s.presentRefresh l e.1 e.2) (fun u y _ => u.presentRefresh_offers (apart_any y)) _)
  exact refreshed.offers (State.afterRefresh_offers serves free)

/-! ## The rows of refresh -/

theorem execRefreshDue_of_ready {s : State} {sub : Fin 2} {rank : Fin 8} {r : RefSched} (here : s.refOf l sub rank = some r)
    (ready : s.refreshReady l sub rank r = true) : exec (.refreshDue l sub rank) s = .next (s.maintenanceWindow l) := by
  change execRefreshDue l sub rank s = _
  rw [execRefreshDue, here]
  exact if_pos ready

theorem execRefreshPartTwo_of_due {s : State} {e : Nat × Nat} (listed : e ∈ (s.land l).rankList) {at0 : Nat}
    (owed : (s.refOf l e.1 e.2).bind (·.partTwo) = some at0) (due : at0 ≤ s.tread) :
    exec (.refreshPartTwo l) s = .next (s.maintenanceWindow l) :=
  if_pos (List.any_eq_true.2 ⟨e, listed, by simp [owed, due]⟩)

theorem execRefreshPartTwo_next (s : State) :
    exec (.refreshPartTwo l) s = .next s ∨ exec (.refreshPartTwo l) s = .next (s.maintenanceWindow l) := by
  change execRefreshPartTwo l s = _ ∨ execRefreshPartTwo l s = _
  unfold execRefreshPartTwo
  split
  · exact .inr rfl
  · exact .inl rfl

/-! ## What a window touches -/

theorem State.maintenanceWindow_land_ne (s : State) {k : LandingId} (other : k ≠ l) : (s.maintenanceWindow l).land k = s.land k :=
  (s.maintenanceWindow_offers (l := l)).others k fun same => other (Fin.ext same)

theorem State.maintenanceWindow_halls (s : State) (l : LandingId) : (s.maintenanceWindow l).halls = s.halls :=
  congrArg (fun u => u.halls) (s.maintenanceWindow_offers (l := l)).around

theorem State.maintenanceWindow_boxes (s : State) (l : LandingId) : (s.maintenanceWindow l).boxes = s.boxes :=
  congrArg (fun u => u.boxes) (s.maintenanceWindow_offers (l := l)).around

theorem State.maintenanceWindow_ports {s : State} (entered : ∀ x ∈ (s.land l).arb.staging, x.entered = true) :
    (s.maintenanceWindow l).ports = s.ports :=
  ((s.maintenanceWindow_offers (l := l)).quiet fun x hx => by rw [Access.silent, entered x hx, Bool.true_or]).1

end

theorem State.refreshDue_outcome {s : State} {l : LandingId} {sub : Fin 2} {rank : Fin 8} {r : RefSched}
    (here : s.refOf l sub rank = some r) (ready : s.refreshReady l sub rank r = true) (free : s.windowFree l = true) :
    ∃ t, exec (.refreshDue l sub rank) s = .next t ∧ (t.refOf l sub rank).map (·.presented) = some true ∧
      (t.land l).mnt.lastWindow = some s.tread ∧
      ((s.land l).mnt.sameBank = false → Sys2Proof.Slice.Claims s t l (.refAb sub rank) (stampOf (16 * r.sched.next)) false) ∧
      ((s.land l).mnt.sameBank = true → Sys2Proof.Slice.Claims s t l (.refSb sub rank 0) (stampOf (16 * r.sched.next)) false ∧
        Sys2Proof.Slice.Claims s t l (.refSb sub rank 1) (stampOf (16 * r.sched.next)) false) := by
  have ranked := (State.refreshReady_iff.1 ready).2.1
  have listed : (sub.val, rank.val) ∈ (s.land l).rankList := Landing.mem_rankList.2 ⟨sub.isLt, rank.isLt, ranked⟩
  have shown := State.maintenanceWindow_refreshing listed here ready free
  have window := s.maintenanceWindow_offers (l := l)
  obtain ⟨r', here', presented⟩ := shown.presented
  refine ⟨_, execRefreshDue_of_ready here ready, ?_, ?_, fun bank => ?_, fun bank => ?_⟩
  · rw [here', Option.map_some, presented]
  · rw [shown.window, window.tread]
  · exact (shown.whole (window.sameBank.trans bank)).claims
  · exact (shown.parts (window.sameBank.trans bank)).imp Asked.claims Asked.claims

end Sys2Proof.Machine

section
open Sys2Proof Sys2Proof.Machine Sys2Proof.Slice

/-- Settles O31. A window presents the refresh of each rank that is ready, and every part two that is due, whatever it serves before and
after them (`State.maintenanceWindow_refreshing`, `State.maintenanceWindow_partTwo`); an emergency is presented after what became urgent
has been placed (`State.refreshEmergency_asked`). -/
theorem refreshIsPresented : Obligations.RefreshIsPresented := by
  refine ⟨fun s l sub rank r here ready free => State.refreshDue_outcome here ready free, ?_, ?_, ?_⟩
  · intro s l sub rank r here serves ranked capped fresh one bank
    exact ⟨_, rfl, (State.refreshEmergency_asked here serves ranked capped fresh one bank).claims⟩
  · intro s l serves free
    have due (t : State) (h : exec (.refreshPartTwo l) s = .next t) (e : Nat × Nat) (listed : e ∈ (s.land l).rankList) (at0 : Nat)
        (owed : (s.refOf l e.1 e.2).bind (·.partTwo) = some at0) (due : at0 ≤ s.tread) :
        Claims s t l (.refSb e.1 e.2 2) (stampOf (16 * at0)) false ∧ Claims s t l (.refSb e.1 e.2 3) (stampOf (16 * at0)) false ∧
          (t.refOf l e.1 e.2).map (·.partTwo) = some none := by
      obtain rfl : s.maintenanceWindow l = t := Host.Outcome.next.inj ((execRefreshPartTwo_of_due listed owed due).symm.trans h)
      obtain ⟨third, fourth, r, here, settled⟩ := State.maintenanceWindow_partTwo serves free listed owed due
      exact ⟨third.claims, fourth.claims, by rw [here, Option.map_some, settled]⟩
    rcases execRefreshPartTwo_next (l := l) s with stays | window
    · exact ⟨_, stays, due _ stays⟩
    · exact ⟨_, window, due _ window⟩
  · intro s l serves free
    refine ⟨_, rfl, fun e listed r here ready => ?_, fun k other => s.maintenanceWindow_land_ne other, s.maintenanceWindow_halls l,
      s.maintenanceWindow_boxes l, State.maintenanceWindow_ports⟩
    have shown := State.maintenanceWindow_refreshing listed here ready free
    have same : ((s.maintenanceWindow l).land l).mnt.sameBank = (s.land l).mnt.sameBank := (s.maintenanceWindow_offers (l := l)).sameBank
    split
    next bank => exact (shown.parts (same.trans bank)).1.claims
    next bank => exact (shown.whole (same.trans (by simpa using bank))).claims

end

/-! SUPPORT. Owed work of the Maintenance Unit: what is recorded as owed stays while a window presents it (R229, R237, R240), and the
readout of ECS (R242). -/

namespace Sys2Proof.Machine

section
variable {l : LandingId}

theorem State.maintenanceWindow_steady (s : State) (l : LandingId) : ((s.maintenanceWindow l).land l).mnt.steady = (s.land l).mnt.steady :=
  (s.maintenanceWindow_offers (l := l)).mnt

/-- The counts of merged instances, kept where some were merged. -/
theorem State.mergeCounts_mnt (s : State) (l : LandingId) (k a b : Nat) :
    ((if k = 0 then s else (s.bumpL l a k).bumpL l b k).land l).mnt = (s.land l).mnt := by
  split
  · rfl
  · exact (State.modLand_land_proj Landing.mnt (by intro x; rfl) _ l l).trans (State.modLand_land_proj Landing.mnt (by intro x; rfl) s l l)

/-! ## Row protection -/

theorem execRfmOwed_records {s : State} {sub : Fin 2} {rank bg : Fin 8} {bank : Fin 4} (enabled : (s.lv l 0x600).getLsbD 3 = true)
    (reached : fld (s.lv l 0x610) 9 0 ≤ (s.land l).mnt.raaOf (sub.val, rank.val, bg.val, bank.val))
    (first : ((s.land l).mnt.owedRfm.any fun e => e.1 == (sub.val, rank.val, bg.val, bank.val)) = false) :
    ∃ t, exec (.rfmOwed l sub rank bg bank) s = .next t ∧
      (t.land l).mnt.owedRfm = (s.land l).mnt.owedRfm ++ [((sub.val, rank.val, bg.val, bank.val), s.now)] := by
  refine ⟨_, if_pos (by rw [enabled, decide_eq_true reached]; rfl), ?_⟩
  refine (congrArg (fun m => m.owedRfm) (State.maintenanceWindow_steady _ l)).trans ?_
  rw [State.modMnt_land_self]
  simp only [Mnt.steady, first, Bool.false_eq_true, if_false]

/-! ## ZQ -/

/-- The ZQ calibration of a Landing is owed under a schedule, with the count of what was merged into it. -/
def State.zqOwed (s : State) (l : Nat) (merged : Sched × Nat) : State :=
  let t := s.modMnt l fun m => { m with zq := merged.1, zqWaiting := true }
  if merged.2 = 0 then t else (t.bumpL l 0x68C merged.2).bumpL l 0x10002 merged.2

theorem State.zqOwed_mnt (s : State) (l : LandingId) (merged : Sched × Nat) :
    ((s.zqOwed l merged).land l).mnt = { (s.land l).mnt with zq := merged.1, zqWaiting := true } := by
  rw [State.zqOwed, State.mergeCounts_mnt, State.modMnt_land_self]

theorem execZqDue_of_due {s : State} (runs : s.mntRuns l = true) (due : (s.land l).mnt.zq.next ≤ s.tread) :
    exec (.zqDue l) s =
      .next ((s.zqOwed l (schedMerge (fld (s.lv l 0x628) 9 0 * s.blockFlight) 2 s.tread (s.land l).mnt.zq)).maintenanceWindow l) := by
  change execZqDue l s = _
  unfold execZqDue
  extract_lets m
  rw [if_pos (by rw [runs, decide_eq_true due]; rfl)]
  generalize schedMerge (fld (s.lv l 0x628) 9 0 * s.blockFlight) 2 s.tread m.zq = merged
  rfl

theorem execZqDue_records {s : State} (runs : s.mntRuns l = true) (due : (s.land l).mnt.zq.next ≤ s.tread) :
    ∃ t, exec (.zqDue l) s = .next t ∧ (t.land l).mnt.zqWaiting = true ∧
      (t.land l).mnt.zq = (schedMerge (fld (s.lv l 0x628) 9 0 * s.blockFlight) 2 s.tread (s.land l).mnt.zq).1 := by
  generalize owed : schedMerge (fld (s.lv l 0x628) 9 0 * s.blockFlight) 2 s.tread (s.land l).mnt.zq = merged
  have kept := State.maintenanceWindow_steady (s.zqOwed l merged) l
  rw [State.zqOwed_mnt] at kept
  exact ⟨_, owed ▸ execZqDue_of_due runs due, congrArg (fun m => m.zqWaiting) kept, congrArg (fun m => m.zq) kept⟩

/-- The latch of a rank is presented in a window after its time, unless it stands. -/
theorem State.maintenanceWindow_latch {s : State} {b rank at0 : Nat} (runs : s.mntRuns l = true) (free : s.windowFree l = true)
    (unclaimed : s.windowClaimed l = false) (started : (s.land l).mnt.zqOpen = [(b, rank, at0)]) (passed : at0 ≤ s.chip.cycle)
    (fresh : ((s.land l).claimed fun k => k == .zqLatch b rank) = false) :
    Asked s.chip.nextId (s.maintenanceWindow l) l (.zqLatch b rank) (stampOf (at0 / 2)) false := by
  have only : LatchesOnly fun k => k == .zqLatch b rank := fun k same => ⟨b, rank, by simpa using same⟩
  have rows : Offers l _ _ s (s.windowRows l) := s.windowRows_offers only
  have serves : s.mntServes l = true := by rw [State.mntServes, runs, Bool.true_or]
  have still : ((s.windowRows l).land l).mnt.zqOpen = [(b, rank, at0)] := (congrArg (fun m => m.zqOpen) rows.mnt).trans started
  have clock : (s.windowRows l).chip.cycle = s.chip.cycle := congrArg (fun u => u.chip.cycle) rows.around
  have latched : s.windowLatches l = ((s.windowRows l).openWindow l).present l (.zqLatch b rank) (stampOf (at0 / 2)) false := by
    rw [State.windowLatches, still, List.foldl_cons, List.foldl_nil]
    unfold State.presentLatch
    simp only [still, List.find?_cons, beq_self_eq_true, Bool.and_self]
    rw [rows.mntRuns, runs, rows.windowFree free, rows.windowClaimed, unclaimed, rows.unclaimed fresh, clock,
      decide_eq_false (Nat.not_lt.2 passed)]
    rfl
  have opened : Offers l (fun _ => false) (fun _ => False) (s.windowRows l) ((s.windowRows l).openWindow l) :=
    (s.windowRows l).openWindow_offers
  have asked := State.present_asked (rows.known.trans opened.known) l (.zqLatch b rank) (stampOf (at0 / 2)) false
  rw [State.maintenanceWindow_eq serves free, latched]
  have rest := (State.presentScrub_offers (l := l) (p := fun _ => false) (mine := fun _ => False)
    (((s.windowRows l).openWindow l).present l (.zqLatch b rank) (stampOf (at0 / 2)) false)).trans (State.noteLeft_offers _)
  exact rest.asked asked

theorem execZqLatch_presents {s : State} {sub : Fin 2} {rank : Fin 8} {at0 : Nat} (runs : s.mntRuns l = true)
    (free : s.windowFree l = true) (unclaimed : s.windowClaimed l = false) (started : (s.land l).mnt.zqOpen = [(sub.val, rank.val, at0)])
    (passed : at0 ≤ s.chip.cycle) (fresh : ((s.land l).claimed fun k => k == .zqLatch sub rank) = false) :
    ∃ t, exec (.zqLatch l sub rank) s = .next t ∧ Sys2Proof.Slice.Claims s t l (.zqLatch sub rank) (stampOf (at0 / 2)) false := by
  refine ⟨s.maintenanceWindow l, ?_, (State.maintenanceWindow_latch runs free unclaimed started passed fresh).claims⟩
  change execZqLatch l sub rank s = _
  simp [execZqLatch, started, passed]

/-! ## Patrol scrub -/

theorem State.modLand_scrubGranules (s : State) (l : LandingId) {f : Landing → Landing} (h : ∀ x, ((f x).sbd, (f x).granules) = (x.sbd, x.granules)) :
    (s.modLand l f).scrubGranules l = s.scrubGranules l := by
  have same := s.modLand_land_proj (fun x => (x.sbd, x.granules)) h l l
  obtain ⟨sbd, granules⟩ := Prod.mk.inj same
  unfold State.scrubGranules State.usedGranules
  rw [sbd, granules]
  rfl

theorem State.modMnt_scrubGranules (s : State) (l : LandingId) (f : Mnt → Mnt) : (s.modMnt l f).scrubGranules l = s.scrubGranules l :=
  s.modLand_scrubGranules l fun _ => rfl

theorem State.bumpL_scrubGranules (s : State) (l : LandingId) (off n : Nat) : (s.bumpL l off n).scrubGranules l = s.scrubGranules l :=
  s.modLand_scrubGranules l fun _ => rfl

/-- A scrub step with lines to read is owed under its schedule, and waits. -/
theorem State.scrubDue_mnt {s : State} {l : LandingId} (step : fld (s.lv l 0x61C) 15 0 ≠ 0) (lines : s.scrubGranules l ≠ []) :
    ∃ owed, ((s.scrubDue l).land l).mnt = { (s.land l).mnt with
      scrub := (schedMerge (fld (s.lv l 0x63C) 2 0 * s.blockFlight) 16 s.tread (s.land l).mnt.scrub).1
      scrubWait := true
      scrubOwed := owed } := by
  unfold State.scrubDue
  extract_lets w step' m
  generalize schedMerge (fld w 2 0 * s.blockFlight) 16 s.tread m.scrub = merged
  obtain ⟨sc, k⟩ := merged
  dsimp -zeta only
  extract_lets owed t u
  have same : u.scrubGranules l = s.scrubGranules l := by
    simp only [u]
    split
    · exact s.modMnt_scrubGranules l _
    · rw [State.bumpL_scrubGranules, State.bumpL_scrubGranules]
      exact s.modMnt_scrubGranules l _
  rw [if_neg (by rw [same]; simpa [step'] using ⟨step, lines⟩)]
  have noted : (u.land l).mnt = (t.land l).mnt := t.mergeCounts_mnt l k 0x68C 0x10003
  rw [noted, State.modMnt_land_self]
  exact ⟨_, rfl⟩

theorem execScrubStepDue_records {s : State} (runs : s.mntRuns l = true) (enabled : (s.land l).mnt.scrubOn = true)
    (due : (s.land l).mnt.scrub.next ≤ s.tread) (step : fld (s.lv l 0x61C) 15 0 ≠ 0) (lines : s.scrubGranules l ≠ []) :
    ∃ t, exec (.scrubStepDue l) s = .next t ∧ (t.land l).mnt.scrubWait = true ∧
      (t.land l).mnt.scrub = (schedMerge (fld (s.lv l 0x63C) 2 0 * s.blockFlight) 16 s.tread (s.land l).mnt.scrub).1 := by
  have kept := State.maintenanceWindow_steady (s.scrubDue l) l
  obtain ⟨owed, recorded⟩ := State.scrubDue_mnt step lines
  rw [recorded] at kept
  refine ⟨_, if_pos (by rw [enabled, runs, decide_eq_true due]; rfl), congrArg (fun m => m.scrubWait) kept, congrArg (fun m => m.scrub) kept⟩

/-! ## ECS -/

/-- The reads of a readout, presented in a window. -/
def State.ecsAsked (s : State) (l due : Nat) : State :=
  (s.land l).rankList.foldl (fun s e => s.present l (.ecsRead e.1 e.2) (stampOf due) false) (s.openWindow l)

theorem State.ecsAsked_offers (s : State) (due : Nat) : Offers l (fun _ => false) (fun _ => False) s (s.ecsAsked l due) :=
  s.openWindow_offers.trans (Offers.foldl (f := fun s (e : Nat × Nat) => s.present l (.ecsRead e.1 e.2) (stampOf due) false)
    (fun u _ _ => u.present_offers rfl _) _)

theorem State.ecsAsked_asked (s : State) (l : LandingId) (due : Nat) {e : Nat × Nat} (listed : e ∈ (s.land l).rankList) :
    Asked s.chip.nextId (s.ecsAsked l due) l (.ecsRead e.1 e.2) (stampOf due) false :=
  foldl_present_asked (fun e : Nat × Nat => ClaimKind.ecsRead e.1 e.2) (stampOf due) false l (s := s.openWindow l) (Nat.le_refl _)
    (.inl listed)

theorem claims_of_land {s t u : State} {k : ClaimKind} {stamp : BitVec 32} {emergency : Bool} (same : u.land l = t.land l)
    (h : Sys2Proof.Slice.Claims s t l k stamp emergency) : Sys2Proof.Slice.Claims s u l k stamp emergency := by
  unfold Sys2Proof.Slice.Claims
  rwa [same]

/-- A readout asks every rank, and leaves the time of the next. -/
theorem State.ecsReadout_claims (s : State) (l : LandingId) (due : Nat) (counts : List (Fin 2 × Fin 8 × Fin 10 × Nat × Nat)) :
    ((s.ecsReadout l due counts).land l).mnt.ecsNext = (s.land l).mnt.ecsNext ∧
      ∀ e ∈ (s.land l).rankList, Sys2Proof.Slice.Claims s (s.ecsReadout l due counts) l (.ecsRead e.1 e.2) (stampOf due) false := by
  obtain ⟨n, aside⟩ := s.ecsReadout_aside l due counts
  have counted : Offers l (fun _ => false) (fun _ => False) (s.ecsAsked l due) ((s.ecsAsked l due).bumpL l 0x6AC n) :=
    State.bumpL_offers _ _ _
  have same : (s.ecsReadout l due counts).land l = ((s.ecsAsked l due).bumpL l 0x6AC n).land l := by
    rw [State.land, aside.landings]
    rfl
  refine ⟨?_, fun e listed => claims_of_land same (counted.asked (s.ecsAsked_asked l due listed)).claims⟩
  rw [same]
  exact congrArg (fun m => m.ecsNext) ((s.ecsAsked_offers due).trans counted).mnt

theorem execEcsReadoutDue_asks {s : State} (counts : List (Fin 2 × Fin 8 × Fin 10 × Nat × Nat)) (runs : s.mntRuns l = true)
    (enabled : s.ecsOn l = true) (free : s.windowFree l = true) (unclaimed : s.windowClaimed l = false)
    (due : (s.land l).mnt.ecsNext ≤ s.chip.flight) :
    ∃ t, exec (.ecsReadoutDue l counts) s = .next t ∧ (t.land l).mnt.ecsNext = s.chip.flight + 1024 * fld (s.lv l 0x62C) 15 8 ∧
      ∀ e ∈ (s.land l).rankList, Sys2Proof.Slice.Claims s t l (.ecsRead e.1 e.2)
        (stampOf (16 * (s.chip.nextFlight - (s.chip.flight + 1 - (s.land l).mnt.ecsNext) * s.blockFlight))) false := by
  have listed (f : Mnt → Mnt) : ((s.modMnt l f).land l).rankList = (s.land l).rankList := by rw [State.modMnt_land_self]; rfl
  have readout := State.ecsReadout_claims
    (s.modMnt l fun m => { m with ecsNext := s.chip.flight + 1024 * fld (s.lv l 0x62C) 15 8 }) l
    (16 * (s.chip.nextFlight - (s.chip.flight + 1 - (s.land l).mnt.ecsNext) * s.blockFlight)) counts
  rw [listed] at readout
  refine ⟨_, if_pos (by rw [runs, enabled, free, unclaimed, decide_eq_true due]; rfl), ?_, readout.2⟩
  rw [readout.1, State.modMnt_land_self]

end

/-! ## Heat decay (R395) -/

theorem State.stage_misc (s : State) (l : Nat) (a : Access) : (s.stage l a).misc = s.misc := by
  refine State.refill_proj State.misc (fun u j b => ?_) _ l
  rcases u.enterStaging_cases j b with same | ⟨_, _, placed⟩
  · rw [same]
  · rw [placed]
    rfl

theorem State.needMeta_misc (s : State) (g : Nat) (k : MetaKind) (lpa : Nat) (hall : Option Nat) (stamp : BitVec 32) (dl : Bool)
    (req : Nat) : (s.needMeta g k lpa hall stamp dl req).2.misc = s.misc := by
  have counted {c : Prop} [Decidable c] (u : State) (off : Nat) : (if c then u.bumpG g off 1 else u).misc = u.misc := by split <;> rfl
  unfold State.needMeta
  extract_lets isTag t x
  split
  · exact counted s 0x3010
  · split
    · exact counted s 0x3014
    · dsimp only
      split
      · exact (State.stage_misc _ _ _).trans (counted s 0x3014)
      · exact (counted _ 0x3020).trans (counted s 0x3014)

theorem State.halveLine_misc (s : State) (g h : Nat) : (s.halveLine g h).misc = s.misc := by
  unfold State.halveLine
  extract_lets lpa w
  split
  · rfl
  · exact s.needMeta_misc g .heat lpa none (beStamp s.now) false 9

/-- A decay step moves its schedule on, and the index by every step merged into it. -/
theorem State.heatDecay_misc {s : State} {sc : Sched} {k : Nat}
    (merged : schedMerge (fld (s.gv 0 0x5008) 2 0 * s.blockFlight) 64 s.tread s.misc.heat = (sc, k)) :
    s.heatDecay.misc = { s.misc with
      heat := schedStart (fld (s.gv 0 0x5008) 2 0 * s.blockFlight) (fld (s.gv 0 0x5008) 12 3) (fld (s.gv 0 0x5008) 22 13) s.tread sc
      heatIndex := (s.misc.heatIndex + (sc.merged + 1)) % 16384 } := by
  unfold State.heatDecay
  extract_lets w period first
  rw [merged]
  dsimp -zeta only
  extract_lets n t u
  have halved (u : State) : ((List.range n).foldl (fun s i => eachBelow s.nGal (fun g s =>
      (s.heatSlice g ((first + i) % 16384)).foldl (fun s h => s.halveLine g h) s) s) u).misc = u.misc :=
    foldl_proj State.misc (fun v i => eachBelow_proj State.misc (fun g x =>
      foldl_proj State.misc (fun y h => y.halveLine_misc g h) _ x) _ v) _ u
  rw [halved]
  have counted : u.misc = t.misc := by
    simp only [u]
    split
    · rfl
    · exact eachBelow_proj State.misc (f := fun g s => s.bumpG g 0x100004 k) (fun _ _ => rfl) _ t
  rw [counted]
  rfl

end Sys2Proof.Machine

section
open Sys2Proof Sys2Proof.Machine Sys2Proof.Slice

/-- Settles O32. What is owed is recorded before the window opens, and no window takes it back (`State.maintenanceWindow_steady`); a
latch is presented after everything of another kind (`State.maintenanceWindow_latch`). -/
theorem maintenanceWorkIsOwedAndPaced : Obligations.MaintenanceWorkIsOwedAndPaced := by
  refine ⟨?_, ?_, ?_, ?_, ?_, ?_, ?_⟩
  · intro s l sub rank bg bank enabled reached first
    exact execRfmOwed_records enabled reached first
  · intro s l runs due
    exact execZqDue_records runs due
  · intro s l sub rank at0 runs free unclaimed started passed fresh
    exact execZqLatch_presents runs free unclaimed started passed fresh
  · intro s l runs enabled due step lines
    exact execScrubStepDue_records runs enabled due step lines
  · intro s tier core phase halted due
    have decayed := State.heatDecay_misc (s := s) Prod.mk.eta.symm
    refine ⟨s.heatDecay, if_pos (by simp [tier, core, phase, halted, due]), ?_, ?_⟩
    · rw [decayed]
    · rw [decayed]
  · intro s l counts runs enabled free unclaimed due
    exact execEcsReadoutDue_asks counts runs enabled free unclaimed due
  · intro s g
    exact ⟨fun early => if_pos early, fun due => if_neg (Nat.not_lt.2 due)⟩

end

/-! SUPPORT. A tag that fails brings the block into Halt (R366): of all that Halt then does to the ports, the Landings, the power state and
the running commands, nothing ends it (R368). One lemma per function, in the model's order. -/

namespace Sys2Proof.Machine

/-! ## Ports and Landings in Halt -/

@[simp ↓] theorem State.modMnt_unmoved (s : State) (l : Nat) (f : Mnt → Mnt) : (s.modMnt l f).unmoved = s.unmoved := rfl
@[simp ↓] theorem State.modCal_unmoved (s : State) (l : Nat) (f : Cal → Cal) : (s.modCal l f).unmoved = s.unmoved := rfl

@[simp ↓] theorem State.haltPort_unmoved (s : State) (p : Nat) : (s.haltPort p).unmoved = s.unmoved := by
  unfold State.haltPort State.flushPort
  exact (State.trySend_unmoved _ p _).trans (s.modPort_unmoved p _)

@[simp ↓] theorem State.spillMeta_unmoved (s : State) (l : Nat) : (s.spillMeta l).unmoved = s.unmoved := by simp [State.spillMeta]
@[simp ↓] theorem State.queueOwn_unmoved (s : State) (l : Nat) : (s.queueOwn l).unmoved = s.unmoved := by simp [State.queueOwn]
@[simp ↓] theorem State.abortCal_unmoved (s : State) (l cause : Nat) : (s.abortCal l cause).unmoved = s.unmoved := by simp [State.abortCal]
@[simp ↓] theorem State.startDrain_unmoved (s : State) (l : Nat) : (s.startDrain l).unmoved = s.unmoved := by simp [State.startDrain]
@[simp ↓] theorem State.unplace_unmoved (s : State) (l : Nat) (c : PlanCmd) : (s.unplace l c).unmoved = s.unmoved := by simp [State.unplace]

@[simp ↓] theorem State.unplaceAll_unmoved (s : State) (l : Nat) (cs : List PlanCmd) : (s.unplaceAll l cs).unmoved = s.unmoved := by
  simp [State.unplaceAll]

@[simp ↓] theorem State.haltLanding_unmoved (s : State) (l : Nat) : (s.haltLanding l).unmoved = s.unmoved := by
  unfold State.haltLanding
  dsimp only
  split <;> simp

/-! ## Repairs, power and commands in Halt -/

theorem halted_of_unmoved {s t : State} (h : t.unmoved = s.unmoved) : t.chip.halted = s.chip.halted := congrArg Unmoved.halted h

theorem OnlyReported.halted {s t : State} (h : OnlyReported s t) : t.chip.halted = s.chip.halted := halted_of_unmoved h.unmoved

theorem State.drainRepair_halted (s : State) (r : Repair) : (s.drainRepair r).chip.halted = s.chip.halted :=
  foldl_proj (fun u => u.chip.halted) (by intro u x; rfl) _ s

theorem State.dropRepair_halted (s : State) (r : Repair) : (s.dropRepair r).chip.halted = s.chip.halted := by
  unfold State.dropRepair
  rfl

theorem State.endRepairs_halted (s : State) : s.endRepairs.chip.halted = s.chip.halted :=
  foldl_proj (fun u => u.chip.halted) (fun u r => (State.dropRepair_halted _ r).trans (u.drainRepair_halted r)) _ s

theorem State.pwrResult_halted (s : State) (code : Nat) (target : PState) (unit : Nat) :
    (s.pwrResult code target unit).chip.halted = s.chip.halted := by
  obtain ⟨p, reported, -⟩ := s.pwrResult_onlyReported code target unit
  exact reported.halted

theorem State.haltPower_halted (s : State) : s.haltPower.chip.halted = s.chip.halted := by
  unfold State.haltPower
  extract_lets ended
  have transition : ended.chip.halted = s.chip.halted := by
    simp only [ended]
    split
    · exact State.pwrResult_halted _ _ _ _
    · rfl
  split
  · exact (State.pwrResult_halted _ _ _ _).trans transition
  · exact transition

/-- A running command that does not work in Halt is finished. -/
def State.haltBox (m : Nat) (s : State) : State :=
  if (s.box m).state = .busy && (s.box m).started && haltLong (s.box m).opc then s.finishS m .halted else s

theorem State.haltBox_unmoved (s : State) (m : Nat) : (s.haltBox m).unmoved = s.unmoved := by simp [State.haltBox]

theorem State.haltCommands_eq (s : State) : s.haltCommands = (eachBelow 9 State.haltBox s).modMisc fun m =>
    { m with discovery := { m.discovery with mailbox := none } } := rfl

theorem State.haltCommands_halted (s : State) : s.haltCommands.chip.halted = s.chip.halted := by
  rw [State.haltCommands_eq, State.modMisc_chip]
  exact halted_of_unmoved (eachBelow_unmoved 9 State.haltBox s fun m u => u.haltBox_unmoved m)

/-! ## The entry into Halt -/

theorem State.enterHalt_halted (s : State) : s.enterHalt.chip.halted = true := by
  unfold State.enterHalt
  split
  case isTrue standing => exact standing
  case isFalse =>
    extract_lets entered ports channels galleries landings
    have answered : ports.unmoved = entered.unmoved := eachBelow_unmoved _ _ _ fun p u => u.haltPort_unmoved p
    have stopped : channels.unmoved = ports.unmoved := eachBelow_unmoved _ _ _ fun n u => u.modCh_unmoved n _
    have emptied : galleries.unmoved = channels.unmoved := eachBelow_unmoved _ _ _ fun g u => u.modGal_unmoved g _
    have on : galleries.chip.halted = true := halted_of_unmoved (emptied.trans (stopped.trans answered))
    have drains : landings.chip.halted = galleries.endRepairs.chip.halted :=
      halted_of_unmoved (eachBelow_unmoved _ _ _ fun l u => u.haltLanding_unmoved l)
    rw [State.haltCommands_halted, State.haltPower_halted, drains, State.endRepairs_halted, on]

/-- A report of class F, which no fence's shadow makes an echo, brings Halt while CORE is on (R499, R508). -/
theorem State.raise_halted {s : State} {r : Rep} (f : Option Fence) (core : s.chip.coreOn = true) (fatal : r.cls = 3) :
    (s.raise r f).chip.halted = true := by
  have heard : s.consequential r = false := by simp [State.consequential, fatal]
  unfold State.raise
  rw [if_neg (by simp [core, heard])]
  extract_lets grain reported fenced
  rw [if_pos fatal]
  exact fenced.enterHalt_halted

theorem State.integrityFail_halted {s : State} (l : Nat) (a : Access) (corrected : Bool) (core : s.chip.coreOn = true) :
    (s.integrityFail l a corrected).chip.halted = true := by
  unfold State.integrityFail
  extract_lets g info recorded checked
  have on : checked.chip.coreOn = true := by
    simp only [checked, recorded]
    split <;> exact core
  exact State.raise_halted none on (show srcClass 10 1 = 3 by decide)

end Sys2Proof.Machine

/-! SUPPORT. The line path: the burst of a read in flight, the tag check of a line of a hall with integrity (R354), and a tag line that
enters its cache (R358). -/

namespace Sys2Proof.Machine

/-! ## A burst returns -/

theorem execLineDecode_of_inflight {s : State} {l : LandingId} {id : Nat} {a : Access} (burst : BitVec 640)
    (found : ((s.land l).seq.inflight.find? fun a => a.id == id) = some a) (used : (s.land l).seq.discards id = false) :
    execLineDecode l id burst s =
      .next (((s.modSeq l fun q => { q with inflight := q.inflight.filter fun e => e.id != id }).decodeBurst l a burst).pump) := by
  unfold execLineDecode
  rw [found]
  exact if_neg (by simp [used])

/-! ## The tag check -/

theorem execTagCheck_of_checking {s : State} {l : LandingId} {id : Nat} {a : Access} {stored : BitVec 512} {corrected : Bool}
    (found : ((s.land l).seq.checking.find? fun e => e.1.id == id) = some (a, stored, corrected)) :
    execTagCheck l id s = .next ((s.checkLine l a stored corrected).pump) := by
  unfold execTagCheck
  rw [found]

/-- A sound line of a hall with integrity, whose stored tag is at hand, is answered by the comparison of the two tags. -/
theorem State.checkLine_of_tag {s : State} {l n : Nat} {a : Access} {h : Hall} {tag : BitVec 32} {stored : BitVec 512} {corrected : Bool}
    (client : ∀ g k lpa, a.client ≠ .fill g k lpa) (sound : a.poison = false) (mine : a.hall = some n) (hall : s.hall n = some h)
    (integ : h.integ = true) (cipher : s.chip.variant.cipher = true) (held : s.storedTag a = some tag) :
    s.checkLine l a stored corrected =
      if tag = s.tagOf n h l a.addr stored then (s.bumpG (l / 4) 0x301C 1).release l a (some h) stored
      else s.integrityFail l a corrected := by
  unfold State.checkLine
  split
  case h_1 fill => exact absurd fill (client _ _ _)
  case h_2 => simp [sound, mine, hall, integ, cipher, held]

/-! ## A tag line enters its cache -/

theorem State.insertMeta_of_empty {s : State} {g : Nat} (c : CacheLine) (sets : s.cacheSets g c.kind ≠ 0) (empty : (s.gal g).cache = []) :
    s.insertMeta g c = s.modGal g fun x => { x with cache := [c] } := by
  unfold State.insertMeta
  simp [sets, empty]

/-- A tag line without waiting samples enters an empty cache as its only line, clean, and its fetch is over. -/
theorem State.fillMeta_of_tag {s : State} {g : GalleryId} {lpa : Nat} {a : Access} {stored : BitVec 512} {corrected : Bool}
    (found : ((s.land (lpaLanding lpa)).seq.checking.find? fun e => e.1.client == .fill g .tag lpa) = some (a, stored, corrected))
    (plain : ∀ f ∈ (s.gal g).fetches, f.adds = []) (empty : (s.gal g).cache = []) (sets : 16 ≤ (s.gal g).tagLines) :
    ∃ data, (s.fillMeta g .tag lpa).gal g = { s.gal g with
      fetches := (s.gal g).fetches.filter fun f => !(f.kind == .tag && f.lpa == lpa)
      cache := [{ kind := .tag, lpa := lpa, hall := a.hall, data := data, dirty := false }] } := by
  unfold State.fillMeta
  extract_lets l adds
  rw [found]
  dsimp -zeta only
  extract_lets checked ended line data filled
  have unsampled : adds = [] := by
    simp only [adds]
    split
    · exact plain _ (List.mem_of_find?_eq_some ‹_›)
    · rfl
  have gal : ended.gal g = { s.gal g with fetches := (s.gal g).fetches.filter fun f => !(f.kind == .tag && f.lpa == lpa) } :=
    State.modGal_gal_self checked g _
  have room : ended.cacheSets g .tag ≠ 0 := by
    simp only [State.cacheSets, CacheLine.share, gal]
    omega
  have entered : filled = ended.modGal g fun x =>
      { x with cache := [{ kind := .tag, lpa := lpa, hall := a.hall, data := data, dirty := !adds.isEmpty }] } :=
    State.insertMeta_of_empty _ room (by rw [gal, empty])
  refine ⟨data, ?_⟩
  rw [unsampled, List.foldl_nil, entered, State.modGal_gal_self, gal, unsampled]
  rfl

/-! ## A waiting miss gets a fetch slot -/

theorem fetchLimit_pos (k : MetaKind) : 0 < fetchLimit k := by cases k <;> decide

theorem State.issueFetch_gal (s : State) (g : Nat) (k : MetaKind) (lpa : Nat) (hall : Option Nat) (stamp : BitVec 32) (dl : Bool)
    (req i : Nat) : (s.issueFetch g k lpa hall stamp dl req).gal i = s.gal i := by
  unfold State.issueFetch State.gal
  rw [State.stage_galleries]
  rfl

theorem State.startFetch_of_waiting {s : State} {g : GalleryId} {f : MetaFetch} (only : (s.gal g).fetches = [f])
    (waits : f.started = false) : ((s.startFetch g f.kind).gal g).fetches = [{ f with started := true }] := by
  have free : ¬ fetchLimit f.kind ≤ 0 := Nat.not_le.2 (fetchLimit_pos _)
  unfold State.startFetch
  simp [only, waits, free, State.issueFetch_gal, mapIf]

end Sys2Proof.Machine

section
open Sys2Proof Sys2Proof.Machine

/-- Settles O28. Whatever Halt does, it stays (`State.enterHalt_halted`); a line with its stored tag at hand is answered by the comparison
alone (`State.checkLine_of_tag`). -/
theorem linesAreDecodedCheckedAndCached : Obligations.LinesAreDecodedCheckedAndCached := by
  refine ⟨?_, ?_, ?_, ?_, ?_⟩
  · intro s l id burst a found used
    refine ⟨_, execLineDecode_of_inflight burst found used, ?_⟩
    rw [State.modSeq_land_self]
  · intro s l id a stored corrected n h tag found client sound mine hall integ cipher core held differs
    refine ⟨_, execTagCheck_of_checking found, ?_⟩
    rw [State.checkLine_of_tag client sound mine hall integ cipher held, if_neg differs]
    exact State.integrityFail_halted l a corrected core
  · intro s l id a stored corrected n h found client sound mine hall integ cipher held
    refine (execTagCheck_of_checking found).trans ?_
    rw [State.checkLine_of_tag client sound mine hall integ cipher held, if_pos rfl]
  · intro s g lpa a stored c found plain empty sets
    obtain ⟨data, filled⟩ := State.fillMeta_of_tag found plain empty sets
    refine ⟨s.fillMeta g .tag lpa, { kind := .tag, lpa := lpa, hall := a.hall, data := data, dirty := false }, rfl, ?_⟩
    rw [filled]
    refine ⟨rfl, rfl, rfl, rfl, rfl, fun f listed fetching => ?_⟩
    simp [fetching] at listed
  · intro s g k f only kind waits
    subst kind
    exact ⟨s.startFetch g f.kind, rfl, State.startFetch_of_waiting only waits⟩

end

/-! SUPPORT. What a report, the end of a start and an impedance code leave of a Landing, and the Stringer's rows (R280 to R285, R294, R295). -/

namespace Sys2Proof.Machine

/-! ## Reports and the end of a start -/

/-- The Landings, and their reset pins. -/
def State.landingsAndResets (s : State) : Vector Landing 12 × Vector Bool 12 := (s.landings, s.chip.drstN)

theorem State.land_of_landingsAndResets {s t : State} (h : t.landingsAndResets = s.landingsAndResets) (l : Nat) : t.land l = s.land l := by
  have same : t.landings = s.landings := congrArg Prod.fst h
  rw [State.land, State.land, same]

theorem OnlyReported.landingsAndResets {s t : State} (h : OnlyReported s t) : t.landingsAndResets = s.landingsAndResets := by
  obtain ⟨_, _, _, _, _, _, _, rfl⟩ := h
  rfl

theorem State.startFence_landingsAndResets (s : State) (f : Fence) : (s.startFence f).landingsAndResets = s.landingsAndResets := by
  unfold State.startFence
  split <;> rfl

/-- A report below class F leaves the Landings alone: a fence that it starts takes effect at the next tread boundary (R505). -/
theorem State.raise_landingsAndResets (s : State) {r : Rep} (f : Option Fence) (below : r.cls ≠ 3) :
    (s.raise r f).landingsAndResets = s.landingsAndResets := by
  have reported (grain : Nat) : (s.report r grain).landingsAndResets = s.landingsAndResets :=
    (s.report_onlyReported r grain).landingsAndResets
  unfold State.raise
  extract_lets grain told fenced
  rw [if_neg below]
  split
  · exact reported 0xFF
  · cases f with
    | none => exact reported grain
    | some x => exact (told.startFence_landingsAndResets x).trans (reported grain)

theorem State.raise_land (s : State) {r : Rep} (f : Option Fence) (below : r.cls ≠ 3) (l : Nat) : (s.raise r f).land l = s.land l :=
  State.land_of_landingsAndResets (s.raise_landingsAndResets f below) l

theorem State.fenceUnstarted_landingsAndResets (s : State) : s.fenceUnstarted.landingsAndResets = s.landingsAndResets := by
  refine eachBelow_proj State.landingsAndResets (fun l u => ?_) s.nLand s
  dsimp only
  split
  · exact u.raise_landingsAndResets _ (show srcClass 14 4 ≠ 3 by decide)
  · rfl

/-- The end of `DISCOVER` or `LANDING_START` answers a mailbox and leaves every Landing as its start left it (R470). -/
theorem State.endStarts_landingsAndResets (s : State) : s.endStarts.landingsAndResets = s.landingsAndResets := by
  unfold State.endStarts
  extract_lets d busy
  split
  · rfl
  · split
    · rfl
    · refine Eq.trans ?_ s.fenceUnstarted_landingsAndResets
      split <;> rfl

/-! ## Counts -/

theorem State.bumpL_land_phy (s : State) (l off n k : Nat) : ((s.bumpL l off n).land k).phy = (s.land k).phy :=
  State.modLand_land_proj Landing.phy (by intro x; rfl) s l k

theorem State.bumpL_land_cal (s : State) (l off n k : Nat) : ((s.bumpL l off n).land k).cal = (s.land k).cal :=
  State.modLand_land_proj Landing.cal (by intro x; rfl) s l k

/-! ## Impedance codes (R294, R295) -/

theorem zqOk_natCast (v : Nat) : zqOk v = true ↔ 20 ≤ v ∧ v ≤ 107 := by
  simp only [zqOk, Bool.and_eq_true, decide_eq_true_eq]
  omega

theorem State.setZq_of_good {s : State} {l pu pd : Nat} (cls : Nat) (good : (zqOk pu && zqOk pd) = true) :
    s.setZq l pu pd cls = s.loadLand l 0x1010 (at_ 0 pu ||| at_ 8 pd) := if_pos good

theorem State.setZq_of_bad {s : State} {l : Nat} {pu pd : Int} (cls : Nat) (bad : (zqOk pu && zqOk pd) = false) :
    s.setZq l pu pd cls = (s.modPhy l fun p => { p with oor := true }).raise { repL 7 3 l 0 with cls := cls } none :=
  if_neg (by simp [bad])

theorem State.setZq_land_of_bad {s : State} {l : LandingId} {pu pd : Int} {cls : Nat} (below : cls ≠ 3)
    (bad : (zqOk pu && zqOk pd) = false) :
    (s.setZq l pu pd cls).land l = { s.land l with phy := { (s.land l).phy with oor := true } } := by
  rw [State.setZq_of_bad cls bad, State.raise_land _ none below, State.modPhy_land_self]

/-- Both codes are words of the Landing's page, and only `OOR` stands in the PHY itself. -/
theorem State.setZq_land (s : State) (l : LandingId) (pu pd : Int) {cls : Nat} (below : cls ≠ 3) :
    ∃ page oor, (s.setZq l pu pd cls).land l = { s.land l with page := page, phy := { (s.land l).phy with oor := oor } } := by
  cases good : zqOk pu && zqOk pd with
  | true =>
    have loaded : s.setZq l pu pd cls = s.loadLand l 0x1010 (at_ 0 pu.toNat ||| at_ 8 pd.toNat) := if_pos good
    rw [loaded]
    exact ⟨_, _, State.modLand_land_self s l _⟩
  | false => exact ⟨_, _, State.setZq_land_of_bad below good⟩

theorem State.trackZq_land (s : State) (l : LandingId) (pu pd : Int) :
    ∃ page oor, (s.trackZq l pu pd).land l = { s.land l with page := page, phy := { (s.land l).phy with oor := oor } } := by
  unfold State.trackZq
  dsimp only
  split
  · exact s.setZq_land l _ _ (by decide)
  · exact ⟨_, _, rfl⟩

theorem execImpedanceSearchDone_of_idle {s : State} {l : LandingId} (pu pd : Nat) (idle : (s.macroRuns l && s.bringsUp l) = false) :
    execImpedanceSearchDone l pu pd s = .next s := if_pos (by simp [idle])

theorem execImpedanceSearchDone_of_good {s : State} {l : LandingId} {pu pd : Nat} (up : (s.macroRuns l && s.bringsUp l) = true)
    (good : (zqOk pu && zqOk pd) = true) :
    execImpedanceSearchDone l pu pd s = .next (s.loadLand l 0x1010 (at_ 0 pu ||| at_ 8 pd)) := by
  unfold execImpedanceSearchDone
  simp [up, good, State.setZq_of_good]

/-- A Landing whose impedance search failed at boot is not started: it fails in step 1, and its devices stay in reset (R295). -/
def State.failSearch (s : State) (l : Nat) : State :=
  ((s.modSbd l fun b => { b with waiting := false, failed := true, hold := false }).modCal l fun c =>
    { c with state := 0, failStep := 1 }).modChip fun c => { c with drstN := c.drstN.setIfInBounds l false }

theorem State.failSearch_land (s : State) (l : LandingId) : (s.failSearch l).land l = { s.land l with
    sbd := { (s.land l).sbd with waiting := false, failed := true, hold := false }
    cal := { (s.land l).cal with state := 0, failStep := 1 } } := by
  simp [State.failSearch]

theorem State.failSearch_drstN (s : State) (l : LandingId) : (s.failSearch l).chip.drstN[l.val] = false := by
  simp [State.failSearch]

theorem execImpedanceSearchDone_of_bad_boot {s : State} {l : LandingId} {pu pd : Nat} (up : (s.macroRuns l && s.bringsUp l) = true)
    (boot : ((s.land l).sbd.waiting && !(s.land l).sbd.started) = true) (bad : (zqOk pu && zqOk pd) = false) :
    ∃ t, execImpedanceSearchDone l pu pd s = .next t ∧ t.landingsAndResets = ((s.setZq l pu pd 2).failSearch l).landingsAndResets := by
  refine ⟨(((s.setZq l pu pd 2).failSearch l).post 0x11 1 [at_ 0 l, at_ 0 0xF]).endStarts, ?_, ?_⟩
  · unfold execImpedanceSearchDone
    simp only [up, boot, bad]
    rfl
  · rw [State.endStarts_landingsAndResets]
    exact (State.post_onlyReported _ _ _ _).landingsAndResets

/-! ## A measurement falls due (R280) -/

theorem execStringerDue_of_due {s : State} {l : LandingId}
    (due : (s.macroRuns l && s.strEnabled l && (s.land l).phy.measured && !(s.land l).phy.running && (s.land l).cal.run.isNone &&
      !(s.land l).sbd.waiting && !s.chip.halted && decide ((s.land l).phy.sched.next ≤ s.tread)) = true) :
    ∃ t, execStringerDue l s = .next t ∧ (t.land l).phy = { (s.land l).phy with
      running := true, began := s.tread
      sched := schedStart s.blockFlight (s.blockFlight / 4) ((s.blockFlight + 1) / 2) s.tread
        (schedMerge s.blockFlight 1 s.tread (s.land l).phy.sched).1 } := by
  unfold execStringerDue
  dsimp only
  rw [if_pos due]
  refine ⟨_, rfl, ?_⟩
  rw [State.modPhy_land_self]
  split
  · rfl
  · rw [State.bumpL_land_phy]
    rfl

/-! ## A running measurement ends (R280 to R284) -/

theorem State.strReject_phy (s : State) (l : LandingId) :
    ((s.strReject l).land l).phy = { (s.land l).phy with rejRun := min 3 ((s.land l).phy.rejRun + 1), running := false } := by
  unfold State.strReject
  extract_lets n counted rejected
  have first : (rejected.land l).phy = { (s.land l).phy with rejRun := min 3 (n + 1), running := false } := by
    rw [State.raise_land _ none (show srcClass 7 1 ≠ 3 by decide), State.bumpL_land_phy, State.modPhy_land_self]
  split
  · rw [State.askMargin, State.modCal_land_self, State.raise_land _ none (show srcClass 7 2 ≠ 3 by decide)]
    exact first
  · exact first

/-- The third rejection in a row asks for a margin check (R284). -/
theorem State.strReject_asks {s : State} {l : LandingId} (third : (s.land l).phy.rejRun = 2) :
    ((s.strReject l).land l).cal.marginWant = true ∧ ((s.strReject l).land l).cal.marginFence = true := by
  unfold State.strReject
  extract_lets n counted rejected
  rw [if_pos third, State.askMargin, State.modCal_land_self]
  exact ⟨rfl, rfl⟩

theorem execStringerInstanceDone_of_accepts {s : State} {l : LandingId} {zer full code : Nat} (pu pd : Int)
    (runs : (s.land l).phy.running = true) (sound : (s.land l).phy.accepts zer full (shapeOf code zer full) = true) :
    execStringerInstanceDone l zer full code pu pd s =
      .next ((s.strAccept l zer full (shapeOf code zer full)).trackZq l pu pd) := by
  simp [execStringerInstanceDone, runs, sound]

theorem execStringerInstanceDone_of_rejects {s : State} {l : LandingId} {zer full code : Nat} (pu pd : Int)
    (runs : (s.land l).phy.running = true) (unsound : (s.land l).phy.accepts zer full (shapeOf code zer full) = false) :
    execStringerInstanceDone l zer full code pu pd s = .next ((s.strReject l).trackZq l pu pd) := by
  simp [execStringerInstanceDone, runs, unsound]

/-! ## A full measurement (R285) -/

/-- The shapes that a full measurement finds: the two ends and the 63 breakpoints between them. -/
def fullShape (zer full : Nat) (codes : List Nat) : List Nat :=
  0 :: (((List.range 63).map fun i => shapeOf (codes.getD i 0) zer full) ++ [65536])

theorem fullShape_length (zer full : Nat) (codes : List Nat) : (fullShape zer full codes).length = 65 := by simp [fullShape]

theorem fullShape_getLast? (zer full : Nat) (codes : List Nat) : (fullShape zer full codes).getLast? = some 65536 := by
  rw [fullShape, ← List.cons_append, List.getLast?_concat]

theorem fullShape_getElem? (zer full : Nat) (codes : List Nat) {k : Nat} (first : 1 ≤ k) (last : k ≤ 63) :
    (fullShape zer full codes)[k]? = some (shapeOf (codes.getD (k - 1) 0) zer full) := by
  obtain ⟨i, rfl⟩ : ∃ i, k = i + 1 := ⟨k - 1, by omega⟩
  have inside : i < 63 := by omega
  rw [fullShape, List.getElem?_cons_succ, List.getElem?_append_left (by simpa using inside), List.getElem?_map,
    List.getElem?_range inside]
  rfl

theorem execStringerFullMeasurementDone_of_idle {s : State} {l : LandingId} (zer full : Nat) (codes : List Nat)
    (idle : (s.macroRuns l && s.bringsUp l && !(s.land l).phy.measured) = false) :
    execStringerFullMeasurementDone l zer full codes s = .next s := if_neg (by simp [idle])

theorem execStringerFullMeasurementDone_of_first {s : State} {l : LandingId} (zer full : Nat) (codes : List Nat)
    (first : (s.macroRuns l && s.bringsUp l && !(s.land l).phy.measured) = true) :
    execStringerFullMeasurementDone l zer full codes s = .next (s.modPhy l fun p =>
      { p with zero := zer, full := full, shape := fullShape zer full codes, lin := rebuildLin zer full (fullShape zer full codes)
               newTable := true, measured := true, strValid := true, firstSpan := true, running := false, accepted := some s.tread
               sched := { Sched.zero with ideal := s.tread + s.blockFlight, next := s.tread + s.blockFlight } }) := if_pos first

end Sys2Proof.Machine

section
open Sys2Proof Sys2Proof.Machine

/-- Settles O35. After a measurement, tracking moves nothing of the PHY but `OOR` (`State.trackZq_land`); the failed start of a Landing
outlives the report and the mailbox's answer (`State.endStarts_landingsAndResets`). -/
theorem stringerAndImpedanceKeepTheirValues : Obligations.StringerAndImpedanceKeepTheirValues := by
  unfold Obligations.StringerAndImpedanceKeepTheirValues
  refine ⟨?due, ?accepted, ?rejected, fun _ _ => rfl, ?age, ?full, ?good, ?bad, ?searchIdle, ?fullIdle⟩
  case due =>
    intro s l clocked enabled measured resting noRun started awake reached
    obtain ⟨t, runs, phy⟩ := execStringerDue_of_due (s := s) (l := l)
      (by simp [clocked, enabled, measured, resting, noRun, started, awake, reached])
    refine ⟨t, runs, ?_⟩
    rw [phy]
    exact ⟨rfl, rfl, rfl⟩
  case accepted =>
    intro s l zer full code pu pd runs sound
    obtain ⟨page, oor, land⟩ := (s.strAccept l zer full (shapeOf code zer full)).trackZq_land l pu pd
    refine ⟨_, execStringerInstanceDone_of_accepts pu pd runs sound, ?_⟩
    rw [land, State.strAccept, State.bumpL_land_phy, State.modPhy_land_self]
    exact ⟨rfl, rfl, rfl, rfl, rfl, rfl, rfl, rfl, rfl⟩
  case rejected =>
    intro s l zer full code pu pd runs unsound
    obtain ⟨page, oor, land⟩ := (s.strReject l).trackZq_land l pu pd
    refine ⟨_, execStringerInstanceDone_of_rejects pu pd runs unsound, ?_⟩
    rw [land, State.strReject_phy]
    exact ⟨rfl, rfl, rfl, rfl, rfl, rfl, State.strReject_asks⟩
  case age =>
    intro s l
    exact ⟨fun young => if_pos young, fun old => if_neg (Nat.not_le.2 old)⟩
  case full =>
    intro s l zer full codes clocked up unmeasured
    refine ⟨_, execStringerFullMeasurementDone_of_first zer full codes (by simp [clocked, up, unmeasured]), ?_⟩
    rw [State.modPhy_land_self]
    exact ⟨rfl, rfl, fullShape_length zer full codes, rfl, fullShape_getLast? zer full codes,
      fun k first last => fullShape_getElem? zer full codes first last, rfl, rfl, rfl, rfl, rfl⟩
  case good =>
    intro s l pu pd clocked up puLow puHigh pdLow pdHigh
    refine execImpedanceSearchDone_of_good (by simp [clocked, up]) ?_
    rw [Bool.and_eq_true, zqOk_natCast, zqOk_natCast]
    exact ⟨⟨puLow, puHigh⟩, pdLow, pdHigh⟩
  case bad =>
    intro s l pu pd clocked up waits unstarted outside
    have bad : (zqOk pu && zqOk pd) = false := by
      rw [Bool.eq_false_iff, ne_eq, Bool.and_eq_true, zqOk_natCast, zqOk_natCast]
      omega
    obtain ⟨t, runs, same⟩ := execImpedanceSearchDone_of_bad_boot (s := s) (l := l) (by simp [clocked, up]) (by simp [waits, unstarted]) bad
    have resets : t.chip.drstN = ((s.setZq l pu pd 2).failSearch l).chip.drstN := congrArg Prod.snd same
    refine ⟨t, runs, ?_⟩
    rw [State.land_of_landingsAndResets same, State.failSearch_land, State.setZq_land_of_bad (by decide) bad]
    refine ⟨rfl, rfl, rfl, unstarted, ?_, rfl⟩
    simp only [resets, State.failSearch_drstN]
  case searchIdle =>
    intro s l pu pd idle
    exact execImpedanceSearchDone_of_idle pu pd (Bool.and_eq_false_iff.2 idle)
  case fullIdle =>
    intro s l zer full codes idle
    refine execStringerFullMeasurementDone_of_idle zer full codes ?_
    rcases idle with h | h | h <;> simp [h]

end

section
open Sys2Proof Sys2Proof.Machine Sys2Proof.Slice

/-- Settles O5: `step_follows`. -/
theorem stepKeepsDescriptorMemoryCanonical : Obligations.StepKeepsDescriptorMemoryCanonical := by
  unfold Obligations.StepKeepsDescriptorMemoryCanonical
  intro s t canonical h
  exact (step_follows h).desc canonical

/-- Settles O3: with nothing waiting the step is a cycle of the clock, and every command is answered with a next state (`exec_follows`). -/
theorem everyStepAnswers : Obligations.EveryStepAnswers := by
  unfold Obligations.EveryStepAnswers
  intro s
  cases hp : s.pending with
  | nil => exact ⟨_, step_of_pending_nil hp⟩
  | cons c rest =>
    obtain ⟨t, ht, -⟩ := exec_follows c { s with pending := rest }
    exact ⟨t, by rw [step, hp]; exact ht⟩

/-- Settles O1: it is the equation of `step` for a queue that is not empty. -/
theorem stepRunsFrontCommand : Obligations.StepRunsFrontCommand := by
  unfold Obligations.StepRunsFrontCommand
  intro c rest s
  rw [step]

/-- Settles O8: the laws of byte memories, from address 0 on. -/
theorem byteMemoryReadsBackAndStaysCanonical : Obligations.ByteMemoryReadsBackAndStaysCanonical := by
  unfold Obligations.ByteMemoryReadsBackAndStaysCanonical
  intro m a v h
  exact ⟨readByte_writeByte_self v h, fun b hb => readByte_writeByte_ne v hb h, writeByte_wf a v h⟩

/-- Settles O12: the clear leaves `ABOVE`, so a condition that newly holds still crosses, and counts from 0; at FFh the count saturates. -/
theorem watermarkCrossingSurvivesItsClear : Obligations.WatermarkCrossingSurvivesItsClear := by
  unfold Obligations.WatermarkCrossingSurvivesItsClear
  intro w below
  refine ⟨⟨?_, ?_⟩, ⟨rfl, rfl⟩, fun full => ⟨?_, ?_, rfl, ?_⟩⟩
  · simp [Wm.eval, Wm.clear, below]
  · simp [Wm.eval, Wm.clear, below]
  · simp [Wm.eval, below]
  · simp [Wm.eval, below, full]
  · simp [Wm.hit, full]

end

/-! SUPPORT. A block without requests, descriptors and moves whose pump still moves: the counterexample of O60. -/

namespace Sys2Proof.Machine

/-- The block after reset, but for a lost tag line of Gallery 0 that has been rewritten and covers no line more. -/
def tagLost : State := State.reset.modGal 0 fun x => { x with lostTags := [{ lpa := 0, places := [], written := true }] }

/-- The repair of the lost tag line has come to its end, and it is forgotten (R258). -/
theorem tagLost_pumped : ((State.pump tagLost).gal 0).lostTags = [] := by decide +kernel

end Sys2Proof.Machine

section
open Sys2Proof Sys2Proof.Machine Sys2Proof.Slice

/-- Refutes O60: `tagLost` has no request, descriptor or move, but the repair of a lost tag line goes on in it (R258). The statement lacks the
premise that no tag line is lost. -/
theorem not_quietBlockDoesNotMove : ¬ Obligations.QuietBlockDoesNotMove := by
  unfold Obligations.QuietBlockDoesNotMove
  intro h
  have still := h tagLost (by decide) (by decide) (by decide)
  have gone := tagLost_pumped
  rw [still] at gone
  exact absurd gone (by decide)

end

/-! SUPPORT. The boot ROM and the start of firmware (R434 to R436, R457): what the start leaves of the chip and of the bank taken. -/

namespace Sys2Proof.Machine

/-! ## The boot ROM -/

/-- The image that has come through LBA: what stands in the buffer, as far as an image may reach (R436). -/
def State.lbaImage (s : State) : List Byte := readBytes s.chip.bootBuf 0 (min ((s.box 8).word 2).toNat imageLimit)

/-- A verified image is loaded, and its version kept (R434). -/
theorem State.loadImage_verified (s : State) (img : List Byte) (v : W32 × Nat) :
    ((s.loadImage img).modChip fun c => { c with verified := some v, bootBuf := [] }).finishS 8 .ok = { s with
      chip := { Sys2Proof.Slice.imageIn s.chip img with verified := some v, bootBuf := [] }
      boxes := Sys2Proof.Slice.boxesDone s 8 .ok [] [] } := rfl

/-- The image that has come through LBA verifies. -/
def State.lbaGood (s : State) : Prop :=
  ((s.box 8).word 2).toNat ≤ imageLimit ∧ isCandidate s.chip.rootKeyHash s.lbaImage = true ∧ imageSigned s.lbaImage = true

theorem State.bootGo_good {s : State} (h : s.lbaGood) : s.bootGo =
    ((s.loadImage s.lbaImage).modChip fun c =>
      { c with verified := some ((imageHeader s.lbaImage).version, 2), bootBuf := [] }).finishS 8 .ok :=
  if_pos (by simpa only [Bool.and_eq_true, decide_eq_true_eq, and_assoc, State.lbaGood, State.lbaImage] using h)

theorem State.bootGo_bad {s : State} (h : ¬ s.lbaGood) :
    s.bootGo = (s.modChip fun c => { c with bootBuf := [], bootErr := 6 }).finishS 8 .badParam :=
  if_neg (by simpa only [Bool.and_eq_true, decide_eq_true_eq, and_assoc, State.lbaGood, State.lbaImage] using h)

/-! ## The start of firmware -/

/-- What firmware's first acts leave alone: the boot state of the chip and the Record Store. -/
structure Booted where
  fwReady : Bool
  imageVersion : W32
  bootErr : BitVec 3
  verified : Option (W32 × Nat)
  bootBuf : Memory
  aliveOn : Bool
  store : RecStore

def State.booted (s : State) : Booted :=
  ⟨s.chip.fwReady, s.chip.imageVersion, s.chip.bootErr, s.chip.verified, s.chip.bootBuf, s.chip.aliveOn, s.store⟩

theorem State.post_booted (s : State) (type prio : Nat) (data : List W32) : (s.post type prio data).booted = s.booted := by
  obtain ⟨_, _, _, h⟩ := s.post_frame type prio data
  rw [h]
  rfl

theorem State.restoreEpochs_booted (s : State) : s.restoreEpochs.booted = s.booted := by
  unfold State.restoreEpochs
  split
  · rfl
  · exact foldl_proj State.booted (fun s r => by split <;> rfl) _ s

theorem State.restoreHalls_booted (s : State) : s.restoreHalls.booted = s.booted := by
  unfold State.restoreHalls
  split
  · rfl
  · exact foldl_proj State.booted (fun s r => by split <;> rfl) _ s

theorem State.askMapLine_booted (s : State) (n p : Nat) : (s.askMapLine n p).booted = s.booted := by
  unfold State.askMapLine
  split
  · rfl
  · split <;> rfl

theorem State.rebuildPools_booted (s : State) : s.rebuildPools.booted = s.booted := by
  unfold State.rebuildPools
  refine (foldl_proj State.booted (fun s (e : PageAt) => s.askMapLine_booted e.hall e.page) _ _).trans ?_
  exact (eachBelow_proj State.booted (fun _ _ => rfl) 3 _).trans rfl

theorem State.setStep_booted (s : State) (l : Nat) : (s.setStep l).booted = s.booted := by
  unfold State.setStep
  dsimp only
  split <;> rfl

theorem State.setSteps_booted (s : State) (ls : List Nat) : (s.setSteps ls).booted = s.booted :=
  foldl_proj State.booted State.setStep_booted ls s

/-- Firmware runs the image, and its Record Store is the one read back from flash (R435 step 5, R457). -/
theorem State.startFirmware_booted (s : State) (v : W32) (slot : Nat) :
    (s.startFirmware v slot).booted = ⟨true, v, 0, none, [], true, s.store.reload⟩ := by
  unfold State.startFirmware
  extract_lets fresh reloaded ready bank posted told sized restored
  have tells : told.booted = ready.booted :=
    (apply_ite State.booted _ _ _).trans (by rw [State.post_booted, State.post_booted, ite_self])
  have restores : restored.booted = told.booted :=
    (State.restoreEpochs_booted _).trans (eachBelow_proj State.booted (f := fun g s => s.modGal g _) (fun _ _ => rfl) _ _)
  have halls : (if restored.chip.warm then restored.restoreHalls.rebuildPools.setSteps (List.range restored.nLand) else restored).booted =
      restored.booted := by
    split
    · rw [State.setSteps_booted, State.rebuildPools_booted, State.restoreHalls_booted]
    · rfl
  split
  · exact tells
  · exact halls.trans (restores.trans tells)

end Sys2Proof.Machine

section
open Sys2Proof Sys2Proof.Machine Sys2Proof.Slice

/-- Settles O16: each row of the boot ROM by its branches, the start of firmware by `State.startFirmware_booted`. -/
theorem bootRomKeepsImageAndStartsIt : Obligations.BootRomKeepsImageAndStartsIt := by
  unfold Obligations.BootRomKeepsImageAndStartsIt
  refine ⟨?boot, ?chunk, ?go, ?start⟩
  case boot =>
    intro s f rom unverified
    refine (if_pos (by simp [rom, unverified])).trans (congrArg Host.Outcome.next ?_)
    unfold State.bootRom
    dsimp only
    by_cases keyless : s.chip.rootKeyHash = 0
    · rw [if_pos keyless, if_pos keyless]; rfl
    · rw [if_neg keyless, if_neg keyless]
      by_cases waits : s.chip.bootsel = true
      · rw [if_pos waits, if_pos waits]
      · rw [if_neg waits, if_neg waits]
        cases (if f.idOk then chooseImage s.chip.rootKeyHash f else none) <;> rfl
  case chunk =>
    intro s rung
    have runs : exec .bootChunk s = .next s.takeChunk := if_pos rung
    rw [runs, State.takeChunk]
    refine ⟨fun some_ short aligned fits => ?_, fun some_ short aligned beyond => ?_, fun bad => ?_⟩
    · rw [if_neg (by omega), if_neg (by omega)]; rfl
    · rw [if_neg (by omega), if_pos beyond]; rfl
    · rw [if_pos bad]; rfl
  case go =>
    intro s rung
    have runs : exec .bootGo s = .next s.bootGo := if_pos rung
    dsimp only
    refine ⟨fun good => ?_, fun bad => ?_⟩
    · rw [runs, State.bootGo_good good, State.loadImage_verified, State.lbaImage]
    · rw [runs, State.bootGo_bad bad]
      rfl
  case start =>
    intro s v slot verified rom
    have runs : exec .firmwareStart s = .next (s.startFirmware v slot) := by
      change execFirmwareStart s = _
      simp [execFirmwareStart, verified, rom]
    have booted := s.startFirmware_booted v slot
    injection booted with ready version error unverified buffer alive store
    exact ⟨_, runs, ready, version, error, unverified, buffer, alive, by rw [store]; rfl⟩

end

/-! SUPPORT. What the answers to a port's requests can move, as one equation; and the taking of a command (R440, R459). -/

namespace Sys2Proof.Machine

/-! ## Answers of a port -/

/-- Nothing moves but the Landings, the ports, the responses sent, and what a report moves. -/
def OnlyAnswered (s t : State) : Prop :=
  ∃ landings ports sent cfg eq arcade store flt blk pulse, t = { s with
    landings := landings, ports := ports, sent := sent, cfg := cfg, eq := eq, arcade := arcade, store := store, flt := flt, blk := blk
    chip := { s.chip with status1Pulse := pulse } }

theorem OnlyAnswered.refl (s : State) : OnlyAnswered s s := ⟨_, _, _, _, _, _, _, _, _, _, rfl⟩

theorem OnlyAnswered.trans {s t u : State} : OnlyAnswered s t → OnlyAnswered t u → OnlyAnswered s u
  | ⟨_, _, _, _, _, _, _, _, _, _, ht⟩, ⟨_, _, _, _, _, _, _, _, _, _, hu⟩ => by
    subst ht hu
    exact ⟨_, _, _, _, _, _, _, _, _, _, rfl⟩

theorem OnlyAnswered.ite {s t u : State} {c : Prop} [Decidable c] (ht : OnlyAnswered s t) (hu : OnlyAnswered s u) :
    OnlyAnswered s (if c then t else u) := by
  split
  · exact ht
  · exact hu

theorem OnlyAnswered.misc {s t : State} (h : OnlyAnswered s t) : t.misc = s.misc := by
  obtain ⟨_, _, _, _, _, _, _, _, _, _, rfl⟩ := h
  rfl

theorem OnlyAnswered.boxes {s t : State} (h : OnlyAnswered s t) : t.boxes = s.boxes := by
  obtain ⟨_, _, _, _, _, _, _, _, _, _, rfl⟩ := h
  rfl

theorem OnlyReported.onlyAnswered {s t : State} (h : OnlyReported s t) : OnlyAnswered s t := by
  obtain ⟨_, _, _, _, _, _, _, rfl⟩ := h
  exact ⟨_, _, _, _, _, _, _, _, _, _, rfl⟩

theorem State.modLand_onlyAnswered (s : State) (l : Nat) (f : Landing → Landing) : OnlyAnswered s (s.modLand l f) :=
  ⟨_, _, _, _, _, _, _, _, _, _, rfl⟩

theorem State.modPort_onlyAnswered (s : State) (p : Nat) (f : Port → Port) : OnlyAnswered s (s.modPort p f) :=
  ⟨_, _, _, _, _, _, _, _, _, _, rfl⟩

theorem foldl_onlyAnswered {α : Type} {f : State → α → State} {rest : List α} (h : ∀ s, ∀ x ∈ rest, OnlyAnswered s (f s x)) (s : State) :
    OnlyAnswered s (rest.foldl f s) :=
  List.foldlRecOn rest f (.refl s) fun u hu x hx => hu.trans (h u x hx)

theorem State.countLate_onlyAnswered (s : State) (p : Nat) (t : Txn) : OnlyAnswered s (s.countLate p t) := by
  have counted (u : State) (a : Nat) : OnlyAnswered u (u.bumpB a 1) := (u.bumpB_onlyReported a 1).onlyAnswered
  unfold State.countLate
  dsimp only
  refine .ite (counted s _) ?_
  split
  · exact counted s _
  · next l _ =>
    have served : OnlyAnswered s (((s.bumpB (userCount p 0x18) 1).bumpL l 0x40 1).status1Hold 2) :=
      ((counted s _).trans (State.modLand_onlyAnswered _ l _)).trans (State.status1Hold_onlyReported _ 2).onlyAnswered
    exact .ite (served.trans (State.modLand_onlyAnswered _ l _)) (.ite served (served.trans (State.report_onlyReported _ _ _).onlyAnswered))

theorem State.send_onlyAnswered (s : State) (p : Nat) (t : Txn) (r : Resp) : OnlyAnswered s (s.send p t r) := by
  unfold State.send
  extract_lets late resp out spent counted
  have leaves : OnlyAnswered s spent := ⟨_, _, _, _, _, _, _, _, _, _, rfl⟩
  have counts : OnlyAnswered s counted := .ite (leaves.trans (State.bumpB_onlyReported _ _ 1).onlyAnswered) leaves
  exact .ite (counts.trans (State.countLate_onlyAnswered _ p t)) counts

theorem State.trySend_onlyAnswered (s : State) (p n : Nat) : OnlyAnswered s (s.trySend p n) := by
  induction n generalizing s with
  | zero => exact .refl s
  | succ n ih =>
    unfold State.trySend
    split
    · exact s.modPort_onlyAnswered p _
    · split
      · exact .refl s
      · exact (s.send_onlyAnswered p _ _).trans (ih _)

theorem State.form_onlyAnswered (s : State) (p id : Nat) (st : Status) (poison : Bool) (data : BitVec 512) :
    OnlyAnswered s (s.form p id st poison data) := by
  unfold State.form
  split
  · exact .refl s
  · exact .ite (.refl s) ((s.modPort_onlyAnswered p _).trans (State.trySend_onlyAnswered _ p _))

/-- The merges of a port that are broken end, and answer. -/
theorem State.breakMerges_onlyAnswered (s : State) (p : Nat) : OnlyAnswered s (s.breakMerges p) := by
  refine foldl_onlyAnswered (fun s l _ => foldl_onlyAnswered (fun s a ha => ?_) s) s
  have mine := (List.mem_filter.1 ha).2
  unfold State.refuseOne State.deliver
  cases hc : a.client with
  | host q id =>
    refine OnlyAnswered.trans ?_ (State.form_onlyAnswered _ q id .lockBroken _ 0)
    exact ⟨_, _, _, _, _, _, _, _, _, _, rfl⟩
  | _ => simp [hc] at mine

theorem State.closePort_onlyAnswered (s : State) (p : Nat) : OnlyAnswered s (s.closePort p) :=
  .ite ((s.modPort_onlyAnswered p _).trans (State.breakMerges_onlyAnswered _ p)) (.refl s)

/-! ## Taking a command -/

/-- The taking itself moves neither the mailboxes nor the count of commands taken. -/
theorem State.takeActs_boxes_misc (s : State) (m : Nat) : (s.takeActs m).boxes = s.boxes ∧ (s.takeActs m).misc = s.misc := by
  unfold State.takeActs
  dsimp only
  split
  · exact ⟨rfl, rfl⟩
  · split
    · exact ⟨(s.closePort_onlyAnswered _).boxes, (s.closePort_onlyAnswered _).misc⟩
    · exact ⟨rfl, rfl⟩

/-- The command that firmware takes, BUSY under its number (R440). -/
def State.takenBy (s : State) (m : Nat) : State :=
  (s.modMisc fun x => { x with takeCount := s.misc.takeCount + 1, lastTaken := if m < 8 then m else x.lastTaken }).modBox m fun b =>
    { b with state := .busy, started := false, taken := s.misc.takeCount + 1 }

theorem State.takenBy_box_self (s : State) (m : MailboxId) :
    (s.takenBy m).box m = { s.box m with state := .busy, started := false, taken := s.misc.takeCount + 1 } := State.modBox_box_self _ m _

theorem State.takenBy_box_ne (s : State) {m k : MailboxId} (h : k ≠ m) : (s.takenBy m).box k = s.box k :=
  State.modBox_box_ne _ m k _ fun e => h (Fin.ext e.symm)

/-- The checks of a command read neither its state nor its number. -/
theorem State.takeRefusal_takenBy (s : State) (m : MailboxId) :
    (s.takenBy m).takeRefusal m ((s.takenBy m).box m) = s.takeRefusal m (s.box m) := by
  rw [State.takenBy_box_self]
  rfl

theorem execCommandTake_of_next {s : State} {m : MailboxId} (ready : s.chip.fwReady = true) (out : s.chip.phase = .out)
    (on : s.chip.coreOn = true) (next : s.nextBox = some m.val) : execCommandTake s = match s.takeRefusal m (s.box m) with
      | some st => .next ((s.takenBy m).finishS m st)
      | none => .next ((s.takenBy m).takeActs m) := by
  rw [← s.takeRefusal_takenBy m]
  simp only [execCommandTake, ready, out, on, next]
  rfl

end Sys2Proof.Machine

section
open Sys2Proof Sys2Proof.Machine Sys2Proof.Slice

/-- Settles O46: a command that is taken is `State.takenBy`, which its checks then refuse or let stand. -/
theorem firmwareTakesCommandsInOrder : Obligations.FirmwareTakesCommandsInOrder := by
  unfold Obligations.FirmwareTakesCommandsInOrder
  refine ⟨?takes, ?nothing, ?lbaFirst, ?tooLong, ?unknown⟩
  case takes =>
    intro s m ready out on next
    have runs : exec .commandTake s = _ := execCommandTake_of_next ready out on next
    refine ⟨fun stands => ?_, fun st refused => ?_⟩
    · rw [stands] at runs
      obtain ⟨boxes, misc⟩ := (s.takenBy m).takeActs_boxes_misc m
      have box (k : Nat) : ((s.takenBy m).takeActs m).box k = (s.takenBy m).box k := by rw [State.box, boxes, State.box]
      refine ⟨_, runs, ?_, ?_, fun k other => ?_⟩
      · rw [box, State.takenBy_box_self]
      · rw [misc]; rfl
      · rw [box, State.takenBy_box_ne s other]
    · rw [refused] at runs
      refine ⟨_, runs, ?_, ?_, rfl, fun k other => ?_⟩
      · rw [State.finishS, State.finish_box_self]; rfl
      · rw [State.finishS, State.finish_box_self, State.takenBy_box_self]; rfl
      · rw [State.finishS, State.finish_box_ne _ _ _ _ _ _ fun e => other (Fin.ext e.symm), State.takenBy_box_ne s other]
  case nothing =>
    intro s none
    change execCommandTake s = _
    unfold execCommandTake
    rw [none]
    split <;> rfl
  case lbaFirst => exact fun s rung => if_pos rung
  case tooLong => exact fun s m long => if_pos long
  case unknown =>
    intro s m short unlisted
    exact (if_neg (by omega)).trans (if_pos (by rw [unlisted]; rfl))

end

/-! SUPPORT. A report in the Fault Collector (R499, R502, R505, R508): what its class takes of it, and that what it logs leaves the Fault
Collector and the banks of the Record Store alone. -/

namespace Sys2Proof.Machine

/-! ## What a report logs -/

/-- Nothing moves but CFG, the Event Queue, the Arcade, the items of the Record Store and the STATUS1 pulse. -/
def OnlyLogged (s t : State) : Prop :=
  ∃ cfg eq arcade items changed pulse, t = { s with
    cfg := cfg, eq := eq, arcade := arcade, store := { s.store with items := items, changed := changed }
    chip := { s.chip with status1Pulse := pulse } }

theorem OnlyLogged.refl (s : State) : OnlyLogged s s := ⟨_, _, _, _, _, _, rfl⟩

theorem OnlyLogged.trans {s t u : State} : OnlyLogged s t → OnlyLogged t u → OnlyLogged s u
  | ⟨_, _, _, _, _, _, ht⟩, ⟨_, _, _, _, _, _, hu⟩ => by
    subst ht hu
    exact ⟨_, _, _, _, _, _, rfl⟩

theorem OnlyLogged.flt {s t : State} (h : OnlyLogged s t) : t.flt = s.flt := by
  obtain ⟨_, _, _, _, _, _, rfl⟩ := h
  rfl

theorem State.history_onlyLogged (s : State) (r : Record) : OnlyLogged s (s.history r) := ⟨_, _, _, _, _, _, rfl⟩

theorem State.post_onlyLogged (s : State) (type prio : Nat) (data : List W32) : OnlyLogged s (s.post type prio data) := by
  obtain ⟨_, _, _, h⟩ := s.post_frame type prio data
  rw [h]
  exact ⟨_, _, _, _, _, _, rfl⟩

theorem State.modArcade_onlyLogged (s : State) (f : Arcade → Arcade) : OnlyLogged s (s.modArcade f) := by
  have popped (u : State) : OnlyLogged u u.popWide.2 := by
    unfold State.popWide
    split <;> exact ⟨_, _, _, _, _, _, rfl⟩
  have changed : OnlyLogged s { s with arcade := f s.arcade } := ⟨_, _, _, _, _, _, rfl⟩
  unfold State.modArcade State.serveWide
  split
  · split
    · exact changed
    · exact changed.trans ((popped _).trans ⟨_, _, _, _, _, _, rfl⟩)
  · exact changed

/-! ## What its class takes of it -/

/-- The Fault Collector after a report of class number `k`: its record or its overflow bit, its count and the time, and, where the class
state was not active, that state with its interrupt (R502). -/
def Flt.counted (f : Flt) (k : Nat) (r : Rep) (time now : Nat) : Flt :=
  let f := f.latch k r time
  { f with count := f.count.setIfInBounds k (satInc ((f.count[k]?).getD 0)), lastReport := f.lastReport.setIfInBounds k now }

/-- The class state becomes active, with its interrupt. -/
def Flt.activated (f : Flt) (k : Nat) : Flt := { f with active := f.active.setIfInBounds k true, irq := f.irq ||| BitVec.ofNat 4 (2 ^ k) }

/-- A report that is not consequential is counted; one that finds its class state inactive makes it active, and is logged. -/
theorem State.reportAt_logged {s : State} {r : Rep} (heard : s.consequential r = false) (grain time : Nat) :
    OnlyLogged ((s.modFlt fun f => if (f.active[r.cls - 1]?).getD false then f.counted (r.cls - 1) r time s.now
      else (f.counted (r.cls - 1) r time s.now).activated (r.cls - 1)).bumpB (0x2060 + 4 * (r.cls - 1)) 1) (s.reportAt r grain time) := by
  unfold State.reportAt
  rw [if_neg (by simp [heard])]
  dsimp only [State.modFlt]
  by_cases active : (s.flt.active[r.cls - 1]?).getD false = true
  · rw [if_pos active, if_pos active]
    exact .refl _
  · rw [if_neg active, if_neg active]
    have logged (u : State) (entry : Record) : OnlyLogged u ((u.snapshot r).history entry) :=
      (u.modArcade_onlyLogged _).trans (State.history_onlyLogged _ entry)
    split
    · exact logged _ _
    · exact (logged _ _).trans (State.post_onlyLogged _ _ _ _)

theorem State.reportAt_consequential {s : State} {r : Rep} (echo : s.consequential r = true) (grain time : Nat) :
    s.reportAt r grain time = (s.modFlt fun f => { f with conseq := satInc f.conseq }).bumpB 0x206C 1 := if_pos echo

section
variable (f : Flt) {k : Nat} (r : Rep) (time now : Nat)

theorem Flt.counted_count (h : k < 3) : (f.counted k r time now).count[k]? = some (satInc ((f.count[k]?).getD 0)) := by
  unfold Flt.counted Flt.latch
  cases (f.first[k]?).getD none <;> simp [h]

theorem Flt.activated_active (h : k < 3) : (f.activated k).active[k]? = some true := by
  simp [Flt.activated, h]

/-- The latch moves the records and the overflow bits only, and the count the counts and the times. -/
theorem Flt.counted_active : (f.counted k r time now).active = f.active := by
  unfold Flt.counted Flt.latch
  cases (f.first[k]?).getD none <;> rfl

theorem Flt.counted_rest : (f.counted k r time now).conseq = f.conseq ∧ (f.counted k r time now).fences = f.fences ∧
    (f.counted k r time now).levels = f.levels := by
  unfold Flt.counted Flt.latch
  cases (f.first[k]?).getD none <;> exact ⟨rfl, rfl, rfl⟩

theorem Flt.counted_first (h : k < 3) (empty : (f.first[k]?).getD none = none) :
    (f.counted k r time now).first[k]? = some (some { src := r.src, detail := r.detail, time := time }) ∧
      (f.counted k r time now).ovf = f.ovf := by
  unfold Flt.counted Flt.latch
  rw [empty]
  simp [h]

theorem Flt.counted_overflow (h : k < 3) {x : FaultRec} (full : (f.first[k]?).getD none = some x) :
    (f.counted k r time now).first = f.first ∧ (f.counted k r time now).ovf[k]? = some true := by
  unfold Flt.counted Flt.latch
  rw [full]
  simp [h]

end

/-! ## Reports with their reactions -/

theorem State.raise_consequential {s : State} {r : Rep} (echo : s.consequential r = true) (on : s.chip.coreOn = true) (f : Option Fence) :
    s.raise r f = (s.modFlt fun f => { f with conseq := satInc f.conseq }).bumpB 0x206C 1 := by
  unfold State.raise
  rw [if_pos (by simp [echo]), State.report, if_pos on, State.reportAt_consequential echo]

theorem State.startFence_halted (s : State) (f : Fence) : (s.startFence f).chip.halted = s.chip.halted := by
  unfold State.startFence
  split <;> rfl

/-- A report below class F brings no Halt, whatever fence it starts. -/
theorem State.raise_halted_of_ne {s : State} {r : Rep} (f : Option Fence) (h : r.cls ≠ 3) : (s.raise r f).chip.halted = s.chip.halted := by
  unfold State.raise
  split
  · exact (s.report_onlyReported r _).halted
  · cases f with
    | none => exact (s.report_onlyReported r _).halted
    | some x => exact (State.startFence_halted _ x).trans (s.report_onlyReported r _).halted

/-! ## Fences and classes that end -/

theorem State.modFence_eq (s : State) (i : Nat) (f : Fence → Fence) : s.modFence i f = { s with flt := { s.flt with
    fences := s.flt.fences.map fun e => if e.id = i then f e else e } } := by
  simp [State.modFence, State.modFlt, mapIf]

/-- Where no level condition echoes a fence, the end of its shadow reports nothing again (R509). -/
theorem State.endShadow_of_silent {s : State} {f : Fence} (silent : (s.flt.levels.filter fun r => f.echo r) = []) :
    s.endShadow f = s.modFence f.id fun e => { e with shadow := false } := by
  have still : ((s.modFence f.id fun e => { e with shadow := false }).flt.levels.filter fun r => f.echo r) = [] := silent
  rw [State.endShadow, State.repeatLevels, still]
  rfl

theorem State.fenceOf_id {s : State} {i : Nat} {f : Fence} (h : s.fenceOf i = some f) : f.id = i := by
  simpa using List.find?_some h

theorem execFenceSettleTimeout_of_fence {s : State} {i : Nat} {f : Fence} (h : s.fenceOf i = some f) :
    execFenceSettleTimeout i s = if !f.settled && f.shadow && decide (f.time + 2000000 ≤ s.chip.cycle) then
      .next ((s.endShadow f).raise (rep 16 1 0 (at_ 0 (grainCode f.grain))) none) else .next s := by
  unfold execFenceSettleTimeout
  rw [h]

theorem execShadowEnd_of_fence {s : State} {i : Nat} {f : Fence} (h : s.fenceOf i = some f) :
    execShadowEnd i s =
      if f.settled && f.shadow && decide (f.settledAt + 64 ≤ s.chip.cycle) then .next (s.endShadow f) else .next s := by
  unfold execShadowEnd
  rw [h]

/-- The end of a class state clears its record, its overflow bit and the state, and counts nothing (R511). -/
theorem State.endClass_flt (s : State) (k : Nat) : (s.endClass k).flt = { s.flt with
    first := s.flt.first.setIfInBounds k none, ovf := s.flt.ovf.setIfInBounds k false, active := s.flt.active.setIfInBounds k false } := by
  unfold State.endClass
  split <;> rfl

end Sys2Proof.Machine

section
open Sys2Proof Sys2Proof.Machine Sys2Proof.Slice

/-- Settles O21: each row is its condition, and then its one effect. -/
theorem fencesSettleAndClassesRecover : Obligations.FencesSettleAndClassesRecover := by
  unfold Obligations.FencesSettleAndClassesRecover
  refine ⟨?settles, ?late, ?early, ?ends, ?shadowed, ?recovers, ?fatal⟩
  case settles =>
    intro s i f found unsettled quiet
    change execFenceSettled i s = _
    unfold execFenceSettled
    rw [found, ← State.modFence_eq]
    exact (if_pos (by rw [unsettled, quiet]; rfl))
  case late =>
    intro s i f found unsettled shadow late
    exact (execFenceSettleTimeout_of_fence found).trans (if_pos (by simp [unsettled, shadow, late]))
  case early =>
    intro s i f found early
    exact (execFenceSettleTimeout_of_fence found).trans (if_neg (by simp [early]))
  case ends =>
    intro s i f found settled shadow passed silent
    rw [show exec (.shadowEnd i) s = .next (s.endShadow f) from
      (execShadowEnd_of_fence found).trans (if_pos (by simp [settled, shadow, passed])), State.endShadow_of_silent silent,
      State.fenceOf_id found, State.modFence_eq]
  case shadowed =>
    intro s i f found early
    exact (execShadowEnd_of_fence found).trans (if_neg (by simp [early]))
  case recovers =>
    intro s k service notF active level quiet
    have inRange : classIndex k < 3 ∧ classIndex k ≠ 2 := by
      cases k with
      | f => exact absurd rfl notF
      | _ => decide
    obtain ⟨below, recovers⟩ := inRange
    refine ⟨((s.endClass (classIndex k)).modFlt fun f => { f with recoveries := satInc f.recoveries }).bumpB 0x2070 1,
      if_pos (by simp [service, recovers, active, level, Flt.quiet, quiet]), ?_⟩
    rw [State.bumpB_flt, State.modFlt_flt, State.endClass_flt]
    exact ⟨by simp [below], by simp [below], by simp [below], rfl, rfl⟩
  case fatal =>
    intro s
    exact if_neg (by simp [classIndex])

/-- Settles O19: what a report logs leaves the Fault Collector as its class took the report (`State.reportAt_logged`); Halt by
`State.raise_halted` and `State.raise_halted_of_ne`. -/
theorem reportsLatchFenceAndHalt : Obligations.ReportsLatchFenceAndHalt := by
  unfold Obligations.ReportsLatchFenceAndHalt
  refine ⟨?taken, ?echo, ?halt, ?fence⟩
  case taken =>
    intro s r grain time heard low high
    extract_lets t k
    have inRange : k < 3 := by omega
    obtain ⟨conseq, fences, levels⟩ := s.flt.counted_rest (k := k) r time s.now
    have flt : t.flt = if (s.flt.active[k]?).getD false then s.flt.counted k r time s.now
        else (s.flt.counted k r time s.now).activated k := (State.reportAt_logged heard grain time).flt
    have takes : t.flt.count = (s.flt.counted k r time s.now).count ∧ t.flt.first = (s.flt.counted k r time s.now).first ∧
        t.flt.ovf = (s.flt.counted k r time s.now).ovf ∧ t.flt.conseq = s.flt.conseq ∧ t.flt.fences = s.flt.fences ∧
        t.flt.levels = s.flt.levels := by
      rw [flt]
      split <;> exact ⟨rfl, rfl, rfl, conseq, fences, levels⟩
    obtain ⟨count, first, ovf, rest⟩ := takes
    refine ⟨by rw [count, Flt.counted_count _ _ _ _ inRange], ?_, fun empty => ?_, fun x full => ?_, rest⟩
    · rw [flt]
      split
      next active =>
        rw [Flt.counted_active]
        exact (Option.getD_eq_iff.1 active).resolve_right (by simp)
      next => exact Flt.activated_active _ inRange
    · rw [first, ovf]
      exact Flt.counted_first _ _ _ _ inRange empty
    · rw [first, ovf]
      exact Flt.counted_overflow _ _ _ _ inRange full
  case echo =>
    intro s r f echo on
    exact State.raise_consequential echo on f
  case halt =>
    intro s r f on
    exact ⟨State.raise_halted f on, State.raise_halted_of_ne f⟩
  case fence =>
    intro s f
    refine ⟨fun covered => if_pos ?_, fun free new => if_neg ?_⟩
    · rcases covered with h | h <;> simp [h]
    · simp [free, new]

/-- Settles O20: the row's condition, and for the sources without a reaction of their own the first branch of `State.react`. -/
theorem faultReportReachesItsReaction : Obligations.FaultReportReachesItsReaction := by
  unfold Obligations.FaultReportReachesItsReaction
  refine ⟨?listed, ?unlisted, ?generic⟩
  case listed =>
    intro s w listed out on
    exact if_pos (by simp [listed, out, on])
  case unlisted =>
    intro s w unlisted
    exact if_neg (by simp [unlisted])
  case generic =>
    intro s w generic
    have edge : srcLevel w.subsys w.code = false := by simp [srcLevel, generic]
    unfold State.react
    dsimp only
    rw [edge]
    exact if_pos generic

end

/-! SUPPORT. A commit of the Record Store (R456, R477): what reports leave of the banks, and the commands that wait for the commit. -/

namespace Sys2Proof.Machine

/-! ## The banks under a report -/

/-- The two banks of the store, and the one taken. -/
def State.banks (s : State) : Option Bank × Option Bank × Option Bool := (s.store.bankA, s.store.bankB, s.store.taken)

theorem OnlyLogged.banks {s t : State} (h : OnlyLogged s t) : t.banks = s.banks := by
  obtain ⟨_, _, _, _, _, _, rfl⟩ := h
  rfl

theorem State.report_banks (s : State) (r : Rep) (grain : Nat) : (s.report r grain).banks = s.banks := by
  unfold State.report
  split
  · cases heard : s.consequential r with
    | true => rw [State.reportAt_consequential heard]; rfl
    | false => exact (State.reportAt_logged heard grain s.now).banks
  · split <;> rfl

/-- A report below class F without a fence leaves the banks alone. -/
theorem State.raise_banks (s : State) {r : Rep} (h : r.cls ≠ 3) : (s.raise r none).banks = s.banks := by
  unfold State.raise
  split
  · exact s.report_banks r _
  · simpa [h] using s.report_banks r 0xFF

theorem OnlyReported.boxes {s t : State} (h : OnlyReported s t) : t.boxes = s.boxes := by
  obtain ⟨_, _, _, _, _, _, _, rfl⟩ := h
  rfl

/-! ## Waiting commands -/

/-- A drop takes items out of the store, and moves nothing else. -/
theorem State.applyDrops_items (s : State) : ∃ items, s.applyDrops = { s with store := { s.store with items := items } } := by
  refine List.foldlRecOn (motive := fun t : State => ∃ items, t = { s with store := { s.store with items := items } }) _ _ ⟨s.store.items, rfl⟩ ?_
  rintro u ⟨items, rfl⟩ m -
  dsimp only
  split <;> exact ⟨_, rfl⟩

/-- One mailbox's part in the end of a commit. -/
def State.answerBox (was : State) (checkOk : Bool) (m : Nat) (s : State) : State :=
  let b := s.box m
  if !s.storeWaiter m then s
  else if b.opc = 0x0A02 then (if checkOk then s.finish m .ok [s.store.seq] [] else s.finishS m .failed)
  else if checkOk then
    s.finish m .ok [BitVec.ofNat 32 (was.store.items.filter fun r => r.dropped (fld (b.word 2) 7 0) (b.word 3)).length] []
  else s

theorem State.answerStore_eq (s was : State) (checkOk : Bool) : s.answerStore was checkOk = eachBelow 9 (State.answerBox was checkOk) s := rfl

theorem State.answerBox_store (was : State) (checkOk : Bool) (m : Nat) (s : State) : (State.answerBox was checkOk m s).store = s.store := by
  unfold State.answerBox
  dsimp only
  (repeat' split) <;> rfl

theorem State.answerBox_box_ne (was : State) (checkOk : Bool) {m k : Nat} (h : m ≠ k) (s : State) :
    (State.answerBox was checkOk m s).box k = s.box k := by
  unfold State.answerBox State.finishS
  dsimp only
  (repeat' split) <;> simp only [State.finish_box_ne _ _ _ _ _ _ h]

theorem State.answerStore_store (s was : State) (checkOk : Bool) : (s.answerStore was checkOk).store = s.store :=
  eachBelow_proj State.store (State.answerBox_store was checkOk) 9 s

/-- A waiting `RS_COMMIT` ends either way: with the sequence number of the bank taken, or `FAILED`. -/
theorem State.answerStore_box {s : State} {m : MailboxId} (busy : (s.box m).state = .busy) (started : (s.box m).started = true)
    (opc : (s.box m).opc = 0x0A02) (was : State) (checkOk : Bool) :
    (s.answerStore was checkOk).box m = if checkOk then (s.box m).finish .ok [s.store.seq] [] else (s.box m).finish .failed [] [] := by
  obtain ⟨u, before, after⟩ := eachBelow_own (fun s => (s.store, s.box m)) (f := State.answerBox was checkOk) (k := m)
    (fun i s other => by rw [State.answerBox_store, State.answerBox_box_ne was checkOk other]) s m.isLt
  obtain ⟨store, box⟩ := Prod.mk.inj before
  have waits : u.storeWaiter m = true := by simp [State.storeWaiter, box, busy, started, opc]
  have ends : State.answerBox was checkOk m u = if checkOk then u.finish m .ok [u.store.seq] [] else u.finishS m .failed := by
    unfold State.answerBox
    dsimp only
    rw [if_neg (by simp [waits]), if_pos (box ▸ opc)]
  rw [State.answerStore_eq, (Prod.mk.inj after).2, ends, ← store, ← box]
  cases checkOk <;> exact State.finish_box_self u m _ _ _

/-! ## The commit -/

theorem execRecordStoreCommit_runs {s : State} (ready : s.chip.fwReady = true) (changed : s.store.changed = true)
    (first : s.store.lastCommit = none) (ok : Bool) : execRecordStoreCommit ok s =
      .next (((if ok then s.applyDrops else s).commitStore ok).answerStore s ok) := by
  unfold execRecordStoreCommit
  rw [first]
  exact if_pos (by simp [ready, changed])

/-- With its check passed the new image stands in the bank not taken, which is the one taken from then on (R456). -/
theorem State.commitStore_passed (s : State) : let t := s.commitStore true
    t.store.changed = false ∧ t.store.lastCommit = some s.now ∧ t.store.taken = some (s.store.taken == some false) ∧
      (s.store.taken = some false → t.store.bankA = s.store.bankA ∧ t.store.bankB.isSome = true) ∧
      (s.store.taken = some true → t.store.bankB = s.store.bankB ∧ t.store.bankA.isSome = true) ∧ t.boxes = s.boxes := by
  rcases h : s.store.taken with _ | bank | bank <;> simp [State.commitStore, h]

/-- The store once a check has failed: the bank not taken holds none (R456). -/
def State.commitFailed (s : State) : State :=
  { s with store := { (if s.store.taken == some false then { s.store with bankB := none } else { s.store with bankA := none }) with
    lastCommit := some s.now } }

theorem State.commitStore_failed (s : State) : s.commitStore false =
    (s.commitFailed.post 0x17 1 [at_ 0 (b2n (s.store.taken == some false)), 3, 1]).raise (rep 14 3 0 0) none := by
  rcases h : s.store.taken with _ | bank | bank <;> simp [State.commitStore, State.commitFailed, h]

theorem State.commitStore_failed_banks (s : State) :
    (s.commitStore false).banks = s.commitFailed.banks ∧ (s.commitStore false).boxes = s.boxes := by
  have c : (rep 14 3 0 0).cls ≠ 3 := by decide
  rw [s.commitStore_failed]
  exact ⟨(State.raise_banks _ c).trans (State.post_onlyLogged _ _ _ _).banks,
    ((State.post_onlyReported _ _ _ _).trans (State.raise_onlyReported _ c)).boxes⟩

end Sys2Proof.Machine

section
open Sys2Proof Sys2Proof.Machine Sys2Proof.Slice

/-- Settles O47: the commit writes the bank not taken (`State.commitStore_passed`, `State.commitStore_failed_banks`), and `RS_COMMIT` has
its answer by `State.answerStore_box`. -/
theorem recordStoreCommitsToTheOtherBank : Obligations.RecordStoreCommitsToTheOtherBank := by
  unfold Obligations.RecordStoreCommitsToTheOtherBank
  refine ⟨fun s ready changed first => ⟨?passes, ?fails⟩, ?early⟩
  case passes =>
    obtain ⟨items, drops⟩ := s.applyDrops_items
    obtain ⟨unchanged, now, taken, intoB, intoA, boxes⟩ := s.applyDrops.commitStore_passed
    have store := (s.applyDrops.commitStore true).answerStore_store s true
    refine ⟨_, execRecordStoreCommit_runs ready changed first true, ?_⟩
    rw [if_pos rfl, store, unchanged, now, taken]
    rw [drops] at *
    refine ⟨rfl, rfl, rfl, intoB, intoA, fun m busy started opc => ?_⟩
    have box : State.box _ m = s.box m := congrArg (fun v : Vector Mailbox 9 => (v[m.val]?).getD Mailbox.reset) boxes
    rw [State.answerStore_box (box ▸ busy) (box ▸ started) (box ▸ opc), if_pos rfl, box]
  case fails =>
    obtain ⟨banks, boxes⟩ := s.commitStore_failed_banks
    have store := (s.commitStore false).answerStore_store s false
    have failed : ((s.commitStore false).answerStore s false).banks = s.commitFailed.banks := by rw [← banks, State.banks, store]; rfl
    refine ⟨_, execRecordStoreCommit_runs ready changed first false, ?_⟩
    injection failed with bankA rest
    injection rest with bankB taken
    rw [if_neg (by simp), bankA, bankB, taken]
    refine ⟨?_, fun inA => ?_, fun inB => ?_, fun m busy started opc => ?_⟩
    · unfold State.commitFailed; split <;> rfl
    · simp [State.commitFailed, inA]
    · simp [State.commitFailed, inB]
    · have box : State.box _ m = s.box m := congrArg (fun v : Vector Mailbox 9 => (v[m.val]?).getD Mailbox.reset) boxes
      rw [State.answerStore_box (box ▸ busy) (box ▸ started) (box ▸ opc), if_neg (by simp), box]
  case early =>
    intro s ok t0 last early
    change execRecordStoreCommit ok s = _
    unfold execRecordStoreCommit
    rw [last]
    exact if_neg (by simp [early])

end

/-! SUPPORT. What a mailbox command meets before its own rules (R459, R463). -/

namespace Sys2Proof.Machine

open Sys2Proof.Slice (amiomRows Awake worksInHalt boxesDone)

/-- Every row of the mailbox commands begins in the same way, under its opcode. -/
theorem amiomRows_begin (s : State) (m : MailboxId) (spare : Bool) (found : List FoundModule) :
    ∀ e ∈ amiomRows m spare found, ∃ f : State → State, exec e.1 s = s.amiom m e.2 f := by
  rw [amiomRows, List.forall_mem_append]
  simp only [List.forall_mem_cons]
  exact ⟨⟨
    ⟨_, show execQueryCaps m s = _ from rfl⟩, ⟨_, show execBringup m s = _ from rfl⟩, ⟨_, show execClaim m s = _ from rfl⟩,
    ⟨_, show execRelease m s = _ from rfl⟩, ⟨_, show execPortOpen m s = _ from rfl⟩, ⟨_, show execPortClose m s = _ from rfl⟩,
    ⟨_, show execDiscover m found s = _ from rfl⟩, ⟨_, show execLandingStart m s = _ from rfl⟩,
    ⟨_, show execLandingQuery m s = _ from rfl⟩, ⟨_, show execModuleQuery m s = _ from rfl⟩, ⟨_, show execSbdXfer m s = _ from rfl⟩,
    ⟨_, show execDmaBind m s = _ from rfl⟩, ⟨_, show execDebugSelect m s = _ from rfl⟩, ⟨_, show execArbSet m s = _ from rfl⟩,
    ⟨_, show execSeqSet m s = _ from rfl⟩, ⟨_, show execTimingSet m s = _ from rfl⟩, ⟨_, show execMntSet m s = _ from rfl⟩,
    ⟨_, show execEccSet m s = _ from rfl⟩, ⟨_, show execCalSet m s = _ from rfl⟩, ⟨_, show execCmpSet m s = _ from rfl⟩,
    ⟨_, show execTierSet m s = _ from rfl⟩, ⟨_, show execCalRun m s = _ from rfl⟩, ⟨_, show execCalSave m s = _ from rfl⟩,
    ⟨_, show execCalRestore m s = _ from rfl⟩, List.forall_mem_nil _⟩, ⟨
    ⟨_, show execKekLoad m s = _ from rfl⟩, ⟨_, show execHallCreate m s = _ from rfl⟩, ⟨_, show execHallResize m s = _ from rfl⟩,
    ⟨_, show execHallRelease m s = _ from rfl⟩, ⟨_, show execHallQuery m s = _ from rfl⟩, ⟨_, show execHallKeyLoad m s = _ from rfl⟩,
    ⟨_, show execWindowAdd m s = _ from rfl⟩, ⟨_, show execWindowRemove m s = _ from rfl⟩, ⟨_, show execTierPool m s = _ from rfl⟩,
    ⟨_, show execEccDeclare m s = _ from rfl⟩, ⟨_, show execPprRun m spare s = _ from rfl⟩, ⟨_, show execScrubSet m s = _ from rfl⟩,
    ⟨_, show execPwrCfg m s = _ from rfl⟩, ⟨_, show execFltRead m s = _ from rfl⟩, ⟨_, show execFltClear m s = _ from rfl⟩,
    ⟨_, show execFltCfg m s = _ from rfl⟩, ⟨_, show execCntCfg m s = _ from rfl⟩, ⟨_, show execCntUser m s = _ from rfl⟩,
    ⟨_, show execRsRead m s = _ from rfl⟩, ⟨_, show execRsCommit m s = _ from rfl⟩, ⟨_, show execRsDrop m s = _ from rfl⟩,
    List.forall_mem_nil _⟩⟩

/-- The table of opcodes and the list of the commands that work in Halt agree. -/
theorem opcodeRow_worksInHalt (m : MailboxId) (spare : Bool) (found : List FoundModule) : ∀ e ∈ amiomRows m spare found,
    ((opcodeRow e.2).map (·.2)).getD false = worksInHalt.contains e.2 := by
  simp only [amiomRows, List.forall_mem_append, List.forall_mem_cons]
  decide

section
variable {s : State} {m : MailboxId} {opc : Nat} (f : State → State)

/-- A command that is not taken, or that firmware may not begin, waits. -/
theorem amiom_of_not_waits (h : ¬ Sys2Proof.Slice.Waits s m opc) : s.amiom m opc f = .next s := by
  refine if_neg fun starts => h ?_
  simpa [and_assoc] using starts

theorem amiom_of_halted (waits : Sys2Proof.Slice.Waits s m opc) (halted : s.chip.halted = true) (stops : ((opcodeRow opc).map (·.2)).getD false = false) :
    s.amiom m opc f = .next (s.finishS m .halted) := by
  obtain ⟨busy, idle, opcode, ready, may⟩ := waits
  unfold State.amiom
  rw [if_pos (by simp [busy, idle, opcode, ready, may]), if_pos (by simp [halted, stops])]

theorem amiom_of_asleep (waits : Sys2Proof.Slice.Waits s m opc) (running : s.chip.halted = false) (dram : needsDram opc = true) (asleep : ¬ Awake s) :
    s.amiom m opc f = .next (s.finishS m .badState) := by
  obtain ⟨busy, idle, opcode, ready, may⟩ := waits
  have refused : (needsDram opc && (!s.inP0 || s.pwr.pend.isSome)) = true := by
    cases p0 : s.inP0 <;> simp [dram, Option.isSome_iff_ne_none]
    exact fun free => asleep ⟨p0, free⟩
  unfold State.amiom
  rw [if_pos (by simp [busy, idle, opcode, ready, may]), if_neg (by simp [running]), if_pos refused]

end

end Sys2Proof.Machine

section
open Sys2Proof Sys2Proof.Machine Sys2Proof.Slice

/-- Settles O52: every row begins by `amiomRows_begin`, and `State.amiom` answers before the row's effect. -/
theorem commandsBeginOnlyWhenTheyMay : Obligations.CommandsBeginOnlyWhenTheyMay := by
  unfold Obligations.CommandsBeginOnlyWhenTheyMay
  intro s m spare found e he
  obtain ⟨f, runs⟩ := amiomRows_begin s m spare found e he
  rw [runs]
  refine ⟨amiom_of_not_waits f, fun waits halted stops => ?_, fun waits running dram asleep => amiom_of_asleep f waits running dram asleep⟩
  exact amiom_of_halted f waits halted (stops ▸ opcodeRow_worksInHalt m spare found e he)

end

/-! SUPPORT. The register-setting commands (R466, R467): words merged target by target, and what is read of them afterwards. -/

namespace Sys2Proof.Machine

open Sys2Proof.Slice (Begins boxesOn answered setRows)

/-! ## Words merged one after another -/

/-- Of a fold whose every step leaves a word or merges it, each word is left or merged once. -/
theorem foldl_left_or_merged {word : State → Nat → W32} {good : State → Prop} {step : State → Nat → State} {mask v : W32} {ts : List Nat}
    (keeps : ∀ s, good s → ∀ t ∈ ts, good (step s t))
    (each : ∀ s, good s → ∀ t ∈ ts, ∀ k, word (step s t) k = word s k ∨ word (step s t) k = mergeMask mask (word s k) v)
    {s : State} (h : good s) (k : Nat) :
    word (ts.foldl step s) k = word s k ∨ word (ts.foldl step s) k = mergeMask mask (word s k) v := by
  refine (List.foldlRecOn (motive := fun u => good u ∧ (word u k = word s k ∨ word u k = mergeMask mask (word s k) v)) ts step
    ⟨h, .inl rfl⟩ fun u hu t ht => ?_).2
  obtain ⟨hg, before⟩ := hu
  refine ⟨keeps u hg t ht, ?_⟩
  rcases each u hg t ht k with same | merged
  · rw [same]
    exact before
  · rcases before with b | b
    · exact .inr (by rw [merged, b])
    · exact .inr (by rw [merged, b, mergeMask_mergeMask])

/-- Every word that a step names is merged. -/
theorem foldl_merged {word : State → Nat → W32} {good : State → Prop} {step : State → Nat → State} {mask v : W32} {ts : List Nat}
    (keeps : ∀ s, good s → ∀ t ∈ ts, good (step s t))
    (each : ∀ s, good s → ∀ t ∈ ts, ∀ k, word (step s t) k = word s k ∨ word (step s t) k = mergeMask mask (word s k) v)
    (own : ∀ s, good s → ∀ t ∈ ts, word (step s t) t = mergeMask mask (word s t) v) {s : State} (h : good s) :
    ∀ t ∈ ts, word (ts.foldl step s) t = mergeMask mask (word s t) v := by
  induction ts generalizing s with
  | nil => exact nofun
  | cons x ts ih =>
    have tailKeeps := fun s hs t ht => keeps s hs t (List.mem_cons_of_mem x ht)
    have tailEach := fun s hs t ht => each s hs t (List.mem_cons_of_mem x ht)
    have next := keeps s h x List.mem_cons_self
    intro t ht
    rw [List.foldl_cons]
    rcases List.mem_cons.1 ht with rfl | ht
    · rcases foldl_left_or_merged tailKeeps tailEach next t with same | merged
      · rw [same, own s h t List.mem_cons_self]
      · rw [merged, own s h t List.mem_cons_self, mergeMask_mergeMask]
    · rw [ih tailKeeps tailEach (fun s hs t ht => own s hs t (List.mem_cons_of_mem x ht)) next t ht]
      rcases each s h x List.mem_cons_self t with same | merged
      · rw [same]
      · rw [merged, mergeMask_mergeMask]

/-! ## Words in rising order -/

theorem Words.rising_mono {lo hi : Nat} (h : lo ≤ hi) : ∀ {m : Words}, Words.rising hi m → Words.rising lo m
  | [], _ => trivial
  | _ :: _, ⟨low, rest⟩ => ⟨h.trans low, rest⟩

theorem setW_rising (d : W32) (a : Nat) (v : W32) : ∀ {lo : Nat} {m : Words}, lo ≤ a → Words.rising lo m → Words.rising lo (setW d m a v)
  | lo, [], h, _ => by
    unfold setW
    split
    · trivial
    · exact ⟨h, trivial⟩
  | lo, (k, w) :: m, h, ⟨low, rest⟩ => by
    unfold setW
    split
    next below =>
      split
      · exact ⟨low, rest⟩
      · exact ⟨h, below, rest⟩
    next reached =>
      split
      next here =>
        subst here
        split
        · exact Words.rising_mono (Nat.le_succ_of_le low) rest
        · exact ⟨low, rest⟩
      next other => exact ⟨low, setW_rising d a v (by omega) rest⟩

/-! ## Words that the Landings hold -/

/-- Every Landing page has its words in rising order. -/
def State.landsRise (s : State) : Prop := ∀ k, Words.rising 0 (s.land k).page.regs

/-- A Landing page under a write is the written one or untouched. -/
theorem State.putLand_regs (s : State) {t : Nat} (ht : t < 12) (off : Nat) (v : W32) (k : Nat) :
    ((s.putLand t off v).land k).page.regs =
      if homeLand t off = k then setW (landDefault off) (s.land k).page.regs off v else (s.land k).page.regs := by
  have below : homeLand t off < 12 := homeLand_lt ⟨t, ht⟩ off
  split
  next here =>
    subst here
    exact congrArg (·.page.regs) (State.modLand_land_self s ⟨homeLand t off, below⟩ _)
  next other => exact congrArg (·.page.regs) (State.modLand_land_ne s _ k _ other)

theorem State.putLand_landsRise {s : State} (h : s.landsRise) {t : Nat} (ht : t < 12) (off : Nat) (v : W32) : (s.putLand t off v).landsRise := by
  intro k
  rw [State.putLand_regs s ht]
  split
  · exact setW_rising _ off v (Nat.zero_le _) (h k)
  · exact h k

theorem State.putLand_lw_of_rise {s : State} (h : s.landsRise) {t : Nat} (ht : t < 12) (off : Nat) (v : W32) (k : Nat) :
    (s.putLand t off v).lw k off = if homeLand t off = homeLand k off then v else s.lw k off := by
  unfold State.lw
  rw [State.putLand_regs s ht]
  split
  · exact getW_setW_self _ off v (h _)
  · rfl

theorem State.timingMark_aside (s : State) (l off : Nat) (ok : Bool) :
    ((s.timingMark l off ok).boxes, (s.timingMark l off ok).misc) = (s.boxes, s.misc) := by
  unfold State.timingMark
  dsimp only
  split
  · refine eachBelow_proj (fun s => (s.boxes, s.misc)) (fun i s => ?_) _ s
    split <;> rfl
  · rfl

/-! ## Words that the Galleries hold -/

/-- Every Gallery page has its words in rising order. -/
def State.galsRise (s : State) : Prop := ∀ k, Words.rising 0 (s.gal k).page.regs

theorem State.putGal_regs (s : State) {t : Nat} (ht : t < 3) (off : Nat) (v : W32) (k : Nat) :
    ((s.putGal t off v).gal k).page.regs =
      if homeGal t off = k then setW (galDefault off) (s.gal k).page.regs off v else (s.gal k).page.regs := by
  have below : homeGal t off < 3 := by
    unfold homeGal
    split <;> omega
  split
  next here =>
    subst here
    exact congrArg (·.page.regs) (State.modGal_gal_self s ⟨homeGal t off, below⟩ _)
  next other => exact congrArg (·.page.regs) (State.modGal_gal_ne s _ k _ other)

theorem State.putGal_galsRise {s : State} (h : s.galsRise) {t : Nat} (ht : t < 3) (off : Nat) (v : W32) : (s.putGal t off v).galsRise := by
  intro k
  rw [State.putGal_regs s ht]
  split
  · exact setW_rising _ off v (Nat.zero_le _) (h k)
  · exact h k

theorem State.putGal_gw_of_rise {s : State} (h : s.galsRise) {t : Nat} (ht : t < 3) (off : Nat) (v : W32) (k : Nat) :
    (s.putGal t off v).gw k off = if homeGal t off = homeGal k off then v else s.gw k off := by
  unfold State.gw
  rw [State.putGal_regs s ht]
  split
  · exact getW_setW_self _ off v (h _)
  · rfl

/-! ## One target of a register-setting command -/

/-- The step of a register-setting command at one target. -/
def State.setStepAt (gal : Bool) (off : Nat) (v mask : W32) (s : State) (t : Nat) : State :=
  s.setPut gal t off (s.setNew gal t off v mask).1

theorem State.setStepAt_aside (gal : Bool) (off : Nat) (v mask : W32) (s : State) (t : Nat) :
    ((s.setStepAt gal off v mask t).boxes, (s.setStepAt gal off v mask t).misc) = (s.boxes, s.misc) := by
  unfold State.setStepAt State.setPut
  cases gal
  · simp only [Bool.false_eq_true, if_false]
    split
    · rfl
    · split
      · exact State.timingMark_aside _ t off true
      · rfl
  · simp only [if_true]
    split <;> rfl

section
variable {off : Nat} {v mask : W32} {s : State} {t : Nat}

/-- At a Landing: nothing where the word stands already, else the merged word and, for timing, its mark. -/
theorem State.setStepAt_land : s.setStepAt false off v mask t =
    if s.lw t off = mergeMask mask (s.lw t off) v then s
    else if isTiming off then (s.putLand t off (mergeMask mask (s.lw t off) v)).timingMark t off true
    else s.putLand t off (mergeMask mask (s.lw t off) v) := rfl

theorem State.setStepAt_gal : s.setStepAt true off v mask t =
    if s.gw t off = mergeMask mask (s.gw t off) v then s else s.putGal t off (mergeMask mask (s.gw t off) v) := rfl

theorem State.setStepAt_landsRise (h : s.landsRise) (ht : t < 12) : (s.setStepAt false off v mask t).landsRise := by
  have put := State.putLand_landsRise h ht off (mergeMask mask (s.lw t off) v)
  rw [State.setStepAt_land]
  split
  · exact h
  · split
    · intro k
      rw [State.timingMark_page]
      exact put k
    · exact put

theorem State.setStepAt_galsRise (h : s.galsRise) (ht : t < 3) : (s.setStepAt true off v mask t).galsRise := by
  rw [State.setStepAt_gal]
  split
  · exact h
  · exact State.putGal_galsRise h ht off _

/-- The words of the Landings after the step. -/
theorem State.setStepAt_lw (h : s.landsRise) (ht : t < 12) (k : Nat) : (s.setStepAt false off v mask t).lw k off =
    if homeLand t off = homeLand k off then mergeMask mask (s.lw k off) v else s.lw k off := by
  have put := State.putLand_lw_of_rise h ht off (mergeMask mask (s.lw t off) v) k
  have shared (home : homeLand t off = homeLand k off) : s.lw t off = s.lw k off := by
    unfold State.lw
    rw [home]
  have mark (u : State) : (u.timingMark t off true).lw k off = u.lw k off := by
    unfold State.lw
    rw [State.timingMark_page]
  rw [State.setStepAt_land]
  split
  next same =>
    split
    next home => rw [← shared home]; exact same
    next => rfl
  next =>
    rw [apply_ite (State.lw · k off), mark, ite_self, put]
    split
    next home => rw [shared home]
    next => rfl

/-- The words of the Galleries after the step. -/
theorem State.setStepAt_gw (h : s.galsRise) (ht : t < 3) (k : Nat) : (s.setStepAt true off v mask t).gw k off =
    if homeGal t off = homeGal k off then mergeMask mask (s.gw k off) v else s.gw k off := by
  have put := State.putGal_gw_of_rise h ht off (mergeMask mask (s.gw t off) v) k
  have shared (home : homeGal t off = homeGal k off) : s.gw t off = s.gw k off := by
    unfold State.gw
    rw [home]
  rw [State.setStepAt_gal]
  split
  next same =>
    split
    next home => rw [← shared home]; exact same
    next => rfl
  next =>
    rw [put]
    split
    next home => rw [shared home]
    next => rfl

end

/-! ## All targets -/

theorem ite_left_or_merged {P : Prop} [Decidable P] (a b : W32) : (if P then a else b) = b ∨ (if P then a else b) = a := by
  split
  · exact .inr rfl
  · exact .inl rfl

/-- Every Landing that is named holds its word under the mask. -/
theorem State.setSteps_lw {off : Nat} {v mask : W32} {s : State} (h : s.landsRise) {ts : List Nat} (below : ∀ t ∈ ts, t < 12) :
    ∀ t ∈ ts, (ts.foldl (State.setStepAt false off v mask) s).lw t off = mergeMask mask (s.lw t off) v :=
  foldl_merged (word := fun s t => s.lw t off) (good := State.landsRise) (fun _ hu t ht => State.setStepAt_landsRise hu (below t ht))
    (fun _ hu t ht k => (State.setStepAt_lw hu (below t ht) k) ▸ ite_left_or_merged _ _)
    (fun _ hu t ht => (State.setStepAt_lw hu (below t ht) t).trans (if_pos rfl)) h

theorem State.setSteps_gw {off : Nat} {v mask : W32} {s : State} (h : s.galsRise) {ts : List Nat} (below : ∀ t ∈ ts, t < 3) :
    ∀ t ∈ ts, (ts.foldl (State.setStepAt true off v mask) s).gw t off = mergeMask mask (s.gw t off) v :=
  foldl_merged (word := fun s t => s.gw t off) (good := State.galsRise) (fun _ hu t ht => State.setStepAt_galsRise hu (below t ht))
    (fun _ hu t ht k => (State.setStepAt_gw hu (below t ht) k) ▸ ite_left_or_merged _ _)
    (fun _ hu t ht => (State.setStepAt_gw hu (below t ht) t).trans (if_pos rfl)) h

/-! ## The commands -/

/-- The targets that a register-setting command names. -/
def State.setTargets (s : State) (m : Nat) (gal : Bool) : List Nat :=
  (List.range (if gal then 3 else 12)).filter fun t => ((s.box m).word 2).getLsbD t

theorem exec_setRow {s : State} {m : MailboxId} : ∀ e ∈ setRows m, Begins s m e.2.1 → exec e.1 s = .next (s.setRegs m e.2.2.1 e.2.2.2).pump := by
  unfold setRows
  simp only [List.forall_mem_cons]
  exact ⟨fun h => amiom_of_begins (fun s => s.setRegs m false arbNames) h (by decide) (by decide),
    fun h => amiom_of_begins (fun s => s.setRegs m false seqNames) h (by decide) (by decide),
    fun h => amiom_of_begins (fun s => s.setRegs m false timingNames) h (by decide) (by decide),
    fun h => amiom_of_begins (fun s => s.setRegs m false mntNames) h (by decide) (by decide),
    fun h => amiom_of_begins (fun s => s.setRegs m false calNames) h (by decide) (by decide),
    fun h => amiom_of_begins (fun s => s.setRegs m true eccNames) h (by decide) (by decide),
    fun h => amiom_of_begins (fun s => s.setRegs m true cmpNames) h (by decide) (by decide),
    fun h => amiom_of_begins (fun s => s.setRegs m true tierNames) h (by decide) (by decide), List.forall_mem_nil _⟩

section
variable {s : State} {m : MailboxId} {gal : Bool} {names : Nat → Bool}

/-- The command's words: offset, value and mask. -/
def State.setOff (s : State) (m : Nat) : Nat := fld ((s.box m).word 3) 15 0

/-- The command names a register that it may set, and only fields that it has (R466). -/
def State.setFits (s : State) (m : Nat) (gal : Bool) (names : Nat → Bool) : Prop :=
  names (s.setOff m) = true ∧ (s.box m).word 5 &&& ~~~(if gal then galMask (s.setOff m) else landMask (s.setOff m)) = 0

theorem State.setRegs_misfit (h : ¬ s.setFits m gal names) : s.setRegs m gal names = s.finishS m .badParam := by
  refine if_pos ?_
  unfold State.setFits State.setOff at h
  simpa [Decidable.imp_iff_not_or] using h

theorem State.setRegs_fits (h : s.setFits m gal names) : s.setRegs m gal names =
    if !(s.setTargets m gal).all (s.setTarget gal) then s.finishS m .badState
    else if !(s.setTargets m gal).all (fun t => (s.setNew gal t (s.setOff m) ((s.box m).word 4) ((s.box m).word 5)).2) then s.finishS m .badParam
    else if (s.setTargets m gal).any (fun t => s.setRefused (s.box m).opc t (s.setOff m) ((s.box m).word 5)
      (s.setNew gal t (s.setOff m) ((s.box m).word 4) ((s.box m).word 5)).1) then s.finishS m .badParam
    else
      let t := (s.setTargets m gal).foldl (State.setStepAt gal (s.setOff m) ((s.box m).word 4) ((s.box m).word 5)) s
      match (s.setTargets m gal).head? with
      | some k => t.finishAtBoundary m [if gal then t.galPage k (s.setOff m) else t.landPage k (s.setOff m)]
      | none => (t.modChip fun c => { c with free := c.free + 1 }).finishAtBoundary m [Config.freeWord t.chip.free] := by
  obtain ⟨named, masked⟩ := h
  unfold State.setOff at named masked
  refine if_neg ?_
  simp [named, masked]

theorem State.finishAtBoundary_boxes {t : State} (boxes : t.boxes = s.boxes) (free : Chip → Chip) (m : MailboxId) (res : List W32) :
    ((t.modChip free).finishAtBoundary m res).boxes = boxesOn s m := by
  have on : ((t.modChip free).finishAtBoundary m res).boxes = boxesOn t m := rfl
  rw [on]
  unfold boxesOn State.box
  rw [boxes]

theorem State.finishAtBoundary_deferred {t : State} (boxes : t.boxes = s.boxes) (misc : t.misc = s.misc) (free : Chip → Chip) (m : MailboxId)
    (res : List W32) :
    ((t.modChip free).finishAtBoundary m res).misc.deferred = s.misc.deferred ++ [.done m (s.box m).taken res] := by
  have on : ((t.modChip free).finishAtBoundary m res).misc.deferred = t.misc.deferred ++ [.done m (t.box m).taken res] := rfl
  rw [on]
  unfold State.box
  rw [boxes, misc]

/-- A command whose targets all take their word. -/
theorem State.setRegs_taken (h : s.setFits m gal names) (here : ∀ t ∈ s.setTargets m gal, s.setTarget gal t = true)
    (taken : ∀ t ∈ s.setTargets m gal, (s.setNew gal t (s.setOff m) ((s.box m).word 4) ((s.box m).word 5)).2 = true ∧
      s.setRefused (s.box m).opc t (s.setOff m) ((s.box m).word 5) (s.setNew gal t (s.setOff m) ((s.box m).word 4) ((s.box m).word 5)).1 = false) :
    ∃ free w, s.setRegs m gal names =
      ((((s.setTargets m gal).foldl (State.setStepAt gal (s.setOff m) ((s.box m).word 4) ((s.box m).word 5)) s).modChip free).finishAtBoundary m [w]) := by
  rw [State.setRegs_fits h, if_neg (by simpa using here), if_neg (by simpa using fun t ht => (taken t ht).1),
    if_neg (by simpa using fun t ht => (taken t ht).2)]
  cases (s.setTargets m gal).head? with
  | some k => exact ⟨id, _, rfl⟩
  | none => exact ⟨_, _, rfl⟩

end

end Sys2Proof.Machine

section
open Sys2Proof Sys2Proof.Machine Sys2Proof.Slice

/-- Settles O55, through the command's checks in their order and a fold over its targets, each of which leaves or merges every word. -/
theorem settingCommandsWriteEveryTarget : Obligations.SettingCommandsWriteEveryTarget := by
  intro s m e he begins
  have runs := exec_setRow e he begins
  obtain ⟨i, opc, gal, names⟩ := e
  have opcode : (s.box m).opc = opc := by
    obtain ⟨-, -, opcode, -⟩ := begins
    exact opcode
  intro off v mask gal' ts fits
  change exec i s = .next (s.setRegs m gal names).pump at runs
  change (¬ s.setFits m gal names → exec i s = _) ∧ (s.setFits m gal names → _ → exec i s = _) ∧ (s.setFits m gal names → _)
  rw [runs]
  refine ⟨fun misfit => ?_, fun fit (absent : ∃ t ∈ s.setTargets m gal, s.setTarget gal t = false) => ?_,
    fun fit (here : ∀ t ∈ s.setTargets m gal, s.setTarget gal t = true) =>
      ⟨fun (refused : ∃ t ∈ s.setTargets m gal, _) => ?_, fun (taken : ∀ t ∈ s.setTargets m gal, _) lands gals => ?_⟩⟩
  · rw [State.setRegs_misfit misfit]
    rfl
  · rw [State.setRegs_fits fit, if_pos (by simpa using absent)]
    rfl
  · rw [State.setRegs_fits fit, if_neg (by simpa using here)]
    obtain ⟨t, ht, whole | refused⟩ := refused
    · rw [if_pos (by simpa using ⟨t, ht, whole⟩)]
      rfl
    · rw [if_pos (List.any_eq_true.2 ⟨t, ht, opcode ▸ refused⟩), ite_self]
      rfl
  · obtain ⟨free, w, last⟩ := State.setRegs_taken fit here (opcode ▸ taken)
    have aside := foldl_proj (fun s => (s.boxes, s.misc)) (State.setStepAt_aside gal (s.setOff m) ((s.box m).word 4) ((s.box m).word 5))
      (s.setTargets m gal) s
    obtain ⟨boxes, misc⟩ := Prod.mk.inj aside
    have below : ∀ t ∈ s.setTargets m gal, t < if gal then 3 else 12 := fun t ht => List.mem_range.1 (List.mem_of_mem_filter ht)
    rw [last]
    refine ⟨_, w, rfl, ?_, ?_, fun t ht (land : gal = false) => ?_, fun t ht (gallery : gal = true) => ?_⟩
    · exact State.finishAtBoundary_boxes boxes free m [w]
    · exact State.finishAtBoundary_deferred boxes misc free m [w]
    · subst land
      exact State.setSteps_lw (fun k => Words.rising_of_Rising (lands k)) below t ht
    · subst gallery
      exact State.setSteps_gw (fun k => Words.rising_of_Rising (gals k)) below t ht

end

/-! SUPPORT. The commands of power, faults, counters and the Record Store, each by its outcomes (R454, R477, R488, R511, R523). -/

namespace Sys2Proof.Machine

open Sys2Proof.Slice (Begins answered boxesOn)

/-! ## `FLT_CLEAR` -/

theorem State.endClass_boxes (s : State) (k : Nat) : (s.endClass k).boxes = s.boxes := by
  unfold State.endClass
  split <;> rfl

/-- Class states that end one after another: each has ended, and no other. -/
theorem State.endClasses_active (ks : List Nat) (s : State) (k : Fin 3) :
    (ks.foldl (fun s k => s.endClass k) s).flt.active[k] = (s.flt.active[k] && !ks.contains k.val) := by
  induction ks generalizing s with
  | nil => simp
  | cons j ks ih =>
    rw [List.foldl_cons, ih, State.endClass_flt]
    by_cases here : j = k.val
    · simp [here]
    · simp [here, Ne.symm here]

theorem State.endClasses_cleared (ks : List Nat) (s : State) (k : Fin 3) (h : k.val ∈ ks ∨ s.flt.first[k] = none ∧ s.flt.ovf[k] = false) :
    (ks.foldl (fun s k => s.endClass k) s).flt.first[k] = none ∧ (ks.foldl (fun s k => s.endClass k) s).flt.ovf[k] = false := by
  induction ks generalizing s with
  | nil => exact h.resolve_left (List.not_mem_nil)
  | cons j ks ih =>
    refine ih _ ?_
    rw [State.endClass_flt]
    by_cases here : j = k.val
    · exact .inr (by simp [here])
    · rcases h with named | clear
      · exact .inl ((List.mem_cons.1 named).resolve_left (Ne.symm here))
      · exact .inr (by simpa [here] using clear)

theorem State.endClasses_count (ks : List Nat) (s : State) : (ks.foldl (fun s k => s.endClass k) s).flt.count = s.flt.count :=
  foldl_proj (fun s => s.flt.count) (fun s k => by rw [State.endClass_flt]) ks s

theorem State.endClasses_boxes (ks : List Nat) (s : State) : (ks.foldl (fun s k => s.endClass k) s).boxes = s.boxes :=
  foldl_proj State.boxes State.endClass_boxes ks s

/-- The classes that `FLT_CLEAR` names. -/
def State.clearNamed (s : State) (m : Nat) : List Nat := (List.range 3).filter fun k => ((s.box m).word 2).getLsbD k

theorem State.mem_clearNamed {s : State} {m k : Nat} : k ∈ s.clearNamed m ↔ k < 3 ∧ ((s.box m).word 2).getLsbD k = true := by
  simp [State.clearNamed]

theorem State.fltClear_refused {s : State} {m : Nat}
    (h : s.flt.service = true ∨ ∃ k, k < 3 ∧ ((s.box m).word 2).getLsbD k = true ∧ s.causePersists k = true) :
    s.fltClear m = s.finishS m .badState := by
  refine if_pos ?_
  simpa [and_assoc] using h

theorem State.fltClear_clears {s : State} {m : Nat} (managed : s.flt.service = false)
    (gone : ∀ k, k < 3 → ((s.box m).word 2).getLsbD k = true → s.causePersists k = false) :
    s.fltClear m = ((s.clearNamed m).foldl (fun s k => s.endClass k) s).finishS m .ok := by
  refine if_neg ?_
  simpa [managed] using gone

/-! ## The commands -/

section
variable {s : State} {m : MailboxId}

theorem exec_pwrCfg (h : Begins s m 0x0701) : exec (.pwrCfg m) s = .next (s.pwrCfg m).pump :=
  amiom_of_begins (fun s => s.pwrCfg m) h (by decide) (by decide)

theorem exec_fltRead (h : Begins s m 0x0801) : exec (.fltRead m) s = .next (s.fltRead m).pump :=
  amiom_of_begins (fun s => s.fltRead m) h (by decide) (by decide)

theorem exec_fltClear (h : Begins s m 0x0802) : exec (.fltClear m) s = .next (s.fltClear m).pump :=
  amiom_of_begins (fun s => s.fltClear m) h (by decide) (by decide)

theorem exec_fltCfg (h : Begins s m 0x0803) : exec (.fltCfg m) s = .next (s.fltCfg m).pump :=
  amiom_of_begins (fun s => s.fltCfg m) h (by decide) (by decide)

theorem exec_cntCfg (h : Begins s m 0x0901) : exec (.cntCfg m) s = .next (s.cntCfg m).pump :=
  amiom_of_begins (fun s => s.cntCfg m) h (by decide) (by decide)

theorem exec_rsRead (h : Begins s m 0x0A01) : exec (.rsRead m) s = .next (s.rsRead m).pump :=
  amiom_of_begins (fun s => s.rsRead m) h (by decide) (by decide)

theorem exec_rsDrop (h : Begins s m 0x0A03) : exec (.rsDrop m) s = .next (s.rsDrop m).pump :=
  amiom_of_begins (fun s => s.rsDrop m) h (by decide) (by decide)

/-- What `CNT_CFG` may set: a Gallery that is there, no chain at counter 7, an event that its counters reach (R523). -/
def State.cntFits (s : State) (w : W32) : Prop :=
  fld w 1 0 < s.nGal ∧ ¬ (w.getLsbD 8 = true ∧ fld w 6 4 = 7) ∧ countable (fld w 1 0) (fld w 31 16) = true

theorem State.cntFits_iff {w : W32} :
    s.cntFits w ↔ ¬ (s.nGal ≤ fld w 1 0 ∨ (w.getLsbD 8 = true ∧ fld w 6 4 = 7) ∨ (!countable (fld w 1 0) (fld w 31 16)) = true) := by
  simp only [State.cntFits, not_or, Nat.not_le, Bool.not_eq_true', Bool.not_eq_false]

theorem State.cntCfg_refused (h : ¬ s.cntFits ((s.box m).word 2)) : s.cntCfg m = s.finishS m .badParam :=
  if_pos (not_not.1 (mt State.cntFits_iff.2 h))

theorem State.cntCfg_set (h : s.cntFits ((s.box m).word 2)) :
    s.cntCfg m = (s.defer (.cnt (fld ((s.box m).word 2) 1 0) (fld ((s.box m).word 2) 6 4)
      (at_ 0 (fld ((s.box m).word 2) 31 16) ||| at_ 16 (b2n (((s.box m).word 2).getLsbD 8))))).finishS m .ok :=
  if_neg (State.cntFits_iff.1 h)

theorem State.rsRead_denied (own : m.val < 8) (type : fld ((s.box m).word 2) 7 0 = 1 ∨ fld ((s.box m).word 2) 7 0 = 4) :
    s.rsRead m = s.finishS m .denied := if_pos ⟨own, type⟩

/-- `RS_READ` of a type that the mailbox may read, with a bank taken. -/
theorem State.rsRead_allowed {k : Bank} (taken : s.store.bank = some k)
    (may : m.val = 8 ∨ fld ((s.box m).word 2) 7 0 ≠ 1 ∧ fld ((s.box m).word 2) 7 0 ≠ 4) :
    s.rsRead m = match (k.ofType (fld ((s.box m).word 2) 7 0))[((s.box m).word 3).toNat]? with
      | none => s.finishS m .notFound
      | some r => s.finish m .ok [BitVec.ofNat 32 (k.ofType (fld ((s.box m).word 2) 7 0)).length] (r.take 4096) := by
  unfold State.rsRead
  rw [taken]
  exact if_neg (by omega)

end

end Sys2Proof.Machine

section
open Sys2Proof Sys2Proof.Machine Sys2Proof.Slice

/-- Settles O59: each command by its refusals, and then by its one effect. -/
theorem serviceCommandsHaveTheirEffect : Obligations.ServiceCommandsHaveTheirEffect := by
  unfold Obligations.ServiceCommandsHaveTheirEffect
  refine ⟨?power, ?read, ?clear, ?mode, ?counter, ?user, ?record, ?commit, ?drop⟩
  case power =>
    intro s m begins w most
    rw [exec_pwrCfg begins]
    refine ⟨fun busy => ?_, fun still none_ => ?_⟩
    · rw [State.pwrCfg, if_pos busy]
      rfl
    · rw [State.pwrCfg, if_neg (by simp [still, none_])]
      rfl
  case read =>
    intro s m begins
    exact ⟨_, _, exec_fltRead begins, rfl, rfl, rfl, rfl, rfl⟩
  case clear =>
    intro s m begins
    rw [exec_fltClear begins]
    refine ⟨fun refused => ?_, fun managed gone => ⟨_, rfl, ?_⟩⟩
    · rw [State.fltClear_refused refused]
      rfl
    · rw [State.fltClear_clears managed gone]
      have box : ((s.clearNamed m).foldl (fun s k => s.endClass k) s).box m = s.box m := by
        unfold State.box
        rw [State.endClasses_boxes]
      refine ⟨(State.finish_box_self _ m .ok [] []).trans (by rw [box]), State.endClasses_count _ s, fun k => ⟨?_, fun named => ?_⟩⟩
      · refine (State.endClasses_active _ s k).trans ?_
        have named : (s.clearNamed m).contains k.val = ((s.box m).word 2).getLsbD k := by
          refine Bool.eq_iff_iff.2 (List.contains_iff_mem.trans (State.mem_clearNamed.trans ?_))
          exact and_iff_right k.isLt
        rw [named]
      · exact State.endClasses_cleared _ s k (.inl (State.mem_clearNamed.2 ⟨k.isLt, named⟩))
  case mode =>
    intro s m begins quiet alive
    rw [exec_fltCfg begins]
    refine ⟨fun refused => ?_, fun q1 q2 a1 a2 => ?_⟩
    · rw [State.fltCfg, if_pos refused]
      rfl
    · rw [State.fltCfg, if_neg (by omega)]
      rfl
  case counter =>
    intro s m begins w good
    rw [exec_cntCfg begins]
    refine ⟨fun refused => ?_, fun fits => ?_⟩
    · rw [State.cntCfg_refused refused]
      rfl
    · rw [State.cntCfg_set fits]
      rfl
  case user =>
    intro s m begins
    exact amiom_of_begins (fun s => (s.defer (.cntUser (BitVec.ofNat 8 (fld ((s.box m).word 2) 7 0)))).finishS m .ok) begins (by decide)
      (by decide)
  case record =>
    intro s m k begins taken type place
    rw [exec_rsRead begins]
    refine ⟨fun own kind => ?_, fun may => ⟨fun missing => ?_, fun r found => ?_⟩⟩
    · rw [State.rsRead_denied own kind]
      rfl
    · rw [State.rsRead_allowed taken may, missing]
      rfl
    · rw [State.rsRead_allowed taken may, found]
      rfl
  case commit =>
    intro s m begins
    exact amiom_of_begins (fun s => s.goesOn m) begins (by decide) (by decide)
  case drop =>
    intro s m begins type
    rw [exec_rsDrop begins]
    refine ⟨fun listed => ?_, fun one two => ?_⟩
    · rw [State.rsDrop, if_pos listed]
      rfl
    · rw [State.rsDrop, if_neg (by omega)]
      rfl

end

/-! SUPPORT. The Lobby over CFG: doorbells, acknowledgements, pops, the end of a stall, and the Arcade's commands (R439, R443, R445, R452). -/

namespace Sys2Proof.Machine

open Sys2Proof.Slice (CfgFree CfgOpen cfgOk)

/-! ## Mailboxes -/

section
variable {s : State} {m : MailboxId}

theorem exec_ring (h : CfgOpen s (boxBase m + 0x200)) : exec (.lbyDbRing m 0xF) s = .next ((s.ring m).cfgReply 0 false) :=
  congrArg Host.Outcome.next (cfgWrite_of_open h 1 fun s => s.ring m)

theorem exec_ack (h : CfgOpen s (boxBase m + 0x204)) : exec (.lbyStsAck m 0xF) s = .next ((s.ackBox m).cfgReply 0 false) :=
  congrArg Host.Outcome.next (cfgWrite_of_open h 8 fun s => s.ackBox m)

/-- A doorbell at a mailbox at rest that is heard rings it. -/
theorem State.ring_rests (rests : (s.box m).state = .idle ∨ (s.box m).state = .done)
    (heard : m.val = 8 ∨ s.chip.fwReady = true ∨ s.chip.bootsel = false) :
    s.ring m = s.modBox m fun b => { b with state := .pending, started := false } := by
  have hears : (s.chip.bootsel && !s.chip.fwReady && decide (m.val < 8)) = false := by
    rcases heard with lba | ready | low
    · simp [lba]
    · simp [ready]
    · simp [low]
  unfold State.ring State.modBox
  dsimp only
  rw [hears]
  rcases rests with idle | done
  · simp [idle]
  · simp [done]

/-- A doorbell at a mailbox at work only sets `OVERRUN`. -/
theorem State.ring_works (works : (s.box m).state = .pending ∨ (s.box m).state = .busy) :
    s.ring m = s.modBox m fun b => { b with overrun := true } := by
  unfold State.ring State.modBox
  rcases works with pending | busy
  · simp [pending]
  · simp [busy]

end

/-! ## Pops -/

section
variable {s : State} {strb : BitVec 4}

theorem exec_eqPop (free : CfgFree s) (up : s.domainDown 0xC000 = false) :
    exec (.lbyEqPop strb) s = .next (s.stallOr false s.eq.urgent.isNone s.popEvent strb) := by
  obtain ⟨alive, idle⟩ := free
  change Host.Outcome.next (s.cfgRead _ _ _) = _
  rw [cfgRead_free _ _ _ alive idle, State.pop, addrEqPop, up]
  rfl

theorem exec_arPop (free : CfgFree s) (up : s.domainDown 0xC100 = false) :
    exec (.lbyArPop strb) s = .next (s.stallOr true s.arcade.next.isNone s.popWide strb) := by
  obtain ⟨alive, idle⟩ := free
  change Host.Outcome.next (s.cfgRead _ _ _) = _
  rw [cfgRead_free _ _ _ alive idle, State.pop, addrArPop, up]
  rfl

/-- A read that CFG takes behind others waits. -/
theorem cfgRead_waits (a : Nat) (f : State → State) (alive : s.cfgAlive = true) (waits : s.cfgWaits = true) :
    s.cfgRead a strb f = { s with cfg := { s.cfg with
      queue := s.cfg.queue ++ [{ write := false, addr := a, strb := strb, data := 0, counts := [] }] } } := by
  simp [State.cfgRead, State.cfgRequest, alive, waits]

theorem State.stallOr_stalls (arcade : Bool) (r : W32 × State) (limit : s.eq.stall ≠ 0) : s.stallOr arcade true r strb =
    { s with cfg := { s.cfg with stalled := some { arcade := arcade, began := s.chip.cycle, partialStrb := decide (strb ≠ 0xF) } } } :=
  if_pos (by simpa using limit)

theorem State.stallOr_answers (arcade : Bool) (r : W32 × State) : s.stallOr arcade false r strb = r.2.cfgReply r.1 (decide (strb ≠ 0xF)) := rfl

theorem State.popEvent_some {p : Nat} {e : EqItem} (h : s.eq.urgent = some (p, e)) : s.popEvent = (e.words.getD 0 0, { s with
    eq := { s.eq with items := s.eq.items.setIfInBounds p (((s.eq.items[p]?).getD []).drop 1), latch := e.words.drop 1 } }) := by
  unfold State.popEvent
  rw [h]

theorem State.popEvent_none (h : s.eq.urgent = none) : s.popEvent = (0, { s with eq := { s.eq with latch := [] } }) := by
  unfold State.popEvent
  rw [h]

theorem State.popWide_some {valid : Nat} {ws : List W32} (h : s.arcade.next = some (valid, ws)) : s.popWide = (at_ 0 valid, { s with
    arcade := { s.arcade with rptr := (s.arcade.rptr / 8 + 1) * 8, latch := ws } }) := by
  have tag : arTag valid false = at_ 0 valid := BitVec.or_zero
  unfold State.popWide
  rw [h, ← tag]
  rfl

theorem State.popWide_none (h : s.arcade.next = none) : s.popWide = (at_ 6 1, { s with arcade := { s.arcade with latch := [] } }) := by
  unfold State.popWide
  rw [h]
  rfl

end

/-! ## The end of a stall -/

section
variable {s : State} {k : Stall}

theorem execPopStallTimeout_early (stalled : s.cfg.stalled = some k) (early : s.chip.cycle < k.began + 2 * s.eq.stall.toNat) :
    exec .popStallTimeout s = .next s := by
  change execPopStallTimeout s = _
  unfold execPopStallTimeout
  rw [stalled]
  exact if_pos early

theorem execPopStallTimeout_due (stalled : s.cfg.stalled = some k) (due : k.began + 2 * s.eq.stall.toNat ≤ s.chip.cycle) :
    exec .popStallTimeout s =
      .next ((if k.arcade then s.popWide else s.popEvent).2.endStall (if k.arcade then s.popWide else s.popEvent).1 k).cfgDrain := by
  change execPopStallTimeout s = _
  unfold execPopStallTimeout
  rw [stalled]
  exact if_neg (by omega)

end

/-! ## The Arcade -/

/-- With no pop stalled, only the Arcade changes. -/
theorem State.modArcade_of_free {s : State} (f : Arcade → Arcade) (h : s.cfg.stalled = none) : s.modArcade f = { s with arcade := f s.arcade } := by
  unfold State.modArcade State.serveWide
  rw [h]

section
variable {s : State}

theorem exec_flush (h : CfgOpen s 0xC144) : exec (.flush 0xF) s = .next ((s.modArcade Arcade.flush).cfgReply 0 false) :=
  congrArg Host.Outcome.next (cfgWrite_of_open h 1 fun s => s.arCommand 1)

theorem exec_mark (h : CfgOpen s 0xC144) : exec (.mark 0xF) s = .next ((s.modArcade Arcade.setMark).cfgReply 0 false) :=
  congrArg Host.Outcome.next (cfgWrite_of_open h 2 fun s => s.arCommand 2)

theorem exec_rewind (h : CfgOpen s 0xC144) : exec (.rewind 0xF) s = .next ((s.modArcade Arcade.rewind).cfgReply 0 false) :=
  congrArg Host.Outcome.next (cfgWrite_of_open h 4 fun s => s.arCommand 4)

theorem exec_clear (h : CfgOpen s 0xC144) : exec (.clear 0xF) s = .next ((s.modArcade Arcade.clear).cfgReply 0 false) :=
  congrArg Host.Outcome.next (cfgWrite_of_open h 8 fun s => s.arCommand 8)

end

end Sys2Proof.Machine

section
open Sys2Proof Sys2Proof.Machine Sys2Proof.Slice

/-- Settles O40: each access passes the gate (`cfgWrite_of_open`, `cfgRead_free`), and then acts as its register does. -/
theorem lobbyAnswersItsRegisters : Obligations.LobbyAnswersItsRegisters := by
  unfold Obligations.LobbyAnswersItsRegisters
  refine ⟨?ring, ?overrun, ?ack, ?eqStall, ?eqItem, ?arStall, ?arWord, ?waits, ?timeout, ?commands, ?trace, ?unclaimed⟩
  case ring =>
    intro s m h rests heard
    rw [exec_ring h, State.ring_rests rests heard]
    rfl
  case overrun =>
    intro s m h works
    rw [exec_ring h, State.ring_works works]
    rfl
  case ack =>
    intro s m h
    rw [exec_ack h]
    rfl
  case eqStall =>
    intro s strb free up empty limit
    rw [exec_eqPop free up, empty]
    exact congrArg Host.Outcome.next (State.stallOr_stalls false s.popEvent limit)
  case eqItem =>
    intro s strb p e free up found
    rw [exec_eqPop free up, State.popEvent_some found, found]
    rfl
  case arStall =>
    intro s strb free up empty limit
    rw [exec_arPop free up, empty]
    exact congrArg Host.Outcome.next (State.stallOr_stalls true s.popWide limit)
  case arWord =>
    intro s strb valid ws free up found
    rw [exec_arPop free up, State.popWide_some found, found]
    rfl
  case waits =>
    intro s strb alive waits
    exact ⟨congrArg Host.Outcome.next (cfgRead_waits 0xC000 _ alive waits), congrArg Host.Outcome.next (cfgRead_waits 0xC100 _ alive waits)⟩
  case timeout =>
    intro s k stalled
    refine ⟨execPopStallTimeout_early stalled, fun due event empty => ?_, fun due wide empty => ?_⟩
    · rw [execPopStallTimeout_due stalled due, event, State.popEvent_none empty]
      rfl
    · rw [execPopStallTimeout_due stalled due, wide, State.popWide_none empty]
      rfl
  case commands =>
    intro s h
    have idle : s.cfg.stalled = none := stalled_of_free h.1
    refine ⟨?_, ?_, ?_, ?_⟩
    · rw [exec_flush h, State.modArcade_of_free _ idle]
      rfl
    · rw [exec_mark h, State.modArcade_of_free _ idle]
      rfl
    · rw [exec_rewind h, State.modArcade_of_free _ idle]
      rfl
    · rw [exec_clear h, State.modArcade_of_free _ idle]
      rfl
  case trace =>
    intro s src body claim claimed core out idle
    change execArcadePacketClose src body s = _
    unfold execArcadePacketClose
    rw [claimed]
    simp [core, out, State.modArcade_of_free _ idle]
  case unclaimed =>
    intro s src body unclaimed
    change execArcadePacketClose src body s = _
    unfold execArcadePacketClose
    rw [unclaimed]

end

/-! SUPPORT. The DMA channel's commands: the doorbell, STOP, RESET and `HEAD`, by the channel's state (R424 to R430). -/

namespace Sys2Proof.Machine

open Sys2Proof.Slice (CfgOpen cfgOk)

/-! ## One channel -/

/-- What a change of a channel leaves alone, it leaves alone in every channel. -/
theorem State.modCh_ch_proj {α : Type} (g : Dma → α) {f : Dma → Dma} (h : ∀ x, g (f x) = g x) (s : State) (i k : Nat) :
    g ((s.modCh i f).ch k) = g (s.ch k) := by
  by_cases hik : i = k
  · subst hik
    by_cases hi : i < 8
    · exact (congrArg g (State.modCh_ch_self s ⟨i, hi⟩ f)).trans (h _)
    · simp [State.modCh, State.setCh, State.ch, hi]
  · rw [State.modCh_ch_ne s i k f hik]

/-- A channel put back as it stands. -/
theorem State.setCh_ch (s : State) (n : ChannelId) : s.setCh n (s.ch n) = s := by
  have same : s.dma.setIfInBounds n (s.ch n) = s.dma := by
    ext i hi
    by_cases here : n.val = i
    · subst here
      simp [State.ch]
    · simp [here]
  unfold State.setCh
  rw [same]

/-- A response moves a channel's run, not its state. -/
theorem State.dmaArrive_control (s : State) (ch : Nat) (wr : Bool) (i : Nat) (a : Arrival) (k : Nat) :
    (((s.dmaArrive ch wr i a).ch k).state, ((s.dmaArrive ch wr i a).ch k).toStart) = ((s.ch k).state, (s.ch k).toStart) := by
  refine State.modCh_ch_proj (fun x => (x.state, x.toStart)) (fun x => ?_) s ch k
  dsimp only
  split <;> rfl

/-- Partial writes that lose their locks leave every channel in its state. -/
theorem State.breakDma_control (s : State) (n k : Nat) :
    (((s.breakDma n).ch k).state, ((s.breakDma n).ch k).toStart) = ((s.ch k).state, (s.ch k).toStart) := by
  refine eachBelow_proj (fun s => ((s.ch k).state, (s.ch k).toStart)) (fun l s => ?_) 12 s
  refine foldl_keeps (R := fun t : State => ((t.ch k).state, (t.ch k).toStart) = ((s.ch k).state, (s.ch k).toStart)) (fun t a ha before => ?_) rfl
  have mine := (List.mem_filter.1 ha).2
  cases client : a.client with
  | dma c i =>
    refine Eq.trans ?_ before
    rw [State.refuseOne, State.deliver, client]
    exact State.dmaArrive_control _ c _ i _ k
  | _ => simp [client] at mine

/-! ## The commands -/

section
variable {s : State} {n : ChannelId}

theorem exec_dmaRing (h : CfgOpen s (0x1000C + 0x1000 * n)) : exec (.dmaRing n 0xF) s = .next ((s.dmaRing n).pump.cfgReply 0 false) :=
  congrArg Host.Outcome.next (cfgWrite_of_open (chBase_add_cmd n ▸ h) 1 fun s => (s.dmaCmd n 1).pump)

theorem exec_dmaStop (h : CfgOpen s (0x1000C + 0x1000 * n)) : exec (.dmaStop n 0xF) s = .next ((s.dmaStop n).pump.cfgReply 0 false) :=
  congrArg Host.Outcome.next (cfgWrite_of_open (chBase_add_cmd n ▸ h) 2 fun s => (s.dmaCmd n 2).pump)

theorem exec_dmaReset (h : CfgOpen s (0x1000C + 0x1000 * n)) : exec (.dmaReset n 0xF) s = .next ((s.dmaReset n).pump.cfgReply 0 false) :=
  congrArg Host.Outcome.next (cfgWrite_of_open (chBase_add_cmd n ▸ h) 4 fun s => (s.dmaCmd n 4).pump)

theorem exec_dmaHead (d : W32) (h : CfgOpen s (0x10008 + 0x1000 * n)) :
    exec (.dmaChHeadWrite n ⟨0xF, d⟩) s = .next ((s.dmaHead n d).cfgReply 0 false) :=
  congrArg Host.Outcome.next (cfgWrite_of_open (chBase_add_head n ▸ h) d fun s => s.dmaHead n d)

/-- RESET of a channel at work: its partial writes lose their locks, and it waits for its responses. -/
theorem State.dmaReset_works (works : (s.ch n).state = .running ∨ (s.ch n).state = .stopping) :
    s.dmaReset n = (s.modCh n fun x => { x with state := .resetting, toStart := false }).breakDma n := if_pos works

/-- RESET of a channel at rest: it is idle. -/
theorem State.dmaReset_rests (rests : (s.ch n).state = .parked ∨ (s.ch n).state = .stopped ∨ (s.ch n).state = .error) :
    s.dmaReset n = s.modCh n fun x => { x with state := .idle, tailDone := false } := by
  unfold State.dmaReset
  rcases rests with st | st | st <;> simp [st]

theorem State.dmaHead_rests (d : W32)
    (rests : (s.ch n).state = .idle ∨ (s.ch n).state = .parked ∨ (s.ch n).state = .stopped ∨ (s.ch n).state = .error) :
    s.dmaHead n d = s.modCh n fun x => { x with head := fld d 11 0, state := .idle, errSince := false, tailDone := false } := by
  unfold State.dmaHead State.modCh
  dsimp only
  rw [if_pos rests]

theorem State.dmaHead_works (d : W32)
    (works : (s.ch n).state = .running ∨ (s.ch n).state = .stopping ∨ (s.ch n).state = .halted ∨ (s.ch n).state = .resetting) :
    s.dmaHead n d = s := by
  unfold State.dmaHead State.modCh
  dsimp only
  rw [if_neg]
  · exact s.setCh_ch n
  · rcases works with st | st | st | st <;> simp [st]

end

end Sys2Proof.Machine

section
open Sys2Proof Sys2Proof.Machine Sys2Proof.Slice

/-- Settles O41: a doorbell, STOP or RESET is one change of its channel, chosen by the channel's state. -/
theorem dmaCommandsMoveTheChannel : Obligations.DmaCommandsMoveTheChannel := by
  unfold Obligations.DmaCommandsMoveTheChannel
  refine ⟨fun s n h => ⟨?ring, ?stop, ?reset⟩, ?head, ?resetDone⟩
  case ring =>
    refine ⟨_, exec_dmaRing h, fun k other => State.modCh_ch_ne _ _ _ _ (Fin.val_ne_of_ne other.symm), ?_⟩
    rw [State.dmaRing, State.modCh_ch_self]
    refine ⟨fun idle => ?_, fun stopped fresh => ?_, fun works => ?_, fun deaf => ?_⟩
    · rw [idle]
      exact ⟨rfl, rfl, rfl⟩
    · rw [stopped, fresh]
      exact ⟨rfl, rfl, rfl⟩
    · rcases works with st | st <;> simp [st]
    · rcases deaf with st | st | st <;> simp [st]
  case stop =>
    refine ⟨_, exec_dmaStop h, fun k other => State.modCh_ch_ne _ _ _ _ (Fin.val_ne_of_ne other.symm), ?_⟩
    rw [State.dmaStop, State.modCh_ch_self]
    refine ⟨fun idle => ?_, fun parked => ?_, fun running => ?_, fun deaf => ?_⟩
    · rw [idle]
      exact ⟨rfl, rfl, rfl⟩
    · rw [parked]
      exact ⟨rfl, rfl, rfl⟩
    · simp [running]
    · rcases deaf with st | st | st <;> simp [st]
  case reset =>
    refine ⟨_, exec_dmaReset h, fun rests => ?_, fun works => ?_⟩
    · rw [State.dmaReset_rests rests, State.modCh_ch_self]
    · have control := State.breakDma_control (s.modCh n fun x => { x with state := .resetting, toStart := false }) n n
      rw [State.modCh_ch_self] at control
      rw [State.dmaReset_works works]
      exact Prod.mk.inj control
  case head =>
    intro s n d h
    rw [exec_dmaHead d h]
    refine ⟨fun rests => ?_, fun works => ?_⟩
    · rw [State.dmaHead_rests d rests]
      rfl
    · rw [State.dmaHead_works d works]
      rfl
  case resetDone =>
    intro s n resetting answered
    have quiet : (match (s.ch n).run with
        | some r => r.answered
        | none => true) = true := by
      cases run : (s.ch n).run with
      | none => rfl
      | some r => exact answered r run
    exact if_pos (Bool.and_eq_true_iff.2 ⟨by simp [resetting], quiet⟩)

end

/-! SUPPORT. Descriptors: the checks of a fetched one, and the write-back and what follows at its end (R414, R415, R420, R422). -/

namespace Sys2Proof.Machine

/-! ## The checks of a fetched descriptor -/

section
variable {s : State} {n : ChannelId} {ws : List W32}

/-- A channel without a binding: error 9h, before the descriptor's shape. -/
theorem State.dmaRunOf_unbound (h : (s.ch n).bind = none) : (s.dmaRunOf n ws).err.map (·.1) = some 9 := by
  simp [State.dmaRunOf, h, DmaRun.failCheck, DmaRun.fail]

theorem State.dmaRunOf_malformed (h : (s.ch n).bind ≠ none) (bad : descBad ws = true) : (s.dmaRunOf n ws).err.map (·.1) = some 1 := by
  simp [State.dmaRunOf, h, bad, DmaRun.failCheck, DmaRun.fail]

/-- The run of a descriptor without an error. -/
def State.freshRun (s : State) (n : Nat) (ws : List W32) : DmaRun :=
  { words := ws, due := BitVec.ofNat 12 (fld (s.ch n).ctl 15 4), skip := (s.ch n).ctl.getLsbD 0
    srcs := if descOp ws == 0 then dmaLines (descSrcOff ws) (descLen ws) else [], dsts := dmaLines (descDstOff ws) (descLen ws), err := none }

/-- A fetched descriptor runs, or has an error and no lines. -/
theorem State.dmaRunOf_cases : s.dmaRunOf n ws = s.freshRun n ws ∨
    ∃ e, s.dmaRunOf n ws = { s.freshRun n ws with srcs := [], dsts := [], err := some e } := by
  by_cases unbound : (s.ch n).bind.isNone = true
  · exact .inr ⟨_, if_pos unbound⟩
  · by_cases bad : descBad ws = true
    · exact .inr ⟨_, (if_neg unbound).trans (if_pos bad)⟩
    · by_cases outside : ((descOp ws == 0 && s.rangeBad (s.freshRun n ws).srcHall (descSrcOff ws) (descLen ws)) ||
          s.rangeBad (s.freshRun n ws).dstHall (descDstOff ws) (descLen ws)) = true
      · exact .inr ⟨_, (if_neg unbound).trans ((if_neg bad).trans (if_pos outside))⟩
      · exact .inl ((if_neg unbound).trans ((if_neg bad).trans (if_neg outside)))

/-- A run has its descriptor's words, and has lines only without an error. -/
theorem State.dmaRunOf_lines : (s.dmaRunOf n ws).words = ws ∧
    ((s.dmaRunOf n ws).err ≠ none → (s.dmaRunOf n ws).srcs = [] ∧ (s.dmaRunOf n ws).dsts = []) ∧
    ((s.dmaRunOf n ws).err = none → (s.dmaRunOf n ws).dsts = dmaLines (descDstOff ws) (descLen ws) ∧
      (s.dmaRunOf n ws).srcs = if descOp ws = 0 then dmaLines (descSrcOff ws) (descLen ws) else []) := by
  rcases State.dmaRunOf_cases (s := s) (n := n) (ws := ws) with fine | ⟨e, failed⟩
  · rw [fine]
    exact ⟨rfl, fun failed => absurd rfl failed, fun _ => ⟨rfl, by simp [State.freshRun]⟩⟩
  · rw [failed]
    exact ⟨rfl, fun _ => ⟨rfl, rfl⟩, fun none_ => absurd none_ (Option.some_ne_none e)⟩

theorem execDescriptorStart_fetches (asked : (s.ch n).toStart = true) (running : (s.ch n).state = .running) (may : s.dmaStarts = true)
    (core : s.chip.coreOn = true) (out : s.chip.phase = .out) : exec (.descriptorStart n) s =
      .next ((s.modChip fun c => { c with free := c.free + 1 }).modCh n fun x =>
        { x with run := some (s.dmaRunOf n ((List.range 8).map (s.descWord (s.ch n).cur))), toStart := false, doneBytes := 0,
                 inForce := x.ctl }).pump := by
  change execDescriptorStart n s = _
  simp [execDescriptorStart, asked, running, may, core, out]

theorem execDescriptorStart_stops (asked : (s.ch n).toStart = true) (stopping : (s.ch n).state = .stopping) :
    exec (.descriptorStart n) s = .next (s.modCh n fun x => x.stopAt x.cur false).pump := by
  change execDescriptorStart n s = _
  simp [execDescriptorStart, asked, stopping]

end

/-! ## A word of a descriptor written back -/

theorem State.putDesc_descWord_self {s : State} (wf : s.desc.wf = true) (i k : Nat) (w : W32) : (s.putDesc i k w).descWord i k = w :=
  readWord_writeBytes _ w wf

/-- Word +1Ch of a descriptor leaves its word +00h alone. -/
theorem State.putDesc_descWord_first {s : State} (wf : s.desc.wf = true) (i : Nat) (w : W32) :
    (s.putDesc i 7 w).descWord i 0 = s.descWord i 0 := by
  have byte (b : Nat) (h : b < 32 * i + 4 * 7) : readByte (s.putDesc i 7 w).desc b = readByte s.desc b :=
    readByte_writeBytes_lt b (wordBytes w) _ wf h
  unfold State.descWord readWord
  rw [byte _ (by omega), byte _ (by omega), byte _ (by omega), byte _ (by omega)]

/-! ## What follows a descriptor -/

section
variable {s : State} {n : ChannelId}

theorem State.dmaNext_ch (running : (s.ch n).state = .running) : (s.dmaNext n).ch n =
    if (s.descWord (s.ch n).cur 0).getLsbD 12 then { s.ch n with dbPend := false, run := none, state := .parked, tailDone := true }
    else ({ s.ch n with dbPend := false, run := none } : Dma).begin (fld (s.descWord (s.ch n).cur 0) 11 0) := by
  rw [State.dmaNext, State.modCh_ch_self]
  simp [running]

theorem State.dmaNext_descWord (i k : Nat) : (s.dmaNext n).descWord i k = s.descWord i k := rfl

variable {r : DmaRun}

/-- The channel of a descriptor without an error, before what follows. -/
def Dma.counted (x : Dma) (r : DmaRun) : Dma :=
  { x with descDone := x.descDone + 1, irq := if (r.words.getD 0 0).getLsbD 13 then x.irq ||| 1 else x.irq }

theorem State.dmaComplete_ok (ok : r.err = none) : s.dmaComplete n r =
    (((s.putDesc (s.ch n).cur 7 1).modCh n (·.counted r)).bumpB (0x1001C + 0x1000 * n) 1).dmaNext n := by
  unfold State.dmaComplete
  rw [ok]
  rfl

theorem State.dmaComplete_ok_descWord (ok : r.err = none) (i k : Nat) :
    (s.dmaComplete n r).descWord i k = (s.putDesc (s.ch n).cur 7 1).descWord i k := by
  have desc : (s.dmaComplete n r).desc = (s.putDesc (s.ch n).cur 7 1).desc := by
    rw [State.dmaComplete_ok ok]
    rfl
  unfold State.descWord
  rw [desc]

/-- After a descriptor without an error the channel parks at a tail, and else goes on to the descriptor that word +00h names. -/
theorem State.dmaComplete_ok_ch (wf : s.desc.wf = true) (ok : r.err = none) (running : (s.ch n).state = .running) :
    (s.dmaComplete n r).ch n =
      if (s.descWord (s.ch n).cur 0).getLsbD 12 then
        { (s.ch n).counted r with dbPend := false, run := none, state := .parked, tailDone := true }
      else ({ (s.ch n).counted r with dbPend := false, run := none } : Dma).begin (fld (s.descWord (s.ch n).cur 0) 11 0) := by
  have counts : (((s.putDesc (s.ch n).cur 7 1).modCh n (·.counted r)).bumpB (0x1001C + 0x1000 * n) 1).ch n = (s.ch n).counted r :=
    (State.bumpB_ch _ _ _ _).trans (State.modCh_ch_self (s.putDesc (s.ch n).cur 7 1) n _)
  rw [State.dmaComplete_ok ok, State.dmaNext_ch (by rw [counts]; exact running), counts]
  rw [← State.putDesc_descWord_first wf (s.ch n).cur 1]
  rfl

/-- An error that is not skipped latches, and the channel is in ERROR. -/
theorem State.dmaComplete_error {e : Nat × Bool × Nat × Nat} (failed : r.err = some e) (kept : r.skip = false) : s.dmaComplete n r =
    (s.putDesc (s.ch n).cur 7 (2 ||| at_ 2 e.1)).modCh n fun x =>
      { x.latchErr e with state := .error, irq := x.irq ||| 2, run := none } := by
  have failedWord : at_ 1 1 = 2 := rfl
  rw [← failedWord]
  unfold State.dmaComplete
  rw [failed, kept]
  rfl

theorem execDescriptorComplete_ends (ran : (s.ch n).run = some r) (over_ : r.over_ = true) (running : (s.ch n).state = .running) :
    exec (.descriptorComplete n) s = .next (s.dmaComplete n r).pump := by
  change execDescriptorComplete n s = _
  simp [execDescriptorComplete, ran, over_, running]

end

end Sys2Proof.Machine

section
open Sys2Proof Sys2Proof.Machine Sys2Proof.Slice

/-- Settles O42: the fetch leaves a run with its checks made (`State.dmaRunOf_lines`), the end writes its word back, and what follows reads
word +00h, which the write-back leaves alone. -/
theorem descriptorsAreCheckedAndWrittenBack : Obligations.DescriptorsAreCheckedAndWrittenBack := by
  unfold Obligations.DescriptorsAreCheckedAndWrittenBack
  refine ⟨?fetched, ?stopped, fun s n r ran ended wf running => ⟨fun ok => ?done, fun e failed kept => ?failed⟩⟩
  case fetched =>
    intro s n asked running may core out ws
    obtain ⟨words, failed, fine⟩ := State.dmaRunOf_lines (s := s) (n := n) (ws := ws)
    refine ⟨_, s.dmaRunOf n ws, execDescriptorStart_fetches asked running may core out, ?_⟩
    rw [State.modCh_ch_self]
    exact ⟨rfl, rfl, words, rfl, State.dmaRunOf_unbound, State.dmaRunOf_malformed, failed, fine⟩
  case stopped =>
    intro s n asked stopping
    refine ⟨_, execDescriptorStart_stops asked stopping, ?_⟩
    rw [State.modCh_ch_self]
    exact ⟨rfl, rfl, rfl⟩
  case done =>
    refine ⟨_, execDescriptorComplete_ends ran ended running, ?_⟩
    rw [State.dmaComplete_ok_ch wf ok running]
    refine ⟨?_, ?_, ?_, fun tail => ?_, fun goes => ?_⟩
    · exact (State.dmaComplete_ok_descWord ok _ 7).trans (State.putDesc_descWord_self wf _ 7 1)
    · split <;> rfl
    · split <;> rfl
    · rw [if_pos tail]
      exact ⟨rfl, rfl⟩
    · rw [if_neg (ne_true_of_eq_false goes)]
      exact ⟨rfl, rfl, rfl⟩
  case failed =>
    refine ⟨_, execDescriptorComplete_ends ran ended running, ?_⟩
    rw [State.dmaComplete_error failed kept, State.modCh_ch_self]
    exact ⟨State.putDesc_descWord_self wf (s.ch n).cur 7 (2 ||| at_ 2 e.1), rfl, rfl, rfl, rfl⟩

end

/-! SUPPORT. Power requests: their results, the beginning of a transition, and what `PWR_REQ` does with each (R482 to R484). -/

namespace Sys2Proof.Machine

open Sys2Proof.Slice (CfgFree CfgOpen cfgOk)

/-! ## Results -/

/-- A result is written, and of the rest only its event moves something. -/
theorem State.pwrResult_frame (s : State) (code : Nat) (target : PState) (unit : Nat) : ∃ q c pulse, s.pwrResult code target unit = { s with
    pwr := { s.pwr with resCode := code, resTarget := target.num, resUnit := unit, resSeq := s.pwr.resSeq + 1 }
    eq := q, cfg := c, chip := { s.chip with status1Pulse := pulse } } := by
  unfold State.pwrResult
  dsimp only
  split
  · obtain ⟨q, c, pulse, posted⟩ := State.post_frame (s.modPwr fun p =>
      { p with resCode := code, resTarget := target.num, resUnit := unit, resSeq := p.resSeq + 1 }) 0x1B 2
      [at_ 0 target.num, at_ 0 code, at_ 0 unit]
    exact ⟨q, c, pulse, posted⟩
  · exact ⟨s.eq, s.cfg, s.chip.status1Pulse, rfl⟩

/-- What a result leaves of the Power Manager. -/
theorem State.pwrResult_pwr (s : State) (code : Nat) (target : PState) (unit : Nat) : (s.pwrResult code target unit).pwr =
    { s.pwr with resCode := code, resTarget := target.num, resUnit := unit, resSeq := s.pwr.resSeq + 1 } := by
  obtain ⟨q, c, pulse, written⟩ := s.pwrResult_frame code target unit
  rw [written]

theorem State.pwrResult_cfg {s : State} (idle : s.cfg.stalled = none) (code : Nat) (target : PState) (unit : Nat) :
    (s.pwrResult code target unit).cfg = s.cfg := by
  unfold State.pwrResult
  dsimp only
  split
  · exact (State.post_aside _ _ _ _).cfg idle
  · rfl

/-! ## The beginning of a transition -/

/-- A transition under way: the request it serves stands, and neither the state nor the count of results has moved. -/
structure UnderWay (p : Pwr) (t : Transition) (q : Pwr) : Prop where
  begun : ∃ tr, q.trans = some tr ∧ tr.target = t.target ∧ tr.from_ = t.from_ ∧ tr.began = t.began ∧ tr.src = t.src
  state : q.state = p.state
  resSeq : q.resSeq = p.resSeq

theorem UnderWay.of_trans {p q : Pwr} {t : Transition} (begun : q.trans = some t) (state : q.state = p.state) (resSeq : q.resSeq = p.resSeq) :
    UnderWay p t q := ⟨⟨t, begun, rfl, rfl, rfl, rfl⟩, state, resSeq⟩

/-- The channels that run. -/
def State.runningChs (s : State) : List Nat := (List.range 8).filter fun n => (s.ch n).state == .running

/-- The running channels, asked to stop, are kept for a rollback. -/
theorem State.stopDma_pwr (s : State) : s.stopDma.pwr = { s.pwr with
    trans := s.pwr.trans.map fun t => { t with stoppedDma := t.stoppedDma ++ s.runningChs } } := by
  have stops (ns : List Nat) : (ns.foldl (fun s n => s.modCh n fun x => { x with state := .stopping }) s).pwr = s.pwr :=
    foldl_proj State.pwr (by intro s n; rfl) ns s
  exact congrArg (fun p : Pwr => { p with trans := p.trans.map fun t : Transition =>
    { t with stoppedDma := t.stoppedDma ++ s.runningChs } }) (stops _)

/-- An entry that is held goes on or stands. -/
theorem State.pwrAdvance_held {s : State} {t : Transition} (begun : s.pwr.trans = some t) (held : t.stage = .held) :
    UnderWay s.pwr t s.pwrAdvance.pwr := by
  unfold State.pwrAdvance
  rw [begun]
  dsimp only
  split
  · split
    · exact ⟨⟨_, rfl, rfl, rfl, rfl, rfl⟩, rfl, rfl⟩
    · rw [State.stopDma_pwr]
      exact ⟨⟨_, rfl, rfl, rfl, rfl, rfl⟩, rfl, rfl⟩
  · rw [if_neg (by simp [held])]
    exact .of_trans begun rfl rfl

theorem State.wakeDomains_pwr (s : State) : s.wakeDomains.pwr = s.pwr := by
  rw [s.wakeDomains_onlyReported.pwr]
  split <;> rfl

/-- The transition that a request for a state begins. -/
def State.newTransition (s : State) (target : PState) (began src : Nat) : Transition :=
  { target := target, from_ := s.pwr.state, stage := if decide (target.num < s.pwr.state.num) then .wake else .held, began := began
    stoppedDma := [], agreed := [], delays := 0, refuser := 0, src := src }

theorem State.beginTransition_underWay (s : State) (target : PState) (began src : Nat) :
    UnderWay s.pwr (s.newTransition target began src) (s.beginTransition target began src).pwr := by
  unfold State.beginTransition
  extract_lets up tr held begun
  have same : held.pwr = s.pwr := (s.status1Hold_onlyReported 4).pwr
  have pwr : begun.pwr = { s.pwr with trans := some tr, lastWake := if up then src else s.pwr.lastWake } := by
    rw [State.modPwr_pwr, same]
  split
  · rw [State.wakeDomains_pwr, pwr]
    exact .of_trans rfl rfl rfl
  next down =>
    have stage : tr.stage = .held := if_neg down
    obtain ⟨tr', state, resSeq⟩ := State.pwrAdvance_held (t := tr) (by rw [pwr]) stage
    exact ⟨tr', state.trans (by rw [pwr]), resSeq.trans (by rw [pwr])⟩

/-! ## `PWR_REQ` -/

section
variable {s : State} {d : W32}

theorem exec_pwrReq (free : CfgFree s) : exec (.pwrReq ⟨0xF, d⟩) s = .next ((if s.chip.phase ≠ .out ∨ 4 < fld d 2 0 then s else
    s.powerRequest (pstateOf (fld d 2 0)) 6).cfgReply 0 false) :=
  congrArg Host.Outcome.next (cfgWrite_of_open (cfgOpen_always free (.inr (by decide))) d fun s =>
    if s.chip.phase ≠ .out ∨ 4 < fld d 2 0 then s else s.powerRequest (pstateOf (fld d 2 0)) 6)

theorem exec_pwrReq_heard (free : CfgFree s) (out : s.chip.phase = .out) (code : fld d 2 0 ≤ 4) :
    exec (.pwrReq ⟨0xF, d⟩) s = .next ((s.powerRequest (pstateOf (fld d 2 0)) 6).cfgReply 0 false) := by
  rw [exec_pwrReq free, if_neg (by simp [out, code])]

/-- The code of a state is its number. -/
theorem pstateOf_num {n : Nat} (h : n ≤ 4) : (pstateOf n).num = n := by
  match n, h with
  | 0, _ => rfl
  | 1, _ => rfl
  | 2, _ => rfl
  | 3, _ => rfl
  | 4, _ => rfl

theorem pstateOf_shallow {n : Nat} (h : n ≤ 2) : pstateOf n ≠ .p3 ∧ pstateOf n ≠ .p4 := by
  match n, h with
  | 0, _ => exact ⟨nofun, nofun⟩
  | 1, _ => exact ⟨nofun, nofun⟩
  | 2, _ => exact ⟨nofun, nofun⟩

variable {target : PState} {src : Nat}

/-- In Halt every request but that for P4 is refused. -/
theorem State.powerRequest_halted (halted : s.chip.halted = true) (shallow : target ≠ .p4) :
    s.powerRequest target src = s.pwrResult 5 target 0 := if_pos ⟨halted, shallow⟩

/-- P3 is refused with a port that is not closed. -/
theorem State.powerRequest_port (runs : s.chip.halted = false) (p : Fin 8) (opened : (s.port p).state ≠ .closed) :
    s.powerRequest .p3 src = s.pwrResult 6 .p3 0 := by
  unfold State.powerRequest
  rw [if_neg (by simp [runs]), if_pos]
  refine ⟨rfl, List.any_eq_true.2 ⟨p.val, List.mem_range.2 p.isLt, ?_⟩⟩
  simpa using opened

/-- A request that neither Halt, a port nor missing firmware forbids meets the transition under way. -/
theorem State.powerRequest_allowed (runs : s.chip.halted = false) (ports : target = .p3 → ∀ p : Fin 8, (s.port p).state = .closed)
    (firmware : target = .p3 ∨ target = .p4 → s.chip.fwReady = true) : s.powerRequest target src =
      match s.pwr.trans with
      | none => if target = s.pwr.state then s.pwrResult 2 target 0 else s.beginTransition target s.now src
      | some t =>
        let s := match s.pwr.pend with
          | some old => (s.modPwr fun p => { p with pend := none }).pwrResult 3 old 0
          | none => s
        if target = t.target then s.pwrResult 2 target 0 else s.modPwr fun p => { p with pend := some target, pendAt := s.now, pendSrc := src } := by
  have shut : ¬ (target = .p3 ∧ (List.range 8).any (fun p => (s.port p).state != .closed) = true) := by
    rintro ⟨p3, opened⟩
    obtain ⟨p, low, opened⟩ := List.any_eq_true.1 opened
    simpa using (bne_iff_ne.1 opened) (ports p3 ⟨p, List.mem_range.1 low⟩)
  have ready : ¬ ((target = .p3 ∨ target = .p4) ∧ (!s.chip.fwReady) = true) := by
    rintro ⟨deep, cold⟩
    simp [firmware deep] at cold
  exact (if_neg (by simp [runs])).trans ((if_neg shut).trans ((if_neg ready).trans (if_neg (by simp [runs]))))

end

end Sys2Proof.Machine

section
open Sys2Proof Sys2Proof.Machine Sys2Proof.Slice

/-- Settles O48: past the gate a request is refused, answered, begun or kept, and what each leaves of the Power Manager is
`State.pwrResult_pwr` and `State.beginTransition_underWay`. -/
theorem powerRequestsAreTakenOrRefused : Obligations.PowerRequestsAreTakenOrRefused := by
  unfold Obligations.PowerRequestsAreTakenOrRefused
  refine ⟨?unknown, fun s d free out code runs rests => ⟨?same, ?other, ?blocked⟩, ?halted, ?pending⟩
  case unknown =>
    intro s d free code
    rw [exec_pwrReq free, if_pos (.inr code)]
    rfl
  case same =>
    intro here shallow
    have up : pstateOf (fld d 2 0) ≠ .p3 ∧ pstateOf (fld d 2 0) ≠ .p4 := pstateOf_shallow shallow
    refine ⟨_, exec_pwrReq_heard free out code, ?_⟩
    rw [State.powerRequest_allowed runs (fun p3 => absurd p3 up.1) (fun deep => absurd deep (not_or.2 up)), rests]
    dsimp only
    rw [if_pos here]
    exact ⟨State.pwrResult_pwr _ _ _ _, congrArg (·.answer 0 false) (State.pwrResult_cfg (stalled_of_free free) _ _ _)⟩
  case other =>
    intro moves ports firmware
    obtain ⟨⟨tr, begun, target, from_, began, src⟩, state, resSeq⟩ := s.beginTransition_underWay (pstateOf (fld d 2 0)) s.now 6
    refine ⟨_, tr, exec_pwrReq_heard free out code, ?_⟩
    rw [State.powerRequest_allowed runs ports firmware, rests]
    dsimp only
    rw [if_neg moves]
    exact ⟨begun, target, from_, began, src, state, resSeq⟩
  case blocked =>
    rintro p3 ⟨p, opened⟩
    refine ⟨_, exec_pwrReq_heard free out code, ?_⟩
    rw [p3, State.powerRequest_port runs p opened]
    exact State.pwrResult_pwr _ _ _ _
  case halted =>
    intro s d free out code halted
    have level := pstateOf_num (Nat.le_of_lt code)
    have shallow : pstateOf (fld d 2 0) ≠ .p4 := by
      intro p4
      rw [p4] at level
      exact Nat.ne_of_lt code level.symm
    refine ⟨_, exec_pwrReq_heard free out (Nat.le_of_lt code), ?_⟩
    rw [State.powerRequest_halted halted shallow]
    exact (State.pwrResult_pwr _ _ _ _).trans (by rw [level])
  case pending =>
    intro s d tr free out shallow runs begun none_ other
    have up := pstateOf_shallow shallow
    refine ⟨_, exec_pwrReq_heard free out (by omega), ?_⟩
    rw [State.powerRequest_allowed runs (fun p3 => absurd p3 up.1) (fun deep => absurd deep (not_or.2 up)), begun, none_]
    dsimp only
    rw [if_neg (Ne.symm other)]
    rfl

end

/-! SUPPORT. Changes of one Landing, one after another. -/

namespace Sys2Proof.Machine

/-- Nothing moves but the Landing `l`. -/
def OnlyAt (l : Nat) (s t : State) : Prop := ∃ x, t = s.setLand l x

theorem State.setLand_setLand (s : State) (l : Nat) (x y : Landing) : (s.setLand l x).setLand l y = s.setLand l y := by
  simp [State.setLand]

theorem State.setLand_land (s : State) (l : Nat) : s.setLand l (s.land l) = s := by
  have same : s.landings.setIfInBounds l (s.land l) = s.landings := by
    ext i hi
    by_cases here : l = i
    · subst here
      simp [State.land, hi]
    · simp [here]
  unfold State.setLand
  rw [same]

theorem OnlyAt.refl (l : Nat) (s : State) : OnlyAt l s s := ⟨s.land l, (s.setLand_land l).symm⟩

theorem OnlyAt.trans {l : Nat} {s t u : State} : OnlyAt l s t → OnlyAt l t u → OnlyAt l s u := by
  rintro ⟨x, rfl⟩ ⟨y, rfl⟩
  exact ⟨y, s.setLand_setLand l x y⟩

theorem OnlyAt.land_ne {l k : Nat} {s t : State} (h : OnlyAt l s t) (other : l ≠ k) : t.land k = s.land k := by
  obtain ⟨x, rfl⟩ := h
  exact s.modLand_land_ne l k (fun _ => x) other

theorem OnlyAt.onlyLandings {l : Nat} {s t : State} (h : OnlyAt l s t) : OnlyLandings s t := by
  obtain ⟨x, rfl⟩ := h
  exact ⟨_, rfl⟩

theorem State.modLand_onlyAt (s : State) (l : Nat) (f : Landing → Landing) : OnlyAt l s (s.modLand l f) := ⟨_, rfl⟩

theorem foldl_onlyAt {α : Type} {l : Nat} {f : State → α → State} (h : ∀ s x, OnlyAt l s (f s x)) (rest : List α) (s : State) :
    OnlyAt l s (rest.foldl f s) := foldl_related (OnlyAt.refl l) OnlyAt.trans h rest s

/-- What each step of a fold establishes for its own item, and keeps for every other, holds of every item at the end. -/
theorem foldl_each {α : Type} {f : State → α → State} {P : α → State → Prop} {rest : List α}
    (own : ∀ s, ∀ x ∈ rest, P x (f s x)) (keeps : ∀ s, ∀ x ∈ rest, ∀ y, P x s → P x (f s y)) (s : State) :
    ∀ x ∈ rest, P x (rest.foldl f s) := by
  induction rest generalizing s with
  | nil => exact nofun
  | cons y rest ih =>
    intro x hx
    rcases List.mem_cons.1 hx with rfl | later
    · exact foldl_keeps (R := P x) (s := f s x) (fun t z _ => keeps t x hx z) (own s x hx)
    · exact ih (fun t z hz => own t z (List.mem_cons_of_mem y hz)) (fun t z hz => keeps t z (List.mem_cons_of_mem y hz)) _ x later

/-- What a change of each Landing establishes of it, each Landing of a list has at the end. -/
theorem foldl_each_land {P : Landing → Prop} {f : State → Nat → State} {ls : List Nat} (at_ : ∀ s l, OnlyAt l s (f s l))
    (own : ∀ s, ∀ l ∈ ls, P ((f s l).land l)) (s : State) : ∀ l ∈ ls, P ((ls.foldl f s).land l) := by
  refine foldl_each (P := fun l s => P (s.land l)) own (fun s l hl k before => ?_) s
  by_cases here : k = l
  · subst here
    exact own s k hl
  · rw [(at_ s k).land_ne here]
    exact before

/-! ## POWER_DOWN -/

theorem State.issueOwn_onlyAt (s : State) (l : Nat) (w : Want) : OnlyAt l s (s.issueOwn l w) := by
  unfold State.issueOwn
  exact s.modLand_onlyAt l _

/-- A command of its own leaves of a Landing what the plans and the history do not tell. -/
theorem State.issueOwn_land {α : Type} (g : Landing → α)
    (h : ∀ x now next hist, g { x with seq := { x.seq with planNow := now, planNext := next, hist := hist } } = g x)
    (s : State) (l : Nat) (w : Want) (k : Nat) : g ((s.issueOwn l w).land k) = g (s.land k) := by
  unfold State.issueOwn
  exact State.modLand_land_proj g (fun x => h x _ _ _) s l k

theorem State.closeRank_onlyAt (s : State) (l : Nat) (e : Nat × Nat) : OnlyAt l s (s.closeRank l e) := by
  unfold State.closeRank
  split
  · exact (s.issueOwn_onlyAt l _).trans (State.modLand_onlyAt _ l _)
  · exact .refl l s

/-- The ranks of a Landing that are in POWER_DOWN, and the ranks that it has. -/
def Landing.downAndRanks (x : Landing) : List (Nat × Nat) × List (Nat × Nat) := (x.seq.pd, x.rankList)

theorem State.issueOwn_downAndRanks (s : State) (l : Nat) (w : Want) (k : Nat) :
    ((s.issueOwn l w).land k).downAndRanks = (s.land k).downAndRanks :=
  State.issueOwn_land Landing.downAndRanks (by intro x _ _ _; rfl) s l w k

theorem State.closeRank_downAndRanks (s : State) (l : Nat) (e : Nat × Nat) (k : Nat) :
    ((s.closeRank l e).land k).downAndRanks = (s.land k).downAndRanks := by
  unfold State.closeRank
  split
  · exact (State.modLand_land_proj Landing.downAndRanks (by intro x; rfl) _ l k).trans (s.issueOwn_downAndRanks l _ k)
  · rfl

/-- One rank goes into POWER_DOWN, unless it is there. -/
def State.gateRank (l : Nat) (s : State) (e : Nat × Nat) : State :=
  if (s.land l).seq.pd.contains e then s
  else ((s.closeRank l e).issueOwn l (rankWant .pdEnter e)).modSeq l fun q => { q with pd := q.pd ++ [e] }

theorem State.gateLanding_eq (s : State) (l : Nat) :
    s.gateLanding l = ((s.land l).rankList.foldl (State.gateRank l) s).modPhy l fun p => { p with mode := .gated } := rfl

theorem State.gateRank_onlyAt (l : Nat) (s : State) (e : Nat × Nat) : OnlyAt l s (s.gateRank l e) := by
  unfold State.gateRank
  split
  · exact .refl l s
  · exact ((s.closeRank_onlyAt l e).trans (State.issueOwn_onlyAt _ l _)).trans (State.modLand_onlyAt _ l _)

theorem State.gateRank_pd (l : LandingId) (s : State) (e : Nat × Nat) : ((State.gateRank l s e).land l).seq.pd =
    if (s.land l).seq.pd.contains e then (s.land l).seq.pd else (s.land l).seq.pd ++ [e] := by
  unfold State.gateRank
  split
  · rfl
  · have before := (State.issueOwn_downAndRanks (s.closeRank l e) l (rankWant .pdEnter e) l).trans (s.closeRank_downAndRanks l e l)
    rw [State.modSeq_land_self]
    exact congrArg (· ++ [e]) (Prod.mk.inj before).1

theorem State.gateRank_ranks (l : Nat) (s : State) (e : Nat × Nat) (k : Nat) :
    ((State.gateRank l s e).land k).rankList = (s.land k).rankList := by
  unfold State.gateRank
  split
  · rfl
  · have before := (State.issueOwn_downAndRanks (s.closeRank l e) l (rankWant .pdEnter e) k).trans (s.closeRank_downAndRanks l e k)
    exact (State.modLand_land_proj Landing.rankList (by intro x; rfl) _ l k).trans (Prod.mk.inj before).2

theorem State.gateLanding_onlyAt (s : State) (l : Nat) : OnlyAt l s (s.gateLanding l) := by
  rw [State.gateLanding_eq]
  exact (foldl_onlyAt (State.gateRank_onlyAt l) _ s).trans (State.modLand_onlyAt _ l _)

theorem State.gateLanding_ranks (s : State) (l k : Nat) : ((s.gateLanding l).land k).rankList = (s.land k).rankList := by
  rw [State.gateLanding_eq]
  exact (State.modLand_land_proj Landing.rankList (by intro x; rfl) _ l k).trans
    (foldl_proj (fun s => (s.land k).rankList) (fun s e => s.gateRank_ranks l e k) _ s)

/-- A Landing at rest: its PHY gated, every rank in POWER_DOWN. -/
def Landing.gated (x : Landing) : Prop := x.phy.mode = .gated ∧ ∀ e ∈ x.rankList, x.seq.pd.contains e = true

theorem State.gateLanding_gated (s : State) (l : LandingId) : ((s.gateLanding l).land l).gated := by
  have down : ∀ e ∈ (s.land l).rankList, (((s.land l).rankList.foldl (State.gateRank l) s).land l).seq.pd.contains e = true := by
    refine foldl_each (P := fun e s => (s.land l).seq.pd.contains e = true) (fun s e _ => ?_) (fun s e _ k before => ?_) s
    · rw [State.gateRank_pd]
      split
      next there => exact there
      next => simp
    · rw [State.gateRank_pd]
      split
      · exact before
      · simp [List.contains_iff_mem.1 before]
  have ranks := s.gateLanding_ranks l l
  rw [Landing.gated, ranks]
  rw [State.gateLanding_eq, State.modPhy_land_self]
  exact ⟨rfl, down⟩

/-! ## Back to serving -/

theorem State.leaveSr_onlyAt (s : State) (l : Nat) : OnlyAt l s (s.leaveSr l) := by
  have exits (e : List (Nat × Nat)) (c : Cmd) : OnlyAt l s (e.foldl (fun s e => s.issueOwn l (rankWant c e)) s) :=
    foldl_onlyAt (fun s e => s.issueOwn_onlyAt l _) e s
  unfold State.leaveSr
  extract_lets x wasSr exited runs due zeroed fresh restarted asked
  have up : OnlyAt l s runs := (exits _ _).trans (State.modLand_onlyAt _ l _)
  have restart : OnlyAt l s restarted := by
    unfold restarted
    split
    · exact up.trans (State.modLand_onlyAt _ l _)
    · exact up
  exact ((restart.trans (State.modLand_onlyAt _ l _)).trans (State.modLand_onlyAt _ l _)).trans (State.modLand_onlyAt _ l _)

/-- A Landing that serves: its PHY active, no rank in POWER_DOWN. -/
def Landing.serves (x : Landing) : Prop := x.phy.mode = .active ∧ x.seq.pd = []

theorem State.leaveSr_serves (s : State) (l : LandingId) : ((s.leaveSr l).land l).serves := by
  unfold State.leaveSr
  extract_lets x wasSr exited runs due zeroed fresh restarted asked
  have up : (runs.land l).seq.pd = [] := congrArg (fun x => x.seq.pd) (State.modSeq_land_self exited l _)
  have restart : (restarted.land l).seq.pd = [] := by
    unfold restarted
    split
    · rw [State.modMnt_land_self]
      exact up
    · exact up
  rw [State.modPhy_land_self]
  refine ⟨rfl, ?_⟩
  change (State.land asked l).seq.pd = []
  unfold asked
  rw [State.modCal_land_self, State.modLand_land_self]
  exact restart

end Sys2Proof.Machine

/-! SUPPORT. The ends of a transition: the entry into each state, the wake, and the legacy handshake (R485, R489, R493, R494). -/

namespace Sys2Proof.Machine

/-! ## The state is reached -/

/-- What a completed transition leaves of the Power Manager. -/
def Pwr.reached (p : Pwr) (t : Transition) (time : W32) (now : Nat) : Pwr :=
  { p with state := t.target, trans := none, time := time, reachedAt := now, resCode := 1, resTarget := t.target.num, resUnit := 0
           resSeq := p.resSeq + 1 }

theorem State.startPending_none {s : State} (h : s.pwr.pend = none) : s.startPending = s := by
  unfold State.startPending
  rw [h]

/-- The Power Manager in the state that a transition has reached, before the result. -/
def State.atTarget (s : State) (t : Transition) : State :=
  s.modPwr fun p => { p with state := t.target, trans := none, time := s.since t.began, reachedAt := s.now }

/-- With no request pending a transition ends in its state with `DONE`, and nothing else moves but the event. -/
theorem State.reached_frame {s : State} (none_ : s.pwr.pend = none) (t : Transition) : ∃ q c pulse, s.reached t = { s with
    pwr := s.pwr.reached t (s.since t.began) s.now, eq := q, cfg := c, chip := { s.chip with status1Pulse := pulse } } := by
  obtain ⟨q, c, pulse, written⟩ := (s.atTarget t).pwrResult_frame 1 t.target 0
  have rests : ((s.atTarget t).pwrResult 1 t.target 0).pwr.pend = none :=
    (congrArg Pwr.pend (State.pwrResult_pwr (s.atTarget t) 1 t.target 0)).trans none_
  exact ⟨q, c, pulse, (State.startPending_none rests).trans written⟩

/-! ## Entries -/

theorem State.nLand_range (s : State) : 8 ≤ s.nLand ∧ s.nLand ≤ 12 := by
  unfold State.nLand
  cases s.chip.variant <;> decide


section
variable {s : State} {t : Transition}

theorem State.pwrAdvance_stays (begun : s.pwr.trans = some t) (held : t.stage ≠ .held) (quiesce : t.stage ≠ .quiesce) : s.pwrAdvance = s := by
  unfold State.pwrAdvance
  rw [begun]
  simp [held, quiesce]

theorem execPowerTransitionDone_drained (begun : s.pwr.trans = some t) (drained : t.stage = .drain) :
    exec .powerTransitionDone s = .next (s.entryDone t) := by
  change execPowerTransitionDone s = _
  unfold execPowerTransitionDone
  rw [State.pwrAdvance_stays begun (by simp [drained]) (by simp [drained])]
  dsimp only
  rw [begun]
  exact if_pos drained

theorem State.entryDone_waits (waits : s.serves.all (s.entered t.target) = false) : s.entryDone t = s := if_pos (by rw [waits]; rfl)

theorem State.entryDone_goes (entered : s.serves.all (s.entered t.target) = true) : s.entryDone t =
    if t.target = .p1 then ((s.serves.foldl (fun s l => s.gateLanding l) s)).reached t
    else if t.target = .p3 then
      if s.pllsOff.chip.fwReady && (List.range 9).all (fun m => (s.pllsOff.box m).state != .pending && (s.pllsOff.box m).state != .busy) then
        s.pllsOff.enterP3.reached t
      else s.pllsOff
    else if t.target = .p4 then s.pllsOff.enterP4.reached t
    else s.pllsOff.reached t := if_neg (by rw [entered]; exact Bool.false_ne_true)

/-- Gated Landings, one after another: nothing else moves. -/
theorem State.gateLandings_onlyLandings (ls : List Nat) (s : State) : OnlyLandings s (ls.foldl (fun s l => s.gateLanding l) s) :=
  foldl_related OnlyLandings.refl OnlyLandings.trans (fun s l => (s.gateLanding_onlyAt l).onlyLandings) ls s

/-- The PLLs switched off: only the Galleries move. -/
theorem State.pllsOff_frame (s : State) : ∃ galleries, s.pllsOff = { s with galleries := galleries } := by
  refine foldl_related (R := fun s t => ∃ galleries, t = { s with galleries := galleries }) (fun s => ⟨s.galleries, rfl⟩) ?_ ?_ _ s
  · rintro s t u ⟨_, rfl⟩ ⟨galleries, rfl⟩
    exact ⟨galleries, rfl⟩
  · intro s g
    dsimp only
    split
    · exact ⟨_, rfl⟩
    · exact ⟨s.galleries, rfl⟩

/-- In P1 every Landing that takes part is gated. -/
theorem State.entryDone_p1 (entered : s.serves.all (s.entered t.target) = true) (p1 : t.target = .p1) (none_ : s.pwr.pend = none) :
    (s.entryDone t).pwr.state = .p1 ∧ (s.entryDone t).pwr.trans = none ∧ (s.entryDone t).pwr.resCode = 1 ∧
      ∀ l ∈ s.serves, ((s.entryDone t).land l).phy.mode = .gated ∧
        ∀ e ∈ (s.land l).rankList, ((s.entryDone t).land l).seq.pd.contains e = true := by
  have low : ∀ l ∈ s.serves, l < 12 := fun l hl => Nat.lt_of_lt_of_le (List.mem_range.1 (List.mem_of_mem_filter hl)) s.nLand_range.2
  have gated := foldl_each_land (P := Landing.gated) State.gateLanding_onlyAt (fun s l hl => s.gateLanding_gated ⟨l, low l hl⟩) s
  have ranks (l : Nat) := foldl_proj (fun s => (s.land l).rankList) (fun s k => s.gateLanding_ranks k l) s.serves s
  obtain ⟨landings, gates⟩ := State.gateLandings_onlyLandings s.serves s
  obtain ⟨q, c, pulse, reached⟩ := State.reached_frame (s := s.serves.foldl (fun s l => s.gateLanding l) s) (by rw [gates]; exact none_) t
  rw [State.entryDone_goes entered, if_pos p1, reached]
  refine ⟨p1, rfl, rfl, fun l hl => ?_⟩
  obtain ⟨mode, down⟩ := gated l hl
  exact ⟨mode, fun e he => down e (by rw [ranks]; exact he)⟩

theorem State.entryDone_p2 (entered : s.serves.all (s.entered t.target) = true) (p2 : t.target = .p2) (none_ : s.pwr.pend = none) :
    (s.entryDone t).pwr.state = .p2 ∧ (s.entryDone t).pwr.trans = none ∧ (s.entryDone t).pwr.resCode = 1 := by
  obtain ⟨galleries, off⟩ := s.pllsOff_frame
  obtain ⟨q, c, pulse, reached⟩ := State.reached_frame (s := s.pllsOff) (by rw [off]; exact none_) t
  rw [State.entryDone_goes entered, if_neg (by simp [p2]), if_neg (by simp [p2]), if_neg (by simp [p2]), reached]
  exact ⟨p2, rfl, rfl⟩

/-- In P3 the image is written and CORE is off; the halls stand, and no port is open. -/
theorem State.enterP3_image (s : State) : s.enterP3.pwr.image = true ∧ s.enterP3.chip.coreOn = false ∧ s.enterP3.pwr.galWas = s.chip.galOn ∧
    s.enterP3.pwr.phyWas = s.chip.phyOn ∧ s.enterP3.halls = s.halls ∧ s.enterP3.pwr.pend = s.pwr.pend ∧
    ∀ p : PortId, (s.enterP3.port p).state = .closed := by
  obtain ⟨c, dropped, -⟩ := s.dropStall_stalled
  unfold State.enterP3
  rw [dropped]
  refine ⟨rfl, rfl, rfl, rfl, rfl, rfl, fun p => ?_⟩
  simp [State.port, State.modChip, State.modPwr, Port.reset]

theorem State.entryDone_p3 (entered : s.serves.all (s.entered t.target) = true) (p3 : t.target = .p3) (none_ : s.pwr.pend = none)
    (firmware : s.chip.fwReady = true) (rests : ∀ m : MailboxId, (s.box m).state = .idle ∨ (s.box m).state = .done) :
    (s.entryDone t).pwr.state = .p3 ∧ (s.entryDone t).pwr.image = true ∧ (s.entryDone t).chip.coreOn = false ∧
      (s.entryDone t).pwr.galWas = s.chip.galOn ∧ (s.entryDone t).pwr.phyWas = s.chip.phyOn ∧ (s.entryDone t).halls = s.halls ∧
      ∀ p : PortId, ((s.entryDone t).port p).state = .closed := by
  obtain ⟨galleries, off⟩ := s.pllsOff_frame
  have quiet : (s.pllsOff.chip.fwReady &&
      (List.range 9).all fun m => (s.pllsOff.box m).state != .pending && (s.pllsOff.box m).state != .busy) = true := by
    rw [off]
    refine Bool.and_eq_true_iff.2 ⟨firmware, List.all_eq_true.2 fun m hm => ?_⟩
    change ((s.box m).state != .pending && (s.box m).state != .busy) = true
    rcases rests ⟨m, List.mem_range.1 hm⟩ with idle | done
    · rw [idle]
      rfl
    · rw [done]
      rfl
  obtain ⟨image, core, gal, phy, halls, pend, ports⟩ := s.pllsOff.enterP3_image
  obtain ⟨q, c, pulse, reached⟩ := State.reached_frame (s := s.pllsOff.enterP3) (by rw [pend, off]; exact none_) t
  rw [State.entryDone_goes entered, if_neg (by simp [p3]), if_pos p3, if_pos quiet, reached]
  have chip : s.pllsOff.chip = s.chip := by rw [off]
  have same : s.pllsOff.halls = s.halls := by rw [off]
  exact ⟨p3, image, core, gal.trans (congrArg Chip.galOn chip), phy.trans (congrArg Chip.phyOn chip), halls.trans same, ports⟩

theorem State.enterP4_frame (s : State) : ∃ store ports c, s.enterP4 = { s with
    store := store, ports := ports, cfg := c
    chip := { s.chip with coreOn := false, cpOn := false, pwrEn := false, drstN := Vector.replicate 12 false
                          galOn := Vector.replicate 3 false, phyOn := Vector.replicate 12 false, alive := false } } := by
  unfold State.enterP4
  dsimp only
  split
  · exact ⟨_, _, _, rfl⟩
  · exact ⟨_, _, _, rfl⟩

theorem State.entryDone_p4 (entered : s.serves.all (s.entered t.target) = true) (p4 : t.target = .p4) (none_ : s.pwr.pend = none) :
    (s.entryDone t).pwr.state = .p4 ∧ (s.entryDone t).chip.coreOn = false ∧ (s.entryDone t).chip.cpOn = false ∧
      (s.entryDone t).chip.pwrEn = false ∧ (s.entryDone t).chip.drstN = Vector.replicate 12 false := by
  obtain ⟨galleries, off⟩ := s.pllsOff_frame
  obtain ⟨store, ports, c, enters⟩ := s.pllsOff.enterP4_frame
  obtain ⟨q, c, pulse, reached⟩ := State.reached_frame (s := s.pllsOff.enterP4) (by rw [enters, off]; exact none_) t
  rw [State.entryDone_goes entered, if_neg (by simp [p4]), if_neg (by simp [p4]), if_pos p4, reached, enters]
  exact ⟨p4, rfl, rfl, rfl, rfl⟩

/-! ## The wake -/

theorem execWakeComplete_waits (begun : s.pwr.trans = some t) (waits : s.serves.all (s.mayServe t.from_) = false) :
    exec .wakeComplete s = .next s := by
  change execWakeComplete s = _
  unfold execWakeComplete
  rw [begun]
  exact if_pos (.inr (by rw [waits]; rfl))

/-- From P1 no calibration comes first. -/
theorem execWakeComplete_p1 (begun : s.pwr.trans = some t) (wake : t.stage = .wake) (ready : s.serves.all (s.mayServe t.from_) = true)
    (p1 : t.from_ = .p1) : exec .wakeComplete s = .next (s.awakeAgain t) := by
  change execWakeComplete s = _
  unfold execWakeComplete
  rw [begun]
  refine (if_neg (by simp only [wake, ready]; simp)).trans ?_
  rw [if_pos p1]
  rfl

/-- The Landings serve, and the image is used up. -/
def State.servesAgain (s : State) : State := (s.serves.foldl (fun s l => s.leaveSr l) s).modPwr fun p => { p with image := false }

theorem State.awakeAgain_p1 (p1 : t.from_ = .p1) (p0 : t.target = .p0) : s.awakeAgain t = (s.servesAgain.reached t).pump := by
  have up : ¬ t.from_ = .p3 := by
    rw [p1]
    nofun
  unfold State.awakeAgain
  dsimp only
  rw [if_pos p0, if_neg up]
  rfl

theorem State.servesAgain_reached (p0 : t.target = .p0) (none_ : s.pwr.pend = none) :
    (s.servesAgain.reached t).pwr.state = .p0 ∧ (s.servesAgain.reached t).pwr.trans = none ∧ (s.servesAgain.reached t).pwr.resCode = 1 ∧
      (s.servesAgain.reached t).pwr.image = false ∧ ∀ l ∈ s.serves, ((s.servesAgain.reached t).land l).serves := by
  have low : ∀ l ∈ s.serves, l < 12 := fun l hl => Nat.lt_of_lt_of_le (List.mem_range.1 (List.mem_of_mem_filter hl)) s.nLand_range.2
  have served := foldl_each_land (P := Landing.serves) State.leaveSr_onlyAt (fun s l hl => s.leaveSr_serves ⟨l, low l hl⟩) s
  obtain ⟨landings, serves⟩ := foldl_related OnlyLandings.refl OnlyLandings.trans (fun s l => (s.leaveSr_onlyAt l).onlyLandings) s.serves s
  have rests : s.servesAgain.pwr.pend = none := by
    unfold State.servesAgain
    rw [serves]
    exact none_
  obtain ⟨q, c, pulse, reached⟩ := State.reached_frame rests t
  rw [reached]
  exact ⟨p0, rfl, rfl, rfl, served⟩

/-! ## The legacy handshake -/

theorem execLegacyAsk_asks {u : Nat} (begun : s.pwr.trans = some t) (stage : t.stage = .ask u) : exec .legacyAsk s = .next (s.askUnit t u) := by
  change execLegacyAsk s = _
  unfold execLegacyAsk
  rw [State.pwrAdvance_stays begun (by simp [stage]) (by simp [stage])]
  dsimp only
  rw [begun]
  dsimp only
  rw [stage]

/-- The Module Sideband agrees at rest, and asks for a delay while it works. -/
theorem State.askUnit_sideband (begun : s.pwr.trans = some t) : s.askUnit t 3 =
    if s.misc.sbdBusy.isEmpty then s.setTrans { t with stage := .ask 4, agreed := t.agreed ++ [3], delays := 0 }
    else if fld s.pwr.leg 15 0 < t.delays + 1 then s.setTrans { t with stage := .rollback, refuser := 3 }
    else s.setTrans { t with delays := t.delays + 1 } := by
  have more : ¬ s.lastUnit ≤ 3 := by
    have present := s.nLand_range.1
    unfold State.lastUnit
    omega
  have asked : s.askStop t.target 3 = s := rfl
  have refused : s.refuseUnit t 3 = s.setTrans { t with stage := .rollback, refuser := 3 } := rfl
  unfold State.askUnit
  rw [asked]
  dsimp only
  rw [begun, Option.getD_some]
  cases rests : s.misc.sbdBusy.isEmpty
  · have delays : s.answer t.target 3 = .delay := by simp [State.answer, rests]
    rw [delays, ← refused]
    rfl
  · have agrees : s.answer t.target 3 = .agree := by simp [State.answer, rests]
    rw [agrees]
    exact if_neg more

theorem execLegacyRollbackRestart_restarts {u : Nat} (begun : s.pwr.trans = some t) (stage : t.stage = .rollback)
    (last : t.agreed.getLast? = some u) : exec .legacyRollbackRestart s = .next (s.restartUnit t u) := by
  change execLegacyRollbackRestart s = _
  unfold execLegacyRollbackRestart
  rw [begun]
  simp [stage, last]

theorem execLegacyRollbackRestart_ends (begun : s.pwr.trans = some t) (stage : t.stage = .rollback) (done : t.agreed = []) :
    exec .legacyRollbackRestart s =
      .next (((s.modPwr fun p => { p with trans := none }).pwrResult 4 t.target t.refuser).startPending.pump) := by
  change execLegacyRollbackRestart s = _
  unfold execLegacyRollbackRestart
  rw [begun]
  simp [stage, done]

end

end Sys2Proof.Machine

section
open Sys2Proof Sys2Proof.Machine Sys2Proof.Slice

/-- Settles O49: an entry by its target, the wake by what each Landing does (`foldl_each_land`), the handshake by what a unit answers. -/
theorem transitionsEndInTheirState : Obligations.TransitionsEndInTheirState := by
  unfold Obligations.TransitionsEndInTheirState
  refine ⟨fun s tr begun drained none_ => ?entry, fun s tr begun wake => ?wake, fun s tr begun => ?legacy⟩
  case entry =>
    have done := execPowerTransitionDone_drained begun drained
    refine ⟨fun waits => done.trans (congrArg Host.Outcome.next (State.entryDone_waits waits)), fun entered => ⟨_, done, ?_, ?_, ?_, ?_⟩⟩
    · exact fun p1 => State.entryDone_p1 entered p1 none_
    · exact fun p2 => State.entryDone_p2 entered p2 none_
    · exact fun p3 firmware rests => State.entryDone_p3 entered p3 none_ firmware rests
    · exact fun p4 => State.entryDone_p4 entered p4 none_
  case wake =>
    refine ⟨execWakeComplete_waits begun, fun ready p1 p0 none_ => ⟨s.servesAgain.reached tr, ?_, State.servesAgain_reached p0 none_⟩⟩
    rw [execWakeComplete_p1 begun wake ready p1, State.awakeAgain_p1 p1 p0]
  case legacy =>
    refine ⟨fun asks rests => ?_, fun asks works more => ?_, fun asks works spent => ?_, fun stage agreed => ?_, fun stage agreed none_ => ?_⟩
    · rw [execLegacyAsk_asks begun asks, State.askUnit_sideband begun, rests]
      rfl
    · rw [execLegacyAsk_asks begun asks, State.askUnit_sideband begun, if_neg (by simpa using works), if_neg (by omega)]
      rfl
    · rw [execLegacyAsk_asks begun asks, State.askUnit_sideband begun, if_neg (by simpa using works), if_pos spent]
      rfl
    · rw [execLegacyRollbackRestart_restarts (u := 3) begun stage (by rw [agreed]; rfl)]
      simp [State.restartUnit, State.setTrans, State.modPwr, agreed]
    · have refused := State.pwrResult_pwr (s.modPwr fun p => { p with trans := none }) 4 tr.target tr.refuser
      refine ⟨_, execLegacyRollbackRestart_ends begun stage agreed, ?_⟩
      rw [State.startPending_none ((congrArg Pwr.pend refused).trans none_), refused]
      rfl

end

/-! SUPPORT. The way into self-refresh, and the end of a drain (R190, R214, R276, R368). -/

namespace Sys2Proof.Machine

/-! ## Only the Landing moves -/

theorem ite_onlyAt {l : Nat} {s t u : State} {c : Prop} [Decidable c] (ht : OnlyAt l s t) (hu : OnlyAt l s u) :
    OnlyAt l s (if c then t else u) := by
  split
  · exact ht
  · exact hu

theorem State.enterSr_onlyAt (s : State) (l : Nat) (e : Nat × Nat) : OnlyAt l s (s.enterSr l e) := by
  unfold State.enterSr
  split
  next cmds d _ =>
    extract_lets ideal f late dec awake refreshed counted delayed
    have awoken : OnlyAt l s awake := ite_onlyAt (s.issueOwn_onlyAt l _) (.refl l s)
    have refreshes : OnlyAt l awake refreshed :=
      (awake.closeRank_onlyAt l e).trans
        (foldl_onlyAt (fun s w => (s.issueOwn_onlyAt l w).trans (State.modLand_onlyAt _ l _)) _ _)
    have counts : OnlyAt l refreshed counted := ite_onlyAt (.refl l _) (State.modLand_onlyAt _ l _)
    have delays : OnlyAt l counted delayed := ite_onlyAt (.refl l _) (State.modLand_onlyAt _ l _)
    exact (((awoken.trans refreshes).trans counts).trans delays).trans (State.issueOwn_onlyAt _ l _)

/-! ## Into self-refresh -/

/-- Where a drained Landing rests. -/
def State.restState (s : State) (l : Nat) : LState := if s.chip.halted then .halt else if s.landFenced l then .fenced else .sr

/-- A Landing in self-refresh: its banks closed, its PHY in DEEP without tables, no drain under way, and no refresh owed. -/
def Landing.rests (x : Landing) (st : LState) : Prop :=
  x.seq.lstate = st ∧ x.seq.rows = [] ∧ x.phy.mode = .deep ∧ x.phy.strValid = false ∧ x.drainFrom = none ∧
    ∀ i : Fin 16, (x.mnt.ref[i]).sched.debt = 0

/-- A drained Landing rests, and no other Landing moves. -/
theorem State.intoSelfRefresh_rests (s : State) (l : LandingId) : ((s.intoSelfRefresh l).land l).rests (s.restState l) ∧
    ∀ k : LandingId, k ≠ l → (s.intoSelfRefresh l).land k = s.land k := by
  unfold State.intoSelfRefresh
  extract_lets entered owed staged deep final resting drained
  have enters : OnlyAt l s entered := foldl_onlyAt (fun s e => s.enterSr_onlyAt l e) _ s
  have toDeep : OnlyAt l entered deep :=
    ((entered.modLand_onlyAt l _).trans (State.modLand_onlyAt _ l _)).trans (State.modLand_onlyAt _ l _)
  have whole : OnlyAt l s drained := ((enters.trans toDeep).trans (State.modLand_onlyAt _ l _)).trans (State.modLand_onlyAt _ l _)
  have state : final = s.restState l := by
    obtain ⟨x, same⟩ := enters.trans toDeep
    unfold final
    rw [same]
    rfl
  have rests : (drained.land l).rests final := by
    have last : drained.land l = _ := State.modLand_land_self resting l _
    have state : resting.land l = _ := State.modSeq_land_self deep l _
    have phy : deep.land l = _ := State.modPhy_land_self staged l _
    have arb : staged.land l = _ := State.modArb_land_self owed l _
    have mnt : owed.land l = _ := State.modMnt_land_self entered l _
    clear_value drained resting deep staged owed final entered
    rw [last, state, phy, arb, mnt]
    refine ⟨rfl, rfl, rfl, rfl, rfl, fun i => ?_⟩
    simp
  have unlocked (k : Nat) : (if final != .sr && drained.idlePll (l / 4) then drained.modGal (l / 4) fun x => { x with pllLock := false }
      else drained).land k = drained.land k := by
    clear_value drained final
    split <;> rfl
  refine ⟨?_, fun k other => ?_⟩
  · rw [unlocked, ← state]
    exact rests
  · rw [unlocked]
    exact whole.land_ne (Fin.val_ne_of_ne other.symm)

/-! ## Writes abandoned -/

theorem State.abandonWrites_frame (s : State) (l : Nat) :
    (s.abandonWrites l).ports = s.ports ∧ (s.abandonWrites l).galleries = s.galleries := by
  unfold State.abandonWrites
  dsimp only
  split <;> exact ⟨rfl, rfl⟩

end Sys2Proof.Machine

section
open Sys2Proof Sys2Proof.Machine Sys2Proof.Slice

/-- Settles O30, through `State.abandonWrites_land` and `State.intoSelfRefresh_rests`. -/
theorem drainsEndAtRestOrAbandonTheirWrites : Obligations.DrainsEndAtRestOrAbandonTheirWrites := by
  unfold Obligations.DrainsEndAtRestOrAbandonTheirWrites
  refine ⟨fun s l t0 halted drains since => ⟨fun late => ?late, fun early => ?early⟩, ?complete, ?unlocked⟩
  case late =>
    obtain ⟨ports, galleries⟩ := s.abandonWrites_frame l
    have self := (s.abandonWrites_land l l).trans (State.modSeq_land_self s l _)
    refine ⟨s.abandonWrites l, if_pos (by simp [halted, drains, since, late]), ?_, ?_, ?_, fun k other => ?_, ports, galleries⟩
    · rw [self]
    · rw [self]
    · rw [self]
    · rw [State.abandonWrites_land, State.modSeq_land_ne _ _ _ _ (Fin.val_ne_of_ne other.symm)]
  case early =>
    exact if_neg (by simp [halted, drains, since, early])
  case complete =>
    intro s l drains drained locked
    obtain ⟨⟨state, rows, mode, tables, drain, debts⟩, others⟩ := s.intoSelfRefresh_rests l
    exact ⟨s.intoSelfRefresh l, if_pos (by simp [drains, drained, locked]), state, rows, mode, tables, drain, debts, others⟩
  case unlocked =>
    intro s l open_
    exact if_neg (by simp [open_])

end

/-! SUPPORT. What making Landings ready to train leaves alone: the mailboxes, the reset pins, an unlocked PLL, and of every other Landing
its start, its training and its geometry (R203, R204, R305). One lemma per function, in the model's order. -/

namespace Sys2Proof.Machine

/-- The part of a Landing that its start is about. -/
def Landing.course (x : Landing) : Sbd × Cal × Geom := (x.sbd, x.cal, x.seq.geom)

/-- Every Landing keeps its course. -/
structure Placid (s t : State) : Prop where
  boxes : t.boxes = s.boxes
  resets : t.chip.drstN = s.chip.drstN
  locks : ∀ g, (s.gal g).pllLock = false → (t.gal g).pllLock = false
  course : ∀ k, (t.land k).course = (s.land k).course

theorem Placid.refl (s : State) : Placid s s := ⟨rfl, rfl, fun _ => id, fun _ => rfl⟩

theorem Placid.trans {s t u : State} (h : Placid s t) (k : Placid t u) : Placid s u where
  boxes := k.boxes.trans h.boxes
  resets := k.resets.trans h.resets
  locks g unlocked := k.locks g (h.locks g unlocked)
  course l := (k.course l).trans (h.course l)

theorem ite_placid {s t u : State} {c : Prop} [Decidable c] (ht : Placid s t) (hu : Placid s u) : Placid s (if c then t else u) := by
  split
  · exact ht
  · exact hu

theorem foldl_placid {α : Type} {f : State → α → State} (h : ∀ s x, Placid s (f s x)) (rest : List α) (s : State) : Placid s (rest.foldl f s) :=
  foldl_related Placid.refl Placid.trans h rest s

theorem Placid.of_eq {s t : State} (boxes : t.boxes = s.boxes) (resets : t.chip.drstN = s.chip.drstN) (galleries : t.galleries = s.galleries)
    (landings : t.landings = s.landings) : Placid s t where
  boxes := boxes
  resets := resets
  locks g unlocked := by rw [State.gal, galleries]; exact unlocked
  course k := by rw [State.land, State.land, landings]

/-! ## Changes of a Landing -/

theorem State.modLand_placid (s : State) (l : Nat) {f : Landing → Landing} (h : ∀ x, (f x).course = x.course) : Placid s (s.modLand l f) :=
  ⟨rfl, rfl, fun _ => id, fun k => State.modLand_land_proj Landing.course h s l k⟩

theorem State.modSeq_placid (s : State) (l : Nat) {f : Seq → Seq} (h : ∀ q, (f q).geom = q.geom) : Placid s (s.modSeq l f) :=
  s.modLand_placid l fun x => congrArg (fun g => (x.sbd, x.cal, g)) (h x.seq)

theorem State.modArb_placid (s : State) (l : Nat) (f : Arb → Arb) : Placid s (s.modArb l f) := s.modLand_placid l fun _ => rfl
theorem State.modMnt_placid (s : State) (l : Nat) (f : Mnt → Mnt) : Placid s (s.modMnt l f) := s.modLand_placid l fun _ => rfl
theorem State.modPhy_placid (s : State) (l : Nat) (f : Phy → Phy) : Placid s (s.modPhy l f) := s.modLand_placid l fun _ => rfl
theorem State.bumpL_placid (s : State) (l off n : Nat) : Placid s (s.bumpL l off n) := s.modLand_placid l fun _ => rfl
theorem State.putLand_placid (s : State) (l off : Nat) (v : W32) : Placid s (s.putLand l off v) := s.modLand_placid _ fun _ => rfl
theorem State.loadLand_placid (s : State) (l off : Nat) (v : W32) : Placid s (s.loadLand l off v) := s.modLand_placid _ fun _ => rfl

/-- A PLL that loses its lock. -/
theorem State.unlock_placid (s : State) (g : Nat) : Placid s (s.modGal g fun x => { x with pllLock := false }) where
  boxes := rfl
  resets := rfl
  locks k unlocked := by
    by_cases here : g = k
    · subst here
      by_cases present : g < 3
      · exact congrArg Gallery.pllLock (State.modGal_gal_self s ⟨g, present⟩ _)
      · simpa [State.modGal, State.setGal, State.gal, present] using unlocked
    · rw [State.modGal_gal_ne s g k _ here]
      exact unlocked
  course _ := rfl

/-! ## Back into self-refresh -/

theorem State.issueOwn_placid (s : State) (l : Nat) (w : Want) : Placid s (s.issueOwn l w) := by
  unfold State.issueOwn
  exact s.modSeq_placid l fun _ => rfl

theorem State.closeRank_placid (s : State) (l : Nat) (e : Nat × Nat) : Placid s (s.closeRank l e) := by
  unfold State.closeRank
  exact ite_placid ((s.issueOwn_placid l _).trans (State.modSeq_placid _ l (by intro x; rfl))) (.refl s)

theorem State.enterSr_placid (s : State) (l : Nat) (e : Nat × Nat) : Placid s (s.enterSr l e) := by
  unfold State.enterSr
  split
  next cmds d _ =>
    extract_lets ideal f late dec awake refreshed counted delayed
    have awoken : Placid s awake := ite_placid (s.issueOwn_placid l _) (.refl s)
    have refreshes : Placid awake refreshed :=
      (awake.closeRank_placid l e).trans (foldl_placid (fun s w => (s.issueOwn_placid l w).trans (State.modMnt_placid _ l _)) _ _)
    have counts : Placid refreshed counted := ite_placid (.refl _) (State.bumpL_placid _ l _ _)
    have delays : Placid counted delayed := ite_placid (.refl _) (State.bumpL_placid _ l _ _)
    exact (((awoken.trans refreshes).trans counts).trans delays).trans (State.issueOwn_placid _ l _)

theorem State.intoSelfRefresh_placid (s : State) (l : Nat) : Placid s (s.intoSelfRefresh l) := by
  unfold State.intoSelfRefresh
  extract_lets entered owed staged deep final resting drained
  have enters : Placid s entered := foldl_placid (fun s e => s.enterSr_placid l e) _ s
  have rests : Placid entered drained :=
    ((((entered.modMnt_placid l _).trans (State.modArb_placid _ l _)).trans (State.modPhy_placid _ l _)).trans
      (State.modSeq_placid _ l (by intro x; rfl))).trans (State.modLand_placid _ l (by intro x; rfl))
  exact (enters.trans rests).trans (ite_placid (State.unlock_placid _ _) (.refl _))

theorem State.unplaceAll_placid (s : State) (l : Nat) (cs : List PlanCmd) : Placid s (s.unplaceAll l cs) := by
  refine foldl_placid (fun s c => ?_) _ s
  unfold State.unplace
  exact (s.modSeq_placid l (by intro q; rfl)).trans (State.modMnt_placid _ l _)

theorem State.backToSr_placid (s : State) (l : Nat) : Placid s (s.backToSr l) :=
  ite_placid (.refl s) (((s.unplaceAll_placid l _).trans (State.intoSelfRefresh_placid _ l)).trans (State.modSeq_placid _ l (by intro x; rfl)))

/-! ## Words and the PLL -/

theorem State.loadTimed_placid (s : State) (l off : Nat) (w : W32) : Placid s (s.loadTimed l off w) := by
  unfold State.loadTimed
  split
  · exact ite_placid (.refl s) ((s.putLand_placid l off w).trans (foldl_placid (fun s k => s.modLand_placid k (by intro x; rfl)) _ _))
  · exact ite_placid ((s.loadLand_placid l off w).trans (State.modLand_placid _ l (by intro x; rfl))) (s.loadLand_placid l off w)

theorem State.setPll_placid (s : State) (g rate : Nat) : Placid s (s.setPll g rate) :=
  (s.loadLand_placid _ _ _).trans (State.unlock_placid _ g)

theorem State.setPll_unlocks (s : State) (g : GalleryId) (rate : Nat) : ((s.setPll g rate).gal g).pllLock = false :=
  congrArg Gallery.pllLock (State.modGal_gal_self (s.loadLand (4 * g) 0x1008 (at_ 0 (rate / 200))) g _)

/-! ## Remaking one Landing -/

/-- The Landing `l` is remade; every other keeps its course and its reset pin, and the Landing stays discovered. -/
structure Remakes (l : Nat) (s t : State) : Prop where
  boxes : t.boxes = s.boxes
  resets : ∀ k : LandingId, k.val ≠ l → t.chip.drstN[k.val] = s.chip.drstN[k.val]
  locks : ∀ g, (s.gal g).pllLock = false → (t.gal g).pllLock = false
  course : ∀ k, k ≠ l → (t.land k).course = (s.land k).course
  reached : (t.land l).sbd.reached = (s.land l).sbd.reached

theorem Remakes.trans {l : Nat} {s t u : State} (h : Remakes l s t) (k : Remakes l t u) : Remakes l s u where
  boxes := k.boxes.trans h.boxes
  resets i other := (k.resets i other).trans (h.resets i other)
  locks g unlocked := k.locks g (h.locks g unlocked)
  course i other := (k.course i other).trans (h.course i other)
  reached := k.reached.trans h.reached

theorem Placid.remakes {s t : State} (h : Placid s t) (l : Nat) : Remakes l s t where
  boxes := h.boxes
  resets k _ := by rw [h.resets]
  locks := h.locks
  course k _ := h.course k
  reached := congrArg (fun c => c.1.reached) (h.course l)

theorem State.modLand_remakes (s : State) (l : Nat) {f : Landing → Landing} (h : ∀ x, (f x).sbd.reached = x.sbd.reached) :
    Remakes l s (s.modLand l f) where
  boxes := rfl
  resets _ _ := rfl
  locks _ := id
  course k other := by rw [State.modLand_land_ne s l k f (Ne.symm other)]
  reached := State.modLand_land_proj (fun x => x.sbd.reached) h s l l

theorem State.modSbd_remakes (s : State) (l : Nat) {f : Sbd → Sbd} (h : ∀ b, (f b).reached = b.reached) : Remakes l s (s.modSbd l f) :=
  s.modLand_remakes l fun x => h x.sbd

theorem State.modCal_remakes (s : State) (l : Nat) (f : Cal → Cal) : Remakes l s (s.modCal l f) := s.modLand_remakes l fun _ => rfl

/-- Its reset pin is its own. -/
theorem State.modDrst_remakes (s : State) (l : Nat) (v : Bool) (phy : Vector Bool 12) :
    Remakes l s (s.modChip fun c => { c with drstN := c.drstN.setIfInBounds l v, phyOn := phy }) where
  boxes := rfl
  resets k other := by simp [State.modChip, Ne.symm other]
  locks _ := id
  course _ _ := rfl
  reached := rfl

theorem State.populate_remakes (s : State) (l rate : Nat) : Remakes l s (s.populate l rate) := by
  unfold State.populate
  exact (((foldl_placid (fun s (e : Nat × W32) => s.loadTimed_placid l e.1 e.2) _ s).remakes l).trans (State.modLand_remakes _ l (by intro x; rfl))).trans
    (State.modLand_remakes _ l (by intro x; rfl))

theorem State.programRcds_remakes (s : State) (l rate : Nat) : Remakes l s (s.programRcds l rate) := by
  unfold State.programRcds
  exact s.modSbd_remakes l (by intro b; rfl)

theorem State.readyLanding_remakes (s : State) (l rate : Nat) : Remakes l s (s.readyLanding l rate) := by
  unfold State.readyLanding
  extract_lets stilled deep fresh waiting
  have still : Placid s stilled := (s.backToSr_placid l).trans (State.modSeq_placid _ l (by intro q; rfl))
  have begun : Remakes l stilled fresh := ((stilled.modPhy_placid l _).remakes l).trans (State.modCal_remakes _ l _)
  have waits : Remakes l fresh waiting := fresh.modSbd_remakes l (by intro b; rfl)
  have on := waiting.modDrst_remakes l true (waiting.chip.phyOn.setIfInBounds l true)
  exact (((((still.remakes l).trans begun).trans waits).trans on).trans (State.populate_remakes _ l rate)).trans
    (State.programRcds_remakes _ l rate)

theorem State.status1Hold_placid (s : State) (code : Nat) : Placid s (s.status1Hold code) := by
  unfold State.status1Hold
  split
  · exact ite_placid (.of_eq rfl rfl rfl rfl) (.refl s)
  · exact .refl s

theorem State.beginTraining_remakes (s : State) (l : Nat) : Remakes l s (s.beginTraining l) := by
  unfold State.beginTraining
  exact ((s.modSbd_remakes l (by intro b; rfl)).trans (State.modCal_remakes _ l _)).trans ((State.status1Hold_placid _ 3).remakes l)

/-! ## What a remade Landing is -/

/-- A Landing that waits for its training, at a data rate or without modules. -/
def Landing.waitsAt (x : Landing) (rate : Nat) : Prop := x.sbd.waiting = true ∧ (x.seq.geom.rate = rate ∨ x.seq.geom.rate = 0)

theorem geomOf_rate (ms : List Spd) (rate : Nat) : (geomOf ms rate).rate = rate ∨ (geomOf ms rate).rate = 0 := by
  cases ms with
  | nil => exact .inr rfl
  | cons d ms => exact .inl rfl

theorem State.populate_own (s : State) (l : LandingId) (rate : Nat) :
    ((s.populate l rate).land l).sbd = (s.land l).sbd ∧ ((s.populate l rate).land l).seq.geom = geomOf (s.land l).sbd.spds rate := by
  unfold State.populate
  extract_lets ms g ws loaded placed
  have loads : Placid s loaded := foldl_placid (fun s e => s.loadTimed_placid l e.1 e.2) ws s
  rw [State.modLand_land_self]
  unfold placed
  rw [State.modSeq_land_self]
  exact ⟨(Prod.mk.inj (loads.course l)).1, rfl⟩

theorem State.readyLanding_waitsAt (s : State) (l : LandingId) (rate : Nat) : ((s.readyLanding l rate).land l).waitsAt rate := by
  unfold State.readyLanding
  extract_lets stilled deep fresh waiting
  have waits : (waiting.land l).sbd.waiting = true := by
    unfold waiting
    rw [State.modSbd_land_self]
  clear_value waiting
  have own := State.populate_own (waiting.modChip fun c =>
    { c with drstN := c.drstN.setIfInBounds l true, phyOn := c.phyOn.setIfInBounds l true }) l rate
  obtain ⟨sbd, geom⟩ := own
  unfold State.programRcds
  rw [State.modSbd_land_self]
  refine ⟨(congrArg Sbd.waiting sbd).trans waits, ?_⟩
  rw [geom]
  exact geomOf_rate _ rate

/-- What the beginning of training leaves of its Landing. -/
theorem State.beginTraining_land (s : State) (l : LandingId) : ∃ slots, (s.beginTraining l).land l = { s.land l with
    sbd := { (s.land l).sbd with hold := false, slots := slots }
    cal := { (s.land l).cal with state := if s.restorable l then 5 else 1, tryStep := 0, tries := 0 } } := by
  have held (u : State) : (u.status1Hold 3).land l = u.land l :=
    State.land_of_landingsAndResets (u.status1Hold_onlyReported 3).landingsAndResets l
  unfold State.beginTraining
  extract_lets full g use asked
  have begun : asked.land l = _ := State.modSbd_land_self s l _
  clear_value asked
  rw [held, State.modCal_land_self, begun]
  exact ⟨_, rfl⟩

end Sys2Proof.Machine

/-! SUPPORT. Discovery and the start of Landings: what each step leaves of the mailboxes and of the Landings reached (R305, R470). -/

namespace Sys2Proof.Machine

open Sys2Proof.Slice (Begins Awake boxesOn answered)

/-! ## The end of a start -/

/-- A report below class F, with the fence that it starts, leaves the mailboxes alone. -/
theorem State.raise_boxes (s : State) {r : Rep} (f : Option Fence) (below : r.cls ≠ 3) : (s.raise r f).boxes = s.boxes := by
  have fences (u : State) (x : Fence) : (u.startFence x).boxes = u.boxes := by
    unfold State.startFence
    split <;> rfl
  have reported (grain : Nat) : (s.report r grain).boxes = s.boxes := (s.report_onlyReported r grain).boxes
  unfold State.raise
  extract_lets grain told fenced
  rw [if_neg below]
  split
  · exact reported 0xFF
  · cases f with
    | none => exact reported grain
    | some x => exact (fences told x).trans (reported grain)

theorem State.fenceUnstarted_boxes (s : State) : s.fenceUnstarted.boxes = s.boxes := by
  refine eachBelow_proj State.boxes (fun l u => ?_) s.nLand s
  dsimp only
  split
  · exact u.raise_boxes _ (show srcClass 14 4 ≠ 3 by decide)
  · rfl

/-- A command that has begun goes on or is done. -/
def Mailbox.goesOrDone (b : Mailbox) : Prop := b.state = .done ∨ b.started = true

theorem State.finish_goesOrDone {s : State} {m : MailboxId} (k : Nat) (st : AStatus) (res : List W32) (pay : List Byte)
    (h : (s.box m).goesOrDone) : ((s.finish k st res pay).box m).goesOrDone := by
  by_cases here : k = m.val
  · subst here
    rw [State.finish_box_self]
    exact .inl rfl
  · rw [State.finish_box_ne _ _ _ _ _ _ here]
    exact h

theorem State.endStarts_goesOrDone {s : State} {m : MailboxId} (h : (s.box m).goesOrDone) : (s.endStarts.box m).goesOrDone := by
  have fenced : (s.fenceUnstarted.box m).goesOrDone := by
    unfold State.box
    rw [s.fenceUnstarted_boxes]
    exact h
  unfold State.endStarts
  extract_lets d busy
  split
  · exact h
  · split
    · exact h
    · split
      · exact State.finish_goesOrDone _ _ _ _ fenced
      · exact State.finish_goesOrDone _ _ _ _ fenced

/-! ## The mailboxes, and whether discovery has reached a Landing -/

def State.standing (s : State) (k : Nat) : Vector Mailbox 9 × Bool := (s.boxes, (s.land k).sbd.reached)

theorem State.standing_of_land {s t : State} {k : Nat} (boxes : t.boxes = s.boxes) (land : t.land k = s.land k) : t.standing k = s.standing k := by
  rw [State.standing, State.standing, boxes, land]

theorem State.boxes_of_standing {s t : State} {k : Nat} (h : t.standing k = s.standing k) : t.boxes = s.boxes := congrArg Prod.fst h

theorem State.reached_of_standing {s t : State} {k : Nat} (h : t.standing k = s.standing k) :
    (t.land k).sbd.reached = (s.land k).sbd.reached := congrArg Prod.snd h

theorem State.modLand_standing (s : State) (l : Nat) {f : Landing → Landing} (h : ∀ x, (f x).sbd.reached = x.sbd.reached) (k : Nat) :
    (s.modLand l f).standing k = s.standing k :=
  congrArg (fun r => (s.boxes, r)) (State.modLand_land_proj (fun x => x.sbd.reached) h s l k)

theorem State.modSbd_standing (s : State) (l : Nat) {f : Sbd → Sbd} (h : ∀ b, (f b).reached = b.reached) (k : Nat) :
    (s.modSbd l f).standing k = s.standing k := s.modLand_standing l (fun x => h x.sbd) k

theorem State.post_standing (s : State) (type prio : Nat) (data : List W32) (k : Nat) : (s.post type prio data).standing k = s.standing k :=
  State.standing_of_land (s.post_onlyReported type prio data).boxes (s.post_land type prio data k)

theorem Remakes.standing {l : Nat} {s t : State} (h : Remakes l s t) (k : Nat) : t.standing k = s.standing k := by
  have reached : (t.land k).sbd.reached = (s.land k).sbd.reached := by
    by_cases here : k = l
    · rw [here]
      exact h.reached
    · exact congrArg (fun c => c.1.reached) (h.course k here)
  rw [State.standing, State.standing, h.boxes, reached]

theorem Placid.standing {s t : State} (h : Placid s t) (k : Nat) : t.standing k = s.standing k := (h.remakes k).standing k

theorem State.refuseLanding_standing (s : State) (l code k : Nat) : (s.refuseLanding l code).standing k = s.standing k :=
  s.modSbd_standing l (by intro b; rfl) k

theorem State.offerSnapshots_standing (s : State) (l k : Nat) : (s.offerSnapshots l).standing k = s.standing k := by
  unfold State.offerSnapshots
  extract_lets a b used store kept
  have stored : kept.standing k = s.standing k := rfl
  exact (kept.modLand_standing l (by intro x; rfl) k).trans stored

theorem State.checkRails_standing (s : State) (k : Nat) : s.checkRails.standing k = s.standing k := by
  refine eachBelow_proj (State.standing · k) (fun l u => ?_) s.nLand s
  dsimp only
  split
  · rfl
  · exact (State.post_standing _ _ _ _ k).trans (u.refuseLanding_standing l 0xE k)

/-- Module power hands the Landings over, and then the start may end. -/
theorem State.powerUp_standing (s : State) : ∃ u : State, s.powerUp = u.endStarts ∧ ∀ k, u.standing k = s.standing k := by
  unfold State.powerUp
  extract_lets checked d mine ended plls trained
  refine ⟨trained, rfl, fun k => ?_⟩
  have locks : plls.standing k = s.standing k := by
    refine (eachBelow_proj (State.standing · k) (fun g u => ?_) _ ended).trans (s.checkRails_standing k)
    dsimp only
    split
    · split
      · rfl
      · exact (State.setPll_placid _ g _).standing k
    · split <;> rfl
  refine (foldl_proj (State.standing · k) (fun u l => ?_) mine plls).trans locks
  extract_lets ready hot
  have readied : ready.standing k = u.standing k :=
    (State.offerSnapshots_standing _ l k).trans ((u.readyLanding_remakes l _).standing k)
  have heated : hot.standing k = ready.standing k := by
    unfold hot
    split
    · rfl
    · exact (ready.modMnt_placid l _).standing k
  refine Eq.trans ?_ (heated.trans readied)
  split
  · exact hot.modSbd_standing l (by intro b; rfl) k
  · exact (hot.beginTraining_remakes l).standing k

/-! ## The probe -/

theorem State.probeLanding_boxes (s : State) (found : List FoundModule) (l : Nat) : (s.probeLanding found l).boxes = s.boxes := by
  unfold State.probeLanding
  dsimp only
  split <;> rfl

/-- The probe starts nothing. -/
theorem State.probeLanding_started (s : State) (found : List FoundModule) (l k : Nat) (asleep : (s.land k).sbd.started = false) :
    ((s.probeLanding found l).land k).sbd.started = false := by
  unfold State.probeLanding
  dsimp only
  split
  · exact asleep
  · by_cases here : l = k
    · subst here
      by_cases present : l < 12
      · rw [State.modSbd_land_self s ⟨l, present⟩]
        rfl
      · simpa [State.modSbd, State.modLand, State.setLand, State.land, present] using asleep
    · rw [State.modSbd_land_ne _ _ _ _ here]
      exact asleep

theorem State.probeLanding_reaches {s : State} {l : LandingId} (found : List FoundModule) (asleep : (s.land l).sbd.started = false) :
    ((s.probeLanding found l).land l).sbd.reached = true := by
  unfold State.probeLanding
  dsimp only
  rw [if_neg (by simp [asleep]), State.modSbd_land_self]

/-- Discovery has reached the Landing, if it had not started before. -/
theorem State.probeLandings_reach {s : State} (found : List FoundModule) {l : LandingId} (low : l.val < s.nLand)
    (asleep : (s.land l).sbd.started = false) :
    ((eachBelow s.nLand (fun l s => s.probeLanding found l) s).land l).sbd.reached = true := by
  have still (i : Nat) (u : State) (other : i ≠ l.val) : ((u.probeLanding found i).land l).sbd = (u.land l).sbd := by
    unfold State.probeLanding
    dsimp only
    split
    · rfl
    · rw [State.modSbd_land_ne _ _ _ _ other]
  obtain ⟨u, same, after⟩ := eachBelow_own (fun s => (s.land l).sbd) still s low
  rw [congrArg Sbd.reached after]
  exact State.probeLanding_reaches found ((congrArg Sbd.started same).trans asleep)

theorem State.probeDomains_standing (s : State) (found : List FoundModule) (k : Nat) : (s.probeDomains found).standing k = s.standing k := by
  unfold State.probeDomains
  extract_lets posted
  have gals : posted.standing k = s.standing k := by
    refine eachBelow_proj (State.standing · k) (fun g u => ?_) s.nGal s
    split
    · exact u.post_standing _ _ _ k
    · rfl
  refine (eachBelow_proj (State.standing · k) (fun l u => ?_) posted.nLand posted).trans gals
  split
  · split
    · rfl
    · exact u.post_standing _ _ _ k
  · rfl

theorem State.chooseRate_standing (s : State) (g cap k : Nat) : (s.chooseRate g cap).standing k = s.standing k := by
  unfold State.chooseRate
  extract_lets mine rates unrated cands set
  have out : unrated.standing k = s.standing k := foldl_proj (State.standing · k) (fun u l => u.refuseLanding_standing l 8 k) _ s
  split
  next kept rate _ =>
    extract_lets slow refused any
    have slower : slow.standing k = unrated.standing k :=
      foldl_proj (State.standing · k) (fun u (e : Nat × List Spd × List Nat) => u.refuseLanding_standing e.1 8 k) _ unrated
    have refuses : refused.standing k = slow.standing k := by
      refine foldl_proj (State.standing · k) (fun u l => ?_) kept slow
      dsimp only
      split
      · exact u.refuseLanding_standing l 9 k
      · rfl
    exact (refuses.trans slower).trans out

theorem State.clearOldRecords_standing (s : State) (k : Nat) : s.clearOldRecords.standing k = s.standing k := by
  unfold State.clearOldRecords
  dsimp only
  split <;> rfl

theorem State.programRails_standing (s : State) (k : Nat) : s.programRails.standing k = s.standing k :=
  eachBelow_proj (State.standing · k) (fun l u => u.modSbd_standing l (by intro b; rfl) k) s.nLand s

/-- What follows the record of each Landing in the probe. -/
theorem State.probe_standing (s : State) (found : List FoundModule) (cap : Nat) (hold : Bool) (m k : Nat) :
    (s.probe found cap hold m).standing k = (eachBelow s.nLand (fun l s => s.probeLanding found l) s).standing k := by
  unfold State.probe
  extract_lets probed domains rated told cleared
  have rates : rated.standing k = domains.standing k :=
    eachBelow_proj (State.standing · k) (fun g u => u.chooseRate_standing g cap k) domains.nGal domains
  have tells : told.standing k = rated.standing k := by
    refine eachBelow_proj (State.standing · k) (fun l u => ?_) rated.nLand rated
    dsimp only
    split
    · exact u.post_standing _ _ _ k
    · rfl
  have found_ : domains.standing k = probed.standing k := probed.probeDomains_standing found k
  have clears : told.clearOldRecords.programRails.standing k = told.standing k :=
    (State.programRails_standing _ k).trans (told.clearOldRecords_standing k)
  clear_value told
  have raised : cleared.standing k = told.clearOldRecords.programRails.standing k := rfl
  clear_value cleared rated domains
  exact raised.trans (clears.trans (tells.trans (rates.trans found_)))

/-! ## DISCOVER -/

theorem State.probe_boxes (s : State) (found : List FoundModule) (cap : Nat) (hold : Bool) (m : Nat) : (s.probe found cap hold m).boxes = s.boxes :=
  (State.boxes_of_standing (s.probe_standing found cap hold m 0)).trans
    (eachBelow_proj State.boxes (fun l u => u.probeLanding_boxes found l) s.nLand s)

theorem State.powerUp_goesOrDone {s : State} {m : MailboxId} (h : (s.box m).goesOrDone) : (s.powerUp.box m).goesOrDone := by
  obtain ⟨u, ended, same⟩ := s.powerUp_standing
  rw [ended]
  refine State.endStarts_goesOrDone ?_
  have boxes : u.boxes = s.boxes := State.boxes_of_standing (same 0)
  rw [State.box, boxes]
  exact h

theorem State.powerUp_reached (s : State) (k : Nat) : (s.powerUp.land k).sbd.reached = (s.land k).sbd.reached := by
  obtain ⟨u, ended, same⟩ := s.powerUp_standing
  rw [ended, State.land_of_landingsAndResets u.endStarts_landingsAndResets]
  exact State.reached_of_standing (same k)

section
variable {s : State} {m : MailboxId} {found : List FoundModule}

theorem exec_discover (begins : Begins s m 0x0103) (awake : Awake s) : exec (.discover m found) s =
    .next (s.discover m (found.filter fun f => decide (f.landing.val < s.nLand))).pump := by
  change execDiscover m found s = _
  unfold execDiscover
  exact amiom_of_awake _ begins awake (by decide)

theorem State.discover_done (done : s.misc.discovery.done = true) : s.discover m found = s.finishS m .badState := if_pos done

theorem State.discover_badCap (fresh : s.misc.discovery.done = false) (nonzero : fld ((s.box m).word 2) 15 0 ≠ 0)
    (odd : isBin (fld ((s.box m).word 2) 15 0) = false) : s.discover m found = s.finishS m .badParam :=
  (if_neg (by simp [fresh])).trans (if_pos ⟨nonzero, by simp [odd]⟩)

theorem State.discover_goes (fresh : s.misc.discovery.done = false)
    (capped : fld ((s.box m).word 2) 15 0 = 0 ∨ isBin (fld ((s.box m).word 2) 15 0) = true) :
    ((s.discover m found).box m).goesOrDone ∧
      ∀ l : LandingId, l.val < s.nLand → (s.land l).sbd.started = false → ((s.discover m found).land l).sbd.reached = true := by
  have asked : ((s.goesOn m).box m).goesOrDone := .inr (congrArg Mailbox.started (State.modBox_box_self s m _))
  unfold State.discover
  extract_lets w cap probed
  rw [if_neg (by simp [fresh]), if_neg (fun bad => by simp [cap, w, capped.resolve_left bad.1] at bad)]
  have goes : (probed.box m).goesOrDone := by
    rw [State.box, State.probe_boxes]
    exact asked
  have reaches (l : LandingId) (low : l.val < s.nLand) (asleep : (s.land l).sbd.started = false) : (probed.land l).sbd.reached = true :=
    (State.reached_of_standing (State.probe_standing _ found cap _ m l)).trans
      (State.probeLandings_reach (s := s.goesOn m) found low asleep)
  split
  · refine ⟨State.powerUp_goesOrDone goes, fun l low asleep => ?_⟩
    rw [State.powerUp_reached]
    exact reaches l low asleep
  · exact ⟨goes, reaches⟩

end

/-! ## LANDING_START -/

/-- The Landing has left its hold for its training. -/
def Landing.trains (x : Landing) : Prop := x.sbd.hold = false ∧ (x.cal.state = 1 ∨ x.cal.state = 5)

theorem State.beginTraining_trains (s : State) (l : LandingId) : ((s.beginTraining l).land l).trains := by
  obtain ⟨slots, made⟩ := s.beginTraining_land l
  rw [made]
  refine ⟨rfl, ?_⟩
  dsimp only
  split
  · exact .inr rfl
  · exact .inl rfl

theorem foldl_beginTraining_trains (s : State) {named : List Nat} (low : ∀ l ∈ named, l < 12) :
    ∀ l ∈ named, ((named.foldl (fun s l => s.beginTraining l) s).land l).trains := by
  refine foldl_each (P := fun l u => (u.land l).trains) (fun u l hl => u.beginTraining_trains ⟨l, low l hl⟩) (fun u l hl k before => ?_) s
  by_cases here : k = l
  · subst here
    exact u.beginTraining_trains ⟨k, low k hl⟩
  · have course := (u.beginTraining_remakes k).course l (Ne.symm here)
    obtain ⟨sbd, rest⟩ := Prod.mk.inj course
    obtain ⟨cal, _⟩ := Prod.mk.inj rest
    rw [Landing.trains, sbd, cal]
    exact before

/-- The Landings that `LANDING_START` names. -/
theorem mem_named {w : W32} {l : Nat} : l ∈ (List.range 12).filter (fun l => w.getLsbD l) ↔ l < 12 ∧ w.getLsbD l = true := by
  rw [List.mem_filter, List.mem_range]

section
variable {s : State} {m : MailboxId}

theorem exec_landingStart (begins : Begins s m 0x0104) (awake : Awake s) : exec (.landingStart m) s = .next (s.landingStart m).pump :=
  amiom_of_awake (fun t => t.landingStart m) begins awake (by decide)

theorem State.landingStart_starts (held : ∀ l : LandingId, ((s.box m).word 2).getLsbD l = true → (s.land l).sbd.hold = true)
    (l : LandingId) (named : ((s.box m).word 2).getLsbD l = true) : ((s.landingStart m).land l).trains := by
  unfold State.landingStart
  extract_lets ls begun
  have all : ls.all (fun l => (s.land l).sbd.hold) = true :=
    List.all_eq_true.2 fun k hk => held ⟨k, (mem_named.1 hk).1⟩ (mem_named.1 hk).2
  rw [if_neg (by simp [all]), State.land_of_landingsAndResets (State.endStarts_landingsAndResets _)]
  exact foldl_beginTraining_trains begun (fun k hk => (mem_named.1 hk).1) l (mem_named.2 ⟨l.isLt, named⟩)

theorem State.landingStart_refused {l : LandingId} (named : ((s.box m).word 2).getLsbD l = true) (free : (s.land l).sbd.hold = false) :
    s.landingStart m = s.finishS m .badState := by
  have some_ : ¬ ((List.range 12).filter fun l => ((s.box m).word 2).getLsbD l).all (fun l => (s.land l).sbd.hold) = true :=
    fun all => Bool.eq_false_iff.1 free (List.all_eq_true.1 all l (mem_named.2 ⟨l.isLt, named⟩))
  exact if_pos (by rw [Bool.not_eq_true'] ; exact Bool.eq_false_iff.2 some_)

end

/-! ## The queries -/

section
variable {s : State} {m : MailboxId}

theorem exec_landingQuery (begins : Begins s m 0x0105) : exec (.landingQuery m) s = .next (s.landingQuery m).pump :=
  amiom_of_begins (fun t => t.landingQuery m) begins (by decide) (by decide)

theorem exec_moduleQuery (begins : Begins s m 0x0106) : exec (.moduleQuery m) s = .next (s.moduleQuery m).pump :=
  amiom_of_begins (fun t => t.moduleQuery m) begins (by decide) (by decide)

/-- The words of `LANDING_QUERY` (R462). -/
def State.landingWords (s : State) (m : Nat) (l : Nat) : List W32 :=
  let t := s.seen m
  let claim : W32 := match t.claimOf 1 l with
    | some c => at_ 1 1 ||| at_ 4 c.holder
    | none => 0
  [ t.landPage l 0x408, t.landPage l 0x410, (t.land l).sbd.word, (t.land l).cal.stat, at_ 0 (b2n ((t.lw l 0).getLsbD 0)) ||| claim
  , BitVec.ofNat 32 (t.passTime l), BitVec.ofNat 32 (t.freeGranules l).length, BitVec.ofNat 32 (t.heldGranules l) ]

theorem State.landingQuery_answers {l : Nat} (named : fld ((s.box m).word 2) 3 0 = l) (present : l < s.nLand) :
    s.landingQuery m = s.finish m .ok (s.landingWords m l) [] := by
  subst named
  exact if_neg (Nat.not_le.2 present)

theorem State.landingQuery_absent {l : Nat} (named : fld ((s.box m).word 2) 3 0 = l) (absent : s.nLand ≤ l) :
    s.landingQuery m = s.finishS m .badParam := by
  subst named
  exact if_pos absent

/-! ## The sideband's raw transactions -/

theorem exec_sbdXfer (begins : Begins s m 0x0107) : exec (.sbdXfer m) s = .next (s.sbdXfer m).pump :=
  amiom_of_begins (fun t => t.sbdXfer m) begins (by decide) (by decide)

end

/-- The next transaction of a bus goes from the queue to the bus, and nothing else moves. -/
theorem State.sbdStart_moves (s : State) (bus : Nat) : (s.sbdStart bus).boxes = s.boxes ∧
    ∀ j ∈ s.misc.sbdQueue, j ∈ (s.sbdStart bus).misc.sbdBusy ++ (s.sbdStart bus).misc.sbdQueue := by
  unfold State.sbdStart
  extract_lets best
  split
  · exact ⟨rfl, fun j queued => List.mem_append_right _ queued⟩
  · cases best with
    | none => exact ⟨rfl, fun j queued => List.mem_append_right _ queued⟩
    | some next_ =>
      refine ⟨rfl, fun j queued => ?_⟩
      by_cases taken : j = next_
      · exact List.mem_append_left _ (List.mem_append_right _ (List.mem_singleton.2 taken))
      · exact List.mem_append_right _ ((List.mem_erase_of_ne taken).2 queued)

theorem State.sbdAsk_asks (s : State) (j : SbdJob) : (s.sbdAsk j).boxes = s.boxes ∧
    j ∈ (s.sbdAsk j).misc.sbdBusy ++ (s.sbdAsk j).misc.sbdQueue := by
  obtain ⟨boxes, moves⟩ := (s.modMisc fun m => { m with sbdQueue := m.sbdQueue ++ [j] }).sbdStart_moves j.bus
  exact ⟨boxes, moves j (List.mem_append_right _ (List.mem_singleton_self j))⟩

section
variable {s : State} {m : MailboxId}

/-- The operands of a raw transaction fit (R313). -/
def State.xferFits (s : State) (m : Nat) : Prop :=
  2 * fld ((s.box m).word 2) 2 0 < s.nLand ∧ 0 < fld ((s.box m).word 3) 10 0 ∧
    (((s.box m).word 2).getLsbD 16 = true → fld ((s.box m).word 3) 10 0 ≤ 1024) ∧
    (((s.box m).word 2).getLsbD 16 = false → fld ((s.box m).word 3) 10 0 ≤ 16 ∧ (s.box m).plen = fld ((s.box m).word 3) 10 0)

/-- The transaction that `SBD_XFER` asks for. -/
def State.xferJob (s : State) (m : Nat) : SbdJob :=
  { bus := fld ((s.box m).word 2) 2 0, prio := 2, landing := 2 * fld ((s.box m).word 2) 2 0, slot := fld ((s.box m).word 2) 10 8
    tries := 0, mailbox := some m, page := 0, data := if ((s.box m).word 2).getLsbD 16 then [] else (s.box m).payload }

theorem State.xferFits_iff : s.xferFits m ↔ (decide (s.nLand ≤ 2 * fld ((s.box m).word 2) 2 0) || decide (fld ((s.box m).word 3) 10 0 = 0) ||
    decide ((if ((s.box m).word 2).getLsbD 16 then 1024 else 16) < fld ((s.box m).word 3) 10 0) ||
    (!((s.box m).word 2).getLsbD 16 && decide ((s.box m).plen ≠ fld ((s.box m).word 3) 10 0))) = false := by
  unfold State.xferFits
  cases ((s.box m).word 2).getLsbD 16 <;> simp <;> omega

theorem State.sbdXfer_closed (service : s.chip.bringup = false) : s.sbdXfer m = s.finishS m .badState := if_pos (by simp [service])

theorem State.sbdXfer_bad (open_ : s.chip.bringup = true) (bad : ¬ s.xferFits m) : s.sbdXfer m = s.finishS m .badParam := by
  rw [State.xferFits_iff, Bool.not_eq_false] at bad
  exact (if_neg (by simp [open_])).trans (if_pos bad)

theorem State.sbdXfer_asks (open_ : s.chip.bringup = true) (fits : s.xferFits m) : s.sbdXfer m = (s.goesOn m).sbdAsk (s.xferJob m) := by
  rw [State.xferFits_iff] at fits
  exact (if_neg (by simp [open_])).trans (if_neg (by rw [fits]; decide))

end

end Sys2Proof.Machine

section
open Sys2Proof Sys2Proof.Machine Sys2Proof.Slice

/-- Settles O54. `DISCOVER` and `LANDING_START`: what follows the record of a Landing keeps its mark and the mailbox (`State.probe_standing`,
`State.powerUp_standing`), and training begins in each Landing named (`foldl_beginTraining_trains`). The queries and the raw
transactions are their conditions and then their one effect. -/
theorem discoveryAndQueriesAnswer : Obligations.DiscoveryAndQueriesAnswer := by
  unfold Obligations.DiscoveryAndQueriesAnswer
  refine ⟨?discover, ?start, ?landing, ?module_, ?raw⟩
  case discover =>
    intro s m found begins awake
    rw [exec_discover begins awake]
    refine ⟨fun done => ?_, fun fresh nonzero odd => ?_, fun fresh capped => ?_⟩
    · rw [State.discover_done done]
      rfl
    · rw [State.discover_badCap fresh nonzero odd]
      rfl
    · exact ⟨_, rfl, State.discover_goes fresh capped⟩
  case start =>
    intro s m begins awake
    rw [exec_landingStart begins awake]
    refine ⟨fun held => ⟨_, rfl, State.landingStart_starts held⟩, fun ⟨l, named, free⟩ => ?_⟩
    rw [State.landingStart_refused named free]
    rfl
  case landing =>
    intro s m l begins named
    rw [exec_landingQuery begins]
    refine ⟨fun absent => ?_, fun present => ⟨s.landingWords m l, ?_, rfl, rfl, rfl, rfl, rfl⟩⟩
    · rw [State.landingQuery_absent named absent]
      rfl
    · rw [State.landingQuery_answers named present]
      rfl
  case module_ =>
    intro s m begins x
    rw [exec_moduleQuery begins, State.moduleQuery]
    refine ⟨fun none_ => ?_, fun y some_ => ?_⟩
    · rw [show ((s.seen m).land (fld ((s.box m).word 2) 3 0)).sbd.moduleAt (fld ((s.box m).word 2) 4 4) = none from none_]
      rfl
    · rw [show ((s.seen m).land (fld ((s.box m).word 2) 3 0)).sbd.moduleAt (fld ((s.box m).word 2) 4 4) = some y from some_]
      rfl
  case raw =>
    intro s m begins bus rd n good
    rw [exec_sbdXfer begins]
    refine ⟨fun service => ?_, fun open_ bad => ?_, fun open_ fits => ?_⟩
    · rw [State.sbdXfer_closed service]
      rfl
    · rw [State.sbdXfer_bad open_ bad]
      rfl
    · obtain ⟨boxes, asked⟩ := (s.goesOn m).sbdAsk_asks (s.xferJob m)
      rw [State.sbdXfer_asks open_ fits]
      exact ⟨_, s.xferJob m, rfl, boxes, asked, rfl, rfl, rfl, rfl, rfl⟩

end

/-! SUPPORT. Boot training: a result within every limit is committed and its Landing serves; an attempt out of time trains lower or ends the
Landing's start (R322, R326, R327). -/

namespace Sys2Proof.Machine

/-! ## Words that loading another one leaves -/

/-- Inserting a word leaves what a higher address reads, whatever the list. -/
theorem getW_setW_above {d d' : W32} {a b : Nat} (v : W32) (h : a < b) : ∀ m : Words, getW d' (setW d m a v) b = getW d' m b
  | [] => by
    unfold setW
    split
    · rfl
    · simp [getW, Nat.not_lt.2 (Nat.le_of_lt h), Nat.ne_of_gt h]
  | (k, w) :: m => by
    have skip (u : W32) : getW d' ((a, u) :: m) b = getW d' m b := by simp [getW, Nat.not_lt.2 (Nat.le_of_lt h), Nat.ne_of_gt h]
    unfold setW
    split
    · split
      · rfl
      · simp [getW, Nat.not_lt.2 (Nat.le_of_lt h), Nat.ne_of_gt h]
    · split
      next here =>
        subst here
        have past : getW d' ((a, w) :: m) b = getW d' m b := skip w
        split
        · exact past.symm
        · exact (skip v).trans past.symm
      · simp only [getW, getW_setW_above v h m]

theorem State.loadLand_lv_above (s : State) (l : Nat) {a : Nat} (v : W32) (k : Nat) {b : Nat} (h : a < b) :
    (s.loadLand l a v).lv k b = s.lv k b :=
  State.modLand_land_proj (fun x => getW (landDefault b) x.page.live b) (fun x => getW_setW_above v h x.page.live) s _ _

/-! ## A result is judged by its delay sets and the geometry -/

/-- The geometry, the strobes in use, the delay sets and the guard of a Landing are the same. -/
structure JudgesAlike (l : Nat) (s t : State) : Prop where
  geom : (t.land l).seq.geom = (s.land l).seq.geom
  strobes : ∀ k, (t.land l).strobeOn k = (s.land l).strobeOn k
  words : ∀ off, 0x1800 ≤ off → t.lv l off = s.lv l off

section
variable {l : Nat} {s t : State} (h : JudgesAlike l s t)
include h

theorem JudgesAlike.newWord (ws : List (Nat × W32)) (sub rank o : Nat) : t.newWord l ws (setOff sub rank o) = s.newWord l ws (setOff sub rank o) := by
  rw [State.newWord, State.newWord, h.words _ (by unfold setOff; omega)]

theorem JudgesAlike.spreadBad (ws : List (Nat × W32)) (e : Nat × Nat) (hi lo : Nat) : t.spreadBad l ws e hi lo = s.spreadBad l ws e hi lo := by
  simp only [State.spreadBad, h.newWord, h.geom]

theorem JudgesAlike.vrefBad (ws : List (Nat × W32)) (e : Nat × Nat) : t.vrefBad l ws e = s.vrefBad l ws e := by
  simp only [State.vrefBad, h.newWord]

theorem JudgesAlike.tapsBad (ws : List (Nat × W32)) (e : Nat × Nat) : t.tapsBad l ws e = s.tapsBad l ws e := by
  simp only [State.tapsBad, h.newWord]

theorem JudgesAlike.gateDiff (ws : List (Nat × W32)) (p : Nat → Nat → Bool) : t.gateDiff l ws p = s.gateDiff l ws p := by
  simp only [State.gateDiff, h.newWord, h.geom, h.strobes]

theorem JudgesAlike.marginBad (m : RankMargin) : t.marginBad l m = s.marginBad l m := by
  rw [State.marginBad, State.marginBad, h.words 0x380C (by decide)]

theorem JudgesAlike.bootFault (r : TrainResult) : t.bootFault l r = s.bootFault l r := by
  have margins : t.marginBad l = s.marginBad l := funext h.marginBad
  simp only [State.bootFault, h.geom, h.spreadBad, h.vrefBad, h.tapsBad, h.gateDiff, margins]

end

/-- The impedance codes lie below the delay sets. -/
theorem State.setZq_judgesAlike {s : State} {l pu pd : Nat} (cls k : Nat) (good : (zqOk pu && zqOk pd) = true) :
    JudgesAlike k s (s.setZq l pu pd cls) := by
  rw [State.setZq_of_good cls good]
  exact ⟨State.modLand_land_proj (fun x => x.seq.geom) (by intro x; rfl) s _ k,
    fun i => State.modLand_land_proj (fun x => x.strobeOn i) (by intro x; rfl) s _ k,
    fun off high => State.loadLand_lv_above s l _ k (Nat.lt_of_lt_of_le (by decide) high)⟩

/-! ## Loading words -/

/-- What words do not tell of a Landing. -/
def Landing.core (x : Landing) : Sbd × Cal × Seq × Mnt := (x.sbd, x.cal, x.seq, x.mnt)

/-- Words of the Landings are loaded: their cores and the chip stand. -/
def Loads (s t : State) : Prop := t.chip = s.chip ∧ ∀ k, (t.land k).core = (s.land k).core

theorem Loads.refl (s : State) : Loads s s := ⟨rfl, fun _ => rfl⟩

theorem Loads.trans {s t u : State} (h : Loads s t) (k : Loads t u) : Loads s u := ⟨k.1.trans h.1, fun l => (k.2 l).trans (h.2 l)⟩

theorem State.modLand_loads (s : State) (l : Nat) {f : Landing → Landing} (h : ∀ x, (f x).core = x.core) : Loads s (s.modLand l f) :=
  ⟨rfl, fun k => State.modLand_land_proj Landing.core h s l k⟩

theorem State.loadLand_loads (s : State) (l off : Nat) (v : W32) : Loads s (s.loadLand l off v) := s.modLand_loads _ (by intro x; rfl)

theorem foldl_loads {α : Type} {f : State → α → State} (h : ∀ s x, Loads s (f s x)) (rest : List α) (s : State) : Loads s (rest.foldl f s) :=
  foldl_related Loads.refl Loads.trans h rest s

theorem State.loadTimed_loads (s : State) (l off : Nat) (w : W32) : Loads s (s.loadTimed l off w) := by
  unfold State.loadTimed
  extract_lets loaded
  have loads : Loads s loaded := s.loadLand_loads l off w
  split
  · split
    · exact .refl s
    · exact Loads.trans (s.modLand_loads _ (by intro x; rfl)) (foldl_loads (fun s k => s.modLand_loads k (by intro x; rfl)) _ _)
  · split
    · exact loads.trans (loaded.modLand_loads l (by intro x; rfl))
    · exact loads

theorem State.raiseTurns_loads (s : State) (l : Nat) (ws : List (Nat × W32)) : Loads s (s.raiseTurns l ws) := by
  unfold State.raiseTurns
  exact foldl_loads (fun s e => s.loadTimed_loads l _ _) _ s

/-! ## The commit -/

/-- What records, snapshots and hints leave of a Landing. -/
def Landing.mark (x : Landing) : Bool × Bool × Cal × LState := (x.sbd.started, x.sbd.waiting, x.cal, x.seq.lstate)

theorem State.declareOn_land (s : State) (l sub rank d k : Nat) : (s.declareOn l sub rank d).land k = s.land k := by
  unfold State.declareOn
  extract_lets place g x8 old logged erase reported fence stood
  have fenced : (fence logged).land k = s.land k := State.raise_land logged _ (show reported.cls ≠ 3 from (by decide : srcClass 6 6 ≠ 3)) k
  have declared (source : Nat) (below : srcClass 6 source ≠ 3) : ((erase logged).raise (repS 6 source l place) none).land k = s.land k :=
    State.raise_land (erase logged) none below k
  split
  · rfl
  · split
    · split
      · exact fenced
      · exact (State.post_land _ _ _ _ k).trans (declared 6 (by decide))
    · split
      · exact fenced
      · exact declared 5 (by decide)

theorem State.applyRecords_land (s : State) (l : Nat) (hardened : Bool) (k : Nat) : (s.applyRecords l hardened).land k = s.land k := by
  unfold State.applyRecords
  extract_lets declared soft
  have declares : declared.land k = s.land k := by
    refine foldl_proj (State.land · k) (fun u r => ?_) s.store.items s
    split
    · split
      · exact u.declareOn_land l _ _ _ k
      · rfl
    · rfl
  split
  · exact declares
  · exact declares

theorem State.sbdAsk_land (s : State) (j : SbdJob) (k : Nat) : (s.sbdAsk j).land k = s.land k := by
  unfold State.sbdAsk State.sbdStart
  extract_lets best
  split
  · rfl
  · cases best with
    | none => rfl
    | some next_ => rfl

theorem State.writeHints_mark (s : State) (l k : Nat) : ((s.writeHints l).land k).mark = (s.land k).mark := by
  refine eachBelow_proj (fun s => (s.land k).mark) (fun slot u => ?_) 2 s
  split
  · rfl
  · extract_lets old new
    split
    · exact State.modLand_land_proj Landing.mark (by intro x; rfl) u l k
    · split
      · rfl
      · rw [State.sbdAsk_land]

theorem State.issueOwn_mark (s : State) (l : Nat) (w : Want) (k : Nat) : ((s.issueOwn l w).land k).mark = (s.land k).mark :=
  State.issueOwn_land Landing.mark (by intros; rfl) s l w k

/-- A Landing that leaves self-refresh runs, its PHY active; of its calibration only the mark of a wake goes. -/
theorem State.leaveSr_runs {s : State} {l : LandingId} (resting : (s.land l).seq.lstate = .sr) : ((s.leaveSr l).land l).phy.mode = .active ∧
    ((s.leaveSr l).land l).mark = ((s.land l).sbd.started, (s.land l).sbd.waiting, { (s.land l).cal with woke := false }, .run) := by
  refine ⟨(s.leaveSr_serves l).1, ?_⟩
  unfold State.leaveSr
  extract_lets x wasSr exited runs due zeroed fresh restarted asked
  have exits : (exited.land l).mark = (s.land l).mark := foldl_proj (fun s => (s.land l).mark) (fun u e => u.issueOwn_mark l _ l) _ s
  obtain ⟨started, waiting, cal, lstate⟩ : (exited.land l).sbd.started = (s.land l).sbd.started ∧
      (exited.land l).sbd.waiting = (s.land l).sbd.waiting ∧ (exited.land l).cal = (s.land l).cal ∧
      (exited.land l).seq.lstate = (s.land l).seq.lstate := by
    simpa [Landing.mark] using exits
  have up : (runs.land l).mark = ((s.land l).sbd.started, (s.land l).sbd.waiting, (s.land l).cal, .run) := by
    unfold runs
    rw [State.modSeq_land_self, Landing.mark]
    simp [started, waiting, cal, lstate, resting]
  clear_value runs
  have restart : (restarted.land l).mark = (runs.land l).mark := by
    unfold restarted
    split
    · exact State.modLand_land_proj Landing.mark (by intro x; rfl) runs l l
    · rfl
  clear_value restarted
  have woken : (asked.land l).mark = ((s.land l).sbd.started, (s.land l).sbd.waiting, { (s.land l).cal with woke := false }, .run) := by
    unfold asked
    rw [State.modCal_land_self, State.modLand_land_self]
    have same := restart.trans up
    simp only [Landing.mark, Prod.mk.injEq] at same ⊢
    obtain ⟨started, waiting, cal, lstate⟩ := same
    exact ⟨started, waiting, by rw [cal], lstate⟩
  exact (State.modLand_land_proj Landing.mark (by intro x; rfl) asked l l).trans woken

/-- The Landing has started and serves, calibrated at a temperature and a time. -/
structure Landing.Serving (x : Landing) (temp now : Nat) : Prop where
  started : x.sbd.started = true
  waiting : x.sbd.waiting = false
  runs : x.seq.lstate = .run
  active : x.phy.mode = .active
  tRef : x.cal.tRef = temp
  last : x.cal.last = now
  bootFail : x.cal.bootFail = false

theorem State.bootCommit_serves {s : State} {l : LandingId} (hardened : Bool) (margins : List Margin) (first : (s.land l).sbd.started = false)
    (resting : (s.land l).seq.lstate = .sr) : ((s.bootCommit l hardened margins).land l).Serving (s.land l).mnt.temp s.now := by
  unfold State.bootCommit
  extract_lets waking t zq chk zero_ calibrated counted begun applied hinted
  have starts : ∃ c : Cal, (begun.land l).mark = (true, false, c, .sr) ∧ c.tRef = (s.land l).mnt.temp ∧ c.last = s.now ∧ c.bootFail = false := by
    have set : (calibrated.land l).cal.tRef = (s.land l).mnt.temp ∧ (calibrated.land l).cal.last = s.now ∧
        (calibrated.land l).cal.bootFail = false ∧ (calibrated.land l).seq.lstate = .sr := by
      unfold calibrated State.bumpL
      rw [State.modLand_land_self, State.modCal_land_self]
      exact ⟨rfl, rfl, rfl, resting⟩
    obtain ⟨tRef, last, bootFail, sr⟩ := set
    refine ⟨(calibrated.land l).cal, ?_, tRef, last, bootFail⟩
    clear_value calibrated
    unfold begun counted
    rw [State.modSbd_land_self, State.modMnt_land_self]
    exact congrArg (fun q => (true, false, (calibrated.land l).cal, q)) sr
  obtain ⟨c, marked, tRef, last, bootFail⟩ := starts
  clear_value begun
  have kept : (hinted.land l).mark = (true, false, c, .sr) := by
    refine (State.writeHints_mark _ l l).trans (Eq.trans ?_ marked)
    exact congrArg Landing.mark (begun.applyRecords_land l hardened l)
  clear_value hinted
  obtain ⟨started, waiting, cal, sr⟩ : (hinted.land l).sbd.started = true ∧ (hinted.land l).sbd.waiting = false ∧
      (hinted.land l).cal = c ∧ (hinted.land l).seq.lstate = .sr := by
    simpa [Landing.mark] using kept
  rw [if_neg (by simp [waking, first])]
  obtain ⟨active, runs⟩ := State.leaveSr_runs sr
  rw [started, waiting, cal] at runs
  simp only [Landing.mark, Prod.mk.injEq] at runs
  obtain ⟨started, waiting, cal, lstate⟩ := runs
  exact ⟨started, waiting, lstate, active, by rw [cal]; exact tRef, by rw [cal]; exact last, by rw [cal]; exact bootFail⟩

theorem State.fullCommit_serves {s : State} {l : LandingId} (r : TrainResult) (first : (s.land l).sbd.started = false)
    (resting : (s.land l).seq.lstate = .sr) : ((s.fullCommit l r).land l).Serving (s.land l).mnt.temp s.now := by
  unfold State.fullCommit
  extract_lets loaded kept
  obtain ⟨chip, core⟩ : Loads s (loaded.raiseTurns l r.measure.words) :=
    (foldl_loads (fun s e => s.loadLand_loads l _ _) _ s).trans (loaded.raiseTurns_loads l _)
  have same := core l
  simp only [Landing.core, Prod.mk.injEq] at same
  obtain ⟨sbd, _, seq, mnt⟩ := same
  have land : kept.land l = { (loaded.raiseTurns l r.measure.words).land l with cal := (kept.land l).cal } := by
    unfold kept
    rw [State.modCal_land_self]
  have now : kept.now = s.now := congrArg (fun c : Chip => c.cycle / 2) chip
  have temp : (kept.land l).mnt.temp = (s.land l).mnt.temp := by rw [land, mnt]
  rw [← now, ← temp]
  refine State.bootCommit_serves _ _ ?_ ?_
  · rw [land, sbd]
    exact first
  · rw [land, seq]
    exact resting

/-- With every buffer reported and no record held, a result within every limit is committed. -/
theorem State.judgeBoot_commits {s : State} {l : LandingId} {r : TrainResult} (good : (zqOk r.pu && zqOk r.pd) = true)
    (buffers : (s.land l).cal.dbFail = []) (seeds : (s.land l).cal.held = Vector.replicate 2 none) (within : s.bootFault l r = 0) :
    s.judgeBoot l r = ((s.setZq l r.pu r.pd 2).fullCommit l r).endStarts := by
  have cal : ((s.setZq l r.pu r.pd 2).land l).cal = (s.land l).cal := by
    rw [State.setZq_of_good 2 good]
    exact State.modLand_land_proj Landing.cal (by intro x; rfl) s _ l
  have closed : (s.setZq l r.pu r.pd 2).restorable l = false := by
    simp [State.restorable, cal, seeds, List.range_succ]
  have fault : (s.setZq l r.pu r.pd 2).bootFault l r = 0 := ((State.setZq_judgesAlike 2 l good).bootFault r).trans within
  unfold State.judgeBoot
  extract_lets coded off fell t moved per bad restored abandoned step
  have stands : abandoned = coded := if_neg (by simp [coded, closed])
  have judged : step = 0 := by
    unfold step
    rw [stands]
    exact fault
  rw [if_neg (by simpa [Bool.and_eq_true] using good), if_neg (by simp [coded, cal, buffers]), if_neg (by simp [coded, closed]), if_pos judged, stands]

/-! ## An attempt that fails -/

theorem topOf_mem {rs : List Nat} (h : topOf rs ≠ 0) : topOf rs ∈ rs := by
  have listed : topOf rs = 0 ∨ topOf rs ∈ rs := by
    refine List.foldlRecOn (motive := fun top => top = 0 ∨ top ∈ rs) rs max (.inl rfl) fun top before r hr => ?_
    rcases max_choice top r with same | same
    · rw [same]
      exact before
    · rw [same]
      exact .inr hr
  exact listed.resolve_left h

/-- A candidate joins those kept when it is of the kind of the first and a rate in common remains. -/
def keepKind (first : Nat × List Spd × List Nat) (kept : List (Nat × List Spd × List Nat)) (e : Nat × List Spd × List Nat) :
    List (Nat × List Spd × List Nat) :=
  if (e.2.1.head?).map (·.type) = (first.2.1.head?).map (·.type) ∧ !(common ((kept ++ [e]).map fun x => x.2.2)).isEmpty then kept ++ [e] else kept

/-- Of a Gallery's candidates the rate is chosen for some. -/
theorem galleryRate_kept (cands : List (Nat × List Spd × List Nat)) : ∀ k ∈ (galleryRate cands).1, k ∈ cands.map (·.1) := by
  unfold galleryRate
  extract_lets all
  split
  · exact fun k hk => hk
  · cases cands with
    | nil => exact fun k hk => hk
    | cons first rest =>
      dsimp only
      intro k hk
      obtain ⟨e, he, rfl⟩ := List.mem_map.1 hk
      refine List.mem_map_of_mem (f := Prod.fst) ?_
      have sub := List.foldlRecOn (motive := fun kept : List (Nat × List Spd × List Nat) => ∀ e ∈ kept, e ∈ first :: rest) (first :: rest)
        (keepKind first) (List.forall_mem_nil _) fun kept before x hx => ?_
      · exact sub e he
      · unfold keepKind
        split
        · intro e he
          rcases List.mem_append.1 he with old | new
          · exact before e old
          · exact List.mem_singleton.1 new ▸ hx
        · exact before

/-- A Landing keeps its course and its reset pin. -/
def Untrained (l : LandingId) (s t : State) : Prop := (t.land l).course = (s.land l).course ∧ t.chip.drstN[l.val] = s.chip.drstN[l.val]

theorem Untrained.refl (l : LandingId) (s : State) : Untrained l s s := ⟨rfl, rfl⟩

theorem Untrained.trans {l : LandingId} {s t u : State} (h : Untrained l s t) (k : Untrained l t u) : Untrained l s u :=
  ⟨k.1.trans h.1, k.2.trans h.2⟩

theorem Remakes.untrained {k : Nat} {s t : State} (h : Remakes k s t) {l : LandingId} (other : l.val ≠ k) : Untrained l s t :=
  ⟨h.course l other, h.resets l other⟩

theorem foldl_untrained {α : Type} {l : LandingId} {f : State → α → State} {rest : List α} (h : ∀ s, ∀ x ∈ rest, Untrained l s (f s x)) (s : State) :
    Untrained l s (rest.foldl f s) :=
  List.foldlRecOn rest f (.refl l s) fun u hu x hx => hu.trans (h u x hx)

theorem State.beginTraining_waitsAt {s : State} {l : LandingId} {rate : Nat} (h : (s.land l).waitsAt rate) : ((s.beginTraining l).land l).waitsAt rate := by
  obtain ⟨slots, made⟩ := s.beginTraining_land l
  rw [made]
  exact h

theorem State.trainAgain_remakes (s : State) (l rate : Nat) : Remakes l s ((s.readyLanding l rate).beginTraining l) :=
  (s.readyLanding_remakes l rate).trans (State.beginTraining_remakes _ l)

/-- The Landings of a Gallery that hold and are not named. -/
def State.holding (s : State) (g : Nat) (ls : List Nat) : List Nat :=
  ((List.range 4).map fun i => 4 * g + i).filter fun l => (s.land l).sbd.hold && !ls.contains l

/-- The PLL of a Gallery at a rate that its Landings train at next. -/
def State.setRate (s : State) (g rate : Nat) : State :=
  (s.modMisc fun x => { x with discovery := { x.discovery with rates := x.discovery.rates.setIfInBounds g rate } }).setPll g rate

theorem State.retrainAt_eq (s : State) (g rate : Nat) (ls : List Nat) : s.retrainAt g rate ls =
    (s.holding g ls).foldl (fun s l => s.readyLanding l rate)
      (ls.foldl (fun s l => (s.readyLanding l rate).beginTraining l) (s.setRate g rate)) := rfl

theorem State.setRate_placid (s : State) (g rate : Nat) : Placid s (s.setRate g rate) :=
  have rates : Placid s (s.modMisc fun x => { x with discovery := { x.discovery with rates := x.discovery.rates.setIfInBounds g rate } }) :=
    .of_eq rfl rfl rfl rfl
  rates.trans (State.setPll_placid _ g rate)

/-- A Landing that is neither named nor held. -/
theorem State.retrainAt_untrained {s : State} {l : LandingId} (g rate : Nat) {ls : List Nat} (out : l.val ∉ ls)
    (free : (s.land l).sbd.hold = false) : Untrained l s (s.retrainAt g rate ls) := by
  rw [State.retrainAt_eq]
  have pll : Untrained l s (s.setRate g rate) := ⟨(s.setRate_placid g rate).course l, by rw [(s.setRate_placid g rate).resets]⟩
  have named (u : State) : Untrained l u (ls.foldl (fun s l => (s.readyLanding l rate).beginTraining l) u) :=
    foldl_untrained (fun v k hk => (v.trainAgain_remakes k rate).untrained fun e => out (e ▸ hk)) u
  have held (u : State) : Untrained l u ((s.holding g ls).foldl (fun s l => s.readyLanding l rate) u) := by
    refine foldl_untrained (fun v k hk => (v.readyLanding_remakes k rate).untrained fun e => ?_) u
    subst e
    simp [State.holding, free] at hk
  exact (pll.trans (named _)).trans (held _)

/-- A Landing that trains again at a rate. -/
theorem State.retrainAt_trains (s : State) {l : LandingId} (rate : Nat) {ls : List Nat} (low : ∀ k ∈ ls, k < 12) (named : l.val ∈ ls) :
    ((s.retrainAt (l / 4) rate ls).land l).waitsAt rate ∧ ((s.retrainAt (l / 4) rate ls).gal (l / 4)).pllLock = false := by
  rw [State.retrainAt_eq]
  have unlocked : ((s.setRate (l / 4) rate).gal (l / 4)).pllLock = false := State.setPll_unlocks _ ⟨l.val / 4, by omega⟩ rate
  have readied : ∀ v : State, ∀ k ∈ ls, (((v.readyLanding k rate).beginTraining k).land k).waitsAt rate := fun v k hk =>
    State.beginTraining_waitsAt (l := ⟨k, low k hk⟩) (v.readyLanding_waitsAt ⟨k, low k hk⟩ rate)
  have waits := foldl_each (f := fun s l => (State.readyLanding s l rate).beginTraining l) (P := fun k v => (v.land k).waitsAt rate) readied
    (fun v k hk j before => by
      by_cases here : j = k
      · subst here
        exact readied v j hk
      · obtain ⟨sbd, rest⟩ := Prod.mk.inj ((v.trainAgain_remakes j rate).course k (Ne.symm here))
        rw [Landing.waitsAt, sbd, (Prod.mk.inj rest).2]
        exact before) (s.setRate (l / 4) rate) l named
  have still : ((ls.foldl (fun s l => (s.readyLanding l rate).beginTraining l) (s.setRate (l / 4) rate)).gal (l / 4)).pllLock = false :=
    foldl_keeps (R := fun v : State => (v.gal (l / 4)).pllLock = false) (fun v k _ => (v.trainAgain_remakes k rate).locks _) unlocked
  refine ⟨?_, foldl_keeps (R := fun v : State => (v.gal (l / 4)).pllLock = false) (fun v k _ => (v.readyLanding_remakes k rate).locks _) still⟩
  refine foldl_keeps (R := fun v : State => (v.land l).waitsAt rate) (fun v k hk before => ?_) waits
  have other : l.val ≠ k := by
    rintro rfl
    simp [State.holding, named] at hk
  obtain ⟨sbd, rest⟩ := Prod.mk.inj ((v.readyLanding_remakes k rate).course l other)
  rw [Landing.waitsAt, sbd, (Prod.mk.inj rest).2]
  exact before

/-- The Landing's start has ended without it, and its devices stay in reset. -/
def State.Fallen (s : State) (l : LandingId) : Prop :=
  (s.land l).sbd.waiting = false ∧ (s.land l).sbd.failed = true ∧ (s.land l).sbd.started = false ∧ (s.land l).sbd.hold = false ∧
    (s.land l).cal.bootFail = true ∧ s.chip.drstN[l.val] = false

theorem State.Fallen.of_same {s t : State} {l : LandingId} (h : s.Fallen l) (same : t.landingsAndResets = s.landingsAndResets) : t.Fallen l := by
  obtain ⟨waiting, failed, started, hold, bootFail, reset⟩ := h
  have resets : t.chip.drstN = s.chip.drstN := congrArg Prod.snd same
  unfold State.Fallen
  rw [State.land_of_landingsAndResets same, resets]
  exact ⟨waiting, failed, started, hold, bootFail, reset⟩

theorem State.Fallen.of_untrained {s t : State} {l : LandingId} (h : s.Fallen l) (same : Untrained l s t) : t.Fallen l := by
  obtain ⟨waiting, failed, started, hold, bootFail, reset⟩ := h
  obtain ⟨course, resets⟩ := same
  obtain ⟨sbd, rest⟩ := Prod.mk.inj course
  unfold State.Fallen
  rw [sbd, (Prod.mk.inj rest).1, resets]
  exact ⟨waiting, failed, started, hold, bootFail, reset⟩

theorem State.bootFailed_fallen (s : State) (l : LandingId) : (s.bootFailed l).Fallen l := by
  unfold State.bootFailed
  extract_lets failed ended low
  have fallen : low.Fallen l := by
    have land : ended.land l = { failed.land l with
        sbd := { (failed.land l).sbd with waiting := false, failed := true, started := false, hold := false } } := by
      unfold ended
      rw [State.modSbd_land_self]
    have same : low.land l = ended.land l := rfl
    have lost : (failed.land l).cal.bootFail = true := congrArg (fun x : Landing => x.cal.bootFail) (State.modCal_land_self s l _)
    have reset : low.chip.drstN[l.val] = false := by simp [low, State.modChip]
    clear_value low ended failed
    unfold State.Fallen
    rw [same, land]
    exact ⟨rfl, rfl, rfl, rfl, lost, reset⟩
  have raised : (low.raise (repL 8 4 l 0) none).landingsAndResets = low.landingsAndResets :=
    State.raise_landingsAndResets low none (show srcClass 8 4 ≠ 3 by decide)
  exact (fallen.of_same raised).of_same (State.post_onlyReported _ _ _ _).landingsAndResets

/-- The Landings that a failure makes train again are of its Gallery. -/
theorem State.trainees_low {s : State} {l : LandingId} : ∀ k ∈ s.trainees (l / 4), k < 12 := by
  intro k hk
  obtain ⟨i, hi, rfl⟩ := List.mem_map.1 (List.mem_filter.1 hk).1
  have := List.mem_range.1 hi
  omega

theorem State.mem_trainees {s : State} {l : LandingId} (starts : s.starting l = true) (waits : (s.land l).sbd.waiting = true) :
    l.val ∈ s.trainees (l / 4) := by
  refine List.mem_filter.2 ⟨List.mem_map.2 ⟨l.val % 4, List.mem_range.2 (Nat.mod_lt _ (by decide)), by omega⟩, ?_⟩
  simp [starts, waits]

/-- An attempt out of time. -/
theorem State.trainFail_ends {s : State} {l : LandingId} (waits : (s.land l).sbd.waiting = true) (starts : s.starting l = true) :
    (∃ lower < (s.land l).seq.geom.rate, lower ≠ 0 ∧ ((s.trainFail l 0).land l).waitsAt lower ∧ ((s.trainFail l 0).gal (l / 4)).pllLock = false) ∨
      (s.trainFail l 0).Fallen l := by
  unfold State.trainFail
  extract_lets g cap same ls rate rates heldToo lower failed others again tried
  have named : l.val ∈ ls := State.mem_trainees starts waits
  split
  next goes =>
    have below := List.mem_filter.1 (topOf_mem goes.1)
    exact .inl ⟨lower, of_decide_eq_true below.2, goes.1, s.retrainAt_trains lower State.trainees_low named⟩
  next ends =>
    have fallen : failed.Fallen l := s.bootFailed_fallen l
    have fallenAgain : again.Fallen l := fallen.of_same rfl
    have out : l.val ∉ others := fun listed => by
      have other := (List.mem_filter.1 (List.mem_filter.1 listed).1).2
      simp at other
    clear_value failed again
    have free : (again.land l).sbd.hold = false := by
      obtain ⟨_, _, _, hold, _⟩ := fallenAgain
      exact hold
    have tries : tried.Fallen l := by
      unfold tried
      split
      · exact fallen
      · split
        next kept r chosen =>
          split
          · exact fallenAgain
          · refine fallenAgain.of_untrained (State.retrainAt_untrained g r (fun listed => out ?_) free)
            have candidate := galleryRate_kept (others.map fun k => (k, (again.land k).sbd.spds, rates k)) l.val (by rw [chosen]; exact listed)
            simpa using candidate
    exact .inr (tries.of_same tried.endStarts_landingsAndResets)

end Sys2Proof.Machine

section
open Sys2Proof Sys2Proof.Machine Sys2Proof.Slice

/-- Settles O37. A result within every limit is committed (`State.judgeBoot_commits`) and its Landing serves (`State.fullCommit_serves`); an
attempt out of time trains again or falls (`State.trainFail_ends`); a data buffer's row is its condition and then its one effect. -/
theorem bootTrainingStartsOrFailsTheLanding : Obligations.BootTrainingStartsOrFailsTheLanding := by
  unfold Obligations.BootTrainingStartsOrFailsTheLanding
  refine ⟨?result, ?late, ?report, ?silent⟩
  case result =>
    intro s l r trains done first buffers seeds pu pd within
    have good : (zqOk r.pu && zqOk r.pd) = true := by simp [pu, pd]
    have resting : (s.land l).seq.lstate = .sr := by
      simp only [State.trains, Bool.and_eq_true, beq_iff_eq] at trains
      exact trains.1.1.2
    have coded : Loads s (s.setZq l r.pu r.pd 2) := by
      rw [State.setZq_of_good 2 good]
      exact s.loadLand_loads l _ _
    have core := coded.2 l
    simp only [Landing.core, Prod.mk.injEq] at core
    obtain ⟨sbd, _, seq, mnt⟩ := core
    have now : (s.setZq l r.pu r.pd 2).now = s.now := congrArg (fun c : Chip => c.cycle / 2) coded.1
    have serves := State.fullCommit_serves (s := s.setZq l r.pu r.pd 2) r (by rw [sbd]; exact first) (by rw [seq]; exact resting)
    rw [mnt, now] at serves
    obtain ⟨started, waiting, runs, active, tRef, last, bootFail⟩ := serves
    refine ⟨s.judgeBoot l r, if_pos (by simp [trains, done]), ?_⟩
    rw [State.judgeBoot_commits good buffers seeds within, State.land_of_landingsAndResets (State.endStarts_landingsAndResets _)]
    exact ⟨started, waiting, runs, active, tRef, last, bootFail⟩
  case late =>
    intro s l waits free powered starts
    refine ⟨s.trainFail l 0, if_pos (by simp [waits, free, powered]), ?_⟩
    rcases State.trainFail_ends waits starts with ⟨lower, below, nonzero, ⟨again, rate⟩, unlocked⟩ | ⟨waiting, failed, started, _, bootFail, reset⟩
    · exact .inl ⟨again, by omega, unlocked⟩
    · exact .inr ⟨waiting, failed, started, bootFail, reset⟩
  case report =>
    intro s l rank ok waits mrd
    exact if_pos (by simp [waits, mrd])
  case silent =>
    intro s l rank waits mrd done fail
    exact if_pos (by rw [waits, mrd, done, fail]; rfl)

end

/-! SUPPORT. Periodic calibration: a run starts, goes on, ends or is given up; a commit loads; a margin check ends (R328 to R339). What is
said of a Landing's calibration state is read through `State.calOf`. -/

namespace Sys2Proof.Machine

/-- The calibration state of a Landing. -/
def State.calOf (s : State) (l : Nat) : Cal := (s.land l).cal

/-! ## What leaves the calibration state alone -/

theorem State.calOf_of_land {s t : State} {l : Nat} (h : t.land l = s.land l) : t.calOf l = s.calOf l := congrArg Landing.cal h

theorem State.modCal_calOf (s : State) (l : LandingId) (f : Cal → Cal) : (s.modCal l f).calOf l = f (s.calOf l) := by
  rw [State.calOf, State.modCal_land_self]
  rfl

theorem State.bumpL_calOf (s : State) (l off n k : Nat) : (s.bumpL l off n).calOf k = s.calOf k := s.bumpL_land_cal l off n k

theorem State.loadLand_calOf (s : State) (l off : Nat) (v : W32) (k : Nat) : (s.loadLand l off v).calOf k = s.calOf k :=
  State.modLand_land_proj Landing.cal (by intro x; rfl) s _ k

theorem State.status1Hold_calOf (s : State) (code k : Nat) : (s.status1Hold code).calOf k = s.calOf k :=
  State.calOf_of_land (State.land_of_landingsAndResets (s.status1Hold_onlyReported code).landingsAndResets k)

theorem State.raise_calOf (s : State) {r : Rep} (f : Option Fence) (below : r.cls ≠ 3) (k : Nat) : (s.raise r f).calOf k = s.calOf k :=
  State.calOf_of_land (s.raise_land f below k)

theorem State.startFence_calOf (s : State) (f : Fence) (k : Nat) : (s.startFence f).calOf k = s.calOf k :=
  State.calOf_of_land (State.land_of_landingsAndResets (s.startFence_landingsAndResets f) k)

theorem State.calOutcome_calOf (s : State) (l : LandingId) (code : Nat) : (s.calOutcome l code).calOf l = { s.calOf l with outcome := some code } :=
  (State.calOf_of_land (State.finishCalRuns_land _ l)).trans (s.modCal_calOf l _)

theorem State.checkOutcome_calOf (s : State) (l : LandingId) (code : Nat) :
    (s.checkOutcome l code).calOf l = { s.calOf l with checkOutcome := some code } :=
  (State.calOf_of_land (State.finishCalRuns_land _ l)).trans (s.modCal_calOf l _)

/-! ## A run starts -/

/-- The run, or the margin check, that starts at a Landing. -/
def State.newRun (s : State) (l : Nat) (margin : Bool) : CalRun :=
  { margin := margin, step := s.skipFenced l 8 0, startTemp := (s.land l).mnt.temp, words := [], fails := [], due := s.now, placed := false }

theorem State.startRun_calOf (s : State) (l : LandingId) (margin : Bool) : (s.startRun l margin).calOf l = { s.calOf l with
     state := if margin then 4 else 2, marginWant := (s.calOf l).marginWant && !margin, run := some (s.newRun l margin) } :=
  (State.status1Hold_calOf _ 3 l).trans (s.modCal_calOf l _)

/-- Nothing runs, nothing is staged, and every precondition holds. -/
structure State.MayStart (s : State) (l : Nat) : Prop where
  run : (s.calOf l).run = none
  staged : (s.calOf l).staged = none
  block : s.calBlock l = none

theorem State.requestRun_of_mayStart {s : State} {l : Nat} (h : s.MayStart l) : s.requestRun l = s.startRun l false := by
  obtain ⟨run, staged, block⟩ := h
  unfold State.calOf at run staged
  unfold State.requestRun
  simp [run, staged, block]

theorem State.startWaiting_of_margin {s : State} {l : Nat} (h : s.MayStart l) (want : (s.calOf l).marginWant = true) :
    s.startWaiting l = s.startRun l true := by
  obtain ⟨run, staged, block⟩ := h
  unfold State.calOf at run staged want
  unfold State.startWaiting
  simp [run, staged, block, want]

theorem State.startWaiting_of_run {s : State} {l : Nat} (h : s.MayStart l) (want : (s.calOf l).marginWant = false) (may : s.mayRun l = true) :
    s.startWaiting l = s.startRun l false := by
  obtain ⟨run, staged, block⟩ := h
  unfold State.calOf at run staged want
  unfold State.startWaiting
  simp [run, staged, block, want, may]

/-! ## The check -/

theorem State.startRun_sched (s : State) (l : LandingId) (margin : Bool) : ((s.startRun l margin).calOf l).sched = (s.calOf l).sched := by
  rw [s.startRun_calOf l margin]

theorem State.requestRun_sched (s : State) (l : LandingId) : ((s.requestRun l).calOf l).sched = (s.calOf l).sched := by
  unfold State.requestRun
  dsimp only
  split
  · rfl
  · split
    · exact s.startRun_sched l false
    · rw [State.bumpL_calOf, State.modCal_calOf]

theorem State.startWaiting_sched (s : State) (l : LandingId) : ((s.startWaiting l).calOf l).sched = (s.calOf l).sched := by
  unfold State.startWaiting
  dsimp only
  split
  · rfl
  · split
    · exact s.startRun_sched l true
    · split
      · exact s.startRun_sched l false
      · rfl

/-- The instances of the check that are merged are counted (R34). -/
def State.merges (s : State) (l : Nat) : State :=
  let m := schedMerge (16 * s.blockFlight) 1 s.tread (s.calOf l).sched
  if m.2 = 0 then s else s.bumpL l 0x10001 m.2

/-- The schedule after a check that is due and starts at a tread (R34). -/
def State.schedAfter (s : State) (l tread : Nat) : Sched := schedStart (16 * s.blockFlight) (4 * s.blockFlight) (8 * s.blockFlight) tread
  (schedMerge (16 * s.blockFlight) 1 s.tread (s.calOf l).sched).1

/-- The state with which a check that is due goes on: its schedule has moved (R34). -/
def State.checked (s : State) (l : Nat) : State :=
  (s.merges l).modCal l fun c => { c with sched := s.schedAfter l (s.merges l).tread }

theorem State.merges_land (s : State) (l : LandingId) : ∃ page, (s.merges l).land l = { s.land l with page := page } := by
  unfold State.merges State.bumpL
  dsimp only
  split
  · exact ⟨_, rfl⟩
  · exact ⟨_, State.modLand_land_self s l _⟩

theorem State.merges_onlyLandings (s : State) (l : Nat) : OnlyLandings s (s.merges l) := by
  unfold State.merges
  dsimp only
  split
  · exact .refl s
  · exact ⟨_, rfl⟩

/-- Of the Landing only the schedule and a count move. -/
theorem State.checked_land (s : State) (l : LandingId) :
    ∃ page, (s.checked l).land l = { s.land l with page := page, cal := { s.calOf l with sched := s.schedAfter l s.tread } } := by
  obtain ⟨page, land⟩ := s.merges_land l
  have tread : (s.merges l).tread = s.tread := by
    obtain ⟨landings, same⟩ := s.merges_onlyLandings l
    rw [same]
    rfl
  unfold State.checked
  rw [State.modCal_land_self, land, tread]
  exact ⟨page, rfl⟩

theorem State.modLand_lv (s : State) (i : Nat) {f : Landing → Landing} (h : ∀ x, (f x).page.live = x.page.live) (k off : Nat) :
    (s.modLand i f).lv k off = s.lv k off :=
  congrArg (fun m => getW (landDefault off) m off) (State.modLand_land_proj (fun x => x.page.live) h s i _)

theorem State.checked_lv (s : State) (l k off : Nat) : (s.checked l).lv k off = s.lv k off := by
  refine (State.modLand_lv (s.merges l) l (by intro x; rfl) k off).trans ?_
  unfold State.merges
  dsimp only
  split
  · rfl
  · exact s.modLand_lv l (by intro x; rfl) k off

theorem State.checked_onlyLandings (s : State) (l : Nat) : OnlyLandings s (s.checked l) :=
  (s.merges_onlyLandings l).trans ⟨_, rfl⟩

/-- The preconditions read the words and the calibration of a Landing no further than its mark of a wake. -/
theorem OnlyLandings.calBlock {s t : State} (h : OnlyLandings s t) {l : Nat} {page : RegFile} {c : Cal}
    (land : t.land l = { s.land l with page := page, cal := c }) (woke : c.woke = (s.land l).cal.woke) : t.calBlock l = s.calBlock l := by
  obtain ⟨landings, rfl⟩ := h
  simp only [State.calBlock, State.wakeRun, land, woke]
  rfl

theorem State.checked_calBlock (s : State) (l : LandingId) : (s.checked l).calBlock l = s.calBlock l := by
  obtain ⟨page, land⟩ := s.checked_land l
  exact (s.checked_onlyLandings l).calBlock land rfl

theorem State.checked_moved (s : State) (l : LandingId) : (s.checked l).moved l = s.moved l := by
  obtain ⟨page, land⟩ := s.checked_land l
  simp only [State.moved, s.checked_lv l, land]
  rfl

theorem State.checked_calOf (s : State) (l : LandingId) : (s.checked l).calOf l = { s.calOf l with sched := s.schedAfter l s.tread } := by
  obtain ⟨page, land⟩ := s.checked_land l
  rw [State.calOf, land]

theorem State.checked_chip (s : State) (l : Nat) : (s.checked l).chip = s.chip := by
  obtain ⟨landings, same⟩ := s.checked_onlyLandings l
  rw [same]

/-- A check that is due, to its end. -/
def State.checkDue (s : State) (l : Nat) : State :=
  if (s.calOf l).run.isSome || (s.calOf l).staged.isSome then s.checked l
  else if (s.checked l).moved l && !(s.calOf l).pending then
    if ((s.checked l).lv l 0x3800).getLsbD 0 && !(s.checked l).chip.bringup then (s.checked l).requestRun l
    else ((s.checked l).modCal l fun c => { c with pending := true }).startWaiting l
  else (s.checked l).startWaiting l

theorem execCalCheck_of_due {s : State} {l : LandingId} (started : (s.land l).sbd.started = true) (core : s.chip.coreOn = true)
    (out : s.chip.phase = .out) (due : (s.land l).cal.sched.next ≤ s.tread) : execCalCheck l s = .next (s.checkDue l) := by
  unfold execCalCheck
  dsimp only
  rw [if_neg (by simp [started, core, out, due])]
  simp only [State.checkDue, apply_ite Host.Outcome.next]
  rfl

theorem State.checkDue_sched (s : State) (l : LandingId) : ((s.checkDue l).calOf l).sched = s.schedAfter l s.tread := by
  have moved : ((s.checked l).calOf l).sched = s.schedAfter l s.tread := congrArg Cal.sched (s.checked_calOf l)
  unfold State.checkDue
  split
  · exact moved
  · split
    · split
      · exact (State.requestRun_sched _ l).trans moved
      · refine (State.startWaiting_sched _ l).trans (Eq.trans ?_ moved)
        rw [State.modCal_calOf]
    · exact (State.startWaiting_sched _ l).trans moved

theorem State.checkDue_starts {s : State} {l : LandingId} (may : s.MayStart l) (moved : s.moved l = true) (fresh : (s.calOf l).pending = false)
    (enabled : (s.lv l 0x3800).getLsbD 0 = true) (service : s.chip.bringup = false) : s.checkDue l = (s.checked l).startRun l false := by
  obtain ⟨run, staged, block⟩ := may
  have mayStill : (s.checked l).MayStart l := by
    refine ⟨?_, ?_, (s.checked_calBlock l).trans block⟩
    · rw [s.checked_calOf]
      exact run
    · rw [s.checked_calOf]
      exact staged
  unfold State.checkDue
  rw [if_neg (by simp [run, staged]), if_pos (by simp [s.checked_moved, moved, fresh]),
    if_pos (by simp [s.checked_lv, s.checked_chip, enabled, service])]
  exact State.requestRun_of_mayStart mayStill

/-! ## A run goes on or ends -/

theorem State.skipFenced_ge (s : State) (l : Nat) : ∀ fuel step, step ≤ s.skipFenced l fuel step
  | 0, step => Nat.le_refl step
  | fuel + 1, step => by
    unfold State.skipFenced
    split
    · split
      · exact Nat.le_trans (by omega) (s.skipFenced_ge l fuel _)
      · exact Nat.le_refl step
    · exact Nat.le_refl step

theorem State.rejectRun_run (s : State) (l : LandingId) (fails : List (Nat × Nat)) : ((s.rejectRun l fails).calOf l).run = none := by
  unfold State.rejectRun
  extract_lets n ended told reported raised
  have ends : (ended.calOf l).run = none := by
    unfold ended
    rw [State.bumpL_calOf, State.modCal_calOf]
  have tells : (told.calOf l).run = none := by
    unfold told
    rw [State.calOutcome_calOf]
    exact ends
  have reports : (reported.calOf l).run = none := (congrArg Cal.run (told.raise_calOf none (show srcClass 8 1 ≠ 3 by decide) l)).trans tells
  have raises : (raised.calOf l).run = none := (congrArg Cal.run (reported.raise_calOf none (show srcClass 8 2 ≠ 3 by decide) l)).trans reports
  clear_value raised reported
  split
  · rw [State.modCal_calOf]
    exact raises
  · exact reports

theorem State.endRun_run (s : State) (l : LandingId) (r : CalRun) (margins : List RankMargin) : ((s.endRun l r margins).calOf l).run = none := by
  unfold State.endRun
  extract_lets low fails words
  split
  · rw [State.modCal_calOf]
  · exact s.rejectRun_run l fails

/-- A step moves the run on, or ends it. -/
theorem State.retrainStep_goesOn (s : State) (l : LandingId) (r : CalRun) (m : TrainMeasure) (margins : List RankMargin) :
    ∀ r', ((s.retrainStep l r m margins).calOf l).run = some r' → r.step < r'.step ∧ r'.startTemp = r.startTemp := by
  intro r' goes
  unfold State.retrainStep at goes
  split at goes
  · rw [State.endRun_run] at goes
    cases goes
  next set _ =>
    extract_lets fresh words fails next_ moved at goes
    have onward : r.step < next_ := s.skipFenced_ge l 8 (r.step + 1)
    split at goes
    · rw [State.endRun_run] at goes
      cases goes
    · rw [State.modCal_calOf] at goes
      rw [← Option.some.inj goes]
      exact ⟨onward, rfl⟩

/-! ## A run is given up -/

/-- What giving up a run leaves of the calibration state (R333). -/
def Cal.aborted (c : Cal) (r : CalRun) (cause : Nat) : Cal :=
  { c with run := none, staged := none, state := 0, cause := cause, aborts := c.aborts + 1, pending := c.pending || !r.margin
           marginWant := c.marginWant || r.margin }

theorem State.abortCal_calOf {s : State} {l : LandingId} {r : CalRun} (runs : (s.calOf l).run = some r) (cause : Nat) :
    (s.abortCal l cause).calOf l = (s.calOf l).aborted r cause := by
  unfold State.calOf at runs
  unfold State.abortCal
  extract_lets c margin n work arb seq given
  have same : margin = r.margin := by simp [margin, c, runs]
  have before : seq.calOf l = s.calOf l :=
    (State.modLand_land_proj Landing.cal (by intro x; rfl) arb l l).trans (State.modLand_land_proj Landing.cal (by intro x; rfl) s l l)
  have gives : given.calOf l = (s.calOf l).aborted r cause := by
    unfold given
    rw [State.bumpL_calOf, State.modCal_calOf, before, same]
    rfl
  clear_value given
  rw [if_neg (by simp [c, runs])]
  split
  · exact (State.calOf_of_land (State.land_of_landingsAndResets (given.report_onlyReported _ _).landingsAndResets l)).trans gives
  · exact gives

/-! ## A commit loads -/

theorem State.loadStaged_calOf {s : State} {l : LandingId} {g : Staged} (staged : (s.calOf l).staged = some g) {t : Nat} (placed : g.placed = some t)
    (come : t ≤ s.tread) : (s.loadStaged l).calOf l = { s.calOf l with
      staged := none, tRef := g.temp, last := s.now, state := 0, pending := false, asked := false, rejRun := 0, aborts := 0
      margins := mergeMargins (s.calOf l).margins g.margins, outcome := some 0 } := by
  unfold State.loadStaged
  split
  next none_ => exact absurd (staged.symm.trans none_) (by simp)
  next g' same =>
    obtain rfl : g = g' := Option.some.inj (staged.symm.trans same)
    rw [placed, if_neg (by simp [come])]
    extract_lets loaded committed
    obtain ⟨chip, core⟩ : Loads s loaded := foldl_loads (fun s e => s.loadLand_loads l _ _) g.words s
    have cal : loaded.calOf l = s.calOf l := congrArg (fun c : Sbd × Cal × Seq × Mnt => c.2.1) (core l)
    have now : loaded.now = s.now := congrArg (fun c : Chip => c.cycle / 2) chip
    clear_value loaded
    rw [State.calOutcome_calOf]
    unfold committed
    rw [State.bumpL_calOf, State.modCal_calOf, cal, now]

theorem State.placeCommit_of_come {s : State} {l : Nat} {g : Staged} (staged : (s.calOf l).staged = some g) {t : Nat} (placed : g.placed = some t)
    (come : t ≤ s.tread) : s.placeCommit l = s.loadStaged l := by
  unfold State.calOf at staged
  unfold State.placeCommit
  dsimp only
  rw [staged]
  dsimp only
  rw [placed]
  exact if_pos come

theorem State.placeCommit_of_none {s : State} {l : Nat} (none_ : (s.calOf l).staged = none) : s.placeCommit l = s := by
  unfold State.calOf at none_
  unfold State.placeCommit
  dsimp only
  rw [none_]

/-! ## A margin check ends -/

/-- The margins below the guard that a check finds (R338). -/
def State.lowMargins (s : State) (l : Nat) (ms : List RankMargin) : List RankMargin :=
  (ms.filter fun m => (s.land l).seq.geom.sets.contains m.rank.val && !s.setFenced l m.sub.val m.rank.val).filter fun m => s.marginBad l m

theorem State.lowMargins_any (s : State) (l : Nat) (ms : List RankMargin) : (!(s.lowMargins l ms).isEmpty) =
    ms.any fun m => (s.land l).seq.geom.sets.contains m.rank.val && !s.setFenced l m.sub m.rank && s.marginBad l m := by
  rw [State.lowMargins, List.filter_filter, Bool.eq_iff_iff]
  simp [List.any_eq_true, and_comm, and_left_comm]

/-- What the end of a margin check leaves of the calibration state. -/
theorem State.marginDone_calOf (s : State) (l : LandingId) (ms : List RankMargin) : ((s.marginDone l ms).calOf l).run = none ∧
    ((s.marginDone l ms).calOf l).state = 0 ∧ ((s.marginDone l ms).calOf l).marginFence = false ∧
    ((s.marginDone l ms).calOf l).marginLow = !(s.lowMargins l ms).isEmpty := by
  unfold State.marginDone
  extract_lets here low fence ended told
  have ends : (ended.calOf l).run = none ∧ (ended.calOf l).state = 0 ∧ (ended.calOf l).marginFence = false ∧ (ended.calOf l).marginLow = !low.isEmpty := by
    unfold ended
    rw [State.modCal_calOf]
    exact ⟨rfl, rfl, rfl, rfl⟩
  have tells : told.calOf l = { ended.calOf l with checkOutcome := some (if low.isEmpty then 4 else 5) } := ended.checkOutcome_calOf l _
  clear_value told ended
  split
  · rw [State.startFence_calOf, tells]
    exact ends
  · rw [tells]
    exact ends

/-! ## The rows -/

section
variable {s : State} {l : LandingId} {r : CalRun}

theorem execCalRunStart_of_window (started : (s.land l).sbd.started = true) (window : s.windowFree l = true ∨ s.wakeRun l = true) :
    execCalRunStart l s = .next (s.startWaiting l) := if_pos (by rcases window with h | h <;> simp [started, h])

theorem execCalRetrainStep_of_run (m : TrainMeasure) (margins : List RankMargin) (runs : (s.land l).cal.run = some r) :
    execCalRetrainStep l m margins s = if r.margin || !(r.placed || s.wakeRun l) then .next s
      else (s.calBlock l).elim (.next (s.retrainStep l r m margins).pump) fun code => .next (s.abortCal l code) := by
  unfold execCalRetrainStep
  rw [runs]
  cases s.calBlock l <;> rfl

theorem execMarginCheckDone_of_run (margins : List RankMargin) (runs : (s.land l).cal.run = some r) :
    execMarginCheckDone l margins s = if !r.margin || !(r.placed || s.wakeRun l) then .next s
      else (s.calBlock l).elim (.next (s.marginDone l margins).pump) fun code => .next (s.abortCal l code) := by
  unfold execMarginCheckDone
  rw [runs]
  cases s.calBlock l <;> rfl

end

end Sys2Proof.Machine

section
open Sys2Proof Sys2Proof.Machine Sys2Proof.Slice

/-- Settles O36: each row is what it does to the calibration state of its Landing, said once by the lemma of its operation
(`State.checkDue_sched`, `State.startRun_calOf`, `State.retrainStep_goesOn`, `State.abortCal_calOf`, `State.loadStaged_calOf`,
`State.marginDone_calOf`). -/
theorem calibrationRunsGoOnOrEnd : Obligations.CalibrationRunsGoOnOrEnd := by
  unfold Obligations.CalibrationRunsGoOnOrEnd
  refine ⟨?check, ?start, ?step, ?commit, ?idle, ?margin, ?limit⟩
  case check =>
    intro s l started core out due
    refine ⟨s.checkDue l, execCalCheck_of_due started core out due, s.checkDue_sched l, fun run staged moved fresh enabled service block => ?_⟩
    have starts := congrArg (fun t => t.calOf l) (State.checkDue_starts ⟨run, staged, block⟩ moved fresh enabled service)
    rw [State.startRun_calOf] at starts
    exact ⟨(s.checked l).newRun l false, congrArg Cal.run starts, rfl, congrArg Cal.state starts⟩
  case start =>
    intro s l started window block run staged
    have may : s.MayStart l := ⟨run, staged, block⟩
    refine ⟨fun want => ⟨s.startRun l true, s.newRun l true, ?_, ?_⟩, fun want pending => ⟨s.startRun l false, s.newRun l false, ?_, ?_⟩⟩
    · exact (execCalRunStart_of_window started window).trans (congrArg _ (State.startWaiting_of_margin may want))
    · have starts := s.startRun_calOf l true
      exact ⟨congrArg Cal.run starts, rfl, congrArg Cal.state starts, (congrArg Cal.marginWant starts).trans (Bool.and_false _)⟩
    · exact (execCalRunStart_of_window started window).trans (congrArg _ (State.startWaiting_of_run may want pending))
    · have starts := s.startRun_calOf l false
      exact ⟨congrArg Cal.run starts, rfl, rfl, congrArg Cal.state starts⟩
  case step =>
    intro s l r m margins runs
    refine ⟨fun unplaced asleep => ⟨?_, ?_⟩, fun retrains goes => ⟨fun free => ?_, fun code blocked => ?_⟩, fun checks goes code blocked => ?_⟩
    · exact (execCalRetrainStep_of_run m margins runs).trans (if_pos (by simp [unplaced, asleep]))
    · exact (execMarginCheckDone_of_run margins runs).trans (if_pos (by simp [unplaced, asleep]))
    · refine ⟨s.retrainStep l r m margins, (execCalRetrainStep_of_run m margins runs).trans ?_, s.retrainStep_goesOn l r m margins⟩
      rw [if_neg (by rcases goes with h | h <;> simp [retrains, h]), free]
      rfl
    · have gives := State.abortCal_calOf runs code
      refine ⟨s.abortCal l code, (execCalRetrainStep_of_run m margins runs).trans ?_, congrArg Cal.run gives, congrArg Cal.staged gives,
        congrArg Cal.cause gives, ?_, congrArg Cal.aborts gives⟩
      · rw [if_neg (by rcases goes with h | h <;> simp [retrains, h]), blocked]
        rfl
      · exact (congrArg Cal.pending gives).trans (by simp [Cal.aborted, retrains])
    · have gives := State.abortCal_calOf runs code
      refine ⟨s.abortCal l code, (execMarginCheckDone_of_run margins runs).trans ?_, congrArg Cal.run gives, congrArg Cal.cause gives, ?_, ?_⟩
      · rw [if_neg (by rcases goes with h | h <;> simp [checks, h]), blocked]
        rfl
      · exact (congrArg Cal.marginWant gives).trans (by simp [Cal.aborted, checks])
      · exact (congrArg Cal.pending gives).trans (by simp [Cal.aborted, checks, State.calOf])
  case commit =>
    intro s l g t staged placed come
    have loads := State.loadStaged_calOf staged placed come
    refine ⟨s.loadStaged l, congrArg _ (State.placeCommit_of_come staged placed come), congrArg Cal.staged loads, congrArg Cal.tRef loads,
      congrArg Cal.last loads, congrArg Cal.rejRun loads, congrArg Cal.aborts loads⟩
  case idle =>
    intro s l none_
    exact congrArg _ (State.placeCommit_of_none none_)
  case margin =>
    intro s l r margins runs checks goes free
    obtain ⟨run, state, fence, low⟩ := s.marginDone_calOf l margins
    refine ⟨s.marginDone l margins, (execMarginCheckDone_of_run margins runs).trans ?_, run, state, fence, low.trans (s.lowMargins_any l margins)⟩
    rw [if_neg (by rcases goes with h | h <;> simp [checks, h]), free]
    rfl
  case limit =>
    intro s m busy started opcode
    exact if_pos ⟨busy, started, opcode⟩

end
